-- ==== Sys2Proof/Word.lean ====
section
/-! DEFINITION. The words of the device: bytes with their poison mark, register words, and the
sparse arrays in which large tables are held as plain data. -/

namespace Sys2Proof

/-- One stored byte (R420 gives each its own check bits; the model keeps the data). -/
abbrev Byte := BitVec 8

/-- A 32-bit register word. -/
abbrev W32 := BitVec 32

/-- A byte together with the poison mark of the sector it was read from (R422). -/
abbrev PByte := Byte × Bool

/-- A sparse array: index and value pairs with strictly rising indices, none equal to the default.
An index that is not listed reads as the default value. -/
abbrev Arr (α : Type) := List (Nat × α)

/-- A memory: a sparse array of bytes. An address that is not listed reads zero. -/
abbrev Mem := Arr Byte

end Sys2Proof
end

