-- ==== Sys2Proof/Machine/Bits.lean ====
section
/-! DEFINITION. Bit fields, byte order, saturating counters, and the operations of sparse arrays. -/

namespace Sys2Proof.Machine

/-- Bits `[hi:lo]` of `x`. -/
def bits (x hi lo : Nat) : Nat := (x >>> lo) % 2 ^ (hi + 1 - lo)

/-- Bit `i` of `x`. -/
def bit (x i : Nat) : Bool := x.testBit i

/-- 1 for true. -/
def b2n (b : Bool) : Nat := if b then 1 else 0

/-- `x` with bit `i` set or cleared. -/
def putBit (x i : Nat) (b : Bool) : Nat :=
  if x.testBit i == b then x else if b then x + 2 ^ i else x - 2 ^ i

/-- `x` with bits `[hi:lo]` replaced by the low bits of `v`. -/
def putBits (x hi lo v : Nat) : Nat :=
  x - ((x >>> lo) % 2 ^ (hi + 1 - lo)) * 2 ^ lo + (v % 2 ^ (hi + 1 - lo)) * 2 ^ lo

/-- The ones of `m` that are not in `k`, over `w` bits. -/
def maskAndNot (w m k : Nat) : Nat := m &&& (2 ^ w - 1 - k % 2 ^ w)

/-- The indices below `w` of the bits set in `m`, ascending. -/
def onesBelow (w m : Nat) : List Nat := (List.range w).filter (fun i => m.testBit i)

/-- How many of the low `w` bits of `m` are set. -/
def popcount (w m : Nat) : Nat := (onesBelow w m).length

/-- A mask of the listed bits. -/
def maskOf (l : List Nat) : Nat := l.foldl (fun a i => putBit a i true) 0

/-- A counter step that stays at `max`. -/
def satInc (max n : Nat) : Nat := if n < max then n + 1 else max

/-- A counter step by `k` that stays at `max`. -/
def satAdd (max n k : Nat) : Nat := Nat.min max (n + k)

/-- The unsigned number of a little-endian byte list (R5). -/
def leNat : List Byte → Nat
  | [] => 0
  | b :: bs => b.toNat + 256 * leNat bs

/-- The `n` low bytes of `x`, least significant first. -/
def leBytes : Nat → Nat → List Byte
  | 0, _ => []
  | n + 1, x => BitVec.ofNat 8 x :: leBytes n (x / 256)

/-- `n` bytes of `l` from offset `o`; bytes beyond the end read zero. -/
def slice (l : List Byte) (o n : Nat) : List Byte :=
  let t := (l.drop o).take n
  t ++ List.replicate (n - t.length) 0

/-- The little-endian number of `n` bytes at offset `o`. -/
def getLe (l : List Byte) (o n : Nat) : Nat := leNat (slice l o n)

/-- Whether the `n` bytes at offset `o` are all zero. -/
def allZero (l : List Byte) (o n : Nat) : Bool := (slice l o n).all (· == 0)

/-- Two's-complement value of the low `w` bits of `x`. -/
def toSigned (w x : Nat) : Int :=
  let y := x % 2 ^ w
  if w == 0 then 0 else if y < 2 ^ (w - 1) then (y : Int) else (y : Int) - (2 ^ w : Nat)

/-- The low `w` bits of an integer. -/
def ofSigned (w : Nat) (x : Int) : Nat := (x % ((2 ^ w : Nat) : Int)).toNat

/-- Rounded-up quotient. -/
def ceilDiv (a b : Nat) : Nat := (a + b - 1) / b

/-- The data bytes of marked bytes. -/
def pdata (l : List PByte) : List Byte := l.map (·.1)

/-- Whether any byte carries a poison mark. -/
def ppoison (l : List PByte) : Bool := l.any (·.2)

/-- Bytes with one common mark. -/
def mark (p : Bool) (l : List Byte) : List PByte := l.map (fun b => (b, p))

/-- The `i`-th element, or the default. -/
def nth {α : Type} [Inhabited α] (l : List α) (i : Nat) : α := l.getD i default

/-- The list with element `i` changed by `f`. -/
def upd {α : Type} (l : List α) (i : Nat) (f : α → α) : List α := l.modify i f

/-- The value at an index of a sparse array. -/
def aget {α : Type} [Inhabited α] : Arr α → Nat → α
  | [], _ => default
  | (k, v) :: l, i => if k == i then v else aget l i

/-- Insert a pair at its place. -/
def ainsert {α : Type} (i : Nat) (v : α) : Arr α → Arr α
  | [] => [(i, v)]
  | (k, w) :: l => if i < k then (i, v) :: (k, w) :: l else (k, w) :: ainsert i v l

/-- The array with index `i` set to `v`; a default value is not listed. -/
def aset {α : Type} [Inhabited α] [DecidableEq α] (a : Arr α) (i : Nat) (v : α) : Arr α :=
  let r := a.filter (fun p => !(p.1 == i))
  if v = default then r else ainsert i v r

/-- The array with the value at `i` changed by `f`. -/
def amod {α : Type} [Inhabited α] [DecidableEq α] (a : Arr α) (i : Nat) (f : α → α) : Arr α :=
  aset a i (f (aget a i))

/-- Apply `f` to every listed value. -/
def amapAll {α : Type} [Inhabited α] [DecidableEq α] (a : Arr α) (f : Nat → α → α) : Arr α :=
  a.foldl (fun r p => aset r p.1 (f p.1 p.2)) a

/-- The canonical form: strictly rising indices and no listed default. -/
def Arr.wf {α : Type} [Inhabited α] [DecidableEq α] : Arr α → Bool
  | [] => true
  | (_, v) :: [] => decide (v ≠ default)
  | (i, v) :: (j, w) :: l => decide (v ≠ default) && decide (i < j) && Arr.wf ((j, w) :: l)

/-- The listed bytes of `[lo, hi)`. -/
def memWindow (m : Mem) (lo hi : Nat) : Mem := m.filter (fun p => decide (lo ≤ p.1) && decide (p.1 < hi))

/-- `n` bytes of a memory from address `a`, byte by byte. -/
def memTake (m : Mem) (a : Nat) : Nat → List Byte
  | 0 => []
  | n + 1 => aget m a :: memTake m (a + 1) n

/-- `n` bytes of a memory from address `a`. -/
def memRead (m : Mem) (a n : Nat) : List Byte := memTake (memWindow m a (a + n)) a n

/-- The entries that list the bytes `l` from address `a`: zero is not listed. -/
def memList (a : Nat) : List Byte → Mem
  | [] => []
  | b :: bs => if b = 0 then memList (a + 1) bs else (a, b) :: memList (a + 1) bs

/-- A memory with the bytes `l` written from address `a`. -/
def memWrite (m : Mem) (a : Nat) (l : List Byte) : Mem :=
  m.filter (fun p => decide (p.1 < a)) ++ memList a l ++ m.filter (fun p => decide (a + l.length ≤ p.1))

/-- A memory with `[lo, hi)` returned to the unlisted value. -/
def memZero (m : Mem) (lo hi : Nat) : Mem := m.filter (fun p => !(decide (lo ≤ p.1) && decide (p.1 < hi)))

/-- The canonical form of a memory. -/
def Memory.wf (m : Mem) : Bool := Arr.wf m

/-- `n` steps of `f`. -/
def iter {α : Type} (f : α → α) : Nat → α → α
  | 0, a => a
  | n + 1, a => iter f n (f a)

/-- The first index of `l` whose element satisfies `p`. -/
def findIdxOpt {α : Type} (p : α → Bool) (l : List α) : Option Nat :=
  let i := l.findIdx p
  if i < l.length then some i else none

end Sys2Proof.Machine
end

