-- ==== Sys2Proof/Machine/CfgTypes.lean ====
section
/-! DEFINITION. The configuration records in force (R49), with the values that absent records take.
A structure here is data; the parser that fills it is in Machine/Records.lean. -/

namespace Sys2Proof.Machine

/-- CLOCKS (0x0001). -/
structure ClocksRec where
  aclkMax : List Nat
  tilMhz : Nat
deriving DecidableEq, Repr

/-- POWER (0x0002): cap in watts, DRAM rate in MT/s, rail codes of Q0 to Q3 and of the spine, IDLEQ_EN. -/
structure PowerRec where
  capW : Nat
  dramMts : Nat
  rails : List Nat
  spineRail : Nat
  idleqEn : Nat
deriving DecidableEq, Repr

/-- PHASE_INPUT (0x0003). MODE 0 off, 1 P, 2 PN, 3 Q. -/
structure PhaseInputRec where
  mode : Nat
  edge : Nat
  pulses : Nat
  glitchNs : Nat
  timeoutK : Nat
  periodMin : Nat
  periodMax : Nat
  coastTurns : Nat
deriving DecidableEq, Repr

/-- STORE_WAYS (0x0004) of one slice. -/
structure StoreWaysRec where
  scratch : Nat
  trace : Nat
  rcMask : List Nat
  owner : List Nat
deriving DecidableEq, Repr

/-- One entry of RINGS (0x0005). UNIT 0 microseconds, 1 turns. -/
structure RingRec where
  timeout : Nat
  unit : Nat
  ref : Nat
  sliceUs : Nat
  waitTimeoutUs : Nat
deriving DecidableEq, Repr

/-- RT_SHARE (0x0006) of one ring 0 to 7. -/
structure RtShareRec where
  meMask : List Nat
  scMask : List Nat
  storePct : Nat
  dramPct : Nat
deriving DecidableEq, Repr

/-- DEADLINE_MON (0x0007) of one ring 0 to 7. POLICY 0 FINISH_LATE, 1 ABANDON. -/
structure DeadlineMonRec where
  enable : Nat
  ref : Nat
  fallbackRing : Nat
  policy : Nat
  checkAngle : Nat
  deadlineAngle : Nat
  margin : Nat
  lateRing : Nat
  outputRing : Nat
deriving DecidableEq, Repr

/-- SUBMIT (0x0008). MODE 0 KQ, 1 DIRECT. -/
structure SubmitRec where
  mode : Nat
  coalesceK : Nat
  coalesceUs : Nat
deriving DecidableEq, Repr

/-- One group of IRQ_ROUTE (0x0009): MSI-X target mask, Ox target mask, hold-off in microseconds. -/
structure IrqGroupRec where
  msix : Nat
  ox : Nat
  holdoffUs : Nat
deriving DecidableEq, Repr

/-- IRQ_ROUTE (0x0009): source priorities, 32 groups, 32 watched sources of Goose. -/
structure IrqRouteRec where
  prio : Arr Nat
  groups : List IrqGroupRec
  goose : List Nat
deriving DecidableEq, Repr

/-- DISPLAY (0x000A) of one pipe. -/
structure DisplayRec where
  enable : Nat
  lanes : Nat
  laneMbps : Nat
  hActive : Nat
  hFront : Nat
  hSync : Nat
  hBack : Nat
  vActive : Nat
  vFront : Nat
  vSync : Nat
  vBack : Nat
  pixelKhz : Nat
  reprojAngle : Nat
deriving DecidableEq, Repr

/-- ISOLATION (0x000D): context classes, engine classes in the order ME, SNE, Mule, SC, TIL, COMP,
PACK, CVU, OBS, and CAPTURE_ALLOWED. -/
structure IsolationRec where
  contextRc : List Nat
  engineRc : List Nat
  captureAllowed : Nat
deriving DecidableEq, Repr

/-- TRACE (0x000E). -/
structure TraceRec where
  dest : Nat
  captureDefault : Nat
  eventClasses : Nat
  bufferKib : Nat
deriving DecidableEq, Repr

/-- Every record in force (R49): the value of the accepted record, or the value an absent record
takes. `dramCal` and `trims` keep the bytes of their Merhar format, which the spec does not interpret. -/
structure Cfg where
  clocks : ClocksRec
  power : PowerRec
  phaseInput : List PhaseInputRec
  storeWays : List StoreWaysRec
  rings : List RingRec
  rtShare : List (Option RtShareRec)
  deadlineMon : List (Option DeadlineMonRec)
  submit : SubmitRec
  irq : IrqRouteRec
  display : List DisplayRec
  dramCal : List (Option (List Byte))
  trims : Option (List Byte)
  isolation : IsolationRec
  trace : TraceRec
deriving DecidableEq, Repr

/-- PHASE_INPUT absent: the input is off, and its fields read zero (R11). -/
def phaseInputAbsent : PhaseInputRec := ⟨0, 0, 0, 20, 1, 0, 1, 0⟩

/-- STORE_WAYS absent: all ways cache, every RC_WAYMASK 0xFFFF, no trace ways. SCRATCH_OWNER, which no way uses, reads
zero (R11). -/
def storeWaysAbsent : StoreWaysRec := ⟨0, 0, List.replicate 8 0xFFFF, List.replicate 16 0⟩

/-- RINGS absent: microseconds, reference 10, 20,000 us timeout, 1,000 us slice, 100,000 us wait. -/
def ringAbsent : RingRec := ⟨20000, 0, 10, 1000, 100000⟩

/-- IRQ_ROUTE absent: priority 0, every group to MSI-X vector 0, no hold-off, no watched source. -/
def irqAbsent : IrqRouteRec := ⟨[], List.replicate 32 ⟨1, 0, 0⟩, List.replicate 32 0xFFFF⟩

/-- DISPLAY absent: pipe off. -/
def displayAbsent : DisplayRec := ⟨0, 1, 0, 0, 0, 0, 0, 0, 0, 0, 0, 0, 0⟩

/-- Every record absent (the last column of R49). -/
def Cfg.absent : Cfg :=
  { clocks := ⟨[550, 550, 550, 550], 550⟩
    power := ⟨60, 4266, [0x00, 0x01, 0x80, 0x81], 0x02, 0xF⟩
    phaseInput := List.replicate 8 phaseInputAbsent
    storeWays := List.replicate 4 storeWaysAbsent
    rings := List.replicate 64 ringAbsent
    rtShare := List.replicate 8 none
    deadlineMon := List.replicate 8 none
    submit := ⟨0, 1, 0⟩
    irq := irqAbsent
    display := List.replicate 2 displayAbsent
    dramCal := List.replicate 4 none
    trims := none
    isolation := ⟨List.replicate 64 0, List.replicate 9 0, 0⟩
    trace := ⟨0, 0, 0, 0⟩ }

/-- STORE_WAYS of slice `q`. -/
def Cfg.ways (c : Cfg) (q : Nat) : StoreWaysRec := c.storeWays.getD q storeWaysAbsent

/-- RINGS entry of ring `r`. -/
def Cfg.ring (c : Cfg) (r : Nat) : RingRec := c.rings.getD r ringAbsent

/-- DISPLAY of pipe `p`. -/
def Cfg.disp (c : Cfg) (p : Nat) : DisplayRec := c.display.getD p displayAbsent

/-- PHASE_INPUT of input `n`. -/
def Cfg.phin (c : Cfg) (n : Nat) : PhaseInputRec := c.phaseInput.getD n phaseInputAbsent

/-- RT_SHARE of ring `r`. -/
def Cfg.share (c : Cfg) (r : Nat) : Option RtShareRec := c.rtShare.getD r none

/-- DEADLINE_MON of ring `r`, when it is present and enabled. -/
def Cfg.dlm (c : Cfg) (r : Nat) : Option DeadlineMonRec :=
  match c.deadlineMon.getD r none with
  | some d => if d.enable = 1 then some d else none
  | none => none

/-- CONTEXT_RC of context `x`. -/
def Cfg.contextRc (c : Cfg) (x : Nat) : Nat := c.isolation.contextRc.getD x 0

/-- ENGINE_RC of the class at place `e` of ISOLATION. -/
def Cfg.engineRc (c : Cfg) (e : Nat) : Nat := c.isolation.engineRc.getD e 0

end Sys2Proof.Machine
end

