-- ==== Sys2Proof/Machine/Num.lean ====
section
/-! DEFINITION. Numbers (05 of the spec): exact quotients, the logarithmic formats and their tables, floating-point
encodings, rounding, block sums and LA160, status and side words. -/

namespace Sys2Proof.Machine

/-! ### Exact values -/

/-- An exact rational value `n / d`; `d` is never 0. -/
structure Ex where
  n : Int
  d : Nat
deriving DecidableEq, Repr, Inhabited

/-- The integer `i`. -/
def Ex.ofInt (i : Int) : Ex := ⟨i, 1⟩
/-- Zero. -/
def Ex.zero : Ex := ⟨0, 1⟩
/-- Whether a value is zero. -/
def Ex.isZero (x : Ex) : Bool := x.n == 0
/-- The negative. -/
def Ex.neg (x : Ex) : Ex := ⟨-x.n, x.d⟩
/-- The magnitude. -/
def Ex.abs (x : Ex) : Ex := ⟨(x.n.natAbs : Nat), x.d⟩
/-- The sum; denominators that divide one another are kept. -/
def Ex.add (x y : Ex) : Ex :=
  if x.d = y.d then ⟨x.n + y.n, x.d⟩
  else if x.d % y.d = 0 then ⟨x.n + y.n * ((x.d / y.d : Nat) : Int), x.d⟩
  else if y.d % x.d = 0 then ⟨x.n * ((y.d / x.d : Nat) : Int) + y.n, y.d⟩
  else ⟨x.n * (y.d : Int) + y.n * (x.d : Int), x.d * y.d⟩
/-- The difference. -/
def Ex.sub (x y : Ex) : Ex := x.add y.neg
/-- The product. -/
def Ex.mul (x y : Ex) : Ex := ⟨x.n * y.n, x.d * y.d⟩
/-- The quotient; division by zero is never asked for. -/
def Ex.div (x y : Ex) : Ex :=
  if y.n = 0 then Ex.zero
  else if 0 < y.n then ⟨x.n * (y.d : Int), x.d * y.n.natAbs⟩ else ⟨-(x.n * (y.d : Int)), x.d * y.n.natAbs⟩
/-- Division by a count. -/
def Ex.divNat (x : Ex) (k : Nat) : Ex := ⟨x.n, x.d * Nat.max 1 k⟩
/-- Multiplication by a power of two. -/
def Ex.scale (x : Ex) (k : Int) : Ex :=
  if 0 ≤ k then ⟨x.n * ((2 ^ k.toNat : Nat) : Int), x.d⟩ else ⟨x.n, x.d * 2 ^ (-k).toNat⟩
/-- Less than. -/
def Ex.lt (x y : Ex) : Bool := decide (x.n * (y.d : Int) < y.n * (x.d : Int))
/-- At most. -/
def Ex.le (x y : Ex) : Bool := decide (x.n * (y.d : Int) ≤ y.n * (x.d : Int))
/-- Equal as numbers. -/
def Ex.eq (x y : Ex) : Bool := decide (x.n * (y.d : Int) = y.n * (x.d : Int))
/-- Whether a value is negative. -/
def Ex.isNeg (x : Ex) : Bool := decide (x.n < 0)
/-- The largest integer at or below a value. -/
def Ex.floor (x : Ex) : Int := x.n / (x.d : Int)
/-- The nearest integer, ties towards plus infinity. -/
def Ex.roundHalfUp (x : Ex) : Int := (2 * x.n + (x.d : Int)) / (2 * (x.d : Int))
/-- The sum of a list. -/
def Ex.sum (l : List Ex) : Ex := l.foldl Ex.add Ex.zero

/-- The exponent of the highest power of two at or below a non-zero magnitude. -/
def Ex.log2 (x : Ex) : Int :=
  let n := x.n.natAbs
  let k : Int := (Nat.log2 n : Int) - (Nat.log2 x.d : Int)
  if (if 0 ≤ k then decide (x.d * 2 ^ k.toNat ≤ n) else decide (x.d ≤ n * 2 ^ (-k).toNat)) then k else k - 1

/-! ### Linearisation tables (R128, R129) -/

/-- Table H. -/
def tabH : List Nat := [16777216, 17520007, 18295684, 19105703, 19951585, 20834917, 21757357, 22720638,
  23726566, 24777031, 25874004, 27019544, 28215802, 29465022, 30769550, 32131834]

/-- Table L. -/
def tabL : List Nat := [16777216, 16822704, 16868315, 16914049, 16959908, 17005891, 17051999, 17098231,
  17144589, 17191073, 17237683, 17284419, 17331282, 17378271, 17425389, 17472634]

/-- T16; T8[j] is its entry 32 j. -/
def t16 (k : Nat) : Nat := (tabH.getD (k / 16) 0 * tabL.getD (k % 16) 0 + 2 ^ 23) / 2 ^ 24

/-- The table value of a logarithm in units of 1/256 (R124, R130). -/
def lamValue (lam : Int) : Ex := (Ex.ofInt ((t16 (lam % 256).toNat : Nat) : Int)).scale (lam / 256 - 24)

/-! ### L formats (R122, R123) -/

/-- Magnitude bits of L4, L8 and L16 (codes 0, 1, 2). -/
def lMag (fmt : Nat) : Nat := if fmt = 0 then 3 else if fmt = 1 then 7 else 15
/-- Fraction bits. -/
def lFrac (fmt : Nat) : Nat := if fmt = 0 then 1 else if fmt = 1 then 3 else 8
/-- The magnitude field of 1.0. -/
def lBias (fmt : Nat) : Nat := 2 ^ (lMag fmt - 1)

/-- An operand as it multiplies: zero, NaR, or a sign and a logarithm in units of 1/256. -/
inductive LEl where
  | zero
  | nar
  | num (s : Bool) (lam : Int)
deriving DecidableEq, Repr, Inhabited

/-- The operand that a code of an L format stands for. -/
def lDecode (fmt code : Nat) : LEl :=
  let m := code % 2 ^ lMag fmt
  let s := code.testBit (lMag fmt)
  if m = 0 then (if s then .nar else .zero)
  else .num s (((m : Int) - (lBias fmt : Int)) * ((2 ^ (8 - lFrac fmt) : Nat) : Int))

/-- The exact value of an operand; none for NaR. -/
def LEl.value : LEl → Option Ex
  | .zero => some Ex.zero
  | .nar => none
  | .num s lam => some (if s then (lamValue lam).neg else lamValue lam)

/-- The code of NaR. -/
def lNar (fmt : Nat) : Nat := 2 ^ lMag fmt

/-- The largest `k` of `f` fraction bits whose table entry is at most the mantissa `M`, found bit by bit. -/
def tabFloor (f : Nat) (M : Ex) : Nat :=
  (List.range f).foldl (fun k i =>
    let k' := k + 2 ^ (f - 1 - i)
    if (Ex.ofInt ((t16 (k' * 2 ^ (8 - f)) : Nat) : Int)).le M then k' else k) 0

/-- A rounded result: the code, and whether it saturated or underflowed. -/
structure Rounded where
  code : Nat
  sat : Bool
  under : Bool
deriving DecidableEq, Repr, Inhabited

/-- The logarithm, in units of the format's fraction, that the nearest rule selects for a magnitude (R137); the range is
not limited. -/
def nearestLam (f : Nat) (v : Ex) : Int :=
  let n := v.log2
  let M := v.scale (24 - n)
  let k := tabFloor f M
  let hi := if k + 1 = 2 ^ f then 2 ^ 25 else t16 ((k + 1) * 2 ^ (8 - f))
  let mid := Ex.divNat (Ex.ofInt ((t16 (k * 2 ^ (8 - f)) + hi : Nat) : Int)) 2
  n * ((2 ^ f : Nat) : Int) + (if M.lt mid then k else k + 1)

/-- Rounding into an L format (R137, R138). -/
def roundL (fmt : Nat) (v : Ex) : Rounded :=
  if v.isZero then ⟨0, false, false⟩ else
  let f := lFrac fmt
  let u : Int := ((2 ^ (8 - f) : Nat) : Int)
  let s := if v.isNeg then 2 ^ lMag fmt else 0
  let a := v.abs
  let top : Int := (lBias fmt : Int) - 1
  let vmin := lamValue (-top * u)
  if (lamValue (top * u)).lt a then ⟨s + 2 ^ lMag fmt - 1, true, false⟩
  else if a.lt (vmin.divNat 2) then ⟨0, false, true⟩
  else if a.le vmin then ⟨s + 1, false, false⟩
  else ⟨s + (nearestLam f a + (lBias fmt : Int)).toNat, false, false⟩

/-- A code sum placed into L16: out of range it saturates or flushes (R138, R153, R186). -/
def lam16 (s : Bool) (lam : Int) : Nat :=
  if 16383 < lam then b2n s * 32768 + 32767
  else if lam < -16383 then (if lam < -16639 then 0 else
    (roundL 2 (if s then (lamValue lam).neg else lamValue lam)).code)
  else b2n s * 32768 + (lam + 16384).toNat

/-- MAXLOG of a non-zero magnitude (R146): the smallest logarithm whose table value is at least the magnitude. -/
def maxLogOf (v : Ex) : Int :=
  let a := v.abs
  let n := a.log2
  let M := a.scale (24 - n)
  let k := tabFloor 8 M
  n * 256 + (if (Ex.ofInt ((t16 k : Nat) : Int)).eq M then k else k + 1)

/-! ### Floating-point formats (R143, R145) -/

/-- Exponent bits of a format code (3 E4M3, 4 E5M2, 5 FP16, 6 BF16, 7 FP32). -/
def fExp (fmt : Nat) : Nat := if fmt = 3 then 4 else if fmt = 4 ∨ fmt = 5 then 5 else 8
/-- Mantissa bits. -/
def fMan (fmt : Nat) : Nat := if fmt = 3 then 3 else if fmt = 4 then 2 else if fmt = 5 then 10 else if fmt = 6 then 7 else 23
/-- Exponent bias. -/
def fBias (fmt : Nat) : Nat := 2 ^ (fExp fmt - 1) - 1

/-- What a floating-point code stands for. -/
inductive FVal where
  | nan
  | inf (s : Bool)
  | zero (s : Bool)
  | fin (v : Ex)
deriving DecidableEq, Repr, Inhabited

/-- The value of a code. -/
def fDecode (fmt code : Nat) : FVal :=
  let m := fMan fmt
  let man := code % 2 ^ m
  let ex := (code / 2 ^ m) % 2 ^ fExp fmt
  let s := code.testBit (m + fExp fmt)
  let full := ex == 2 ^ fExp fmt - 1
  if fmt = 3 ∧ full = true ∧ man = 7 then .nan
  else if fmt ≠ 3 ∧ full = true then (if man = 0 then .inf s else .nan)
  else if ex = 0 ∧ man = 0 then .zero s
  else
    let i : Int := ((if ex = 0 then man else man + 2 ^ m : Nat) : Int)
    let e : Int := ((if ex = 0 then 1 else ex : Nat) : Int) - (fBias fmt : Int) - (m : Int)
    .fin ((Ex.ofInt (if s then -i else i)).scale e)

/-- The canonical quiet NaN of FP16, BF16 and FP32 (R145). -/
def fNan (fmt : Nat) : Nat := if fmt = 5 then 0x7E00 else if fmt = 6 then 0x7FC0 else 0x7FC00000

/-- The code of infinity. -/
def fInf (fmt : Nat) : Nat := (2 ^ fExp fmt - 1) * 2 ^ fMan fmt

/-- The sign bit. -/
def fSign (fmt : Nat) (s : Bool) : Nat := if s then 2 ^ (fMan fmt + fExp fmt) else 0

/-- The magnitude code of a positive magnitude, rounded: mode 0 nearest even, 1 towards zero, 2 away from zero. It may
be the code of infinity or above when the magnitude is too large. -/
def fRoundMag (fmt mode : Nat) (a : Ex) : Nat :=
  let m := fMan fmt
  let emin : Int := 1 - (fBias fmt : Int)
  let e := if a.log2 < emin then emin else a.log2
  let x := a.scale ((m : Int) - e)
  let i := x.floor.toNat
  let rem := x.sub (Ex.ofInt (i : Int))
  let half : Ex := ⟨1, 2⟩
  let up := if mode = 0 then half.lt rem || (half.eq rem && i % 2 == 1)
    else if mode = 1 then false else !rem.isZero
  (e - emin).toNat * 2 ^ m + i + b2n up

/-- Rounding of an exact value to nearest even with overflow to infinity, as IEEE arithmetic does. `zs` is the sign of an
exact zero. -/
def fRound (fmt : Nat) (zs : Bool) (v : Ex) : Nat :=
  if v.isZero then fSign fmt zs else
  fSign fmt v.isNeg + Nat.min (fInf fmt) (fRoundMag fmt 0 v.abs)

/-- Rounding of a matrix output into FP32, FP16 or BF16 (R140): the largest finite value for anything above it, +0 for
anything that rounds to zero. -/
def fRoundSat (fmt : Nat) (v : Ex) : Rounded :=
  if v.isZero then ⟨0, false, false⟩ else
  let top := fInf fmt - 1
  let big := match fDecode fmt top with
    | .fin w => w.lt v.abs
    | _ => false
  if big then ⟨fSign fmt v.isNeg + top, true, false⟩
  else
    let c := fRoundMag fmt 0 v.abs
    if c = 0 then ⟨0, false, true⟩ else ⟨fSign fmt v.isNeg + Nat.min top c, false, false⟩

/-- Conversion of a floating-point operand to L16 with an exponent offset (R144): the operand, INPUT_SAT, INPUT_FLUSH. -/
def fToL16 (fmt code : Nat) (off : Int) : LEl × Bool × Bool :=
  match fDecode fmt code with
  | .nan => (.nar, false, false)
  | .zero _ => (.zero, false, false)
  | .inf s => (.num s 16383, true, false)
  | .fin v =>
    let y := v.scale (-off)
    let a := y.abs
    if (lamValue 16383).lt a then (.num v.isNeg 16383, true, false)
    else if a.lt (lamValue (-16383)) then (.zero, false, true)
    else (lDecode 2 (roundL 2 y).code, false, false)

/-! ### Format codes (R156) -/

/-- Bits of an element of a format code as it is stored. -/
def fmtBits (fmt : Nat) : Nat :=
  if fmt = 0 ∨ fmt = 8 ∨ fmt = 9 ∨ fmt = 10 then 4
  else if fmt = 1 ∨ fmt = 3 ∨ fmt = 4 ∨ fmt = 11 ∨ fmt = 12 then 8
  else if fmt = 2 ∨ fmt = 5 ∨ fmt = 6 then 16 else 32

/-- Element `i` of a packed array of `w`-bit elements (R149, R167). -/
def packedAt (data : List Byte) (w i : Nat) : Nat :=
  if w = 4 then (getLe data (i / 2) 1 / 16 ^ (i % 2)) % 16 else getLe data (i * (w / 8)) (w / 8)

/-- An element of codes 0 to 7 as it multiplies, with the scale that its block then carries. -/
def elDecode (fmt code : Nat) (off : Int) : LEl × Bool × Bool :=
  if fmt ≤ 2 then (lDecode fmt code, false, false) else fToL16 fmt code off

/-! ### Block sums and LA160 (R130 to R135) -/

/-- The product of two operands (R130). -/
def lMul : LEl → LEl → LEl
  | .nar, _ => .nar
  | _, .nar => .nar
  | .zero, _ => .zero
  | _, .zero => .zero
  | .num s a, .num t b => .num (s != t) (a + b)

/-- One element of LA160 with what it has met. -/
structure Acc where
  v : Int
  sat : Bool
  low : Bool
  nar : Bool
deriving DecidableEq, Repr, Inhabited

/-- The sum of a block's products in units of 2^(N - 43), and N; none when all are zero (R131). -/
def blockSum (ps : List LEl) : Option (Int × Int) :=
  let ns := ps.filterMap (fun p => match p with
    | .num _ l => some (l / 256)
    | _ => none)
  match ns with
  | [] => none
  | n0 :: rest =>
    let N := rest.foldl (fun a b => if a < b then b else a) n0 + 1
    let q := fun (p : LEl) => match p with
      | .num s l =>
        let k := l / 256 - N + 19
        let t := t16 (l % 256).toNat
        let m : Int := ((if 0 ≤ k then t * 2 ^ k.toNat else t / 2 ^ (-k).toNat : Nat) : Int)
        if s then -m else m
      | _ => 0
    some ((ps.map q).foldl (· + ·) 0, N)

/-- The bounds of LA160 (R132). -/
def la160Max : Int := 2 ^ 159 - 1
/-- The lower bound. -/
def la160Min : Int := -(2 ^ 159)

/-- Add a contribution (R134). -/
def accAdd (x : Acc) (c : Int) : Acc :=
  if x.sat then x else
  let s := x.v + c
  if la160Max < s then { x with v := la160Max, sat := true }
  else if s < la160Min then { x with v := la160Min, sat := true }
  else { x with v := s }

/-- Add a block of products with their scales (R131, R133, R135). Scale codes are `e` of R125; 0xFF makes every product NaR. A contribution
that a saturated element ignores still counts towards LOW_COUNT (DESIGN CHOICE, log 160). -/
def accBlock (anchor : Int) (ea eb : Int) (nanScale : Bool) (ps : List LEl) (x : Acc) : Acc :=
  if nanScale || ps.any (· == .nar) then { x with nar := true }
  else match blockSum ps with
    | none => x
    | some (S, N) =>
      let sh := N + ea + eb - anchor - 201
      if 0 ≤ sh then accAdd x (S * ((2 ^ sh.toNat : Nat) : Int))
      else
        let p := 2 ^ (-sh).toNat
        let m := S.natAbs / p
        let x := if S.natAbs % p ≠ 0 then { x with low := true } else x
        accAdd x (if S < 0 then -(m : Int) else (m : Int))

/-- Combine the partial of another k-range (R173). -/
def accMerge (x y : Acc) : Acc :=
  let z := if y.sat then (if x.sat then x else { x with v := y.v, sat := true }) else accAdd x y.v
  { z with low := x.low || y.low, nar := x.nar || y.nar }

/-- The value of an accumulator (R132); none for NaR. -/
def accValue (anchor : Int) (x : Acc) : Option Ex :=
  if x.nar then none else some ((Ex.ofInt x.v).scale (anchor - 96))

/-! ### Status and side words (R142, R146) -/

/-- A numeric status word. -/
structure NumStat where
  sat : Nat
  low : Nat
  convSat : Nat
  inFlush : Bool
  inSat : Bool
  under : Bool
  nar : Bool
deriving DecidableEq, Repr, Inhabited

/-- The 32 bits of a status word. -/
def NumStat.word (s : NumStat) : Nat :=
  Nat.min 255 s.sat * 2 ^ 24 + Nat.min 255 s.low * 2 ^ 16 + Nat.min 255 s.convSat * 2 ^ 8 +
    b2n s.inFlush * 8 + b2n s.inSat * 4 + b2n s.under * 2 + b2n s.nar

/-- The merge of a status word into the word in memory: counts saturate, flags are ORed (R171). -/
def NumStat.merge (s : NumStat) (w : Nat) : Nat :=
  Nat.min 255 (w / 2 ^ 24 % 256 + s.sat) * 2 ^ 24 + Nat.min 255 (w / 2 ^ 16 % 256 + s.low) * 2 ^ 16 +
    Nat.min 255 (w / 2 ^ 8 % 256 + s.convSat) * 2 ^ 8 + ((w % 16) ||| (s.word % 16)) + (w / 16 % 16) * 16

/-- What a command records for its side word. -/
structure Side where
  under : Bool
  sat : Bool
  nar : Bool
  maxlog : Option Int
deriving DecidableEq, Repr, Inhabited

/-- Nothing recorded. -/
def Side.none : Side := ⟨false, false, false, .none⟩

/-- The merge into the 64-bit side word in memory (R147). -/
def Side.merge (s : Side) (w : Nat) : Nat :=
  let valid := bit w 32
  let old := toSigned 24 w
  let ml : Option Int := match s.maxlog with
    | .none => if valid then some old else .none
    | some m => some (if valid && decide (m < old) then old else m)
  let flags := (w / 2 ^ 33 % 8) ||| (b2n s.nar + 2 * b2n s.sat + 4 * b2n s.under)
  (match ml with
    | some m => 2 ^ 32 + ofSigned 24 m
    | .none => w % 2 ^ 24) + flags * 2 ^ 33

/-- The next-scale rule (R148): the E8 code for a format, none when VALID is 0. -/
def nextScale (emax : Int) (w : Nat) : Option Nat :=
  if bit w 32 then
    let m := toSigned 24 w
    let s := -((-m) / 256) - emax + 127
    some (if s < 0 then 0 else if 254 < s then 254 else s.toNat)
  else .none

/-- emax of a format code (R148). -/
def emaxOf (fmt : Nat) : Int :=
  if fmt = 0 then 1 else if fmt = 1 then 7 else if fmt = 2 then 63 else if fmt = 3 then 8
  else if fmt = 4 ∨ fmt = 5 then 15 else 127

/-! ### Output rounding (R137 to R141, R151) -/

/-- One output element: its stored bits, with what it records. -/
structure OutEl where
  code : Nat
  stat : NumStat
  side : Side
deriving DecidableEq, Repr, Inhabited

/-- Round a value into an output format under an output scale code `o`. `acc` carries the accumulator's SAT and LOW. -/
def outRound (fmt o : Nat) (v : Option Ex) (accSat accLow : Bool) : OutEl :=
  let base : NumStat := ⟨b2n accSat, b2n accLow, 0, false, false, false, false⟩
  let nar := if fmt ≤ 2 then lNar fmt else if fmt = 13 then 0x80008000 else fNan fmt
  match v with
  | none => ⟨nar, { base with nar := true }, ⟨false, false, true, .none⟩⟩
  | some x =>
    let ml := if x.isZero then Option.none else some (maxLogOf x)
    if o = 0xFF then ⟨nar, { base with nar := true }, ⟨false, false, false, ml⟩⟩ else
    let y := x.scale (127 - (o : Int))
    let r : Rounded :=
      if fmt ≤ 2 then roundL fmt y
      else if fmt = 13 then
        let hi := roundL 2 y
        let hv := ((lDecode 2 hi.code).value).getD Ex.zero
        let lo := if hi.sat then ⟨0, false, false⟩ else roundL 2 (y.sub hv)
        ⟨hi.code + lo.code * 65536, hi.sat, hi.under⟩
      else fRoundSat fmt y
    ⟨r.code, { base with convSat := b2n r.sat, under := r.under }, ⟨r.under, r.sat, false, ml⟩⟩

/-- Sum of two status words' events. -/
def NumStat.plus (a b : NumStat) : NumStat :=
  ⟨a.sat + b.sat, a.low + b.low, a.convSat + b.convSat, a.inFlush || b.inFlush, a.inSat || b.inSat, a.under || b.under,
    a.nar || b.nar⟩

/-- Union of two side records. -/
def Side.plus (a b : Side) : Side :=
  ⟨a.under || b.under, a.sat || b.sat, a.nar || b.nar,
    match a.maxlog, b.maxlog with
    | some x, some y => some (if x < y then y else x)
    | some x, .none => some x
    | .none, y => y⟩

/-- Bytes of a row of output codes: element `i` in ascending order, an odd last nibble 0 (R168). -/
def packRow (w : Nat) : List Nat → List Byte
  | [] => []
  | [a] => if w = 4 then leBytes 1 (a % 16) else leBytes (w / 8) a
  | a :: b :: rest => if w = 4 then leBytes 1 (a % 16 + (b % 16) * 16) ++ packRow w rest
                      else leBytes (w / 8) a ++ packRow w (b :: rest)

/-! ### Weight expansion (R149, R150) -/

/-- Zero-point expansion of a difference `d` with an L16 scale code to L8 (1) or L16 (2). -/
def expandZp (target : Nat) (d : Int) (scale : Nat) : LEl :=
  match lDecode 2 scale with
  | .zero => .zero
  | .nar => if d = 0 then .zero else .nar
  | s =>
    if d = 0 then .zero else
    match lMul (lDecode 2 (roundL 2 (Ex.ofInt d)).code) s with
    | .num sg lam =>
      if target = 2 then lDecode 2 (lam16 sg lam)
      else lDecode 1 (roundL 1 (if sg then (lamValue lam).neg else lamValue lam)).code
    | x => x

end Sys2Proof.Machine
end

