-- ==== Sys2Proof/Machine/TypesCore.lean ====
section
/-! DEFINITION. State of the interrupt controller, error tables, central store, address translation,
host link, front end, scheduler and phase engine. Plain data: every field has its rule of the spec. -/

namespace Sys2Proof.Machine

/-! ### Interrupt controller (R444 to R458) -/

/-- One stack entry of a target: source, priority, latched count (R449). -/
structure IcuEntry where
  source : Nat
  prio : Nat
  count : Nat
deriving DecidableEq, Repr, Inhabited

/-- The interrupt controller and Goose's wake record. A source is ACTIVE when it is on a stack, and a
level source's condition is read from the state of the unit that raises it. -/
structure IcuSt where
  globalHold : Bool
  stackFaults : Nat
  last : List Nat
  holdEnd : List (Option Nat)
  en : List Nat
  count : Arr Nat
  marks : List Nat
  stack : Arr (List IcuEntry)
  fault : Nat
  woke : Bool
  wokeSource : Nat
deriving DecidableEq, Repr

/-- ICU registers after reset (R458). -/
def IcuSt.init : IcuSt :=
  { globalHold := false, stackFaults := 0, last := List.replicate 32 69
    holdEnd := List.replicate 32 none, en := List.replicate 32 0, count := [], marks := []
    stack := [], fault := 0, woke := false, wokeSource := 0 }

/-! ### Error counts and logs (R427, R442, R443) -/

/-- A valid log entry. -/
structure ErrLog where
  ue : Bool
  source : Nat
  repeats : Nat
  syndrome : Nat
  loc : Nat
deriving DecidableEq, Repr, Inhabited

/-- One log table with its counters: quarters 0 to 3, and table 4 for spine and AO. `scrubPos` is the
DRAM offset of the next sector of the patrol scrub (R426). -/
structure ErrTab where
  dramCe : Nat
  onchipCe : Nat
  dramUe : Nat
  onchipUe : Nat
  poisonRead : Nat
  overflow : Bool
  ceThreshold : Nat
  scrubEn : Bool
  passes : Nat
  log : List (Option ErrLog)
  scrubPos : Nat
deriving DecidableEq, Repr

/-- A table after reset. -/
def ErrTab.init : ErrTab :=
  ⟨0, 0, 0, 0, 0, false, 0x10, false, 0, List.replicate 16 none, 0⟩

/-- Bytes of an on-chip memory whose data and 5 check bits no longer agree, and that nothing has read since (R88, R420): the error table of
the memory, SOURCE and LOC as R442 gives them, whether two bits of the byte are wrong, and the syndrome that a read finds. -/
structure Upset where
  table : Nat
  source : Nat
  loc : Nat
  double : Bool
  syndrome : Nat
deriving DecidableEq, Repr, Inhabited

/-- All tables, the upsets that no read has found yet, GLB_DEV_FAULT (cause 0 is none) and GLB_CWS_STATUS. -/
structure ErrSt where
  tabs : List ErrTab
  upsets : List Upset
  devFault : Nat
  voteFix : Nat
  cwsPasses : Nat
  aerInternal : Bool
deriving DecidableEq, Repr

/-- Error state after reset. -/
def ErrSt.init : ErrSt := ⟨List.replicate 5 ErrTab.init, [], 0, 0, 0, false⟩

/-! ### Central store (R88 to R121) -/

/-- Who asks the store: the context of command work, the class code of R343 (14 SEQ, 13 PTW, 12 OBS,
11 BAR 2, 10 spine firmware for requests that R343 gives no code), quarter 0 to 3 or 4 for the spine,
instance, the requester class of R100 and, for command work, the engine class
whose mask also bounds allocation (R101), and the command's serial number where there is one. -/
structure Rq where
  ctx : Option Nat
  cls : Nat
  quarter : Nat
  inst : Nat
  rc : Nat
  erc : Option Nat
  noalloc : Bool
  serial : Option Nat
deriving DecidableEq, Repr, Inhabited

/-- One cache line in a way: line number `l` of its quarter's DRAM, masks over its four sectors. -/
structure Line where
  present : Bool
  l : Nat
  valid : Nat
  dirty : Nat
  poison : Nat
  data : List Byte
deriving DecidableEq, Repr, Inhabited

/-- One prefetch side-buffer line, tagged by context (R109). -/
structure SideEnt where
  l : Nat
  ctx : Option Nat
  poison : Nat
  data : List Byte
deriving DecidableEq, Repr, Inhabited

/-- One write-stream tracker (R106): last line, requester code, count, time of the last miss. -/
structure StreamTrk where
  l : Nat
  requester : Nat
  count : Nat
  tb : Nat
deriving DecidableEq, Repr, Inhabited

/-- A request that waits at its slice: stage 0 for its dirty victim's write to be accepted, 1 for its DRAM fill, 2 for the zeroing of its
scratch way, 3 for a clock switch to end, 4 for a free line buffer of the staging area, 5 behind an earlier request to its line (R98, R104 to R107, R110, R469).
A write carries its bytes under its byte mask (R104): none is a byte that it does not name. `inv` tells that an INVALIDATE waits for it (R397). -/
structure Fill where
  rq : Rq
  pa : Nat
  len : Nat
  wdata : Option (List (Option PByte))
  stage : Nat
  inv : Bool
deriving DecidableEq, Repr, Inhabited

/-- What a DRAM read of a sector finds (R424): upsets of the poison field, the SEC-DED result (0 no error,
1 single-bit, 2 double-bit), the data bits that read wrong, and the code's syndrome. -/
structure SectorErr where
  flips : Nat
  code : Nat
  wrong : List Nat
  syndrome : Nat
deriving DecidableEq, Repr, Inhabited

/-- One slice, its controller's write queue, and its quarter's DRAM. `lines` is indexed by
set × 16 + way, `recency` by set (most recent way first), scratch bytes by
(way × 24,576 + set) × 128 + byte, `dramPoison` by sector with the 6-bit poison field of R423, `latent` by sector what a read of the sector finds beside it (R57, R424),
`staged` the non-allocating writes that the controller has not accepted, oldest first (R107), `maintRun` operation, start and length of the
maintenance that runs. -/
structure SliceSt where
  lines : Arr Line
  recency : Arr (List Nat)
  scratch : Mem
  scratchPoison : Arr Bool
  zeroing : Nat
  side : List SideEnt
  trackers : List StreamTrk
  staged : List Line
  waiting : List Fill
  wq : Nat
  drain : Bool
  wayOff : Nat
  cleaning : Nat
  off : Nat
  maintPa : Nat
  maintLen : Nat
  maintOp : Nat
  maintRun : Nat × Nat × Nat
  maintBusy : Bool
  maintDone : Bool
  maintRejected : Bool
  errViol : Nat
  errScratchRange : Nat
  errPaRange : Nat
  errLostWrite : Nat
  dram : Mem
  dramPoison : Arr Nat
  latent : Arr SectorErr
  memLost : Bool
deriving DecidableEq, Repr

/-- A slice after reset: nothing resident, registers as R121 gives them. -/
def SliceSt.init : SliceSt :=
  { lines := [], recency := [], scratch := [], scratchPoison := [], zeroing := 0, side := []
    trackers := [], staged := [], waiting := [], wq := 0, drain := false, wayOff := 0, cleaning := 0, off := 0
    maintPa := 0, maintLen := 0, maintOp := 0, maintRun := (0, 0, 0), maintBusy := false, maintDone := false
    maintRejected := false, errViol := 0, errScratchRange := 0, errPaRange := 0, errLostWrite := 0
    dram := [], dramPoison := [], latent := [], memLost := false }

/-! ### Address translation (R378 to R399) -/

/-- A cached leaf (R386, R388): context, base of the virtual page, log2 of its size, physical base. -/
structure TlbEnt where
  ctx : Nat
  va : Nat
  size : Nat
  pa : Nat
  w : Bool
  noalloc : Bool
deriving DecidableEq, Repr, Inhabited

/-- A cached table pointer: level of the entry that held it (3, 2 or 1), its span's base, the table. -/
structure WcEnt where
  ctx : Nat
  level : Nat
  va : Nat
  pa : Nat
deriving DecidableEq, Repr, Inhabited

/-- A fault record (R390) with the physical address of its table entry, by which faults merge (R391). -/
structure FaultRec where
  kind : Nat
  ctx : Nat
  access : Nat
  level : Nat
  va : Nat
  entry : Nat
  entryPa : Nat
  cls : Nat
  quarter : Nat
  inst : Nat
  count : Nat
deriving DecidableEq, Repr, Inhabited

/-- A request stalled on a fault (R389), with the batch of its record and its command's serial number. -/
structure Stall where
  ctx : Nat
  va : Nat
  access : Nat
  cls : Nat
  quarter : Nat
  inst : Nat
  batch : Nat
  serial : Option Nat
deriving DecidableEq, Repr, Inhabited

/-- Translation caches, fault batches and the MMU registers. `utlb` is indexed by unit code. `waitq` holds closed batches
that wait for room in the ring. -/
structure MmuSt where
  utlb : Arr (List TlbEnt)
  stlb : List (List TlbEnt)
  wc : List WcEnt
  openRecs : List FaultRec
  openTb : Nat
  openNo : Nat
  waitq : List (Nat × List FaultRec)
  stalled : List Stall
  enable : Bool
  base : Nat
  wptr : Nat
  rptr : Nat
  holdoffUs : Nat
  countCfg : Nat
  closed : Nat
  replayed : Nat
  replayIgnored : Nat
  ringFull : Nat
  rptrIgnored : Nat
  hostCplErr : Nat
  peerBase : Arr Nat
  peerSize : Arr Nat
deriving DecidableEq, Repr

/-- MMU after reset and FLR (R399). -/
def MmuSt.init : MmuSt :=
  { utlb := [], stlb := List.replicate 4 [], wc := [], openRecs := [], openTb := 0, openNo := 1
    waitq := [], stalled := [], enable := false, base := 0, wptr := 0, rptr := 0
    holdoffUs := 0x014, countCfg := 0x020, closed := 0, replayed := 0, replayIgnored := 0
    ringFull := 0, rptrIgnored := 0, hostCplErr := 0, peerBase := [], peerSize := [] }

/-! ### Host link (R326 to R330, R455) -/

/-- One MSI-X table entry; `unmasked` is the complement of its Mask bit, which is 1 at reset. -/
structure MsixEnt where
  addr : Nat
  data : Nat
  unmasked : Bool
deriving DecidableEq, Repr, Inhabited

/-- A read request to nodes 1 to 8 that has left the device (R381); `inv` tells that an INVALIDATE waits for it (R397). -/
structure OutRead where
  rq : Rq
  bus : Nat
  len : Nat
  inv : Bool
deriving DecidableEq, Repr, Inhabited

/-- Where a token is handed out: the quarter of the queue, and the rings and instances that hold no credits for the output (R23). -/
structure HandOut where
  q : Nat
  lack : List (Nat × Nat)
deriving DecidableEq, Repr, Inhabited

/-- A read of registers through BAR 0: the offset and the number of bytes (R12, R13). -/
structure BarRead where
  off : Nat
  len : Nat
deriving DecidableEq, Repr, Inhabited

/-- What a read access answered: data bytes, and whether it was delivered poisoned or not performed. -/
structure Answer where
  data : List Byte
  poisoned : Bool
  performed : Bool
deriving DecidableEq, Repr, Inhabited

/-- The PCI Express function and the memory behind the link. `busMem` is host and peer memory at its
bus addresses, `busPoison` its 32-byte sectors held or received poisoned, `msgs` the MSI-X messages sent,
oldest first, `d3hot` the function's power state (R326), `hostRead` the last answer to a host read, `storeRead` the last answer to a store request, `cfgAnswer` the last
configuration answer (none is CRS), `latch` the upper halves held by _LO reads (R13), at the offset of their _HI register and one more
than the value. -/
structure HostSt where
  linkUp : Bool
  width : Nat
  rate : Nat
  perstLow : Bool
  cfgOpen : Bool
  msixEnable : Bool
  funcMask : Bool
  busMaster : Bool
  bar2Log : Nat
  d3hot : Bool
  msix : Arr MsixEnt
  busMem : Mem
  busPoison : Arr Bool
  outReads : List OutRead
  msgs : List (Nat × Nat)
  hostRead : Answer
  storeRead : Answer
  cfgAnswer : Option Nat
  latch : Arr Nat
deriving DecidableEq, Repr

/-- The function after reset: link down, BAR 2 of 256 MiB, every vector masked. -/
def HostSt.init : HostSt :=
  { linkUp := false, width := 0, rate := 0, perstLow := true, cfgOpen := false, msixEnable := false
    funcMask := false, busMaster := false, bar2Log := 28, d3hot := false, msix := [], busMem := []
    busPoison := [], outReads := [], msgs := [], hostRead := ⟨[], false, false⟩
    storeRead := ⟨[], false, false⟩, cfgAnswer := none, latch := [] }

/-! ### Front end: contexts, rings, commands, fences, references (R333 to R358) -/

/-- A context: STATE 0 FREE, 1 ACTIVE, 2 LOST; CAUSE; physical address of its T3 table. -/
structure CtxSt where
  state : Nat
  cause : Nat
  root : Nat
deriving DecidableEq, Repr, Inhabited

/-- A start or deadline specifier (R76). -/
structure PhaseSpec where
  kind : Nat
  ref : Nat
  epoch : Nat
  value : Nat
deriving DecidableEq, Repr, Inhabited

/-- A ring entry (R342) as the fetcher read it. -/
structure Entry where
  cls : Nat
  quarter : Nat
  mask : Nat
  op : Nat
  flags : Nat
  ring : Nat
  objects : List Nat
  waits : List (Nat × Nat)
  tag : Nat
  payload : Nat
  sigFence : Nat
  sigValue : Nat
  start : PhaseSpec
  deadline : PhaseSpec
deriving DecidableEq, Repr, Inhabited

/-- Where a command stands (R346): fetched and waiting, ready and waiting for its start phase,
dispatched, or finished by its engine and waiting for its completion. -/
inductive CmdPhase where
  | fetched
  | armed
  | dispatched
  | finished
deriving DecidableEq, Repr, Inhabited

/-- The payload of a CYCLE_MARK (R228): KIND 1 START, 2 END, others do nothing. -/
structure Mark where
  kind : Nat
  needed : Nat
  cycle : Nat
  commands : Nat
  resultLen : Nat
  resultAddr : Nat
deriving DecidableEq, Repr, Inhabited

/-- A fetched command. `serial` names it in the device; `kq` tells that it came through the kernel
queue and `toKq` that its record goes to the KQ completion queue;
`waitRes` is 0 while a wait is unsatisfied, 1 once all are satisfied, 2 when one was satisfied with its error flag
set (R351); `age` is its timeout count (TBCLK periods, or 2^-48 turns where the ring's UNIT is turns, which a reversing shaft takes back);
`waitAge` its wait timeout count in TBCLK periods; `unitsLeft` the units not yet handed out,
`unitsRunning` how many are on instances; `units` how many there are once they are known; `preloaded` the MEs that have preloaded for its token (R180);
`specWait` that it waits for its start reference to enter LOCKED before what depends on a stamp is resolved (R77); `expired` tells that its timeout is reached and an instance still drains (R372); `chain` is the deadline
monitor's chain it belongs to, `released` that its gated chain was released (R230), `cmark` its payload
when it is a CYCLE_MARK that was read. -/
structure Cmd where
  serial : Nat
  entry : Entry
  index : Nat
  ring : Nat
  ctx : Nat
  kq : Bool
  toKq : Bool
  phase : CmdPhase
  ready : Bool
  waitRes : Nat
  startTarget : Option Nat
  specWait : Bool
  startLate : Bool
  deadlineTarget : Option Nat
  deadlineEpoch : Nat
  dispatchTb : Nat
  age : Int
  waitAge : Nat
  units : Option Nat
  unitsLeft : List Nat
  unitsRunning : Nat
  preloaded : List Nat
  status : Nat
  poisoned : Bool
  instNo : Nat
  ran : Bool
  expired : Bool
  chain : Option Nat
  released : Bool
  cmark : Option Mark
deriving DecidableEq, Repr, Inhabited

/-- What one unit's change asks of the others, taken up before the step ends: a command has completed with a
status, a context was lost (with the ring, cycle and epoch of every primary chain that was running on its rings), a quarter's memory was lost, the device fault state was entered, a request of an engine
reached a BAR 0 register (R380). -/
inductive Note where
  | done (cmd : Cmd) (status : Nat)
  | ctxLost (ctx cause : Nat) (running : List (Nat × Nat × Nat))
  | quarterOut (q : Nat)
  | devFault
  | regWrite (off : Nat) (data : List Byte)
deriving DecidableEq, Repr

/-- A completion record that waits for room, with what its release step does (R349). -/
structure WaitRec where
  bytes : List Byte
  objects : List Nat
  notify : Option Nat
deriving DecidableEq, Repr, Inhabited

/-- A ring (R336 to R341). `wptr` is the accepted write index and `effWptr` the one whose doorbell has taken
effect (R340); `cqDiscard` is the state of R533 after a failed record write; `devWriter` ownership by an
attached SEQ instance or by Ox firmware, and `foreign` the slots of such a ring that the host has written (R341); `fetchTo` is the index up to
which the fetcher's present pass goes (R339); `cmds` are its commands fetched and not completed, oldest first. In KQ mode the undispatched ones are its
on-chip queue (R335). -/
structure Ring where
  bound : Bool
  ctx : Nat
  size : Nat
  base : Nat
  cqBase : Nat
  cqSize : Nat
  wptr : Nat
  rptr : Nat
  cqWptr : Nat
  cqRptr : Nat
  ignored : Nat
  pending : Bool
  effWptr : Nat
  fetchStopped : Bool
  cqDiscard : Bool
  unbinding : Bool
  devWriter : Bool
  foreign : List Nat
  fetchTo : Option Nat
  cmds : List Cmd
  waitRecs : List WaitRec
deriving DecidableEq, Repr, Inhabited

/-- A fence: value and error flag (R350). -/
structure Fence where
  v : Nat
  e : Bool
deriving DecidableEq, Repr, Inhabited

/-- The front end. `kqCmds` are MGMT commands fetched and not completed, in queue order; `postStop` holds while a spine
hand-over keeps it from posting (R492). -/
structure FeSt where
  ctxs : Arr CtxSt
  rings : Arr Ring
  fences : Arr Fence
  refs : Arr Nat
  nextSerial : Nat
  postStop : Bool
  batchTb : Option Nat
  batchCount : Nat
  batchRings : List Nat
  kqEnable : Bool
  kqBase : Nat
  kqSize : Nat
  kqWptr : Nat
  kqRptr : Nat
  kqCqBase : Nat
  kqCqSize : Nat
  kqCqWptr : Nat
  kqCqRptr : Nat
  kqCmds : List Cmd
  kqRecs : List WaitRec
  bar2Base : Nat
  refSel : Nat
  sigSel : Nat
  fenceRegress : Nat
  dbIgnored : Nat
  refUnderflow : Nat
  refFromZero : Nat
  refSat : Nat
  cqFull : Nat
deriving DecidableEq, Repr

/-- The front end after reset (R358). -/
def FeSt.init : FeSt :=
  { ctxs := [], rings := [], fences := [], refs := [], nextSerial := 0, postStop := false, batchTb := none
    batchCount := 0, batchRings := [], kqEnable := false, kqBase := 0, kqSize := 0, kqWptr := 0
    kqRptr := 0, kqCqBase := 0, kqCqSize := 0, kqCqWptr := 0, kqCqRptr := 0, kqCmds := []
    kqRecs := [], bar2Base := 0, refSel := 0, sigSel := 0, fenceRegress := 0, dbIgnored := 0
    refUnderflow := 0, refFromZero := 0, refSat := 0, cqFull := 0 }

/-! ### Input queues and instances (R359 to R377) -/

/-- A write that a unit has formed and not yet made: data, a status word's merge, a side word's merge. -/
inductive Eff where
  | write (va : Nat) (data : List PByte)
  | stat (va : Nat) (s : NumStat)
  | side (va : Nat) (poison : Bool) (s : Side)
deriving DecidableEq, Repr, Inhabited

/-- The unit an instance is running: its command, its ring, the unit's number, the time of hand-out, when its
issue was stopped at an expiry (R372), whether its result is formed and only its writes remain, how far
it is (rows, items or lines done), the writes it has formed and not made, whether an output was poisoned, and whether its buffer held
an uncorrectable error, which poisons what it writes from then on (R421, R429). -/
structure Run where
  serial : Nat
  ring : Nat
  ctx : Nat
  unitNo : Nat
  tb : Nat
  stopTb : Option Nat
  formed : Bool
  prog : Nat
  held : List Eff
  poison : Bool
  taint : Bool
deriving DecidableEq, Repr, Inhabited

/-- An access that an engine has performed for work a stall interrupted: kind (0 read, 1 write, 2 read-modify-write, 3 an operation on registers),
address, length, and what it answered. -/
structure Done where
  kind : Nat
  va : Nat
  len : Nat
  data : List PByte
deriving DecidableEq, Repr, Inhabited

/-- One engine instance: the unit it runs, the context of its last unit (R160, R440), what the buffer of an SNE, a Mule or TOK holds (R34: the
bytes last read through it, oldest first; its other bytes are zero), the accesses that interrupted work has performed and, while work runs that
keeps them, the place of the next among them (R389), and why the instance
may be out of every allowed set: known-answer failure, service window, power, a running reset. -/
structure Inst where
  run : Option Run
  lastCtx : Option Nat
  buf : List PByte
  log : List Done
  pos : Option Nat
  katFailed : Bool
  window : Bool
  off : Bool
  resetEnd : Option Nat
deriving DecidableEq, Repr, Inhabited

/-- FE_SCHED_r_COUNT. -/
structure SchedCount where
  cmdTimeout : Nat
  waitTimeout : Nat
  overrun : Nat
  reset : Nat
deriving DecidableEq, Repr, Inhabited

/-- Input queues. A queue's number is its class × 4 + quarter, a lane's is queue × 64 + ring; a lane lists
the serial numbers of its tokens. Instances are indexed by class × 32 + quarter × 8 + number. -/
structure SchedSt where
  lanes : Arr (List Nat)
  deficit : Arr Int
  pointer : Arr Nat
  insts : Arr Inst
  counts : Arr SchedCount
deriving DecidableEq, Repr

/-- The queues after reset. -/
def SchedSt.init : SchedSt := ⟨[], [], [], [], []⟩

/-! ### Phase engine (R61 to R87) -/

/-- A reference. STATE 0 ABSENT, 1 ACQUIRING, 2 LOCKED, 3 COASTING, 4 LOST. The stamp is
(turn × 2^48 + acc) / 2^16; `acc` may stand above 2^48 until the carry is taken at the turn
(INTERPOLATED_TURN). `hold` is how far, in 2^-16 angle units, the edge-based value still lies behind
a held stamp (R71). -/
structure RefSt where
  state : Nat
  epoch : Nat
  coastLeft : Nat
  turn : Nat
  acc : Nat
  hold : Nat
  edgeTb : Nat
  period : Nat
  everLocked : Bool
  timingTb : Nat
  lastEdge : Option Nat
  good : Nat
  coastEntry : Nat
  pulses : Nat
  pulseBad : Bool
  lastIndex : Nat
  lastPulse : Nat
  count : Nat
  travel : Nat
  dirBack : Bool
  lastStep : Option Nat
  lastTurnTb : Option Nat
  lastTurnBack : Bool
  glitch : Nat
  periodViolation : Nat
  pulseCount : Nat
  timeout : Nat
  loss : Nat
  checkedTo : Nat
deriving DecidableEq, Repr, Inhabited

/-- A PHIN pin: filtered level, level under test, time of that level's first sample. -/
structure PinSt where
  level : Bool
  raw : Bool
  since : Nat
deriving DecidableEq, Repr, Inhabited

/-- The phase engine and its maintenance window (R85, R86). `lastRetrain` is per quarter, `retraining`
the quarter that retrains and since when, `windowUsed` the turn of the window in which a quarter already retrained. -/
structure PheSt where
  tb : Nat
  refs : List RefSt
  pins : List PinSt
  irqEn : Nat
  maintRef : Nat
  maintStart : Nat
  maintLen : Nat
  pendStart : Option Nat
  pendLen : Option Nat
  maintForced : Nat
  lastRetrain : List Nat
  retraining : Option (Nat × Nat)
  windowUsed : Option Nat
  nextRetrain : Nat
deriving DecidableEq, Repr

/-- The phase engine after reset. -/
def PheSt.init : PheSt :=
  { tb := 0, refs := List.replicate 11 default, pins := List.replicate 8 default, irqEn := 0
    maintRef := 0xA, maintStart := 0, maintLen := 0, pendStart := none, pendLen := none
    maintForced := 0, lastRetrain := [0, 0, 0, 0], retraining := none, windowUsed := none
    nextRetrain := 0 }

/-! ### Deadline monitors (R227 to R233) -/

/-- A chain that has been started: `kind` 0 primary, 1 a primary that runs on late, 2 second START of its cycle, 3 fall-back, 4 a START that came late. `startStamp`
is its first command's dispatch stamp, `epoch` that of REF when its START was reached, `ended` tells
that its END (or a new START) was reached, `withdrawn` that POLICY abandoned it. -/
structure Chain where
  id : Nat
  monitor : Nat
  ring : Nat
  kind : Nat
  cmark : Mark
  startStamp : Option Nat
  epoch : Nat
  done : Nat
  failed : Bool
  poisoned : Bool
  ended : Bool
  withdrawn : Bool
deriving DecidableEq, Repr, Inhabited

/-- One cycle of a monitor: its number and epoch, whether its START was reached and its check fired, whether its
record was delivered, whether a fall-back was dispatched, the trigger taken, and FALLBACK_MISSING. -/
structure Cycle where
  n : Nat
  epoch : Nat
  started : Bool
  checked : Bool
  delivered : Bool
  dispatched : Bool
  trigger : Nat
  missing : Bool
deriving DecidableEq, Repr, Inhabited

/-- A deadline monitor. STATE 0 OFF, 1 WAIT, 2 RUN, 3 FALLBACK, 4 DELIVERED. `skipping` tells that the
fall-back ring is inside a chain that completes SKIPPED and whose END is not fetched yet. -/
structure DlmSt where
  state : Nat
  lastTag : Nat
  cycle : Nat
  fallbacks : Nat
  latePrimary : Nat
  missing : Nat
  none_ : Nat
  cycles : List Cycle
  chains : List Chain
  nextId : Nat
  skipping : Bool
deriving DecidableEq, Repr, Inhabited

/-! ### Observation (R503 to R515) -/

/-- OBS. `buf` holds the store buffer's bytes not yet drained, `port` the port FIFO's, `lostBuf` and `lostPort` the packets
dropped since the last LOST packet of each destination, `sinceSync` the packets since the last SYNC. -/
structure ObsSt where
  cntEn : Bool
  traceRef : Nat
  classMask : Nat
  capEn : Bool
  capBase : Nat
  capLen : Nat
  drainBase : Nat
  drainSize : Nat
  drainW : Nat
  drainR : Nat
  threshold : Nat
  bufDropped : Nat
  portDropped : Nat
  lostBuf : Nat
  lostPort : Nat
  sinceSync : Nat
  sel : Arr Nat
  cnt : Arr Nat
  snap : Arr Nat
  buf : List Byte
  port : List Byte
deriving DecidableEq, Repr

/-- OBS after reset (R515). -/
def ObsSt.init : ObsSt :=
  { cntEn := true, traceRef := 0xA, classMask := 0xFFFFFFFF, capEn := false, capBase := 0
    capLen := 0, drainBase := 0, drainSize := 0, drainW := 0, drainR := 0, threshold := 0x40
    bufDropped := 0, portDropped := 0, lostBuf := 0, lostPort := 0, sinceSync := 0, sel := []
    cnt := [], snap := [], buf := [], port := [] }

end Sys2Proof.Machine
end

