-- ==== Sys2Proof/Machine/TypesPower.lean ====
section
/-! DEFINITION. State of power, supply and thermal control, and of the start sequence. -/

namespace Sys2Proof.Machine

/-- An AVSBus voltage request in progress (R470): rail 0 to 3 of the quarters or 4 of the spine, target
in mV, when it began, how often it was retried, and the frequency step to switch to once it is acknowledged. -/
structure AvsReq where
  rail : Nat
  mv : Nat
  tb : Nat
  tries : Nat
  step : Option Nat
deriving DecidableEq, Repr, Inhabited

/-- A clock switch in progress (R469): quarter, new step, when it began. -/
structure ClkSwitch where
  quarter : Nat
  step : Nat
  tb : Nat
deriving DecidableEq, Repr, Inhabited

/-- A DRAM rate switch in progress (R477): quarter, rate in MT/s, when it began. -/
structure RateSwitch where
  quarter : Nat
  rate : Nat
  tb : Nat
deriving DecidableEq, Repr, Inhabited

/-- An access that waits for RUN (R466): kind 0 DB_WPTR of ring `at`, 1 DB_CQ_RPTR of it, 2 a BAR 2 read of `len` bytes at
offset `at`, 3 a BAR 2 write there. -/
structure HeldAcc where
  kind : Nat
  at' : Nat
  len : Nat
  data : List Byte
deriving DecidableEq, Repr, Inhabited

/-- Power control. `state` 0 RUN, 1 REST, 2 HOLD, 3 WAKING; `entering` the state being entered (R463)
since `entryTb`, with `wakePending` a wake that arrived meanwhile; `wakeFrom` the state left by a wake; `stage` 0 to 4; the causes
of the supply warning are `pinLow` and `droopTb`; `warnTb` is when the warning last became active,
`calmTb` when it last became inactive, `leftStages` how many stages were left since; `domains` holds 0 off, 1
on, 2 retention, 3 gated. Temperatures are in units of 0.25 degree. `wakeCounts` and `wakeLevels` are the interrupt counts and level
conditions that already stood when REST or HOLD was requested, `held` the accesses that wait for RUN, `holdTb` when HOLD was entered,
`shedLost` the quarters whose memory only S4 took away (R477), `energy` the estimated energy in units of 10 uJ, `saveLost` the bytes of the AO save memory known to be damaged. KEEP_BASE holds the register halves of R464. -/
structure PwrSt where
  state : Nat
  entering : Nat
  entryTb : Nat
  wakePending : Bool
  wakeFrom : Nat
  wakeTb : Nat
  idleq : Nat
  lastBusy : List Nat
  stage : Nat
  pinLow : Bool
  droopTb : Option Nat
  warnTb : Nat
  calmTb : Nat
  leftStages : Nat
  reqResult : Nat
  keepBase : Nat
  keepLo : Nat
  keepSet : Bool
  keepReady : Bool
  keepCrc : List (Nat × Nat)
  estimate : Nat
  overTb : Option Nat
  ignoreFloors : Bool
  thermLast : Bool
  avsFault : Nat
  dips : Nat
  floorOverride : Nat
  avsFaults : Nat
  throttles : Nat
  wakeCounts : Arr Nat
  wakeLevels : Nat
  held : List HeldAcc
  holdTb : Nat
  shedLost : Nat
  energy : Nat
  saveLost : List Nat
deriving DecidableEq, Repr

/-- Clocks, rails, temperatures, DRAM rates and power domains. `throttling` and `neighbour` tell by which cause a quarter throttles, `thermLimit` is the highest step that throttling allows (40: none) and `thermTb`
when it last moved; `avsLimit` the highest step that a failed rail allows. -/
structure ClkSt where
  step : List Nat
  rail : List Nat
  floor : List Nat
  capLimited : Nat
  neighbour : Nat
  avsLimit : List Nat
  throttling : Nat
  thermLimit : List Nat
  thermTb : List Nat
  temp : List Int
  spineTemp : Int
  avs : List AvsReq
  switches : List ClkSwitch
  dramRate : List Nat
  rateSwitch : Option RateSwitch
  rateQueue : List Nat
  domains : List Nat
  aclk : List Nat
  shutdown : Bool
deriving DecidableEq, Repr

/-- Power control after reset (R480). -/
def PwrSt.init : PwrSt :=
  { state := 0, entering := 0, entryTb := 0, wakePending := false, wakeFrom := 0, wakeTb := 0
    idleq := 0, lastBusy := [0, 0, 0, 0], stage := 0, pinLow := false, droopTb := none, warnTb := 0
    calmTb := 0, leftStages := 0, reqResult := 0, keepBase := 0, keepLo := 0, keepSet := false
    keepReady := false, keepCrc := [], estimate := 0, overTb := none, ignoreFloors := false
    thermLast := false, avsFault := 0, dips := 0, floorOverride := 0, avsFaults := 0, throttles := 0
    wakeCounts := [], wakeLevels := 0, held := [], holdTb := 0, shedLost := 0, energy := 0, saveLost := [] }

/-- Clocks after reset: quarters off (STEP 0, RAIL_MV 0), floors at 10, only AO and the spine on. -/
def ClkSt.init : ClkSt :=
  { step := [0, 0, 0, 0], rail := [0, 0, 0, 0, 0], floor := [10, 10, 10, 10], capLimited := 0
    neighbour := 0, avsLimit := [40, 40, 40, 40], throttling := 0, thermLimit := [40, 40, 40, 40], thermTb := [0, 0, 0, 0]
    temp := [0, 0, 0, 0], spineTemp := 0, avs := [], switches := [], dramRate := [0, 0, 0, 0]
    rateSwitch := none, rateQueue := [], domains := [1] ++ List.replicate 26 0
    aclk := [0, 0, 0, 0], shutdown := false }

/-- What the device meets at a start (R55): what the board has put into the boot NVM meanwhile (address and bytes), the secret that the PUF
gives (none when reconstruction fails), whether the chosen firmware hangs, which units fail the start-up test (as GLB_KAT_FAIL_0 and _1), in
which quarters DRAM training fails, which display links train, the width and generation of the PCI Express link (width 0: none), the duration in
ms, and what DRAM holds after training: stale bytes at DRAM offsets of a quarter, and what reads of its sectors find (R57); `testEn` is a high TEST_EN, which holds the device in reset (R517). -/
structure StartIn where
  nvm : List (Nat × List Byte)
  puf : Option (List Byte)
  hang : Bool
  kat0 : Nat
  kat1 : Nat
  dramFail : Nat
  links : Nat
  width : Nat
  rate : Nat
  ms : Nat
  stale : List (Nat × Nat × List Byte)
  marks : List (Nat × Nat × SectorErr)
  testEn : Bool
deriving DecidableEq, Repr, Inhabited

/-- The start sequence and its status registers (R60). `phase` 0 held in reset, 1 start not complete (recovery, or
configuration space opened without READY), 2 READY. `parts` holds the parts that go to the keep area, `relTb` is when the later of SYS_RST_N and PERST_N was released (R56), and `microcode`
has bit k - 1 set while the image of KIND k is in force, and bit 8 + q while that of KIND 4 is for quarter q's engines. `readOpcode`, `dummy` and `enables` say how the NVM is read: opcode, dummy cycles and the
octal-enable commands sent (R42, R43). -/
structure BootSt where
  phase : Nat
  sysRstLow : Bool
  pwrFailLow : Bool
  brownOut : Bool
  bootStatus : Nat
  cfgStatus : Nat
  cfgFaulted : Nat
  katFail0 : Nat
  katFail1 : Nat
  bootSlots : Nat
  bootTime : Nat
  oxsActive : Nat
  oxsStandbyOk : Bool
  oxqRunning : Nat
  microcode : Nat
  relTb : Nat
  parts : List (List Byte)
  readOpcode : Nat
  dummy : Nat
  enables : List (List Byte)
deriving DecidableEq, Repr

/-- The start state after reset: SYS_RST_N low. -/
def BootSt.init : BootSt :=
  { phase := 0, sysRstLow := true, pwrFailLow := false, brownOut := false, bootStatus := 0
    cfgStatus := 0, cfgFaulted := 0, katFail0 := 0, katFail1 := 0, bootSlots := 0, bootTime := 0
    oxsActive := 0, oxsStandbyOk := true, oxqRunning := 0, microcode := 0
    relTb := 0, parts := [], readOpcode := 0, dummy := 0, enables := [] }

/-! ### What the outside sends -/

/-- A capability field whose value R326 and R327 give; the spec does not say where in configuration space it stands. -/
inductive CapField where
  | maxPayload
  | maxReadRequest
  | msixVectors
  | bar2Size
  | link
  | powerState
  | errors
deriving DecidableEq, Repr, Inhabited

/-- A configuration request: a 32-bit read at an offset, the Bus Master Enable bit of the command register, MSI-X Enable and Function Mask, the
size of BAR 2 as log2, a read of a capability field, a power state (D3hot or D0), a clearing of the error status, or a write of any other register. -/
inductive CfgReq where
  | read (off : Nat)
  | command (busMaster : Bool)
  | msixControl (enable funcMask : Bool)
  | resizeBar (log : Nat)
  | other (off value : Nat)
  | capability (f : CapField)
  | power (d3 : Bool)
  | clearErrors
deriving DecidableEq, Repr, Inhabited

/-- A monitored rail (R526); `quarter n` is VDD_Qn. -/
inductive Rail where
  | ao
  | io18
  | spine
  | sram
  | quarter (n : Nat)
deriving DecidableEq, Repr, Inhabited

/-! ### Field update (R481 to R502) -/

/-- A mailbox buffer: STATE 0 FREE, 1 QUEUED, 2 WRITING. -/
structure UpdBuf where
  data : Mem
  state : Nat
  result : Nat
deriving DecidableEq, Repr, Inhabited

/-- An NVM operation that waits its turn (R489): a block, or a set entry's append with the outcome of its verification. -/
inductive NvmOp where
  | block (buf addr : Nat)
  | append (kind slots tries : Nat) (ok : Bool)
deriving DecidableEq, Repr

/-- An authenticated image with its decrypted body (R44, R46). -/
structure Image where
  kind : Nat
  slot : Nat
  version : Nat
  lmin : Nat
  lmax : Nat
  digest : List Byte
  body : List Byte
deriving DecidableEq, Repr, Inhabited

/-- An image entry of the measurement log (R499, R500): PARTS bit 0 the spine, 1 to 4 the quarters; STATE 1 running, 2 retired. -/
structure MeasImg where
  kind : Nat
  slot : Nat
  parts : Nat
  state : Nat
  version : Nat
  lmin : Nat
  lmax : Nat
  digest : List Byte
deriving DecidableEq, Repr, Inhabited

/-- A record entry of the measurement log. -/
structure MeasRec where
  type : Nat
  inst : Nat
  format : Nat
  kind : Nat
  slot : Nat
  outcome : Nat
  digest : List Byte
deriving DecidableEq, Repr, Inhabited

/-- A hand-over in progress (R491): its part, the state of UPD_PART, since when, the staged images, and whether a quarter's restart
and test are done. -/
structure HandOver where
  part : Nat
  state : Nat
  tb : Nat
  images : List Image
  tested : Bool
deriving DecidableEq, Repr, Inhabited

/-- Field update. `nvm` holds the complement of each byte of the boot NVM, so that a byte not listed reads 0xFF; `lastSector` the set sector last
appended to; `partSlot` and `partTrial` the fields of UPD_PART; `secret` and `imageKey` the PUF secret and the image key of this
start; `queue` the NVM operations in order. -/
structure UpdSt where
  nvm : Mem
  triesLeft : Nat
  pufFail : Bool
  levelMismatch : Bool
  setDefault : Bool
  revertCause : Nat
  reverted : Bool
  trialUsed : Bool
  level : Nat
  blkLo : Nat
  blkHi : Nat
  blkBuf : Nat
  ignored : Nat
  retries : Nat
  blocks : Nat
  bufs : List UpdBuf
  queue : List NvmOp
  arg : Nat
  op : Nat
  mask : Nat
  busy : Bool
  result : Nat
  stageLo : Nat
  stageHi : Nat
  nonce : List Nat
  partSlot : List Nat
  partTrial : List Nat
  hand : Option HandOver
  lastSector : Nat
  secret : List Byte
  imageKey : List Byte
  images : List MeasImg
  recs : List MeasRec
  overflow : Bool
deriving DecidableEq, Repr

/-- Field update after reset, over a given NVM. -/
def UpdSt.init (nvm : Mem) : UpdSt :=
  { nvm := nvm, triesLeft := 0, pufFail := false, levelMismatch := false, setDefault := false, revertCause := 0
    reverted := false, trialUsed := false, level := 0, blkLo := 0, blkHi := 0, blkBuf := 0, ignored := 0, retries := 0
    blocks := 0, bufs := List.replicate 16 default, queue := [], arg := 0, op := 0, mask := 0, busy := false, result := 0
    stageLo := 0, stageHi := 0, nonce := List.replicate 8 0, partSlot := List.replicate 5 0, partTrial := List.replicate 5 0
    hand := none, lastSector := 0, secret := [], imageKey := [], images := [], recs := [], overflow := false }

end Sys2Proof.Machine
end

