-- ==== Sys2Proof/Syntax.lean ====
section
/-! DEFINITION. The commands of the block: one constructor per row of the table of commands (spec/opcode_table.json). -/

namespace Sys2Proof

open Sys2Proof.Machine

/-- A command: one row of the table with its operands.
Operand names: `q` quarter (4 in `blockAdmit`: the render pass), `i` instance number of a class, `n` shader core of the quarter (or reference,
region), `gi` resident group of the core, `lane` lane of the group, `ring` ring, `ctx` context, `cls` class code of R362, `pin` PHIN pin, `p` display
pipe, `r` monitor, `t` target or tile, `k` table of the error logs, `e` entry or sector error, `off` register or aperture offset, `v` written value. Commands without operands stand last: the compiler gives fields to the first 244 constructors only. -/
inductive Instr where
  /-- SYS_RST_N_RELEASE (R55). -/
  | sysRstNRelease (st : StartIn)
  /-- BROWN_OUT (R526). -/
  | brownOut (r : Rail)
  /-- PERST_N_RELEASE (R524). -/
  | perstNRelease (width : Nat) (rate : Nat)
  /-- CONFIG_REQUEST (R56). -/
  | configRequest (r : CfgReq)
  /-- LINK_STATE_CHANGE (R529). -/
  | linkStateChange (width : Nat) (rate : Nat)
  /-- PWR_FAIL_N_RELEASE (R523). -/
  | pwrFailNRelease (st : StartIn)
  /-- BROWN_OUT_RECOVERY (R526). -/
  | brownOutRecovery (st : StartIn)
  /-- PHIN_LEVEL_CHANGE (R64). -/
  | phinLevelChange (pin : Nat) (level : Bool)
  /-- PHIN_EDGE_ACCEPTED (R64). -/
  | phinEdgeAccepted (pin : Nat)
  /-- ACQUIRE_TIMEOUT (R73). -/
  | acquireTimeout (n : Nat)
  /-- LOCK_TIMEOUT (R73). -/
  | lockTimeout (n : Nat)
  /-- INTERPOLATED_TURN (R70). -/
  | interpolatedTurn (n : Nat)
  /-- DISPLAY_LINE_START (R63). -/
  | displayLineStart (p : Nat) (line : Nat)
  /-- START_COMPARATOR_FIRE (R78). -/
  | startComparatorFire (ring : Nat)
  /-- DLM_CHECK (R229). -/
  | dlmCheck (r : Nat)
  /-- CYCLE_MARK (R228). -/
  | cycleMark (ring : Nat)
  /-- DLM_CLEAR (R233). -/
  | dlmClear (r : Nat) (v : Nat)
  /-- PHE_CLEAR (R87). -/
  | pheClear (v : Nat)
  /-- RETRAIN_START (R85). -/
  | retrainStart (q : Nat)
  /-- RETRAIN_FORCED (R85). -/
  | retrainForced (q : Nat)
  /-- RETRAIN_END (R85). -/
  | retrainEnd (q : Nat)
  /-- STORE_REQUEST (R104). -/
  | storeRequest (ctx : Option Nat) (cls : Nat) (q : Nat) (i : Nat) (pa : Nat) (len : Nat) (wdata : Option (List (Option PByte))) (noalloc : Bool) (onchip : Option (Bool × Nat))
  /-- EVICTION_ACCEPTED (R110). -/
  | evictionAccepted (q : Nat)
  /-- DRAM_FILL_COMPLETE (R104). -/
  | dramFillComplete (q : Nat) (errs : List SectorErr)
  /-- WRITE_DRAIN_EXIT (R110). -/
  | writeDrainExit (q : Nat)
  /-- STREAM_TRACKER_TIMEOUT (R106). -/
  | streamTrackerTimeout (q : Nat)
  /-- PREFETCH_REQUEST (R108). -/
  | prefetchRequest (ctx : Nat) (cls : Nat) (q : Nat) (i : Nat) (pa : Nat) (errs : List SectorErr)
  /-- SCRATCH_ZERO_DONE (R98). -/
  | scratchZeroDone (q : Nat)
  /-- CS_MAINT_CLEAN (R116). -/
  | csMaintClean (q : Nat)
  /-- CS_MAINT_INVALIDATE (R116). -/
  | csMaintInvalidate (q : Nat)
  /-- CS_MAINT_CLEAN_INVALIDATE (R116). -/
  | csMaintCleanInvalidate (q : Nat)
  /-- CS_MAINT_COMPLETE (R114). -/
  | csMaintComplete (q : Nat)
  /-- CS_SW_CLEAN (R117). -/
  | csSwClean (q : Nat) (set : Nat) (way : Nat)
  /-- CS_SW_INVALIDATE (R117). -/
  | csSwInvalidate (q : Nat) (set : Nat) (way : Nat)
  /-- CS_SW_CLEAN_INVALIDATE (R117). -/
  | csSwCleanInvalidate (q : Nat) (set : Nat) (way : Nat)
  /-- CS_WAY_OFF_WRITE (R119). -/
  | csWayOffWrite (q : Nat) (v : Nat)
  /-- WAY_CLEAN_DONE (R119). -/
  | wayCleanDone (q : Nat) (way : Nat)
  /-- CS_ERR_CLEAR (R121). -/
  | csErrClear (q : Nat) (v : Nat)
  /-- QUARTER_MEMORY_LOST (R29). -/
  | quarterMemoryLost (q : Nat)
  /-- TOKEN_HANDOUT (R361). -/
  | tokenHandout (cls : Nat) (h : HandOut)
  /-- ME_MATMUL (R165). -/
  | meMatmul (q : Nat) (i : Nat)
  /-- ME_BATCHED (R170). -/
  | meBatched (q : Nat) (i : Nat)
  /-- ME_EXPERT (R174). -/
  | meExpert (q : Nat) (i : Nat)
  /-- ME_ATTN_SCORE (R176). -/
  | meAttnScore (q : Nat) (i : Nat)
  /-- ME_ATTN_VALUE (R177). -/
  | meAttnValue (q : Nat) (i : Nat)
  /-- ME_UNIT_COMPLETE (R171). -/
  | meUnitComplete (q : Nat) (i : Nat)
  /-- SNE_SOFTMAX (R185). -/
  | sneSoftmax (q : Nat)
  /-- SNE_RMSNORM (R186). -/
  | sneRmsnorm (q : Nat)
  /-- SNE_LAYERNORM (R187). -/
  | sneLayernorm (q : Nat)
  /-- SNE_ACT (R188). -/
  | sneAct (q : Nat)
  /-- SNE_GATED (R189). -/
  | sneGated (q : Nat)
  /-- SNE_ROPE (R189). -/
  | sneRope (q : Nat)
  /-- SNE_COMBINE (R189). -/
  | sneCombine (q : Nat)
  /-- SNE_ADD (R189). -/
  | sneAdd (q : Nat)
  /-- SEQ_STEP_BUILD (R210). -/
  | seqStepBuild (i : Nat)
  /-- SEQ_COMMIT (R222). -/
  | seqCommit (i : Nat)
  /-- SEQ_STEP_DROP (R223). -/
  | seqStepDrop (i : Nat)
  /-- MULE_COPY (R344). -/
  | muleCopy (q : Nat) (i : Nat)
  /-- MULE_FILL (R344). -/
  | muleFill (q : Nat) (i : Nat)
  /-- STORE_MAINT (R115). -/
  | storeMaint (q : Nat) (i : Nat)
  /-- KV_STORE (R216). -/
  | kvStore (q : Nat) (i : Nat)
  /-- MULE_PREFETCH (R344). -/
  | mulePrefetch (q : Nat) (i : Nat)
  /-- MULE_SPAN_COMPLETE (R363). -/
  | muleSpanComplete (q : Nat) (i : Nat)
  /-- PACK_COMPRESS (R406). -/
  | packCompress (i : Nat)
  /-- PACK_DECOMPRESS (R410). -/
  | packDecompress (i : Nat)
  /-- CVU_SCAN (R416). -/
  | cvuScan (i : Nat)
  /-- PACK_CLEAR (R419). -/
  | packClear (v : Nat)
  /-- SC_DISPATCH (R239). -/
  | scDispatch (q : Nat)
  /-- BLOCK_ADMIT (R237). -/
  | blockAdmit (q : Nat)
  /-- NOP (R265). -/
  | nop (q : Nat) (n : Nat) (gi : Nat)
  /-- IADD (R265). -/
  | iadd (q : Nat) (n : Nat) (gi : Nat)
  /-- ISUB (R265). -/
  | isub (q : Nat) (n : Nat) (gi : Nat)
  /-- IMUL (R265). -/
  | imul (q : Nat) (n : Nat) (gi : Nat)
  /-- IMAD (R265). -/
  | imad (q : Nat) (n : Nat) (gi : Nat)
  /-- IMIN (R265). -/
  | imin (q : Nat) (n : Nat) (gi : Nat)
  /-- IMAX (R265). -/
  | imax (q : Nat) (n : Nat) (gi : Nat)
  /-- AND (R265). -/
  | and (q : Nat) (n : Nat) (gi : Nat)
  /-- OR (R265). -/
  | or (q : Nat) (n : Nat) (gi : Nat)
  /-- XOR (R265). -/
  | xor (q : Nat) (n : Nat) (gi : Nat)
  /-- SHL (R265). -/
  | shl (q : Nat) (n : Nat) (gi : Nat)
  /-- SHR (R265). -/
  | shr (q : Nat) (n : Nat) (gi : Nat)
  /-- POPC (R265). -/
  | popc (q : Nat) (n : Nat) (gi : Nat)
  /-- CLZ (R265). -/
  | clz (q : Nat) (n : Nat) (gi : Nat)
  /-- BREV (R265). -/
  | brev (q : Nat) (n : Nat) (gi : Nat)
  /-- BFE (R265). -/
  | bfe (q : Nat) (n : Nat) (gi : Nat)
  /-- BFI (R265). -/
  | bfi (q : Nat) (n : Nat) (gi : Nat)
  /-- ICMP (R265). -/
  | icmp (q : Nat) (n : Nat) (gi : Nat)
  /-- SEL (R265). -/
  | sel (q : Nat) (n : Nat) (gi : Nat)
  /-- MOV (R265). -/
  | mov (q : Nat) (n : Nat) (gi : Nat)
  /-- UPUT (R265). -/
  | uput (q : Nat) (n : Nat) (gi : Nat)
  /-- RDSV (R277). -/
  | rdsv (q : Nat) (n : Nat) (gi : Nat)
  /-- FADD (R266). -/
  | fadd (q : Nat) (n : Nat) (gi : Nat)
  /-- FMUL (R266). -/
  | fmul (q : Nat) (n : Nat) (gi : Nat)
  /-- FFMA (R266). -/
  | ffma (q : Nat) (n : Nat) (gi : Nat)
  /-- FMIN (R266). -/
  | fmin (q : Nat) (n : Nat) (gi : Nat)
  /-- FMAX (R266). -/
  | fmax (q : Nat) (n : Nat) (gi : Nat)
  /-- FCMP (R266). -/
  | fcmp (q : Nat) (n : Nat) (gi : Nat)
  /-- FRCP (R267). -/
  | frcp (q : Nat) (n : Nat) (gi : Nat)
  /-- FRSQ (R267). -/
  | frsq (q : Nat) (n : Nat) (gi : Nat)
  /-- FSQRT (R267). -/
  | fsqrt (q : Nat) (n : Nat) (gi : Nat)
  /-- FEX2 (R267). -/
  | fex2 (q : Nat) (n : Nat) (gi : Nat)
  /-- FLG2 (R267). -/
  | flg2 (q : Nat) (n : Nat) (gi : Nat)
  /-- FSIN (R267). -/
  | fsin (q : Nat) (n : Nat) (gi : Nat)
  /-- FCOS (R267). -/
  | fcos (q : Nat) (n : Nat) (gi : Nat)
  /-- HDOT4 (R268). -/
  | hdot4 (q : Nat) (n : Nat) (gi : Nat)
  /-- FTWOSUM (R268). -/
  | ftwosum (q : Nat) (n : Nat) (gi : Nat)
  /-- FTWOPROD (R268). -/
  | ftwoprod (q : Nat) (n : Nat) (gi : Nat)
  /-- LMUL (R269). -/
  | lmul (q : Nat) (n : Nat) (gi : Nat)
  /-- LADD (R269). -/
  | ladd (q : Nat) (n : Nat) (gi : Nat)
  /-- LSUB (R269). -/
  | lsub (q : Nat) (n : Nat) (gi : Nat)
  /-- LNEG (R269). -/
  | lneg (q : Nat) (n : Nat) (gi : Nat)
  /-- CVT (R270). -/
  | cvt (q : Nat) (n : Nat) (gi : Nat)
  /-- CVT2 (R270). -/
  | cvt2 (q : Nat) (n : Nat) (gi : Nat)
  /-- CLD (R272). -/
  | cld (q : Nat) (n : Nat) (gi : Nat)
  /-- CST (R272). -/
  | cst (q : Nat) (n : Nat) (gi : Nat)
  /-- LLD (R272). -/
  | lld (q : Nat) (n : Nat) (gi : Nat)
  /-- LST (R272). -/
  | lst (q : Nat) (n : Nat) (gi : Nat)
  /-- CATOM (R274). -/
  | catom (q : Nat) (n : Nat) (gi : Nat)
  /-- LATOM (R274). -/
  | latom (q : Nat) (n : Nat) (gi : Nat)
  /-- FENCE (R273). -/
  | fence (q : Nat) (n : Nat) (gi : Nat)
  /-- FENCE_RELEASE (R273). -/
  | fenceRelease (q : Nat) (n : Nat) (gi : Nat)
  /-- XLANE (R276). -/
  | xlane (q : Nat) (n : Nat) (gi : Nat)
  /-- PVOTE (R276). -/
  | pvote (q : Nat) (n : Nat) (gi : Nat)
  /-- EQMASK (R276). -/
  | eqmask (q : Nat) (n : Nat) (gi : Nat)
  /-- SYNC_G (R246). -/
  | syncG (q : Nat) (n : Nat) (gi : Nat)
  /-- SYNC_B (R246). -/
  | syncB (q : Nat) (n : Nat) (gi : Nat)
  /-- MMA_L8 (R278). -/
  | mmaL8 (q : Nat) (n : Nat) (gi : Nat)
  /-- MMA_L4L8 (R278). -/
  | mmaL4l8 (q : Nat) (n : Nat) (gi : Nat)
  /-- MMA_L16 (R278). -/
  | mmaL16 (q : Nat) (n : Nat) (gi : Nat)
  /-- PXLOCK (R296). -/
  | pxlock (q : Nat) (n : Nat) (gi : Nat)
  /-- PXLOCK_GRANT (R296). -/
  | pxlockGrant (q : Nat) (n : Nat) (gi : Nat) (lane : Nat)
  /-- PXUNLOCK (R296). -/
  | pxunlock (q : Nat) (n : Nat) (gi : Nat)
  /-- TRACE (R302). -/
  | trace (q : Nat) (n : Nat) (gi : Nat)
  /-- TRACE_ANSWER (R303). -/
  | traceAnswer (q : Nat) (n : Nat) (gi : Nat) (lane : Nat)
  /-- BRA (R280). -/
  | bra (q : Nat) (n : Nat) (gi : Nat)
  /-- JMPR (R280). -/
  | jmpr (q : Nat) (n : Nat) (gi : Nat)
  /-- CALL (R280). -/
  | call (q : Nat) (n : Nat) (gi : Nat)
  /-- EXIT (R280). -/
  | exit (q : Nat) (n : Nat) (gi : Nat)
  /-- SC_FAULT_CLEAR (R258). -/
  | scFaultClear (q : Nat) (n : Nat) (v : Nat)
  /-- TILE_COMPLETE (R295). -/
  | tileComplete (t : Nat)
  /-- REPROJ_DECISION (R313). -/
  | reprojDecision (p : Nat)
  /-- LAYER_LATCH (R306). -/
  | layerLatch (p : Nat)
  /-- SCANOUT_LINE (R318). -/
  | scanoutLine (p : Nat) (got : Nat)
  /-- SIGNATURE_COMPARE (R319). -/
  | signatureCompare (n : Nat)
  /-- COMP_SAFE_EXIT (R321). -/
  | compSafeExit (p : Nat) (v : Nat)
  /-- COMP_PIPE_CLEAR (R325). -/
  | compPipeClear (p : Nat) (v : Nat)
  /-- COMP_DSI_CMD (R324). -/
  | compDsiCmd (v : Nat)
  /-- LINK_RETRAIN (R324). -/
  | linkRetrain (p : Nat) (up : Bool)
  /-- EDP_HPD (R523). -/
  | edpHpd (kind : Nat) (up : Bool)
  /-- BAR2_READ (R328). -/
  | bar2Read (off : Nat) (len : Nat)
  /-- BAR2_WRITE (R328). -/
  | bar2Write (off : Nat) (data : List Byte) (poison : Bool)
  /-- REGISTER_WRITE (R9). -/
  | registerWrite (off : Nat) (data : List Byte)
  /-- PAIR_LO_READ (R13). -/
  | pairLoRead (b : BarRead)
  /-- DB_WPTR_WRITE (R338). -/
  | dbWptrWrite (ring : Nat) (v : Nat)
  /-- DB_CQ_RPTR_WRITE (R338). -/
  | dbCqRptrWrite (ring : Nat) (v : Nat)
  /-- RING_ENTRY_FETCH (R346). -/
  | ringEntryFetch (ring : Nat)
  /-- FE_KQ_WPTR_WRITE (R338). -/
  | feKqWptrWrite (v : Nat)
  /-- FE_KQ_CQ_RPTR_WRITE (R338). -/
  | feKqCqRptrWrite (v : Nat)
  /-- FE_KQ_ENABLE (R358). -/
  | feKqEnable (v : Nat)
  /-- COMMAND_DISPATCH (R346). -/
  | commandDispatch (ring : Nat)
  /-- COMMAND_COMPLETE (R346). -/
  | commandComplete (ring : Nat) (index : Nat)
  /-- CQ_RECORD_DRAIN (R349). -/
  | cqRecordDrain (queue : Nat)
  /-- FE_REF_ADD (R353). -/
  | feRefAdd (obj : Nat) (n : Nat)
  /-- FE_REF_DROP (R353). -/
  | feRefDrop (obj : Nat) (n : Nat)
  /-- FE_FENCE_SIG (R350). -/
  | feFenceSig (v : Nat)
  /-- FE_COUNT_CLEAR (R358). -/
  | feCountClear (v : Nat)
  /-- FE_NOP (R343). -/
  | feNop (ring : Nat)
  /-- COMMAND_TIMEOUT (R372). -/
  | commandTimeout (ring : Nat) (index : Nat)
  /-- WAIT_TIMEOUT (R373). -/
  | waitTimeout (ring : Nat)
  /-- DRAIN_LIMIT_EXPIRY (R372). -/
  | drainLimitExpiry (cls : Nat) (q : Nat) (i : Nat)
  /-- INSTANCE_RESET_DONE (R372). -/
  | instanceResetDone (cls : Nat) (q : Nat) (i : Nat)
  /-- FE_SCHED_CLEAR (R377). -/
  | feSchedClear (v : Nat)
  /-- PTW_WALK (R385). -/
  | ptwWalk (cls : Nat) (q : Nat) (i : Nat) (ctx : Nat) (va : Nat) (access : Nat)
  /-- MMU_REPLAY (R392). -/
  | mmuReplay (b : Nat)
  /-- MMU_FAULT_RPTR_WRITE (R393). -/
  | mmuFaultRptrWrite (v : Nat)
  /-- MMU_FAULT_ENABLE (R399). -/
  | mmuFaultEnable (v : Nat)
  /-- MMU_BATCH_CFG_WRITE (R391). -/
  | mmuBatchCfgWrite (v : Nat)
  /-- MMU_COUNT_CLEAR (R399). -/
  | mmuCountClear (v : Nat)
  /-- HOST_READ_COMPLETION (R381). -/
  | hostReadCompletion (data : List Byte) (bad : Bool)
  /-- SCRUB_SECTOR (R426). -/
  | scrubSector (q : Nat) (e : SectorErr)
  /-- CWS_SCRUB (R434). -/
  | cwsScrub (fixes : Nat) (split : Bool)
  /-- SPINE_UE (R437). -/
  | spineUe (kind : Nat) (cls : Nat) (i : Nat) (loc : Nat) (syn : Nat)
  /-- OX_CORE_FAULT (R30). -/
  | oxCoreFault (core : Nat)
  /-- ERR_LOG_FREE (R427). -/
  | errLogFree (k : Nat) (e : Nat) (v : Nat)
  /-- ERR_CLEAR (R442). -/
  | errClear (k : Nat) (v : Nat)
  /-- HOLDOFF_EXPIRY (R452). -/
  | holdoffExpiry (g : Nat)
  /-- ICU_EOI (R450). -/
  | icuEoi (t : Nat) (src : Nat) (ox : Bool)
  /-- ICU_TARGET_RESET (R451). -/
  | icuTargetReset (t : Nat) (v : Nat) (ox : Bool)
  /-- IC_SW_RAISE (R457). -/
  | icSwRaise (v : Nat)
  /-- IC_STATUS_CLEAR (R458). -/
  | icStatusClear (v : Nat)
  /-- MSIX_TABLE_WRITE (R447). -/
  | msixTableWrite (off : Nat) (v : Nat)
  /-- WAKE_EVENT (R465). -/
  | wakeEvent (src : Option Nat)
  /-- WAKE_COMPLETE (R466). -/
  | wakeComplete (keepBad : Bool) (links : Nat)
  /-- IDLEQ_ENTRY (R460). -/
  | idleqEntry (q : Nat)
  /-- GOVERNOR_STEP (R473). -/
  | governorStep (est : Nat)
  /-- THROTTLE_DOWN (R474). -/
  | throttleDown (q : Nat) (temps : List Int)
  /-- THROTTLE_UP (R474). -/
  | throttleUp (q : Nat) (temps : List Int)
  /-- THERMAL_SHUTDOWN (R475). -/
  | thermalShutdown (temp : Int)
  /-- DRAM_OVERTEMP (R530). -/
  | dramOvertemp (temp : Int)
  /-- AVS_REQUEST_DONE (R470). -/
  | avsRequestDone (rail : Nat)
  /-- AVS_RETRY (R470). -/
  | avsRetry (rail : Nat) (readback : Option Nat)
  /-- PWR_WARN_N_CHANGE (R476). -/
  | pwrWarnNChange (level : Bool)
  /-- PWR_KEEP_BASE_WRITE (R464). -/
  | pwrKeepBaseWrite (v : Nat)
  /-- PWR_COUNT_CLEAR (R480). -/
  | pwrCountClear (v : Nat)
  /-- CLOCK_SWITCH_DONE (R469). -/
  | clockSwitchDone (q : Nat)
  /-- DRAM_RATE_SWITCH_DONE (R477). -/
  | dramRateSwitchDone (q : Nat)
  /-- UPD_BLOCK_GO (R486). -/
  | updBlockGo (v : Nat)
  /-- UPD_BLOCK_DONE (R488). -/
  | updBlockDone (misses : Nat)
  /-- SET_TRIAL (R490). -/
  | setTrial (tries : Nat) (ok : Bool)
  /-- CANCEL (R490). -/
  | cancel (ok : Bool)
  /-- CONFIRM (R490). -/
  | confirm (ok : Bool)
  /-- HANDOVER (R491). -/
  | handover (part : Nat)
  /-- QUARTER_LEAVE (R494). -/
  | quarterLeave (q : Nat)
  /-- QUARTER_DRAIN_DONE (R494). -/
  | quarterDrainDone (q : Nat) (me : Nat) (sne : Nat) (sc : Nat)
  /-- QUARTER_REJOIN (R494). -/
  | quarterRejoin (q : Nat)
  /-- READ_CERT (R490). -/
  | readCert (which : Nat)
  /-- UPD_COUNT_CLEAR (R502). -/
  | updCountClear (v : Nat)
  /-- UPD_MAILBOX_WRITE (R486). -/
  | updMailboxWrite (off : Nat) (data : List Byte)
  /-- OBS_SNAP (R505). -/
  | obsSnap (v : Nat)
  /-- OBS_CNT_CLEAR (R504). -/
  | obsCntClear (v : Nat)
  /-- OBS_DROP_CLEAR (R515). -/
  | obsDropClear (v : Nat)
  /-- OBS_DRAIN_RPTR_WRITE (R513). -/
  | obsDrainRptrWrite (v : Nat)
  /-- READY_TIMEOUT (R56). -/
  | readyTimeout
  /-- SYS_RST_N_ASSERT (R523). -/
  | sysRstNAssert
  /-- PWR_FAIL_N_LOW (R478). -/
  | pwrFailNLow
  /-- PERST_N_ASSERT (R524). -/
  | perstNAssert
  /-- FUNCTION_LEVEL_RESET (R330). -/
  | functionLevelReset
  /-- TOK_COMMAND (R192). -/
  | tokCommand
  /-- SEQ_ATTACH (R203). -/
  | seqAttach
  /-- SEQ_DETACH (R206). -/
  | seqDetach
  /-- TIL_RENDER (R281). -/
  | tilRender
  /-- TIL_TRIANGLE (R286). -/
  | tilTriangle
  /-- TIL_BINNING_DONE (R284). -/
  | tilBinningDone
  /-- TILE_HANDOUT (R290). -/
  | tileHandout
  /-- COMP_PRESENT (R308). -/
  | compPresent
  /-- DSI_PACKET_SENT (R324). -/
  | dsiPacketSent
  /-- DOORBELL_BATCH_CLOSE (R340). -/
  | doorbellBatchClose
  /-- KQ_ENTRY_FETCH (R335). -/
  | kqEntryFetch
  /-- CTX_CREATE (R396). -/
  | ctxCreate
  /-- CTX_KILL (R357). -/
  | ctxKill
  /-- CTX_RELEASE (R333). -/
  | ctxRelease
  /-- RING_INIT (R357). -/
  | ringInit
  /-- RING_UNBIND (R357). -/
  | ringUnbind
  /-- FENCE_INIT (R357). -/
  | fenceInit
  /-- INVALIDATE (R397). -/
  | invalidate
  /-- INVALIDATE_COMPLETE (R397). -/
  | invalidateComplete
  /-- CTX_SET_ROOT (R396). -/
  | ctxSetRoot
  /-- FAULT_BATCH_HOLDOFF (R391). -/
  | faultBatchHoldoff
  /-- FAULT_BATCH_WRITE (R393). -/
  | faultBatchWrite
  /-- COMPLETION_TIMEOUT (R381). -/
  | completionTimeout
  /-- TOKEN_PARITY_ERROR (R435). -/
  | tokenParityError
  /-- CREDIT_PARITY_ERROR (R435). -/
  | creditParityError
  /-- ICU_DELIVERY (R448). -/
  | icuDelivery
  /-- PWR_REQ_REST (R463). -/
  | pwrReqRest
  /-- PWR_REQ_HOLD (R463). -/
  | pwrReqHold
  /-- POWER_ENTRY_DONE (R463). -/
  | powerEntryDone
  /-- DROOP_DETECT (R476). -/
  | droopDetect
  /-- DROOP_HOLD_EXPIRY (R476). -/
  | droopHoldExpiry
  /-- SHED_S2_ENTRY (R477). -/
  | shedS2Entry
  /-- SHED_S3_ENTRY (R477). -/
  | shedS3Entry
  /-- SHED_S4_ENTRY (R477). -/
  | shedS4Entry
  /-- SHED_RECOVERY (R478). -/
  | shedRecovery
  /-- KEEP_COPY_DONE (R464). -/
  | keepCopyDone
  /-- HANDOVER_PREPARED (R491). -/
  | handoverPrepared
  /-- HANDOVER_WINDOW_TIMEOUT (R491). -/
  | handoverWindowTimeout
  /-- SPINE_HANDOVER (R492). -/
  | spineHandover
  /-- SPINE_HANDOVER_SWITCH (R492). -/
  | spineHandoverSwitch
  /-- ATTEST (R500). -/
  | attest
deriving DecidableEq, Repr

end Sys2Proof
end

