-- ==== Sys2Proof/Decode.lean ====
section
/-! DEFINITION. Words of commands. The table of this block gives its rows no bits: no word spells a command. -/

namespace Sys2Proof

/-- The command that a word of `nbits` bits spells by the table's bits: none, since no row of the table gives bits. -/
def decodeTableWord (_nbits _w : Nat) : Option Instr := none

end Sys2Proof
end

