-- ==== Sys2Proof/Config.lean ====
section
/-! DEFINITION. What the spec leaves open: free values, which nothing in Lean can evaluate. -/

namespace Sys2Proof.Config

/-- A fresh open bit vector, drawn at a place in the state's count of open values
(`freeCount`): undefined registers and local memory at a block's start (R254), outputs of a command
whose output overlaps its input (R190, R344, R405), content of a sector after an erase that failed (R488). -/
opaque freeValue : Nat → BitVec 64

/-- Whether an upset strikes a stored bit in the TBCLK period at this place in the count of open values (R420, R424), and where: error table, SOURCE and
LOC as R442 gives them, whether it leaves two wrong bits, and the syndrome. -/
opaque freeUpset : Nat → Option (Nat × Nat × Nat × Bool × Nat)

/-- How much of a span of clock periods an event of R507 took whose course in time the spec does not give (stalls for operands and credits, issue of
the schedulers, bank waits, queued DRAM requests, walks): event code, unit, and place in time or in the count of open values. Only its
remainder within the span is used. -/
opaque periods : Nat → Nat → Nat → Nat

/-- The proposed result of a shader function that the spec bounds but does not fix (R267): function
number and operand bits. A proposal outside the bound is not used. -/
opaque freeMath : Nat → BitVec 32 → BitVec 32

/-- The error word of a two-product whose exact error has bits below the smallest subnormal, which R152 leaves open: format, operands. -/
opaque freeError : Nat → BitVec 32 → BitVec 32 → BitVec 32

/-- The proposed FP32 value of a distance that the ray traversal unit computes (R302), whose rounding the spec does not state: what it is
(0 a triangle's distance, 1 a box's entry, 2 a box's exit) and the words it comes from. Only a neighbour of the exact value is used. -/
opaque freeRay : Nat → List (BitVec 32) → BitVec 32

/-- Where in the keep area or the stage area a part lies (R464, R491), which the spec does not say. -/
opaque areaPlace : Nat → Nat

/-- What firmware writes into the keep area or the stage area beside the parts (R463, R492, R494: the spine tables, a hand-over block), whose layout the
spec does not give: at each place in the count of open values. -/
opaque areaBlock : Nat → List Byte

/-- The 32 bytes of the device's own randomness that its ML-DSA-65 signature over a digest takes in (R500), byte by byte: FIPS 204 leaves a signer free
to take random bytes or zeros, and the spec does not say (log 135). -/
opaque signNoise : List Byte → Nat → Byte

/-- The version of the boot ROM that an attestation report names (R500). -/
opaque romVersion : BitVec 16

/-- The grade bit that a TRIMS record carries (R332), whose place in Merhar's format the spec does not give: from the record's bytes. -/
opaque trimsGrade : List Byte → Bool

/-- Bytes of the save memory in use (PWR_SAVE_USED, R467), which the spec does not count: at each time of PHE_TB. -/
opaque saveUsed : Nat → BitVec 17

/-- The register, as its place in R467's table, to which a byte of the AO save memory belongs: the spec gives no layout (log 169). -/
opaque savedAt : Nat → Nat

end Sys2Proof.Config
end

