-- ==== Sys2Proof/Machine/Act.lean ====
section
/-! DEFINITION. The activation functions of R188, evaluated in fixed point with 256 fraction bits (far beyond the L16 rounding that
follows), and the integer square root. UNVERIFIED (log 44): no L16 input's
result lies within 2^-100 of a rounding boundary. -/

namespace Sys2Proof.Machine

/-- Fraction bits of the evaluation. -/
def fxBits : Nat := 256
/-- One. -/
def fxOne : Nat := 2 ^ fxBits

/-- Newton steps of the integer square root. -/
def isqrtLoop (n : Nat) : Nat → Nat → Nat
  | 0, x => x
  | k + 1, x => let y := (x + n / x) / 2
    if y < x then isqrtLoop n k y else x

/-- The integer square root. -/
def isqrt (n : Nat) : Nat := if n = 0 then 0 else isqrtLoop n (Nat.log2 n + 8) (2 ^ (Nat.log2 n / 2 + 1))

/-- Terms of the exponential series of a small negative argument: `t` the present term, `i` its number. -/
def expSeries (x : Nat) : Nat → Nat → Int → Int → Int
  | 0, _, _, s => s
  | k + 1, i, t, s =>
    let t := -(t * (x : Int)) / ((fxOne * i : Nat) : Int)
    expSeries x k (i + 1) t (s + t)

/-- e^(-x) for a fixed-point x at or above 0: at least one unit, so that it is never taken for zero. -/
def fxExpNeg (x : Nat) : Nat :=
  if 110 * fxOne < x then 1 else
  let s := expSeries (x / 2048) 40 1 (fxOne : Int) (fxOne : Int)
  Nat.max 1 (iter (fun v => v * v / fxOne) 11 s.toNat)

/-- 1 / (1 + e^(-y)) of a fixed-point y. -/
def fxSigmoid (y : Int) : Nat :=
  let e := fxExpNeg y.natAbs
  if 0 ≤ y then fxOne * fxOne / (fxOne + e) else Nat.max 1 (fxOne * e / (fxOne + e))

/-- Terms of arctan(1/q): signs alternate. -/
def arctanSeries (q : Nat) : Nat → Nat → Nat → Int → Int
  | 0, _, _, s => s
  | k + 1, i, p, s =>
    let t : Int := ((p / (2 * i + 1) : Nat) : Int)
    arctanSeries q k (i + 1) (p / (q * q)) (if i % 2 = 0 then s + t else s - t)

/-- Pi in fixed point: 16 arctan(1/5) - 4 arctan(1/239). -/
def fxPi : Nat :=
  (16 * arctanSeries 5 60 0 (fxOne / 5) 0 - 4 * arctanSeries 239 20 0 (fxOne / 239) 0).toNat

/-- Terms of the normal distribution's odd series; `t` carries x^(2i+1) / (i! 2^i) with its sign. -/
def phiSeries (x2 : Nat) : Nat → Nat → Int → Int → Int
  | 0, _, _, s => s
  | k + 1, i, t, s =>
    phiSeries x2 k (i + 1) (-(t * (x2 : Int)) / ((fxOne * 2 * (i + 1) : Nat) : Int)) (s + t / ((2 * i + 1 : Nat) : Int))

/-- (1 + erf(x / sqrt 2)) / 2 of a fixed-point x; one unit at least. -/
def fxPhi (x : Int) : Nat :=
  if 14 * (fxOne : Int) < x then fxOne - 1
  else if x < -14 * (fxOne : Int) then 1
  else
    let x2 := x.natAbs * x.natAbs / fxOne
    let s := phiSeries x2 420 0 x 0
    let root := isqrt (2 * fxPi * fxOne)
    let v := (fxOne / 2 : Nat) + s * (fxOne : Int) / (root : Int)
    Nat.max 1 v.toNat

/-- An exact value in fixed point, towards minus infinity. -/
def toFx (x : Ex) : Int := (x.scale fxBits).floor

/-- A fixed-point value as a quotient. -/
def ofFx (v : Nat) : Ex := ⟨(v : Int), fxOne⟩

/-- The real function of an ACT code at a table value (R188). -/
def actValue (func : Nat) (x : Ex) : Ex :=
  -- beyond 2^10 in magnitude the exponential is far below any result's rounding
  let y := if (Ex.ofInt 1024).lt x then Ex.ofInt 1024 else if x.lt (Ex.ofInt (-1024)) then Ex.ofInt (-1024) else x
  if func = 0 then ofFx (fxSigmoid (toFx y))
  else if func = 1 then x.mul (ofFx (fxSigmoid (toFx y)))
  else if func = 2 then x.mul (ofFx (fxPhi (toFx y)))
  else
    let cube := (y.mul (y.mul y)).mul ⟨44715, 1000000⟩
    let u := toFx (y.add cube)
    let root := isqrt (2 * fxOne * fxOne * fxOne / fxPi)
    x.mul (ofFx (fxSigmoid (2 * u * (root : Int) / (fxOne : Int))))

/-- ACT of an operand: the L16 code (R188). -/
def actCode (func : Nat) (x : LEl) : Nat :=
  match x.value with
  | none => lNar 2
  | some v => if v.isZero then (if func = 0 then 0x3F00 else 0) else (roundL 2 (actValue func v)).code

end Sys2Proof.Machine
end

