-- ==== Sys2Proof/Machine/Fp.lean ====
section
/-! DEFINITION. IEEE 754-2019 arithmetic of the shader cores on exact values (R154, R266), the functions of R267 with their bounds, and the
conversions of R271. Functions are evaluated in fixed point with 256 fraction bits. UNVERIFIED (log 45): no operand's exact result
lies within the evaluation's error of a rounding boundary. -/

namespace Sys2Proof.Machine

/-- The code of a value, rounded to nearest even; every NaN is canonical. An exact zero here is +0. -/
def fEncode (fmt : Nat) : FVal → Nat
  | .nan => fNan fmt
  | .inf s => fSign fmt s + fInf fmt
  | .zero s => fSign fmt s
  | .fin v => fRound fmt false v

/-- Sign of a value. -/
def FVal.neg : FVal → FVal
  | .nan => .nan
  | .inf s => .inf (!s)
  | .zero s => .zero (!s)
  | .fin v => .fin v.neg

/-- Absolute value. -/
def FVal.abs : FVal → FVal
  | .nan => .nan
  | .inf _ => .inf false
  | .zero _ => .zero false
  | .fin v => .fin v.abs

/-- Whether the sign bit is set. -/
def FVal.sgn : FVal → Bool
  | .nan => false
  | .inf s => s
  | .zero s => s
  | .fin v => v.isNeg

/-- Exact sum; a sum of opposite equal values is +0. -/
def FVal.add : FVal → FVal → FVal
  | .nan, _ => .nan
  | _, .nan => .nan
  | .inf s, .inf t => if s = t then .inf s else .nan
  | .inf s, _ => .inf s
  | _, .inf t => .inf t
  | .zero s, .zero t => .zero (s && t)
  | .zero _, y => y
  | x, .zero _ => x
  | .fin a, .fin b => let s := a.add b; if s.isZero then .zero false else .fin s

/-- Exact product. -/
def FVal.mul (x y : FVal) : FVal :=
  let s := x.sgn != y.sgn
  match x, y with
  | .nan, _ => .nan
  | _, .nan => .nan
  | .inf _, .zero _ => .nan
  | .zero _, .inf _ => .nan
  | .inf _, _ => .inf s
  | _, .inf _ => .inf s
  | .zero _, _ => .zero s
  | _, .zero _ => .zero s
  | .fin a, .fin b => .fin (a.mul b)

/-- Whether `x` is below `y`; zeros are equal, a NaN is never below. -/
def FVal.lt : FVal → FVal → Bool
  | .nan, _ => false
  | _, .nan => false
  | .inf true, .inf true => false
  | .inf true, _ => true
  | .inf false, _ => false
  | _, .inf t => !t
  | .zero _, .zero _ => false
  | .zero _, .fin b => !b.isNeg
  | .fin a, .zero _ => a.isNeg
  | .fin a, .fin b => a.lt b

/-- Whether a value is NaN. -/
def FVal.isNan (x : FVal) : Bool := x == .nan

/-- minimumNumber (R266). -/
def FVal.min (x y : FVal) : FVal :=
  if x.isNan then y else if y.isNan then x else if x.lt y then x else if y.lt x then y else if x.sgn then x else y

/-- maximumNumber (R266). -/
def FVal.max (x y : FVal) : FVal :=
  if x.isNan then y else if y.isNan then x else if x.lt y then y else if y.lt x then x else if x.sgn then y else x

/-- A comparison code on values: 0 EQ, 1 NE, 2 LT, 3 LE, 4 GT, 5 GE. A NaN makes every one false except NE. -/
def FVal.cmp (code : Nat) (x y : FVal) : Bool :=
  if x.isNan || y.isNan then code == 1 else
  let lt := x.lt y
  let gt := y.lt x
  if code = 0 then !lt && !gt else if code = 1 then lt || gt else if code = 2 then lt else if code = 3 then !gt
  else if code = 4 then gt else !lt

/-- 1 / x as IEEE division. -/
def FVal.recip : FVal → FVal
  | .nan => .nan
  | .inf s => .zero s
  | .zero s => .inf s
  | .fin v => .fin ((Ex.ofInt 1).div v)

/-! ### Roots, exponential, logarithm, sine (R267) -/

/-- The square root of n/d with enough bits, and one more that tells whether it is inexact. -/
def sqrtEx (v : Ex) : Ex :=
  let n := v.n.natAbs * v.d * 2 ^ 512
  let s := isqrt n
  ⟨((2 * s + b2n (s * s != n) : Nat) : Int), 2 * v.d * 2 ^ 256⟩

/-- The reciprocal square root of n/d, in the same way. -/
def rsqrtEx (v : Ex) : Ex :=
  let n := v.n.natAbs * v.d * 2 ^ 512
  let s := isqrt n
  ⟨((2 * s + b2n (s * s != n) : Nat) : Int), 2 * v.n.natAbs * 2 ^ 256⟩

/-- Terms of artanh: `p` the present odd power. -/
def artanhSeries (z2 : Nat) : Nat → Nat → Nat → Nat → Nat
  | 0, _, _, s => s
  | k + 1, i, p, s => artanhSeries z2 k (i + 1) (p * z2 / fxOne) (s + p / (2 * i + 1))

/-- artanh of a fixed-point z up to 1/3. -/
def fxArtanh (z : Nat) : Nat := artanhSeries (z * z / fxOne) 90 0 z 0

/-- ln 2. -/
def fxLn2 : Nat := 2 * fxArtanh (fxOne / 3)

/-- 2 to the power of an exact value between -200 and 200. -/
def exp2Ex (v : Ex) : Ex :=
  let e := v.floor
  let r := toFx (v.sub (Ex.ofInt e))
  if r = 0 then (Ex.ofInt 1).scale e
  else (ofFx (fxExpNeg ((fxOne - r.toNat) * fxLn2 / fxOne))).scale (e + 1)

/-- The base-2 logarithm of a positive exact value. -/
def log2Ex (v : Ex) : Ex :=
  let e := v.log2
  let m := v.scale (-e)
  let z := (toFx ((m.sub (Ex.ofInt 1)).div (m.add (Ex.ofInt 1)))).toNat
  (Ex.ofInt e).add ⟨((2 * fxArtanh z : Nat) : Int), fxLn2⟩

/-- Terms of the sine (from i = 1) and cosine (from i = 0) series. -/
def trigSeries (x2 : Nat) : Nat → Nat → Int → Int → Int
  | 0, _, _, s => s
  | k + 1, i, t, s =>
    let t := -(t * (x2 : Int)) / ((fxOne * (i + 1) * (i + 2) : Nat) : Int)
    trigSeries x2 k (i + 2) t (s + t)

/-- sin(2 pi v), or cos with `cosine`; quarter turns are exact. -/
def trigEx (cosine : Bool) (v : Ex) : Ex :=
  let r := v.sub (Ex.ofInt v.floor)
  let q := r.scale 2
  if q.n % (q.d : Int) = 0 then
    let k := q.floor
    let k := if cosine then (k + 1) % 4 else k
    Ex.ofInt (if k = 1 then 1 else if k = 3 then -1 else 0)
  else
    let r := if (Ex.lt ⟨1, 2⟩ r) then r.sub (Ex.ofInt 1) else r
    let x := toFx r * ((2 * fxPi : Nat) : Int) / (fxOne : Int)
    let x2 := x.natAbs * x.natAbs / fxOne
    let s := if cosine then trigSeries x2 70 0 (fxOne : Int) (fxOne : Int) else trigSeries x2 70 1 x x
    ⟨s, fxOne⟩

/-- The value of an encoded result, when finite. -/
def finOf (fmt code : Nat) : Option Ex :=
  match fDecode fmt code with
  | .fin v => some v
  | .zero _ => some Ex.zero
  | _ => none

/-- The unit in the last place of FP32 at an exact value. -/
def ulp32 (v : Ex) : Ex :=
  let e := if v.isZero then -126 else v.abs.log2
  (Ex.ofInt 1).scale ((if e < -126 then -126 else e) - 23)

/-- A result of R267 that the spec bounds: FP16 and BF16 are rounded correctly; in FP32 the proposal of `Config.freeMath` where it
lies within the bound, and the correctly rounded value where it does not. -/
def boundedResult (fmt fn code : Nat) (bound exact : Ex) : Nat :=
  let rounded := fRound fmt (bit (Config.freeMath (fn + 16) (BitVec.ofNat 32 code)).toNat 31) exact
  if fmt ≠ 7 then rounded else
  let p := (Config.freeMath fn (BitVec.ofNat 32 code)).toNat
  match finOf 7 p with
  | some v => if ((v.sub exact).abs).le bound then p else rounded
  | none => rounded

/-- A function of R267 on a code: 0 FRCP, 1 FRSQ, 2 FSQRT, 3 FEX2, 4 FLG2, 5 FSIN, 6 FCOS. -/
def fpFunction (fn fmt : Nat) (x : FVal) : Nat :=
  let code := fEncode fmt x
  if fn = 0 then fEncode fmt x.recip
  else if fn = 1 then
    match x with
    | .nan => fNan fmt
    | .inf s => if s then fNan fmt else 0
    | .zero s => fSign fmt s + fInf fmt
    | .fin v => if v.isNeg then fNan fmt else let e := rsqrtEx v; boundedResult fmt 1 code (ulp32 e) e
  else if fn = 2 then
    match x with
    | .inf true => fNan fmt
    | .fin v => if v.isNeg then fNan fmt else fRound fmt false (sqrtEx v)
    | _ => code
  else if fn = 3 then
    match x with
    | .nan => fNan fmt
    | .inf s => if s then 0 else fInf fmt
    | .zero _ => boundedResult fmt 3 code ((ulp32 (Ex.ofInt 1)).scale 1) (Ex.ofInt 1)
    | .fin v =>
      let w := if (Ex.ofInt 200).lt v then Ex.ofInt 200 else if v.lt (Ex.ofInt (-200)) then Ex.ofInt (-200) else v
      let e := exp2Ex w
      boundedResult fmt 3 code ((ulp32 e).scale 1) e
  else if fn = 4 then
    match x with
    | .nan => fNan fmt
    | .inf s => if s then fNan fmt else fInf fmt
    | .zero _ => fSign fmt true + fInf fmt
    | .fin v => if v.isNeg then fNan fmt else let e := log2Ex v; boundedResult fmt 4 code ((ulp32 e).scale 1) e
  else
    let one := fEncode fmt (.fin (Ex.ofInt 1))
    match x with
    | .nan => fNan fmt
    | .inf _ => fNan fmt
    | .zero _ => if fn = 5 then 0 else one
    | .fin v =>
      if v.n % (v.d : Int) = 0 then (if fn = 5 then 0 else one)
      else boundedResult fmt fn code ((Ex.ofInt 1).scale (-22)) (trigEx (fn == 6) v)

/-! ### Compensated results (R152, R268) -/

/-- RNE(x + y) and its error. -/
def twoSum (fmt : Nat) (x y : FVal) : Nat × Nat :=
  let s := fEncode fmt (x.add y)
  match finOf fmt s with
  | none => (s, 0)
  | some v => (s, fEncode fmt ((x.add y).add (.fin v.neg)))

/-- Whether a value has an exact code. -/
def fExact (fmt : Nat) (v : Ex) : Bool :=
  match finOf fmt (fRound fmt false v) with
  | some w => w.eq v
  | none => false

/-- RNE(x y) and its error; an error with bits below the smallest subnormal is open. -/
def twoProd (fmt a b : Nat) (x y : FVal) : Nat × Nat :=
  let p := fEncode fmt (x.mul y)
  match finOf fmt p, x.mul y with
  | none, _ => (p, 0)
  | some v, .fin w =>
    let e := w.sub v
    (p, if fExact fmt e then fRound fmt false e
        else (Config.freeError fmt (BitVec.ofNat 32 a) (BitVec.ofNat 32 b)).toNat % 2 ^ (fMan fmt + fExp fmt + 1))
  | some _, _ => (p, 0)

/-! ### Conversions (R270, R271) -/

/-- The exact value that a source of CVT stands for: 0 S32, 1 U32, 2 FP32, 3 FP16, 4 BF16, 5 L16, 6 L8, 7 E4M3, 8 E5M2. -/
def cvtSource (f x : Nat) : FVal :=
  let ofL : LEl → FVal := fun l => match l.value with
    | none => .nan
    | some v => if v.isZero then .zero false else .fin v
  let ofI : Int → FVal := fun i => if i = 0 then .zero false else .fin (Ex.ofInt i)
  if f = 0 then ofI (toSigned 32 x)
  else if f = 1 then ofI ((x % 2 ^ 32 : Nat) : Int)
  else if f = 5 then ofL (lDecode 2 x)
  else if f = 6 then ofL (lDecode 1 x)
  else fDecode (if f = 2 then 7 else if f = 3 then 5 else if f = 4 then 6 else if f = 7 then 3 else 4) x

/-- Whether a rounding mode moves a value of a sign away from zero, towards it, or to nearest: the mode of `fRoundMag`. -/
def magMode (mode : Nat) (neg : Bool) : Nat :=
  if mode = 0 then 0 else if mode = 1 then 1 else if (mode = 2) = (neg = false) then 2 else 1

/-- Rounding to an integer in a mode. -/
def roundInt (mode : Nat) (v : Ex) : Int :=
  let a := v.abs
  let i := a.floor
  let rem := a.sub (Ex.ofInt i)
  let half : Ex := ⟨1, 2⟩
  let k := magMode mode v.isNeg
  let up := if k = 0 then half.lt rem || (half.eq rem && i % 2 == 1) else if k = 1 then false else !rem.isZero
  let r := if up then i + 1 else i
  if v.isNeg then -r else r

/-- The code of a value in a destination format of CVT. -/
def cvtDest (f mode : Nat) (x : FVal) : Nat :=
  if f ≤ 1 then
    let lo : Int := if f = 0 then -(2 ^ 31) else 0
    let hi : Int := if f = 0 then 2 ^ 31 - 1 else 2 ^ 32 - 1
    match x with
    | .nan => 0
    | .inf s => ofSigned 32 (if s then lo else hi)
    | .zero _ => 0
    | .fin v => let i := roundInt mode v; ofSigned 32 (if i < lo then lo else if hi < i then hi else i)
  else if f = 5 ∨ f = 6 then
    let l := 7 - f
    match x with
    | .nan => lNar l
    | .inf s => b2n s * 2 ^ lMag l + 2 ^ lMag l - 1
    | .zero _ => 0
    | .fin v => (roundL l v).code
  else
    let fmt := if f = 2 then 7 else if f = 3 then 5 else if f = 4 then 6 else if f = 7 then 3 else 4
    let top := if f = 7 then 0x7E else fInf fmt - 1
    match x with
    | .nan => if f ≤ 4 then fNan fmt else 0x7F
    | .inf s => fSign fmt s + (if f = 7 then 0x7E else fInf fmt)
    | .zero s => fSign fmt s
    | .fin v =>
      let k := magMode mode v.isNeg
      let c := fRoundMag fmt k v.abs
      fSign fmt v.isNeg + (if top < c then (if f = 7 ∨ k = 1 then top else fInf fmt) else c)

end Sys2Proof.Machine
end

