-- ==== Sys2Proof/Machine/TypesUnits.lean ====
section
/-! DEFINITION. State of the engines: matrix tiles, step sequencers, shader cores, tile graphics, composition,
pack and check-value units, field update. -/

namespace Sys2Proof.Machine

/-! ### Matrix engines (R161, R162) -/

/-- 32 elements of one operand, as they multiply, with the scale of their block. -/
structure Blk where
  els : List LEl
  e : Int
  nan : Bool
deriving DecidableEq, Repr, Inhabited

/-- What an ME holds (R162): the descriptor as it was read, the accumulators (the LA160 of its tile's rows), the two halves of the weight and of the
activation buffer (the columns and rows of a k-block, with the scales that the parameter registers hold beside them), the expansion tables
and zero points in those registers, what its inputs showed, and how far its results are written: 0 formed, 1 its range counted as the last of a split
reduction, 2 the ranges added, 3 output written, 4 status merged, 5 side word merged. `part` tells that the
range was not the last of a split reduction. -/
structure MeTile where
  desc : List Byte
  acc : List (List Acc)
  wts : List (List (List Blk))
  acts : List (List (List Blk))
  par : List Byte
  inFlush : Bool
  inSat : Bool
  poison : Bool
  stage : Nat
  part : Bool
deriving DecidableEq, Repr, Inhabited

/-! ### Step sequencer (R203 to R226) -/

/-- What SEQ keeps of a sequence that has joined: its place in the table, home quarter, page lists and how many pages of each layer it has in
models 0 and 1, shadow index, drafts that are ready, last emitted token. -/
structure SeqRec where
  idx : Nat
  home : Nat
  pagesAddr : Nat
  maxLen : Nat
  pages0 : Nat
  pages1 : Nat
  shadow : Option Nat
  drafts : Option (List Nat)
  last : Nat
deriving DecidableEq, Repr, Inhabited

/-- A sequence's part in the step under way: its table entry as the build read it, group, rows, LENGTH at build, drafts. -/
structure SeqPart where
  idx : Nat
  entry : List Byte
  home : Nat
  group : Nat
  rowBase : Nat
  rows : Nat
  length : Nat
  shadow : Option Nat
  drafts : List Nat
deriving DecidableEq, Repr, Inhabited

/-- A command that SEQ has still to write: ring entry, payload, the home quarter that it goes to, the shadow lists it names (slot and page
address), whether it is the cycle's first command, and its kind: 0 of the step, 1 verify, 2 KV_STORE and DRAFT after the commit, 3 draft
TOK command, 4 mark. -/
structure SeqOut where
  entry : List Byte
  payload : List PByte
  quarter : Nat
  lists : List (Nat × Nat)
  kind : Nat
deriving DecidableEq, Repr, Inhabited

/-- A command that SEQ wrote and that has not completed: ring index, payload slots, shadow-list slots. -/
structure SeqPend where
  index : Nat
  slot : Nat
  slots : Nat
  lists : List Nat
deriving DecidableEq, Repr, Inhabited

/-- A step sequencer instance. `desc` is the descriptor as read at attach from `descPa`; `state` 1 RUNNING, 2 HALTED, 3 LOST; `phase` 0 no
step in flight, 1 a step's commands are out, 2 the commands after its commit are out; `pools` free pages of model m, quarter q at
4 m + q; `recs` in the order of joining; `failed` a command failed, `failedOther` with a status other than ABANDONED and SKIPPED;
`drops` consecutive drops of that kind; `cycleStep` the next step's place in its cycle; `turn` where moved commands go next;
`signals` fences to signal when the event ends. -/
structure SeqSt where
  attached : Bool
  desc : List Byte
  descPa : Nat
  poisoned : Bool
  state : Nat
  step : Nat
  phase : Nat
  dropped : Nat
  skipped : Nat
  poolWait : Nat
  drafted : Nat
  accepted : Nat
  pools : List Nat
  recs : List SeqRec
  parts : List SeqPart
  todo : List SeqOut
  pend : List SeqPend
  nextSlot : Nat
  nextList : Nat
  turn : Nat
  failed : Bool
  failedOther : Bool
  drops : Nat
  cycleStep : Nat
  detaching : Bool
  pass : Nat
  draftSeqs : List (Nat × Nat × Nat)
  draftQueue : List (Nat × Nat)
  draftNow : List (Nat × Nat)
  signals : List Nat
deriving DecidableEq, Repr, Inhabited

/-! ### Shader cores (R234 to R258) -/

/-- A register word as written: value, poison mark, and that it was written at all; a word never written is zero or left over (R254). -/
structure RegVal where
  val : Nat
  marked : Bool
  written : Bool
deriving DecidableEq, Repr, Inhabited

/-- A thread of TRACE that waits for the RTU: lane, ray words, poison of its operands, root address, query, destination, address of the
instruction. -/
structure RayReq where
  lane : Nat
  ray : List Nat
  marked : Bool
  root : Nat
  query : Nat
  dst : Nat
  pc : Nat
deriving DecidableEq, Repr, Inhabited

/-- A resident group. `kind` 0 compute, 1 vertex, 2 fragment; `blk` its block on the core; `block` the linear block index; `no` its number
in the block; `vregs` at register × 32 + lane, with `base` the first open choice of its unwritten words among zero and `left`, the words that earlier
work of the context left in the core's register files; `preds` and `predMarks` a mask of lanes
for each predicate; `uni` the uniform registers; `st` of each lane: 0 eligible, 1 exited, 2 at the group barrier whose address is in `bar`,
3 + i at block barrier i; `fenced` lanes with a FENCE outstanding; `rays` lanes waiting for TRACE; `lock` of each lane: 0 before PXLOCK, 1 waiting, 2 passed, 3 unlocked; `tile`, `prim` and `pixel` name a fragment
group's tile, primitive and 8 × 4 block; `barPc` its last barrier's address; `order` its age on the core; `part` the lanes of the instruction at an address whose access is made while
others' stall (R395). -/
structure Grp where
  serial : Nat
  kind : Nat
  blk : Nat
  block : Nat
  no : Nat
  sched : Nat
  regs : Nat
  base : Nat
  left : List RegVal
  vregs : Arr RegVal
  preds : List Nat
  predMarks : List Nat
  uni : Arr RegVal
  pc : List Nat
  st : List Nat
  bar : List Nat
  fenced : Nat
  rays : List RayReq
  lock : List Nat
  tile : Nat
  prim : Nat
  pixel : Nat
  barPc : Nat
  order : Nat
  part : Arr Nat
deriving DecidableEq, Repr, Inhabited

/-- A resident block, or a tile's attachments: its place in local memory. `slot` tells that it takes a
block slot; `barNo` is the group of the last barrier issued in it. -/
structure CoreBlk where
  id : Nat
  serial : Nat
  ring : Nat
  ctx : Nat
  kind : Nat
  block : Nat
  lo : Nat
  size : Nat
  slot : Bool
  tb : Nat
  barNo : Nat
deriving DecidableEq, Repr, Inhabited

/-- The fault record of a core (R258). -/
structure ScFault where
  valid : Bool
  overflow : Nat
  ctx : Nat
  code : Nat
  pc : Nat
  block : Nat
  group : Nat
  mask : Nat
  addr : Nat
deriving DecidableEq, Repr, Inhabited

/-- A shader core. `mem` is its local memory from address 0, whose poison marks are by 32-byte sector; `left` the words that groups which have ended
left in its register files since those were last zeroed (R254, R255); `clk0` is the quarter's ACLK count at power-up. -/
structure Core where
  prevCtx : Option Nat
  blocks : List CoreBlk
  groups : List Grp
  mem : Mem
  left : List RegVal
  memPoison : Arr Bool
  nextId : Nat
  clk0 : Nat
  fault : ScFault
deriving DecidableEq, Repr, Inhabited

/-- A checked compute dispatch: its descriptor, next block and number of blocks. -/
structure Disp where
  serial : Nat
  desc : List Byte
  next : Nat
  total : Nat
deriving DecidableEq, Repr, Inhabited

/-! ### Tile graphics (R281 to R299) -/

/-- A shaded vertex: pool offset of its record, clip-space position and varyings as FP32 words, and whether any was marked. -/
structure Vtx where
  off : Nat
  words : List Nat
  marked : Bool
deriving DecidableEq, Repr, Inhabited

/-- A vertex thread that has exited and whose record is not yet placed. -/
structure VtxOut where
  draw : Nat
  elem : Nat
  words : List Nat
  marked : Bool
deriving DecidableEq, Repr, Inhabited

/-- A screen triangle: draw, facing, pool offset of its record, and for each corner the coordinates in 1/256 pixel, depth and 1/w
in FP32. -/
structure Prim where
  draw : Nat
  front : Bool
  off : Nat
  corners : List (Int × Int × Nat × Nat)
deriving DecidableEq, Repr, Inhabited

/-- A tile's list: first chunk, last chunk, entries (first the latest). -/
structure TileList where
  first : Nat
  last : Nat
  prims : List Nat
deriving DecidableEq, Repr, Inhabited

/-- A fragment group to launch: primitive index, block of the tile, coverage of its 32 pixels, the primitive as its records were read, and whether one
of those was poisoned. -/
structure FragJob where
  prim : Nat
  pixel : Nat
  cover : List Nat
  src : Prim
  marked : Bool
deriving DecidableEq, Repr, Inhabited

/-- A tile on its core, with the fragment groups still to launch. -/
structure TileAct where
  tile : Nat
  core : Nat
  blk : Nat
  jobs : List FragJob
deriving DecidableEq, Repr, Inhabited

/-- The render pass in progress. `phase` 0 vertices and binning, 1 tiles; `vDraw`, `vNext` the next vertex block; `tDraw`, `tElem` the next
triangle's first element, `tOdd` its parity in its strip; `overran` that the pool outgrew its area; `prims` the primitives
produced and `binned` how many are binned. Of these the second phase uses only where their records lie: what a tile draws it reads from the pool. -/
structure Pass where
  serial : Nat
  ring : Nat
  ctx : Nat
  desc : List Byte
  draws : List (List Byte)
  phase : Nat
  vDraw : Nat
  vNext : Nat
  exited : List VtxOut
  vtx : Arr Vtx
  tDraw : Nat
  tElem : Nat
  tOdd : Bool
  pool : Nat
  overran : Bool
  prims : List Prim
  tiles : Arr TileList
  culled : Nat
  nextTile : Nat
  active : List TileAct
  done : Nat
  skipped : Nat
  binned : Nat
deriving DecidableEq, Repr, Inhabited

/-! ### Pack engines and check-value units (R419) -/

/-- Registers of a pack engine. -/
structure PackSt where
  ctx : Nat
  illegal : Nat
  distance : Nat
  overrun : Nat
  quantCmds : Nat
deriving DecidableEq, Repr, Inhabited

/-- Registers of a check-value unit. -/
structure CvuSt where
  ctx : Nat
  preset : Nat
  value : Nat
deriving DecidableEq, Repr, Inhabited

/-! ### Composition (R306 to R325) -/

/-- A layer set: its PRESENT command, context and payload. -/
structure LayerSet where
  serial : Nat
  ctx : Nat
  desc : List Byte
deriving DecidableEq, Repr, Inhabited

/-- What a latch fixed for a frame: layer set, shift of each layer, mode (1 normal, 2 safe), whether it is re-projected, whether its
context was lost, whether a line of it was shown black because the pipe was blanked, and the regions' registers (CTRL, RECT0, RECT1, EXPECT). -/
structure Frame where
  set : Option LayerSet
  shift : List (Int × Int)
  mode : Nat
  reproj : Bool
  lost : Bool
  blanked : Bool
  regions : List (Nat × Nat × Nat × Nat)
deriving DecidableEq, Repr, Inhabited

/-- A display pipe. `taken` tells that the last decision takes the pending set, `shift` the re-projection it decided; `decision` and
`latched` are the stamps of the last decision and latch; `exitReq` a SAFE_EXIT that waits for the latch; `nextLine` the next line
to compose, `hurt` a damaged byte of the fetch buffers for that line, by layer and offset in the bytes fetched (R30); `out` the pixels of the last composed line; `sums` the CRC register and `compared` the comparison of each region in
this frame. -/
structure Pipe where
  inForce : Option LayerSet
  pending : Option LayerSet
  taken : Bool
  shift : Option (List (Int × Int))
  decision : Option Nat
  latched : Option Nat
  frame : Option Frame
  nextLine : Nat
  out : List Nat
  sums : List Nat
  compared : Nat
  safeSig : Bool
  exitReq : Bool
  ctxLost : Bool
  link : Bool
  linkTb : Nat
  late : Nat
  underrun : Nat
  poison : Nat
  fault : Nat
  hurt : Option (Nat × Nat)
deriving DecidableEq, Repr, Inhabited

/-- The compositor: pipes, region registers, the DSI command registers, the last packet sent, hot-plug level of eDP. -/
structure CompSt where
  pipes : List Pipe
  sigCtrl : List Nat
  sigRect0 : List Nat
  sigRect1 : List Nat
  sigExpect : List Nat
  sigActual : List Nat
  sigStatus : Nat
  dsiType : Nat
  dsiLen : Nat
  dsiBusy : Bool
  dsiData : List Nat
  dsiSent : List Byte
  hpd : Bool
deriving DecidableEq, Repr, Inhabited

/-- A pipe after reset (R325). -/
def Pipe.init : Pipe := { (default : Pipe) with sums := List.replicate 16 0 }

/-- The compositor after reset. -/
def CompSt.init : CompSt :=
  { pipes := [Pipe.init, Pipe.init], sigCtrl := List.replicate 16 0, sigRect0 := List.replicate 16 0, sigRect1 := List.replicate 16 0
    sigExpect := List.replicate 16 0, sigActual := List.replicate 16 0, sigStatus := 0, dsiType := 0, dsiLen := 0, dsiBusy := false
    dsiData := List.replicate 16 0, dsiSent := [], hpd := false }

end Sys2Proof.Machine
end

