-- ==== Sys2Proof/Machine/State.lean ====
section
/-! DEFINITION. The machine's state: the records in force, the device, and the queue of waiting
commands; why a step can stop; the machine right after reset. -/

namespace Sys2Proof.Machine

/-- The device: one structure per unit. `notes` is empty between steps; `freeCount` is the model's own: how many open values were drawn. -/
structure Dev where
  icu : IcuSt
  err : ErrSt
  store : List SliceSt
  mmu : MmuSt
  host : HostSt
  fe : FeSt
  sched : SchedSt
  phe : PheSt
  dlm : List DlmSt
  obs : ObsSt
  pwr : PwrSt
  clk : ClkSt
  boot : BootSt
  me : Arr MeTile
  seq : List SeqSt
  cores : List Core
  disp : List Disp
  til : Option Pass
  pack : List PackSt
  cvu : List CvuSt
  comp : CompSt
  upd : UpdSt
  notes : List Note
  freeCount : Nat
deriving DecidableEq, Repr

/-- The device held in reset by SYS_RST_N, over a boot NVM that survives resets. `freeCount` goes on. -/
def Dev.init (nvm : Mem) (freeCount : Nat) : Dev :=
  { icu := IcuSt.init, err := ErrSt.init, store := List.replicate 4 SliceSt.init, mmu := MmuSt.init, host := HostSt.init
    fe := FeSt.init, sched := SchedSt.init, phe := PheSt.init, dlm := List.replicate 8 default, obs := ObsSt.init
    pwr := PwrSt.init, clk := ClkSt.init, boot := BootSt.init, me := [], seq := List.replicate 4 default
    cores := List.replicate 24 default, disp := [], til := none, pack := List.replicate 2 default
    cvu := List.replicate 4 default, comp := CompSt.init, upd := UpdSt.init nvm, notes := [], freeCount := freeCount }

/-- Why a step stops with a fault. No rule of the spec makes the block stop: an error is an effect on its state (an error log entry, an interrupt,
the fault state), so no command ends so. Safe. -/
inductive Fault where
deriving DecidableEq, Repr

/-- Why a command is refused. -/
inductive Refusal where
  /-- Raised by an arm of `exec` for a command that has no meaning yet; no arm raises it. Safe. -/
  | notModelled (mnemonic : String)
deriving DecidableEq, Repr

/-- The machine: the records in force (R42, R52), the device, and the commands that wait, first in, first out. -/
structure State where
  cfg : Cfg
  dev : Dev
  pending : List Instr
deriving DecidableEq, Repr

/-- The machine right after reset (R55, R523): SYS_RST_N low, an empty NVM, no record in force, no command waiting. -/
def State.reset : State := { cfg := Cfg.absent, dev := Dev.init [] 0, pending := [] }

end Sys2Proof.Machine
end

