-- ==== Sys2Proof/Machine/Ops.lean ====
section
/-! DEFINITION. Shared operations: interrupt counts, error logs, phase stamps, trace packets, event
counters, writes to the host bus, open values. -/

namespace Sys2Proof.Machine

/-- Draw the next open value: its number, and the device that has drawn it. -/
def drawFree (d : Dev) : BitVec 64 × Dev :=
  (Config.freeValue d.freeCount, { d with freeCount := d.freeCount + 1 })

/-- `n` open bytes. -/
def freeBytes (n : Nat) (d : Dev) : List Byte × Dev :=
  ((List.range n).map (fun i => ((Config.freeValue (d.freeCount + i / 8)) >>> (8 * (i % 8))).setWidth 8),
    { d with freeCount := d.freeCount + ceilDiv n 8 })

/-- Slice and memory of quarter `q`. -/
def sliceOf (d : Dev) (q : Nat) : SliceSt := d.store.getD q SliceSt.init

/-- Change slice `q`. -/
def setSlice (d : Dev) (q : Nat) (f : SliceSt → SliceSt) : Dev := { d with store := upd d.store q f }

/-! ### Interrupt sources (R444, R445) -/

/-- Count one event of source `s`. -/
def raise (s : Nat) (d : Dev) : Dev :=
  { d with icu := { d.icu with count := amod d.icu.count s (satInc 255) } }

/-- Clear every mark (R448: any change that could let a target accept). -/
def clearMarks (d : Dev) : Dev := { d with icu := { d.icu with marks := [] } }

/-! ### Phase stamps (R7, R70) -/

/-- Reference `n`. -/
def refOf (d : Dev) (n : Nat) : RefSt := d.phe.refs.getD n default

/-- Whether a reference has a valid stamp: LOCKED or COASTING. -/
def refValid (r : RefSt) : Bool := r.state == 2 || r.state == 3

/-- The present stamp of a reference. -/
def refStamp (r : RefSt) : Nat := ((r.turn * 2 ^ 48 + r.acc) / 2 ^ 16) % 2 ^ 64

/-- Stamp `t1` lies after stamp `t0` (R8). -/
def stampAfter (t1 t0 : Nat) : Bool := decide (0 < toSigned 64 (t1 + 2 ^ 64 - t0 % 2 ^ 64))

/-- The next occurrence of an angle at or after a stamp (R75). -/
def nextAngle (a s : Nat) : Nat :=
  let base := (s / 2 ^ 32) * 2 ^ 32 + a % 2 ^ 32
  if s % 2 ^ 32 ≤ a % 2 ^ 32 then base else (base + 2 ^ 32) % 2 ^ 64

/-! ### The host bus -/

/-- The 32-byte sectors that `n` bytes from `a` touch. -/
def sectorsOf (a n : Nat) : List Nat :=
  if n = 0 then [] else (List.range ((a + n - 1) / 32 - a / 32 + 1)).map (· + a / 32)

/-- Whether the write of `n` bytes at `a` covers sector `s` whole. -/
def coversSector (a n s : Nat) : Bool := decide (a ≤ s * 32) && decide (s * 32 + 32 ≤ a + n)

/-- The bytes of a write at `a` that fall into sector `s`. -/
def inSector (a : Nat) (data : List PByte) (s : Nat) : List PByte :=
  (data.drop (s * 32 - a)).take (if a ≤ s * 32 then 32 else s * 32 + 32 - a)

/-- The mark of a sector after a write: set by any marked byte, cleared only by a write of all 32 bytes (R425). -/
def newMark (old : Bool) (a n : Nat) (data : List PByte) (s : Nat) : Bool :=
  ppoison (inSector a data s) || (old && !coversSector a n s)

/-- A posted write to the bus; marked sectors are sent with the EP bit set (R430). -/
def busWrite (d : Dev) (a : Nat) (data : List PByte) : Dev :=
  let h := d.host
  let p := (sectorsOf a data.length).foldl
    (fun p s => aset p s (newMark (aget p s) a data.length data s)) h.busPoison
  { d with host := { h with busMem := memWrite h.busMem a (pdata data), busPoison := p } }

/-- A read from the bus. A sector that arrives poisoned counts in HOST_CPL_ERR once (R381). -/
def busRead (d : Dev) (a n : Nat) : List PByte × Dev :=
  let bad := (sectorsOf a n).any (fun s => aget d.host.busPoison s)
  let data := (memRead d.host.busMem a n).zipIdx.map
    (fun (b, i) => (b, aget d.host.busPoison ((a + i) / 32)))
  (data, if bad then
    { d with mmu := { d.mmu with hostCplErr := satInc 255 d.mmu.hostCplErr } } else d)

/-! ### Observation (R504 to R513) -/

/-- Whether selector `sel` counts event `ev` of a unit (R506). Codes of the spine ignore QUARTER, and codes whose
INSTANCE is ignored pass 0xF. -/
def selMatches (sel ev q inst : Nat) (ctx : Option Nat) : Bool :=
  bits sel 7 0 == ev &&
  (bit sel 14 || q == 4 || bits sel 13 12 == q) &&
  (inst == 0xF || bits sel 11 8 == 0xF || bits sel 11 8 == inst) &&
  (!bit sel 22 || ctx == some (bits sel 21 16))

/-- Add `k` events to every counter that selects them (R504). -/
def obsCount (ev q inst : Nat) (ctx : Option Nat) (k : Nat) (d : Dev) : Dev :=
  if d.obs.sel = [] ∨ d.obs.cntEn = false ∨ d.clk.domains.getD 6 0 ≠ 1 ∨ k = 0 then d else
  let cnt := d.obs.sel.foldl (fun a p =>
    if selMatches p.2 ev q inst ctx then aset a p.1 ((aget a p.1 + k) % 2 ^ 48) else a) d.obs.cnt
  { d with obs := { d.obs with cnt := cnt } }

/-- Capacity of the trace ways in KiB, and the buffer size in use (R513). -/
def obsSizeKib (c : Cfg) : Nat :=
  Nat.min c.trace.bufferKib
    (((List.range 4).map (fun q => popcount 16 (c.ways q).trace * 3072)).sum)

/-- The slices that hold the store buffer are on. -/
def obsBufferOn (c : Cfg) (d : Dev) : Bool :=
  (List.range 4).all (fun q => (c.ways q).trace == 0 || d.clk.domains.getD (7 + 5 * q) 0 == 1)

/-- OBS_DRAIN_SIZE when it is a power of two from 64 KiB to 1 GiB, else 0. -/
def obsDrainSize (o : ObsSt) : Nat :=
  if (List.range 15).any (fun i => o.drainSize == 2 ^ (16 + i)) then o.drainSize else 0

/-- Write a byte stream into the drain ring from index `w`. -/
def drainWrite (base size : Nat) : Nat → List Byte → Dev → Dev
  | _, [], d => d
  | w, b :: bs, d => drainWrite base size (w + 1) bs (busWrite d (base + w % size) [(b, false)])

/-- Copy the buffer into the drain ring as far as it has room (R513). -/
def obsDrain (d : Dev) : Dev :=
  let o := d.obs
  let size := obsDrainSize o
  if size = 0 then d else
  let used := (o.drainW + 2 ^ 32 - o.drainR) % 2 ^ 32
  let n := Nat.min o.buf.length (size - used)
  let d := drainWrite o.drainBase size o.drainW (o.buf.take n) d
  { d with obs := { d.obs with buf := o.buf.drop n, drainW := (o.drainW + n) % 2 ^ 32 } }

/-- A packet header and its data (R508). -/
def obsPacket (ty flags source arg stamp : Nat) (data : List Byte) : List Byte :=
  leBytes 1 ty ++ leBytes 1 flags ++ leBytes 2 source ++ leBytes 4 arg ++ leBytes 8 stamp ++ data

/-- STAMP of a packet and its STAMP_TB flag. -/
def obsStamp (d : Dev) : Nat × Nat :=
  let r := refOf d d.obs.traceRef
  if refValid r then (refStamp r, 0) else (d.phe.tb % 2 ^ 64, 1)

/-- One packet to each destination in use; each destination drops on its own (R512 to R514). -/
def obsPush (c : Cfg) (p : List Byte) (d : Dev) : Dev :=
  let o := d.obs
  let st := obsStamp d
  let lost := fun n => obsPacket 0x71 st.2 0xF0 n st.1 []
  let toBuf := bit c.trace.dest 0 && d.pwr.stage == 0 && obsBufferOn c d && obsDrainSize o != 0
  let cap := obsSizeKib c * 1024
  let bufIn := if o.lostBuf = 0 then p else lost o.lostBuf ++ p
  let portIn := if o.lostPort = 0 then p else lost o.lostPort ++ p
  let before := o.buf.length
  let o1 := if !toBuf then o
    else if o.buf.length + bufIn.length ≤ cap then { o with buf := o.buf ++ bufIn, lostBuf := 0 }
    else { o with bufDropped := satInc 65535 o.bufDropped, lostBuf := o.lostBuf + 1 }
  let o2 := if !bit c.trace.dest 1 then o1
    else if o1.port.length + portIn.length ≤ 16384 then { o1 with port := o1.port ++ portIn, lostPort := 0 }
    else { o1 with portDropped := satInc 65535 o1.portDropped, lostPort := o1.lostPort + 1 }
  let d := obsDrain { d with obs := o2 }
  let full := d.obs.threshold * 1024
  if before < full ∧ full ≤ d.obs.buf.length then raise 13 d else d

/-- SYNC, always written while trace is on (R509). -/
def obsSync (c : Cfg) (d : Dev) : Dev :=
  if c.trace.dest = 0 ∨ d.clk.domains.getD 6 0 ≠ 1 then d else
  let st := obsStamp d
  obsPush c (obsPacket 0x70 st.2 0xF0 (d.phe.tb % 2 ^ 32) st.1 []) { d with obs := { d.obs with sinceSync := 0 } }

/-- A packet of class bit `cls` (R508, R509), with a SYNC after every 65,536 others. -/
def obsEmit (c : Cfg) (cls ty flags source arg : Nat) (data : List Byte) (d : Dev) : Dev :=
  if c.trace.dest = 0 ∨ bit c.trace.eventClasses cls = false ∨ bit d.obs.classMask cls = false ∨
    d.clk.domains.getD 6 0 ≠ 1 then d else
  let st := obsStamp d
  let d := obsPush c (obsPacket ty (flags + st.2) source (arg % 2 ^ 32) st.1 data) d
  let d := { d with obs := { d.obs with sinceSync := d.obs.sinceSync + 1 } }
  if d.obs.sinceSync ≥ 65536 then obsSync c d else d

/-! ### Error logs (R421, R424, R427, R428) -/

/-- The place of an error in its table's log: the index of the entry to use, and whether it is new. -/
def logSlot (t : ErrTab) (source loc : Nat) : Option (Nat × Bool) :=
  match findIdxOpt (fun e => match e with
      | some x => x.source == source && x.loc == loc
      | none => false) t.log with
  | some i => some (i, false)
  | none => (findIdxOpt (fun e => e == none) t.log).map (fun i => (i, true))

/-- One error of table `k` (quarters 0 to 3, spine 4): counted, logged, raised. A new entry, or REPEAT reaching CE_THRESHOLD, raises ERR_CE (R428; DEDUCED, log 179). -/
def logError (k : Nat) (ue : Bool) (source loc syn : Nat) (d : Dev) : Dev :=
  let t := d.err.tabs.getD k ErrTab.init
  let t := if source = 0 then
      (if ue then { t with dramUe := satInc 65535 t.dramUe } else { t with dramCe := satInc 65535 t.dramCe })
    else
      (if ue then { t with onchipUe := satInc 65535 t.onchipUe } else { t with onchipCe := satInc 65535 t.onchipCe })
  let r : ErrTab × Bool := match logSlot t source loc with
    | some (i, true) =>
      ({ t with log := t.log.set i (some ⟨ue, source, 1, syn, loc⟩) }, true)
    | some (i, false) =>
      let e := (t.log.getD i none).getD default
      ({ t with log := t.log.set i (some { e with repeats := satInc 255 e.repeats, ue := e.ue || ue }) }, decide (e.repeats + 1 = t.ceThreshold))
    | none => ({ t with overflow := true }, false)
  let d := { d with err := { d.err with tabs := d.err.tabs.set k r.1 } }
  let ceSrc := if k = 4 then 20 else 16 + k
  let ueSrc := if k = 4 then 25 else 21 + k
  if ue then raise ueSrc d else if r.2 then raise ceSrc d else d

/-! ### On-chip reads and writes (R420, R421) -/

/-- The upsets among `n` bytes from location `lo` of a memory. -/
def upsetsAt (k source lo n : Nat) (d : Dev) : List Upset :=
  d.err.upsets.filter (fun u => u.table == k && u.source == source && decide (lo ≤ u.loc) && decide (u.loc < lo + n))

/-- A write gives the bytes that it names new check bits (R420). -/
def chipWrite (k source lo n : Nat) (d : Dev) : Dev :=
  { d with err := { d.err with upsets := d.err.upsets.filter (fun u =>
    !(u.table == k && u.source == source && decide (lo ≤ u.loc) && decide (u.loc < lo + n))) } }

/-- A read of `n` on-chip bytes: the error of each 32-byte sector is counted once, bytes are corrected and written back, and the sectors in
which a byte has two wrong bits are answered (R421). -/
def chipRead (k source lo n : Nat) (d : Dev) : List Nat × Dev :=
  match upsetsAt k source lo n d with
  | [] => ([], d)
  | us =>
    let secs := us.foldl (fun l u => if l.contains (u.loc / 32) then l else l ++ [u.loc / 32]) ([] : List Nat)
    secs.foldl (fun (bad, d) s =>
      let here := us.filter (fun u => u.loc / 32 == s)
      let ue := here.any (fun u => u.double)
      let first := (here.find? (fun u => u.double == ue)).getD default
      (if ue then bad ++ [s] else bad, logError k ue source (s * 32) first.syndrome d)) ([], chipWrite k source lo n d)

/-! ### Instances (R359, R360) -/

/-- The place of an instance in the table: class code, quarter (0 for spine units), number. -/
def instIdx (cls q i : Nat) : Nat := cls * 32 + q * 8 + i

/-- An instance. -/
def instOf (d : Dev) (k : Nat) : Inst := aget d.sched.insts k

/-- Change an instance. -/
def setInst (d : Dev) (k : Nat) (f : Inst → Inst) : Dev :=
  { d with sched := { d.sched with insts := amod d.sched.insts k f } }

/-! ### Requesters (R100, R101) -/

/-- The place of a class in ENGINE_RC, for the classes that have one. -/
def engineSlot (cls : Nat) : Option Nat :=
  if 1 ≤ cls ∧ cls ≤ 4 then some (cls - 1)
  else if 6 ≤ cls ∧ cls ≤ 9 then some (cls - 2) else if cls = 12 then some 8 else none

/-- A request made while an engine executes a command. -/
def rqCmd (c : Cfg) (ctx cls q i : Nat) : Rq :=
  ⟨some ctx, cls, q, i, c.contextRc ctx, (engineSlot cls).map c.engineRc, false, none⟩

/-- A request on an engine's own account. -/
def rqOwn (c : Cfg) (cls q i : Nat) : Rq :=
  ⟨none, cls, q, i, ((engineSlot cls).map c.engineRc).getD 0, none, false, none⟩

/-- A request in class RC0 (kernel queue, MGMT payloads, PTW, firmware, BAR 2). -/
def rqZero (cls : Nat) : Rq := ⟨none, cls, 4, 0, 0, none, false, none⟩

end Sys2Proof.Machine
end

