-- ==== Sys2Proof/Machine/View.lean ====
section
/-! DEFINITION. What the registers and several units read of the state: conditions of blocks, sources, references, pipes and instances. -/

namespace Sys2Proof.Machine

/-- Whether a class belongs to a quarter. -/
def quarterClass (cls : Nat) : Bool := decide (1 ≤ cls) && decide (cls ≤ 4)

/-- Whether an instance holds a stalled request. -/
def instStalled (d : Dev) (k : Nat) : Bool :=
  let cls := k / 32
  let q := if quarterClass cls then (k % 32) / 8 else 4
  d.mmu.stalled.any (fun s => s.cls == cls && s.quarter == q && s.inst == k % 8)

/-- Whether any domain of quarter `q` but its retained slice is on. -/
def quarterOn (d : Dev) (q : Nat) : Bool := (List.range 5).any (fun k => d.clk.domains.getD (7 + 5 * q + k) 0 == 1)

/-- STEP of a quarter in force: 0 while it is off (R480). -/
def quarterStep (d : Dev) (q : Nat) : Nat := if quarterOn d q then d.clk.step.getD q 0 else 0

/-- Mode of a reference: PHASE_INPUT mode for 0 to 7, 5 for the display and free-running references. -/
def refMode (c : Cfg) (n : Nat) : Nat := if n < 8 then (c.phin n).mode else 5

/-- DUE: a quarter whose last retraining lies more than 32 ms back is due, so that it retrains well inside R85's limits. -/
def retrainDue (d : Dev) (q : Nat) : Bool :=
  d.clk.domains.getD (11 + 5 * q) 0 == 1 && !d.clk.switches.any (fun w => w.quarter == q) && decide (d.phe.lastRetrain.getD q 0 + 16000000 ≤ d.phe.tb)

/-- Hand-out of lanes 8 to 63 is stopped (R367). -/
def rrHeld (d : Dev) : Bool := decide (1 ≤ d.pwr.stage)

/-- The IRQ_ROUTE entry of a group. -/
def groupOf (c : Cfg) (g : Nat) : IrqGroupRec := c.irq.groups.getD g ⟨0, 0, 0⟩

/-- A group's hold-off runs (R452). -/
def holding (d : Dev) (g : Nat) : Bool := match d.icu.holdEnd.getD g none with
  | some t => decide (d.phe.tb < t)
  | none => false

/-- The supply warning is active (R476). -/
def warnActive (d : Dev) : Bool := d.pwr.pinLow || d.pwr.droopTb.isSome

/-- Condition of a level source, 0 to 5 (R444). In REST and at a wake the link is outside L0 (DEDUCED, log 180). -/
def levelCond (d : Dev) (s : Nat) : Bool :=
  match s with
  | 0 => d.err.devFault != 0
  | 1 => d.clk.throttling != 0 || d.clk.neighbour != 0
  | 2 => warnActive d || d.pwr.stage != 0
  | 3 => !d.host.linkUp || d.pwr.state == 1 || d.pwr.state == 3 || decide (d.host.width < 8) || decide (d.host.rate < 5)
  | 4 => (List.range 11).any (fun n => bit d.phe.irqEn n && (refOf d n).state == 4)
  | 5 => d.icu.woke
  | _ => false

/-- A source is ACTIVE while it is on a stack (R449). -/
def sourceActive (d : Dev) (s : Nat) : Bool := d.icu.stack.any (fun p => p.2.any (fun e => e.source == s))

/-- Whether a source number is assigned (R444). -/
def sourceAssigned (s : Nat) : Bool := decide (s ≤ 14) || (decide (16 ≤ s) && decide (s ≤ 115)) ||
  (decide (480 ≤ s) && decide (s ≤ 511))

/-- Pending (R445). -/
def sourcePending (d : Dev) (s : Nat) : Bool :=
  !sourceActive d s && (if s ≤ 5 then levelCond d s else sourceAssigned s && decide (0 < aget d.icu.count s))

/-- Priority of a source (R446). -/
def sourcePrio (c : Cfg) (s : Nat) : Nat := aget c.irq.prio s % 16

/-- The stack of a target, top entry first. -/
def stackOf (d : Dev) (t : Nat) : List IcuEntry := aget d.icu.stack t

/-- An Ox core runs: OXS0 and OXS1 only as the active core (R447). -/
def oxRuns (d : Dev) (i : Nat) : Bool :=
  d.clk.domains.getD 1 0 == 1 && d.boot.phase == 2 &&
    (if i < 2 then d.boot.oxsActive == i && d.err.devFault != 5
     else bit d.boot.oxqRunning (i - 2) && d.clk.domains.getD (11 + 5 * (i - 2)) 0 == 1)

/-- A target is enabled for delivery (R447). -/
def targetEnabled (d : Dev) (t : Nat) : Bool :=
  !bit d.icu.fault t &&
    (if t < 64 then d.host.msixEnable && !d.host.funcMask && d.host.busMaster && (aget d.host.msix t).unmasked
     else oxRuns d (t - 64))

/-- The OBS block answers: its domain is on, and the device is not waking (R459, R466). -/
def obsOn (d : Dev) : Bool := d.boot.phase == 2 && d.clk.domains.getD 6 0 == 1 && d.pwr.state != 3

/-- A mailbox buffer. -/
def bufOf (d : Dev) (b : Nat) : UpdBuf := d.upd.bufs.getD b default

/-- Recovery mode. -/
def recovery (d : Dev) : Bool := bit d.boot.bootStatus 13

/-- The UPD block and the mailbox answer: in RUN, REST and in recovery mode (R59, R502). -/
def updOn (d : Dev) : Bool :=
  d.clk.domains.getD 1 0 == 1 && d.pwr.state != 3 && (d.boot.phase == 2 || (d.boot.phase == 1 && bit d.boot.bootStatus 13))

/-- Context `x`. -/
def ctxOf (d : Dev) (x : Nat) : CtxSt := aget d.fe.ctxs x

/-- Ring `r`. -/
def ringOf (d : Dev) (r : Nat) : Ring := aget d.fe.rings r

/-- Total lines of a display pipe. -/
def totalLines (c : Cfg) (p : Nat) : Nat :=
  let r := c.disp p
  r.vActive + r.vFront + r.vSync + r.vBack

/-- A_latch (R306). -/
def latchAngle (c : Cfg) (p : Nat) : Nat := if totalLines c p = 0 then 0 else (c.disp p).vActive * 2 ^ 32 / totalLines c p

/-- Whether a pipe is on: its record enables it and the display domain is powered. -/
def pipeOn (c : Cfg) (d : Dev) (p : Nat) : Bool :=
  decide (p < 2) && (c.disp p).enable == 1 && d.clk.domains.getD 3 0 == 1 && d.boot.phase == 2

/-- Whether shed stage S2 blanks a pipe (R321). -/
def pipeBlank (d : Dev) (p : Nat) : Bool := p == 1 && decide (2 ≤ d.pwr.stage)

/-- A pipe. -/
def pipeOf (d : Dev) (p : Nat) : Pipe := d.comp.pipes.getD p default

/-- MODE of a pipe (R325). -/
def pipeMode (c : Cfg) (d : Dev) (p : Nat) : Nat :=
  if pipeOn c d p = false then 0 else if pipeBlank d p then 3
  else match (pipeOf d p).frame with
    | some f => f.mode
    | none => 1

/-- The PWR block answers, in WAKING too (R466). -/
def pwrUp (d : Dev) : Bool := d.boot.phase == 2 && (d.clk.domains.getD 1 0 == 1 || d.pwr.state == 3)

/-- Monitor `r`. -/
def dlmOf (d : Dev) (r : Nat) : DlmSt := d.dlm.getD r default

/-- Core `n` of quarter `q` in the table. -/
def coreIdx (q n : Nat) : Nat := 6 * q + n

/-- A core. -/
def coreOf (d : Dev) (k : Nat) : Core := d.cores.getD k default

end Sys2Proof.Machine
end

