-- ==== Sys2Proof/Machine/Regs.lean ====
section
/-! DEFINITION. The register map of BAR 0, read side (R9 to R13, R331): when a block answers, and the value of every 32-bit register. -/

namespace Sys2Proof.Machine

/-- A field at a bit position. -/
def fld (lo v : Nat) : Nat := v * 2 ^ lo

/-- The spine is up, or waking, and the device is past reset. -/
def spineUp (d : Dev) : Bool := (d.clk.domains.getD 1 0 == 1 || d.pwr.state == 3) && d.boot.phase != 0

/-- RUN, REST or HOLD after READY: the ordinary blocks of the spine answer (R56, R466). -/
def ordinary (d : Dev) : Bool := d.boot.phase == 2 && d.clk.domains.getD 1 0 == 1 && d.pwr.state != 3

/-- Whether quarter `q`'s domain `k` (0 slice, 1 and 2 shader groups, 3 matrix, 4 memory) is on for register access. -/
def quarterReg (d : Dev) (q k : Nat) : Bool :=
  d.boot.phase == 2 && d.pwr.state != 3 && d.clk.domains.getD (7 + 5 * q + k) 0 == 1

/-- Whether the block at a BAR 0 offset answers. In REST a slice's domain is retained and not on, and its block reads zero (DESIGN CHOICE, log 159). -/
def blockOn (d : Dev) (off : Nat) : Bool :=
  if off < 0x10000 then spineUp d
  else if 0x40000 ≤ off ∧ off < 0x50000 then pwrUp d
  else if 0x60000 ≤ off ∧ off < 0xA0000 then updOn d
  else if 0xA0000 ≤ off ∧ off < 0xB0000 then obsOn d
  else if 0xC0000 ≤ off ∧ off < 0xD0000 then ordinary d && d.clk.domains.getD 3 0 == 1
  else if 0x200000 ≤ off ∧ off < 0x210000 then ordinary d && d.clk.domains.getD 5 0 == 1
  else if off < 0x1000000 then ordinary d
  else
    let q := (off - 0x1000000) / 0x400000
    let o := off % 0x400000
    decide (q < 4) && (if o < 0x10000 then quarterReg d q 0
      else if o < 0x20000 then quarterReg d q (if o % 0x10000 < 0x300 then 1 else 2)
      else quarterReg d q 4)

/-! ### GLB and error tables (R60, R332, R442, R443) -/

/-- ERR block of table `k` at offset `o` of it. SCRUB_EN and PASSES are reserved in the spine's. -/
def errReg (d : Dev) (k o : Nat) : Nat :=
  let t := d.err.tabs.getD k ErrTab.init
  if o = 0x00 then fld 16 t.dramCe + t.onchipCe
  else if o = 0x04 then fld 16 t.dramUe + t.onchipUe
  else if o = 0x08 then t.poisonRead
  else if o = 0x0C then fld 16 (b2n t.overflow) + maskOf ((List.range 16).filter (fun e => (t.log.getD e none).isSome))
  else if o = 0x10 then fld 8 t.ceThreshold + (if k = 4 then 0 else b2n t.scrubEn)
  else if o = 0x18 then (if k = 4 then 0 else t.passes)
  else if 0x100 ≤ o ∧ o < 0x200 then
    match t.log.getD ((o - 0x100) / 16) none with
    | none => 0
    | some e =>
      match o % 16 with
      | 0 => fld 31 1 + fld 30 (b2n e.ue) + fld 24 e.source + fld 16 e.repeats + e.syndrome
      | 4 => e.loc % 2 ^ 32
      | 8 => e.loc / 2 ^ 32
      | _ => 0
  else 0

/-- GLB at offset `o`. The start registers read zero until they are written (R60). -/
def glbReg (c : Cfg) (d : Dev) (o : Nat) : Nat :=
  let b := d.boot
  let started := fun (v : Nat) => if b.phase = 2 ∨ d.host.cfgOpen then v else 0
  if o = 0 then
    fld 16 0x0909 + fld 8 0x10 + (match c.trims with
      | some t => 2 + b2n (Config.trimsGrade t)
      | none => 0)
  else if o = 0x100 then started b.bootStatus
  else if o = 0x104 then started b.cfgStatus
  else if o = 0x108 then started b.cfgFaulted
  else if o = 0x10C then started b.katFail0
  else if o = 0x110 then started b.katFail1
  else if o = 0x114 then started b.bootSlots
  else if o = 0x118 then started b.bootTime
  else if o = 0x120 then fld 31 (b2n (d.err.devFault != 0)) + d.err.devFault
  else if o = 0x124 then fld 16 d.err.voteFix + d.err.cwsPasses
  else if 0x200 ≤ o ∧ o < 0x400 then errReg d 4 (o - 0x200)
  else 0

/-! ### ICU (R458) -/

/-- A group's registers. -/
def icuGroupReg (c : Cfg) (d : Dev) (g o : Nat) : Nat :=
  let r := groupOf c g
  match o with
  | 0 => fld 16 r.ox + r.holdoffUs
  | 4 => fld 31 (b2n (holding d g)) + fld 16 (d.icu.last.getD g 69) + maskOf ((List.range 16).filter (fun i => sourcePending d (16 * g + i)))
  | 8 => r.msix % 2 ^ 32
  | 12 => r.msix / 2 ^ 32
  | _ => 0

/-- A target's registers. -/
def icuTargetReg (d : Dev) (t o : Nat) : Nat :=
  let l := stackOf d t
  match o with
  | 0 => match l with
    | e :: _ => fld 31 1 + fld 24 e.prio + fld 16 e.count + e.source
    | [] => 0
  | 8 => fld 31 (b2n (bit d.icu.fault t)) + fld 30 (b2n (targetEnabled d t)) + l.length
  | _ => 0

/-- ICU at offset `o`. -/
def icuReg (c : Cfg) (d : Dev) (o : Nat) : Nat :=
  if o = 0 then b2n d.icu.globalHold
  else if o = 4 then d.icu.stackFaults
  else if 0x100 ≤ o ∧ o < 0x300 then icuGroupReg c d ((o - 0x100) / 16) (o % 16)
  else if 0x400 ≤ o ∧ o < 0x480 then d.icu.en.getD ((o - 0x400) / 4) 0
  else if o = 0x800 then fld 31 (b2n d.icu.woke) + d.icu.wokeSource
  else if 0x840 ≤ o ∧ o < 0x880 then
    let k := (o - 0x840) / 4
    fld 16 (c.irq.goose.getD (2 * k + 1) 0xFFFF) + c.irq.goose.getD (2 * k) 0xFFFF
  else if 0x1000 ≤ o ∧ o < 0x1800 then
    let s := (o - 0x1000) / 4
    let lv := decide (s ≤ 5)
    let word := fld 31 (b2n lv) + fld 30 (b2n (sourceActive d s)) + fld 29 (b2n (lv && levelCond d s)) + fld 24 (sourcePrio c s) +
      (if lv then 0 else aget d.icu.count s)
    if sourceAssigned s then word else 0
  else if 0x2000 ≤ o ∧ o < 0x2000 + 0x20 * 70 then icuTargetReg d ((o - 0x2000) / 32) (o % 32)
  else 0

/-! ### FE (R358, R377) -/

/-- Per-ring scheduling registers. -/
def schedReg (c : Cfg) (d : Dev) (r o : Nat) : Nat :=
  let g := c.ring r
  let n := aget d.sched.counts r
  match o with
  | 0 => fld 20 g.ref + fld 16 g.unit + g.sliceUs
  | 4 => if g.timeout = 0 then 20000 else g.timeout
  | 8 => g.waitTimeoutUs
  | 12 => fld 24 n.cmdTimeout + fld 16 n.waitTimeout + fld 8 n.overrun + n.reset
  | _ => 0

/-- Reservation registers. -/
def shareReg (c : Cfg) (r o : Nat) : Nat :=
  match c.share r with
  | none => 0
  | some s =>
    match o with
    | 0 => ((List.range 4).map (fun q => fld (8 * q) (s.meMask.getD q 0))).sum
    | 4 => ((List.range 4).map (fun q => fld (8 * q) (s.scMask.getD q 0))).sum
    | 8 => fld 31 1 + fld 8 s.dramPct + s.storePct
    | _ => 0

/-- FE at offset `o`. -/
def feReg (c : Cfg) (d : Dev) (o : Nat) : Nat :=
  let f := d.fe
  if o = 0x00 then b2n f.kqEnable
  else if o = 0x08 then f.kqBase % 2 ^ 32
  else if o = 0x0C then f.kqBase / 2 ^ 32
  else if o = 0x10 then f.kqSize
  else if o = 0x18 then f.kqRptr
  else if o = 0x20 then f.kqCqBase % 2 ^ 32
  else if o = 0x24 then f.kqCqBase / 2 ^ 32
  else if o = 0x28 then f.kqCqSize
  else if o = 0x2C then f.kqCqWptr
  else if o = 0x30 then f.kqCqRptr
  else if o = 0x40 then f.bar2Base
  else if o = 0x54 then f.refSel
  else if o = 0x58 then aget f.refs f.refSel
  else if o = 0x60 then f.sigSel
  else if o = 0x70 then fld 24 f.fenceRegress + fld 16 f.dbIgnored + fld 8 f.refUnderflow + f.refFromZero
  else if o = 0x74 then fld 24 f.refSat + fld 16 f.cqFull
  else if 0x100 ≤ o ∧ o < 0x200 then
    let x := (o - 0x100) / 4
    let t := ctxOf d x
    fld 8 t.cause + fld 2 (c.contextRc x) + t.state
  else if 0x200 ≤ o ∧ o < 0x300 then
    let r := ringOf d ((o - 0x200) / 4)
    fld 31 (b2n r.bound) + fld 30 (b2n r.devWriter) + fld 16 (r.ctx % 64) + r.cmds.length % 65536
  else if 0x400 ≤ o ∧ o < 0x800 then schedReg c d ((o - 0x400) / 16) (o % 16)
  else if o = 0x804 then b2n (rrHeld d)
  else if 0x900 ≤ o ∧ o < 0x980 then shareReg c ((o - 0x900) / 16) (o % 16)
  else if 0x7000 ≤ o ∧ o < 0x7200 then
    let k := (o - 0x7000) / 4
    maskOf ((List.range 32).filter (fun j => (aget f.fences (32 * k + j)).e))
  else if 0x8000 ≤ o ∧ o < 0x10000 then
    let v := (aget f.fences ((o - 0x8000) / 8)).v
    if o % 8 = 0 then v % 2 ^ 32 else v / 2 ^ 32
  else 0

/-- A ring's doorbell page at offset `o` (R337). -/
def dbReg (d : Dev) (ring o : Nat) : Nat :=
  let r := ringOf d ring
  match o with
  | 0x04 => r.rptr
  | 0x08 => r.cqRptr
  | 0x0C => r.cqWptr
  | 0x10 => fld 8 r.ignored + fld 3 (b2n r.pending) + fld 2 (b2n r.devWriter) +
      fld 1 (b2n (r.bound && (ctxOf d r.ctx).state == 2)) + b2n r.bound
  | _ => 0

/-! ### PHE and the deadline monitors (R86, R87, R233) -/

/-- Registers of reference `n`. -/
def refReg (c : Cfg) (d : Dev) (n o : Nat) : Nat :=
  let r := refOf d n
  let left := if r.state = 3 then r.coastLeft else 0
  match o with
  | 0x00 => fld 16 r.epoch + fld 8 (Nat.min 255 left) + fld 4 (b2n (refValid r)) + fld 3 (b2n (refMode c n == 3 && r.dirBack)) + r.state
  | 0x04 => left
  | 0x08 => refStamp r % 2 ^ 32
  | 0x0C => refStamp r / 2 ^ 32
  | 0x10 => r.edgeTb % 2 ^ 32
  | 0x14 => r.edgeTb / 2 ^ 32 % 2 ^ 32
  | 0x18 => r.period % 2 ^ 32
  | 0x20 => fld 24 r.glitch + fld 16 r.periodViolation + fld 8 r.pulseCount + r.timeout
  | 0x24 => r.loss
  | 0x28 =>
    if n < 8 then fld 16 (c.phin n).pulses + fld 8 (c.phin n).edge + (c.phin n).mode
    else fld 16 1 + (if r.state = 0 then 0 else 5)
  | _ => 0

/-- PHE at offset `o`. PHE_MAINT_START and PHE_MAINT_LEN read the value last written, in force or not yet (DESIGN CHOICE, log 155). -/
def pheReg (c : Cfg) (d : Dev) (o : Nat) : Nat :=
  let p := d.phe
  if o = 0x00 then p.tb % 2 ^ 32
  else if o = 0x04 then p.tb / 2 ^ 32 % 2 ^ 32
  else if o = 0x08 then maskOf ((List.range 11).filter (fun n => (refOf d n).state == 4))
  else if o = 0x0C then p.irqEn
  else if o = 0x10 then p.maintRef
  else if o = 0x14 then fld 16 p.maintForced + maskOf ((List.range 4).filter (retrainDue d))
  else if o = 0x18 then p.pendStart.getD p.maintStart
  else if o = 0x1C then p.pendLen.getD p.maintLen
  else if 0x100 ≤ o ∧ o < 0x3C0 then refReg c d ((o - 0x100) / 64) (o % 64)
  else if 0x400 ≤ o ∧ o < 0x500 then
    let s := dlmOf d ((o - 0x400) / 32)
    match o % 32 with
    | 0 => fld 8 s.lastTag + s.state
    | 4 => s.cycle % 2 ^ 32
    | 8 => fld 24 s.fallbacks + fld 16 s.latePrimary + fld 8 s.missing + s.none_
    | _ => 0
  else 0

/-! ### PWR, MMU, UPD (R399, R480, R502) -/

/-- Registers of quarter `q` in PWR. -/
def pwrQuarterReg (d : Dev) (q o : Nat) : Nat :=
  let k := d.clk
  match o with
  | 0 => fld 22 (b2n (bit k.capLimited q)) + fld 23 (b2n (bit k.throttling q)) + fld 24 (b2n (bit k.neighbour q)) +
      fld 25 (b2n (decide (k.avsLimit.getD q 40 < 40))) + fld 26 (b2n (decide (4 ≤ d.pwr.stage) && q != 0)) +
      fld 16 (quarterStep d q) + k.rail.getD q 0 % 1024
  | 4 => k.floor.getD q 10
  | 8 => ofSigned 16 (k.temp.getD q 0)
  | _ => 0

/-- PWR at offset `o`. -/
def pwrReg (c : Cfg) (d : Dev) (o : Nat) : Nat :=
  let p := d.pwr
  if o = 0x00 then
    fld 24 (b2n (p.keepReady && !(sliceOf d 0).memLost)) + fld 20 (b2n (warnActive d)) + fld 16 p.stage + fld 8 p.idleq + p.state
  else if o = 0x08 then p.reqResult
  else if o = 0x10 then fld 25 p.keepLo
  else if o = 0x14 then p.keepBase
  else if o = 0x20 then fld 8 p.estimate + c.power.capW
  else if o = 0x24 then fld 31 (b2n p.thermLast) + p.avsFault
  else if o = 0x28 then fld 24 p.dips + fld 16 p.floorOverride + fld 8 p.avsFaults + p.throttles
  else if o = 0x30 then (Config.saveUsed p.holdTb).toNat
  else if 0x40 ≤ o ∧ o < 0x80 then pwrQuarterReg d ((o - 0x40) / 16) (o % 16)
  else if o = 0x80 then ofSigned 16 d.clk.spineTemp
  else 0

/-- MMU at offset `o`. -/
def mmuReg (d : Dev) (o : Nat) : Nat :=
  let m := d.mmu
  if o = 0x00 then b2n m.enable
  else if o = 0x08 then m.base % 2 ^ 32
  else if o = 0x0C then m.base / 2 ^ 32
  else if o = 0x10 then m.wptr
  else if o = 0x14 then m.rptr
  else if o = 0x18 then fld 16 m.holdoffUs + m.countCfg
  else if o = 0x1C then m.closed
  else if o = 0x24 then m.replayed
  else if o = 0x28 then fld 16 (Nat.min 65535 m.openRecs.length) + Nat.min 65535 m.stalled.length
  else if o = 0x30 then fld 24 m.replayIgnored + fld 16 m.ringFull + fld 8 m.rptrIgnored + m.hostCplErr
  else if 0x50 ≤ o ∧ o < 0xC0 then
    let n := (o - 0x40) / 16
    match o % 16 with
    | 0 => aget m.peerBase n % 2 ^ 32
    | 4 => aget m.peerBase n / 2 ^ 32
    | 8 => aget m.peerSize n
    | _ => 0
  else if 0x200 ≤ o ∧ o < 0x400 then
    let t := ctxOf d ((o - 0x200) / 8)
    let r := if t.state = 0 then 0 else t.root
    if o % 8 = 0 then r % 2 ^ 32 else r / 2 ^ 32 % 2 ^ 16
  else 0

/-- UPD at offset `o`; in recovery mode only the registers that R502 names are active. -/
def updReg (d : Dev) (o : Nat) : Nat :=
  let u := d.upd
  let full := !recovery d
  if o = 0x00 then
    fld 8 u.triesLeft + fld 6 (b2n u.pufFail) + fld 5 (b2n u.levelMismatch) + fld 4 (b2n u.setDefault) + fld 2 u.revertCause +
      fld 1 (b2n u.reverted) + b2n u.trialUsed
  else if o = 0x04 then (if full then u.level else 0)
  else if o = 0x08 then u.blkLo
  else if o = 0x0C then u.blkHi
  else if o = 0x10 then u.blkBuf
  else if o = 0x14 then fld 24 u.ignored + fld 16 u.retries + u.blocks
  else if o = 0x20 then fld 8 u.arg + u.op
  else if o = 0x24 then u.mask
  else if o = 0x28 then fld 31 (b2n u.busy) + u.result
  else if o = 0x30 then (if full then fld 25 u.stageLo else 0)
  else if o = 0x34 then (if full then u.stageHi else 0)
  else if 0x40 ≤ o ∧ o < 0x60 then (if full then u.nonce.getD ((o - 0x40) / 4) 0 else 0)
  else if 0x80 ≤ o ∧ o < 0x94 then
    let p := (o - 0x80) / 4
    let st := match u.hand with
      | some h => if h.part = p then h.state else 0
      | none => 0
    if full then fld 16 st + fld 8 (u.partTrial.getD p 0) + u.partSlot.getD p 0 else 0
  else if 0x100 ≤ o ∧ o < 0x140 then
    let b := bufOf d ((o - 0x100) / 4)
    fld 30 b.state + b.result
  else 0

/-! ### OBS, COMP, CVU and PACK (R325, R419, R515) -/

/-- OBS at offset `o`. -/
def obsReg (c : Cfg) (d : Dev) (o : Nat) : Nat :=
  let s := d.obs
  if o = 0x00 then b2n s.cntEn
  else if o = 0x04 then s.traceRef
  else if o = 0x08 then fld 8 (obsSizeKib c) + fld 2 c.isolation.captureAllowed + c.trace.dest
  else if o = 0x0C then c.trace.eventClasses
  else if o = 0x10 then s.classMask
  else if o = 0x14 then b2n (s.capEn && c.isolation.captureAllowed == 1)
  else if o = 0x18 then s.capBase % 2 ^ 32
  else if o = 0x1C then s.capBase / 2 ^ 32
  else if o = 0x20 then s.capLen
  else if o = 0x30 then s.drainBase % 2 ^ 32
  else if o = 0x34 then s.drainBase / 2 ^ 32
  else if o = 0x38 then s.drainSize
  else if o = 0x3C then s.drainW
  else if o = 0x40 then s.drainR
  else if o = 0x44 then s.threshold
  else if o = 0x48 then s.buf.length / 1024
  else if o = 0x4C then fld 16 s.bufDropped + s.portDropped
  else if 0x1000 ≤ o ∧ o < 0x1400 then aget s.sel ((o - 0x1000) / 4)
  else if 0x2000 ≤ o ∧ o < 0x2800 then
    let v := aget s.snap ((o - 0x2000) / 8)
    if o % 8 = 0 then v % 2 ^ 32 else v / 2 ^ 32 % 2 ^ 16
  else 0

/-- Registers of pipe `p`. -/
def pipeReg (c : Cfg) (d : Dev) (p o : Nat) : Nat :=
  let s := pipeOf d p
  match o with
  | 0x00 => fld 8 (b2n s.ctxLost) + fld 7 (b2n s.pending.isSome) + fld 6 (b2n (decide (4 ≤ d.pwr.stage))) + fld 5 (b2n s.safeSig) +
      fld 4 (b2n s.link) + pipeMode c d p
  | 0x08 => fld 24 s.late + fld 16 s.underrun + fld 8 s.poison + s.fault
  | 0x10 => latchAngle c p
  | _ => 0

/-- COMP at offset `o`. -/
def compReg (c : Cfg) (d : Dev) (o : Nat) : Nat :=
  let k := d.comp
  if o < 0x200 then pipeReg c d (o / 0x100) (o % 0x100)
  else if o < 0x400 then
    let n := (o - 0x200) / 32
    match o % 32 with
    | 0x00 => k.sigCtrl.getD n 0
    | 0x04 => k.sigRect0.getD n 0
    | 0x08 => k.sigRect1.getD n 0
    | 0x0C => k.sigExpect.getD n 0
    | 0x10 => k.sigActual.getD n 0
    | _ => 0
  else if o = 0x400 then k.sigStatus
  else if o = 0x500 then fld 30 (b2n k.dsiBusy) + fld 8 k.dsiType + k.dsiLen
  else if 0x510 ≤ o ∧ o < 0x550 then k.dsiData.getD ((o - 0x510) / 4) 0
  else 0

/-- CVU and PACK at offset `o`. -/
def packReg (d : Dev) (o : Nat) : Nat :=
  let busy := fun (cls i : Nat) => (instOf d (instIdx cls 0 i)).run.isSome
  if o < 0x40 then
    let i := o / 32
    let p := d.pack.getD i default
    match o % 32 with
    | 0 => fld 31 (b2n (busy 8 i)) + p.ctx
    | 4 => fld 24 p.illegal + fld 16 p.distance + fld 8 p.overrun + p.quantCmds
    | _ => 0
  else if 0x1000 ≤ o ∧ o < 0x1080 then
    let i := (o - 0x1000) / 32
    let v := d.cvu.getD i default
    match o % 32 with
    | 0 => fld 31 (b2n (busy 9 i)) + fld 8 v.ctx + v.preset
    | 8 => v.value % 2 ^ 32
    | 12 => v.value / 2 ^ 32 % 2 ^ 32
    | _ => 0
  else if o = 0x1100 then
    fld 4 (maskOf ((List.range 4).filter (fun i => instStalled d (instIdx 9 0 i)))) + maskOf ((List.range 4).filter (busy 9))
  else 0

/-! ### Quarter windows (R121, R258) -/

/-- CS block of slice `q`. CS_SW_OP reads zero from BAR 0 (R117). -/
def csReg (c : Cfg) (d : Dev) (q o : Nat) : Nat :=
  let s := sliceOf d q
  let w := c.ways q
  if o = 0x00 then fld 16 w.trace + w.scratch
  else if o = 0x04 then 0x6FC23
  else if o = 0x08 then s.wayOff
  else if o = 0x0C then fld 16 s.cleaning + s.off
  else if 0x20 ≤ o ∧ o < 0x40 then w.rcMask.getD ((o - 0x20) / 4) 0
  else if 0x40 ≤ o ∧ o < 0x50 then
    let k := (o - 0x40) / 4
    ((List.range 4).map (fun j => fld (8 * j) (w.owner.getD (4 * k + j) 0xFF))).sum
  else if o = 0x60 then s.maintPa % 2 ^ 32
  else if o = 0x64 then s.maintPa / 2 ^ 32
  else if o = 0x68 then s.maintLen % 2 ^ 32
  else if o = 0x6C then s.maintLen / 2 ^ 32
  else if o = 0x70 then s.maintOp
  else if o = 0x74 then fld 2 (b2n s.maintRejected) + fld 1 (b2n s.maintDone) + b2n s.maintBusy
  else if o = 0x80 then fld 24 s.errViol + fld 16 s.errScratchRange + fld 8 s.errPaRange + s.errLostWrite
  else 0

/-- Registers of shader core `n` of quarter `q`. -/
def scReg (d : Dev) (q n o : Nat) : Nat :=
  let k := coreOf d (coreIdx q n)
  let f := k.fault
  match o with
  | 0x00 => fld 16 ((k.blocks.map (·.ctx)).headD 0) + fld 8 ((k.blocks.filter (·.slot)).length % 32) + k.groups.length % 64
  | 0x10 => fld 31 (b2n f.valid) + fld 16 f.overflow + fld 8 f.ctx + f.code
  | 0x14 => f.pc % 2 ^ 32
  | 0x18 => f.pc / 2 ^ 32 % 2 ^ 16
  | 0x1C => f.block % 2 ^ 32
  | 0x20 => f.group % 32
  | 0x24 => f.mask % 2 ^ 32
  | 0x28 => f.addr % 2 ^ 32
  | 0x2C => f.addr / 2 ^ 32 % 2 ^ 32
  | _ => 0

/-- The 24 shader cores hold six register sets per quarter; what lies behind them reads zero. -/
def quarterWindow (c : Cfg) (d : Dev) (q o : Nat) : Nat :=
  if o < 0x10000 then csReg c d q o
  else if o < 0x10600 then scReg d q ((o - 0x10000) / 0x100) (o % 0x100)
  else if 0x20000 ≤ o ∧ o < 0x20200 then errReg d q (o - 0x20000)
  else 0

/-! ### Reads (R12, R13) -/

/-- The value of the 32-bit register at an aligned BAR 0 offset; zero where no block answers. -/
def regValue (c : Cfg) (d : Dev) (off : Nat) : Nat :=
  if blockOn d off = false then 0
  else
    let v :=
      if off < 0x10000 then glbReg c d off
      else if off < 0x20000 then icuReg c d (off - 0x10000)
      else if off < 0x30000 then feReg c d (off - 0x20000)
      else if off < 0x40000 then pheReg c d (off - 0x30000)
      else if off < 0x50000 then pwrReg c d (off - 0x40000)
      else if off < 0x60000 then mmuReg d (off - 0x50000)
      else if off < 0x70000 then updReg d (off - 0x60000)
      else if 0x80000 ≤ off ∧ off < 0x90000 then
        leNat (memRead (bufOf d ((off - 0x80000) / 4096)).data (off % 4096) 4)
      else if 0xA0000 ≤ off ∧ off < 0xB0000 then obsReg c d (off - 0xA0000)
      else if 0xC0000 ≤ off ∧ off < 0xD0000 then compReg c d (off - 0xC0000)
      else if 0x100000 ≤ off ∧ off < 0x140000 then dbReg d ((off - 0x100000) / 0x1000) (off % 0x1000)
      else if 0x200000 ≤ off ∧ off < 0x210000 then packReg d (off - 0x200000)
      else if 0x1000000 ≤ off ∧ off < 0x2000000 then quarterWindow c d ((off - 0x1000000) / 0x400000) (off % 0x400000)
      else 0
    v % 2 ^ 32

/-- Whether a BAR 0 offset is the _LO register of a pair; its _HI register follows it. -/
def isLo (off : Nat) : Bool :=
  let o := off % 0x10000
  if off < 0x10000 then decide (0x304 ≤ o) && decide (o < 0x400) && o % 16 == 4
  else if off < 0x20000 then decide (0x100 ≤ o) && decide (o < 0x300) && o % 16 == 8
  else if off < 0x30000 then o == 0x08 || o == 0x20 || o == 0x68 || (decide (0x8000 ≤ o) && o % 8 == 0)
  else if off < 0x40000 then o == 0 || (decide (0x100 ≤ o) && decide (o < 0x3C0) && (o % 64 == 0x08 || o % 64 == 0x10))
  else if off < 0x50000 then o == 0x10
  else if off < 0x60000 then o == 0x08 || (decide (0x50 ≤ o) && decide (o < 0xC0) && o % 16 == 0) ||
    (decide (0x200 ≤ o) && decide (o < 0x400) && o % 8 == 0)
  else if off < 0x70000 then o == 0x08 || o == 0x30
  else if 0xA0000 ≤ off ∧ off < 0xB0000 then o == 0x18 || o == 0x30 || (decide (0x2000 ≤ o) && decide (o < 0x2800) && o % 8 == 0)
  else if 0x200000 ≤ off ∧ off < 0x210000 then decide (0x1000 ≤ o) && decide (o < 0x1080) && o % 32 == 8
  else if 0x1000000 ≤ off ∧ off < 0x2000000 then
    let w := off % 0x400000
    if w < 0x10000 then w == 0x60 || w == 0x68
    else if w < 0x10600 then w % 0x100 == 0x14 || w % 0x100 == 0x28
    else decide (0x20104 ≤ w) && decide (w < 0x20200) && w % 16 == 4
  else false

/-- A 32-bit read: a _LO read latches the whole pair, the next _HI read returns the latched half (R13). -/
def regRead32 (c : Cfg) (off : Nat) (d : Dev) : Nat × Dev :=
  let v := regValue c d off
  if isLo off then
    (v, { d with host := { d.host with latch := aset d.host.latch (off + 4) (regValue c d (off + 4) + 1) } })
  else
    let k := aget d.host.latch off
    if k = 0 then (v, d) else (k - 1, { d with host := { d.host with latch := aset d.host.latch off 0 } })

/-- A BAR 0 read: aligned accesses of 4 and 8 bytes; any other reads zero (R12). Eight bytes come from one instant. -/
def bar0Read (c : Cfg) (off len : Nat) (d : Dev) : List Byte × Dev :=
  if len = 4 ∧ off % 4 = 0 then
    let r := regRead32 c off d
    (leBytes 4 r.1, r.2)
  else if len = 8 ∧ off % 8 = 0 then (leBytes 4 (regValue c d off) ++ leBytes 4 (regValue c d (off + 4)), d)
  else (List.replicate len 0, d)

end Sys2Proof.Machine
end

