-- ==== Sys2Proof/Machine/Store.lean ====
section
/-! DEFINITION. The central store: where an address lies (R90 to R97), lines, ways and masks
(R100 to R106), DRAM sectors and poison (R422 to R425), prefetch, eviction, maintenance. -/

namespace Sys2Proof.Machine

/-! ### Addresses -/

/-- Usable DRAM bytes of a quarter (R90). -/
def dramBytes : Nat := 29999955968

/-- Where a physical request goes. -/
inductive Place where
  | dram (q off : Nat)
  | scratch (q way off : Nat)
  | regs (off : Nat)
  | bus (addr : Nat)
  | bad (status slice : Nat)
deriving DecidableEq, Repr

/-- Exclusive or of the thirteen 2-bit fields of a granule group (R91). -/
def foldGroup (g : Nat) : Nat := (List.range 13).foldl (fun a i => a ^^^ ((g >>> (2 * i)) % 4)) 0

/-- Quarter and DRAM offset of an interleaved offset (R91). -/
def interleave (o : Nat) : Nat × Nat :=
  let g := o / 16384
  ((((o / 4096) % 4) ^^^ foldGroup g), g * 4096 + o % 4096)

/-- The interleaved offset that reaches a DRAM offset of a quarter: the inverse of R91. -/
def uninterleave (q off : Nat) : Nat :=
  let g := off / 4096
  g * 16384 + (q ^^^ foldGroup g) * 4096 + off % 4096

/-- Scratch ways of slice `q`, ascending (R96). -/
def scratchWays (c : Cfg) (q : Nat) : List Nat := onesBelow 16 (c.ways q).scratch

/-- The check and the routing of a whole request of `len` bytes (R94, R96, R97, R379, R380, R382). -/
def place (c : Cfg) (d : Dev) (rq : Rq) (pa len : Nat) : Place :=
  let node := (pa / 2 ^ 44) % 16
  let region := (pa / 2 ^ 40) % 16
  let o := pa % 2 ^ 40
  if node = 0 then
    if region = 0 then
      if o + len ≤ 4 * dramBytes then .dram (interleave o).1 (interleave o).2 else .bad 0x07 4
    else if region ≤ 4 then
      if o + len ≤ dramBytes then .dram (region - 1) o else .bad 0x07 4
    else if region = 8 then
      let q := (o / 2 ^ 26) % 4
      let w := o % 2 ^ 26
      let ways := scratchWays c q
      if o / 2 ^ 28 ≠ 0 ∨ ways.length * 3145728 < w + len then .bad 0x08 q
      else
        let way := ways.getD (w / 3145728) 0
        if (c.ways q).owner.getD way 0xFF = rq.rc then .scratch q way (w % 3145728) else .bad 0x09 q
    else if region = 15 then
      if o / 2 ^ 26 ≠ 0 then .bad 0x07 4 else .regs (o % 2 ^ 26)
    else .bad 0x07 4
  else if node ≤ 7 then
    let a := pa % 2 ^ 44
    if a + len ≤ aget d.mmu.peerSize node * 65536 then .bus (aget d.mmu.peerBase node + a) else .bad 0x07 4
  else if node = 8 then .bus (pa % 2 ^ 44)
  else .bad 0x07 4

/-- Set index of line `l` (R93). -/
def storeSet (l : Nat) : Nat := 8192 * (l % 3) + ((l % 8192) ^^^ ((l / 8192) % 8192) ^^^ ((l / 2 ^ 26) % 4))

/-- A failed check of a request with no context is counted in CS_ERR (R94, R97). -/
def countDropped (rq : Rq) (status slice : Nat) (d : Dev) : Dev :=
  let q := if status = 0x07 then (if rq.quarter < 4 then rq.quarter else 0) else slice
  setSlice d q (fun s =>
    if status = 0x07 then { s with errPaRange := satInc 255 s.errPaRange }
    else if status = 0x08 then { s with errScratchRange := satInc 255 s.errScratchRange }
    else { s with errViol := satInc 255 s.errViol })

/-! ### DRAM sectors -/

/-- No error. -/
def noErr : SectorErr := ⟨0, 0, [], 0⟩

/-- Flip the listed data bits. -/
def flipBits (bs : List Byte) (l : List Nat) : List Byte :=
  l.foldl (fun bs i => bs.modify (i / 8) (fun b => b ^^^ BitVec.ofNat 8 (2 ^ (i % 8)))) bs

/-- A DRAM read of a sector (R424) that finds `e`, or what lies latent in the sector (R57). -/
def dramSector (q sec : Nat) (e : SectorErr) (d : Dev) : (List Byte × Bool) × Dev :=
  let s := sliceOf d q
  let e := if e = noErr then aget s.latent sec else e
  let field := aget s.dramPoison sec ^^^ (e.flips % 64)
  let n := popcount 6 field
  let data := memRead s.dram (sec * 32) 32
  if 4 ≤ n then
    let tabs := upd d.err.tabs q (fun t => { t with poisonRead := satInc 65535 t.poisonRead })
    let d := { d with err := { d.err with tabs := tabs } }
    ((data, true), d)
  else if e.code = 2 then
    let data := flipBits data (e.wrong.take 2)
    let d := setSlice d q (fun s => { s with
      dramPoison := aset s.dramPoison sec 0x3F, dram := memWrite s.dram (sec * 32) data, latent := aset s.latent sec noErr })
    ((data, true), logError q true 0 (sec * 32) (e.syndrome % 1024) d)
  else if n = 0 ∧ e.code = 0 then ((data, false), d)
  else ((data, false), logError q false 0 (sec * 32) (e.syndrome % 1024) d)

/-- The controller accepts a whole sector (R423); a poisoned one carries 0b11_1111. -/
def dramPut (q sec : Nat) (data : List Byte) (poison : Bool) (d : Dev) : Dev :=
  setSlice d q (fun s => { s with
    dram := memWrite s.dram (sec * 32) data
    dramPoison := aset s.dramPoison sec (if poison then 0x3F else 0)
    latent := aset s.latent sec noErr })

/-- One line enters the controller's write queue (R110). -/
def wqPush (q : Nat) (d : Dev) : Dev :=
  let s := sliceOf d q
  let n := Nat.min 256 (s.wq + 1)
  let enter := decide (192 ≤ n) && !s.drain
  let d := setSlice d q (fun s => { s with wq := n, drain := s.drain || enter })
  let d := obsCount 0x41 q 0xF none 2 d
  if enter then obsCount 0x43 q 0xF none 1 d else d

/-! ### Lines -/

/-- The line held by a way of a set. -/
def lineAt (d : Dev) (q set way : Nat) : Line := aget (sliceOf d q).lines (set * 16 + way)

/-- Change the line held by a way of a set. -/
def setLine (d : Dev) (q set way : Nat) (x : Line) : Dev :=
  setSlice d q (fun s => { s with lines := aset s.lines (set * 16 + way) x })

/-- LOC of the first byte of the line in a way of a set (R442). -/
def slotLoc (set way : Nat) : Nat := way * 2 ^ 48 + set * 128

/-- LOC of a line in the staging area (array 16) or in the side buffer (array 17): the numbering of the entries is the model's (R442). -/
def bufferLoc (array l : Nat) : Nat := array * 2 ^ 48 + l % 2 ^ 24 * 128

/-- The array reads sectors of a line in a way: a double-bit error sets the sector's poison bit (R421, R422). -/
def checkLine (q set way mask : Nat) (d : Dev) : Dev :=
  (onesBelow 4 mask).foldl (fun d i =>
    let r := chipRead q 1 (slotLoc set way + 32 * i) 32 d
    if r.1 = [] then r.2 else
    let x := lineAt r.2 q set way
    setLine r.2 q set way { x with poison := putBit x.poison i true }) d

/-- A line buffer of the staging area or the side buffer is read. -/
def checkBuffer (q array : Nat) (x : Line) (d : Dev) : Line × Dev :=
  (onesBelow 4 x.valid).foldl (fun (x, d) i =>
    let r := chipRead q 1 (bufferLoc array x.l + 32 * i) 32 d
    (if r.1 = [] then x else { x with poison := putBit x.poison i true }, r.2)) (x, d)

/-- The way that holds line `l`, whatever the mask (R102). -/
def findWay (d : Dev) (q l : Nat) : Option Nat :=
  (List.range 16).find? (fun w => let x := lineAt d q (storeSet l) w; x.present && x.l == l)

/-- Ways of slice `q` in cache mode. -/
def cacheWays (c : Cfg) (q : Nat) : Nat := maskAndNot 16 0xFFFF ((c.ways q).scratch ||| (c.ways q).trace)

/-- The allocation mask of a request in slice `q` (R101). For command work of a class that has no ENGINE_RC entry (FE, TOK, SEQ) R101 names no
second mask: the mask of the context's class stands alone (DESIGN CHOICE, log 156). -/
def allocMask (c : Cfg) (d : Dev) (q : Nat) (rq : Rq) : Nat :=
  let m := (c.ways q).rcMask
  let m0 := m.getD rq.rc 0 &&& (match rq.erc with
    | some e => m.getD e 0
    | none => 0xFFFF)
  let s := sliceOf d q
  maskAndNot 16 (m0 &&& cacheWays c q) (s.off ||| s.cleaning)

/-- Note an access for the recency order (R103). -/
def touch (q set way : Nat) (d : Dev) : Dev :=
  setSlice d q (fun s => { s with recency := amod s.recency set (fun l => way :: l.filter (· != way)) })

/-- The way an allocation takes: lowest invalid way of the mask, else the least recently accessed (R103). -/
def victim (d : Dev) (q set mask : Nat) : Option Nat :=
  let ws := onesBelow 16 mask
  match ws.find? (fun w => !(lineAt d q set w).present) with
  | some w => some w
  | none =>
    let order := aget (sliceOf d q).recency set
    match order.reverse.find? (fun w => ws.contains w) with
    | some w => some w
    | none => ws.head?

/-- Write the dirty sectors of a line to the controller (R110). -/
def writeBack (q : Nat) (x : Line) (d : Dev) : Dev :=
  if x.dirty = 0 then d else
  let d := (onesBelow 4 x.dirty).foldl (fun d i =>
    dramPut q (x.l * 4 + i) (slice x.data (32 * i) 32) (bit x.poison i) d) d
  wqPush q d

/-- Evict the line of a way. -/
def evict (q set way : Nat) (d : Dev) : Dev :=
  let d := checkLine q set way (lineAt d q set way).dirty d
  let x := lineAt d q set way
  let d := if x.dirty = 0 then d else obsCount 0x32 q 0xF none 1 d
  chipWrite q 1 (slotLoc set way) 128 (setLine (writeBack q x d) q set way default)

/-- Replace 32 bytes of a line. -/
def putSector (data : List Byte) (i : Nat) (bs : List Byte) : List Byte :=
  data.take (32 * i) ++ bs ++ data.drop (32 * i + 32)

/-- Fetch the sectors of `mask` that a line lacks. -/
def fetchSectors (q mask : Nat) (errs : List SectorErr) (x : Line) (d : Dev) : Line × Dev :=
  (onesBelow 4 (maskAndNot 4 mask x.valid)).foldl (fun (x, d) i =>
    let r := dramSector q (x.l * 4 + i) (errs.getD i noErr) d
    let d := obsCount 0x40 q 0xF none 1 r.2
    ({ x with valid := putBit x.valid i true, poison := putBit x.poison i r.1.2
              data := putSector x.data i r.1.1 }, d)) (x, d)

/-- An empty line of number `l`. -/
def freshLine (l : Nat) : Line := ⟨true, l, 0, 0, 0, List.replicate 128 0⟩

/-- The sectors of a line that `n` bytes from offset `o` touch, as a mask. -/
def touched (o n : Nat) : Nat := maskOf (sectorsOf o n)

/-- The bytes of a line with their sector marks. -/
def lineBytes (x : Line) (o n : Nat) : List PByte :=
  (slice x.data o n).zipIdx.map (fun (b, i) => (b, bit x.poison ((o + i) / 32)))

/-- A line with bytes written: sectors become valid and dirty, marks follow R425. -/
def lineStore (x : Line) (o : Nat) (data : List PByte) : Line :=
  let n := data.length
  let secs := sectorsOf o n
  { x with
    data := x.data.take o ++ pdata data ++ x.data.drop (o + n)
    valid := secs.foldl (fun m i => putBit m i true) x.valid
    dirty := secs.foldl (fun m i => putBit m i true) x.dirty
    poison := secs.foldl (fun m i => putBit m i (newMark (bit x.poison i) o n data i)) x.poison }

/-- The sectors that a write covers only in part. -/
def partialSectors (o n : Nat) : Nat := maskOf ((sectorsOf o n).filter (fun s => !coversSector o n s))

/-- The runs of bytes that a byte mask names, each with its offset (R104). -/
def maskRuns : Nat → List (Option PByte) → List (Nat × List PByte)
  | _, [] => []
  | o, none :: l => maskRuns (o + 1) l
  | o, some b :: l =>
    match maskRuns (o + 1) l with
    | (p, bs) :: rest => if p = o + 1 then (o, b :: bs) :: rest else (o, [b]) :: (p, bs) :: rest
    | [] => [(o, [b])]

/-- The sectors that a write of runs covers only in part: runs never touch, so each is judged alone. -/
def partialRuns (rs : List (Nat × List PByte)) : Nat := rs.foldl (fun m r => m ||| partialSectors r.1 r.2.length) 0

/-- The sectors that a write of runs touches. -/
def touchedRuns (rs : List (Nat × List PByte)) : Nat := rs.foldl (fun m r => m ||| touched r.1 r.2.length) 0

/-- A line with runs of bytes written. -/
def lineStoreRuns (x : Line) (rs : List (Nat × List PByte)) : Line := rs.foldl (fun x r => lineStore x r.1 r.2) x

/-! ### Side buffer and streams -/

/-- The requester's number for the write-stream trackers (R106). -/
def requesterCode (rq : Rq) : Nat := rq.cls * 64 + rq.quarter * 8 + rq.inst

/-- Take a side-buffer line for a demand access (R108, R109): the line when the context matches, and the slice without the entry. -/
def takeSide (q l : Nat) (rq : Rq) (d : Dev) : Option Line × Dev :=
  match (sliceOf d q).side.find? (fun e => e.l == l) with
  | none => (none, d)
  | some e =>
    let d := setSlice d q (fun s => { s with side := s.side.filter (fun e => e.l != l) })
    if e.ctx = rq.ctx then
      let r := checkBuffer q 17 ⟨true, l, 0xF, 0, e.poison, e.data⟩ (obsCount 0x35 q 0xF rq.ctx 1 d)
      (some r.1, chipWrite q 1 (bufferLoc 17 l) 128 r.2)
    else (none, obsCount 0x36 q 0xF none 1 d)

/-- The active tracker that a write miss of line `l` continues (R106). -/
def streamOf (d : Dev) (q l : Nat) (rq : Rq) : Option StreamTrk :=
  (sliceOf d q).trackers.find? (fun t => t.requester == requesterCode rq && t.l + 1 == l && decide (d.phe.tb < t.tb + 500))

/-- A write miss and the trackers: whether the write may allocate (R106). A tracker whose count is below 64 too ends 1 us after its last write
miss: R106 says so of a stream's tracker (DESIGN CHOICE, log 157). -/
def trackWrite (q l : Nat) (rq : Rq) (d : Dev) : Bool × Dev :=
  match streamOf d q l rq with
  | some t =>
    let t' := { t with l := l, count := t.count + 1, tb := d.phe.tb }
    let d := setSlice d q (fun s => { s with trackers := t' :: s.trackers.filter (· != t) })
    (decide (t.count < 64), if 64 ≤ t.count then obsCount 0x33 q 0xF rq.ctx 1 d else d)
  | none =>
    let rest := (sliceOf d q).trackers.filter (fun t => t.requester != requesterCode rq || decide (t.count < 64))
    (true, setSlice d q (fun s => { s with trackers := (⟨l, requesterCode rq, 1, d.phe.tb⟩ :: rest).take 16 }))

/-- Place a line in a way of the mask, evicting its victim; none when the mask is empty. -/
def allocate (c : Cfg) (q l : Nat) (rq : Rq) (d : Dev) : Option Nat × Dev :=
  match victim d q (storeSet l) (allocMask c d q rq) with
  | none => (none, d)
  | some w => (some w, evict q (storeSet l) w d)

/-! ### The staging area (R107) -/

/-- The staged write of line `l`. -/
def stagedAt (d : Dev) (q l : Nat) : Option Line := (sliceOf d q).staged.find? (fun x => x.l == l)

/-- The controller accepts a staged line, which leaves the staging area. -/
def acceptLine (q : Nat) (x : Line) (d : Dev) : Dev :=
  let r := checkBuffer q 16 x d
  chipWrite q 1 (bufferLoc 16 x.l) 128 (writeBack q r.1 (setSlice r.2 q (fun s => { s with staged := s.staged.filter (fun y => y.l != x.l) })))

/-- The controller accepts the staged write of line `l`, if there is one. -/
def acceptStaged (q l : Nat) (d : Dev) : Dev :=
  match stagedAt d q l with
  | some x => acceptLine q x d
  | none => d

/-- Capture packets of a write that a slice accepts elsewhere than in a scratch way, one for each sector, named by class 0 and the slice's quarter. R511
says each accepted write, and names the packet for a cache way: a write through the staging area gives the same one (DEDUCED, log 174). -/
def captureCache (c : Cfg) (q pa : Nat) (x : Line) (secs : List Nat) (d : Dev) : Dev :=
  if d.obs.capEn = false then d else
  secs.foldl (fun d i =>
    let a := (pa / 128) * 128 + 32 * i
    if d.obs.capBase ≤ a ∧ a < d.obs.capBase + d.obs.capLen * 65536 then
      obsEmit c 7 0x80 (if bit x.poison i then 2 else 0) (q % 4 * 256) ((a / 32) % 2 ^ 32) (slice x.data (32 * i) 32) d
    else d) d

/-- A write through the staging area: whole sectors go to the controller, partial ones are merged first (R104, R106). It stays in its line buffer
while the controller's queue of 256 lines is full (R110); a write that finds all 64 line buffers taken waits until the oldest is accepted. -/
def stagedWrite (c : Cfg) (q pa l : Nat) (runs : List (Nat × List PByte)) (errs : List SectorErr) (d : Dev) : Dev :=
  let d := acceptStaged q l d
  let r := fetchSectors q (partialRuns runs) errs (freshLine l) d
  let x := lineStoreRuns r.1 runs
  let d := captureCache c q pa x (onesBelow 4 (touchedRuns runs)) r.2
  if (sliceOf d q).wq < 256 then writeBack q x d
  else
    let d := match (sliceOf d q).staged with
      | y :: rest => if 63 ≤ rest.length then acceptLine q y d else d
      | [] => d
    setSlice d q (fun s => { s with staged := s.staged ++ [{ x with valid := touchedRuns runs, dirty := touchedRuns runs }] })

/-! ### Line accesses -/

/-- A read of bytes of one line, served with its eviction and fill (R104, R107, R108, R112). -/
def lineRead0 (c : Cfg) (q : Nat) (rq : Rq) (l o n : Nat) (errs : List SectorErr) (d : Dev) : List PByte × Dev :=
  if (sliceOf d q).memLost then (List.replicate n (0, true), d) else
  match findWay d q l with
  | some w =>
    let d := checkLine q (storeSet l) w (touched o n &&& (lineAt d q (storeSet l) w).valid) d
    let x := lineAt d q (storeSet l) w
    let hit := maskAndNot 4 (touched o n) x.valid == 0
    let d := obsCount (if hit then 0x30 else 0x31) q 0xF rq.ctx 1 d
    let r := fetchSectors q (touched o n) errs x d
    (lineBytes r.1 o n, touch q (storeSet l) w (setLine r.2 q (storeSet l) w r.1))
  | none =>
    match stagedAt d q l with
    | some y =>
      if maskAndNot 4 (touched o n) y.valid = 0 then
        let r := checkBuffer q 16 y (obsCount 0x30 q 0xF rq.ctx 1 d)
        (lineBytes r.1 o n, setSlice r.2 q (fun s => { s with staged := s.staged.map (fun z => if z.l = l then r.1 else z) }))
      else lineMiss c q rq l o n errs (acceptLine q y d)
    | none => lineMiss c q rq l o n errs d
where
  /-- A read of a line that no way and no line buffer of the staging area holds. -/
  lineMiss (c : Cfg) (q : Nat) (rq : Rq) (l o n : Nat) (errs : List SectorErr) (d : Dev) : List PByte × Dev :=
    let r := takeSide q l rq d
    let d := r.2
    let r : Line × Dev := match r.1 with
      | some x => (x, obsCount 0x30 q 0xF rq.ctx 1 d)
      | none => fetchSectors q 0xF errs (freshLine l) (obsCount 0x31 q 0xF rq.ctx 1 d)
    let x := r.1
    if rq.noalloc then (lineBytes x o n, r.2) else
    match allocate c q l rq r.2 with
    | (none, d) => (lineBytes x o n, d)
    | (some w, d) => (lineBytes x o n, touch q (storeSet l) w (setLine d q (storeSet l) w x))

/-- A write of runs of bytes of one line, served with its eviction and fill (R104, R106, R112). -/
def lineWrite0 (c : Cfg) (q : Nat) (rq : Rq) (pa l : Nat) (runs : List (Nat × List PByte)) (errs : List SectorErr) (d : Dev) : Dev :=
  if (sliceOf d q).memLost then
    setSlice d q (fun s => { s with errLostWrite := satInc 255 s.errLostWrite })
  else
  let finish := fun (w : Nat) (x : Line) (d : Dev) =>
    let r := fetchSectors q (partialRuns runs) errs x d
    let x := lineStoreRuns r.1 runs
    let d := runs.foldl (fun d r => chipWrite q 1 (slotLoc (storeSet l) w + r.1) r.2.length d) r.2
    captureCache c q pa x (onesBelow 4 (touchedRuns runs)) (touch q (storeSet l) w (setLine d q (storeSet l) w x))
  match findWay d q l with
  | some w => finish w (lineAt d q (storeSet l) w) (obsCount 0x30 q 0xF rq.ctx 1 d)
  | none =>
    match takeSide q l rq (acceptStaged q l d) with
    | (some x, d) =>
      match allocate c q l rq (obsCount 0x30 q 0xF rq.ctx 1 d) with
      | (some w, d) => finish w x d
      | (none, d) => stagedWrite c q pa l runs errs d
    | (none, d) =>
      let t := trackWrite q l rq (obsCount 0x31 q 0xF rq.ctx 1 d)
      if t.1 = false ∨ rq.noalloc then stagedWrite c q pa l runs errs t.2 else
      match allocate c q l rq t.2 with
      | (some w, d) => finish w (freshLine l) d
      | (none, d) => stagedWrite c q pa l runs errs d

/-! ### Requests that wait (R105) -/

/-- What a store request answers. -/
def answer (data : List PByte) (ok : Bool) (d : Dev) : Dev :=
  { d with host := { d.host with storeRead := ⟨pdata data, ppoison data, ok⟩ } }

/-- Quarter, line and offset in the line of a request that reaches DRAM. -/
def fillLine (c : Cfg) (d : Dev) (f : Fill) : Option (Nat × Nat × Nat) :=
  match place c d f.rq f.pa f.len with
  | .dram q off => some (q, off / 128, off % 128)
  | _ => none

/-- A request for one DRAM line is performed, with what its DRAM reads find. -/
def serveLine (c : Cfg) (q l o : Nat) (f : Fill) (errs : List SectorErr) (d : Dev) : Dev :=
  match f.wdata with
  | some w => answer [] true (lineWrite0 c q f.rq f.pa l (maskRuns o w) errs d)
  | none =>
    let r := lineRead0 c q f.rq l o f.len errs d
    answer r.1 true r.2

/-- The requests that wait for line `l` of slice `q`, in the order in which they came. -/
def waitersOf (c : Cfg) (d : Dev) (q l : Nat) : List Fill :=
  (sliceOf d q).waiting.filter (fun f => match fillLine c d f with
    | some (q', l', _) => q' == q && l' == l
    | none => false)

/-- The requests of a line that came earlier are performed before a later access to the line (R105). -/
def serveWaiting (c : Cfg) (q l : Nat) (d : Dev) : Dev :=
  match waitersOf c d q l with
  | [] => d
  | ws =>
    ws.foldl (fun d f => serveLine c q l (((fillLine c d f).map (fun p => p.2.2)).getD 0) f [] d)
      (setSlice d q (fun s => { s with waiting := s.waiting.filter (fun f => !ws.contains f) }))

/-- A read of bytes of one line, after the requests of the line that came earlier. -/
def lineRead (c : Cfg) (q : Nat) (rq : Rq) (l o n : Nat) (errs : List SectorErr) (d : Dev) : List PByte × Dev :=
  lineRead0 c q rq l o n errs (serveWaiting c q l d)

/-- A write of bytes of one line, after the requests of the line that came earlier. -/
def lineWrite (c : Cfg) (q : Nat) (rq : Rq) (pa l o : Nat) (data : List PByte) (errs : List SectorErr) (d : Dev) : Dev :=
  lineWrite0 c q rq pa l [(o, data)] errs (serveWaiting c q l d)

/-! ### Scratch ways -/

/-- LOC of a byte of a scratch way (R96, R442). -/
def scratchLoc (way o : Nat) : Nat := way * 2 ^ 48 + o

/-- A read of a scratch way; a double-bit error sets the poison bit of its sector (R421, R422). -/
def scratchRead (q way o n : Nat) (d : Dev) : List PByte × Dev :=
  let a := way * 3145728 + o
  let r := chipRead q 1 (scratchLoc way (o / 32 * 32)) ((o + n + 31) / 32 * 32 - o / 32 * 32) d
  let d := if r.1 = [] then r.2 else setSlice r.2 q (fun s => { s with
    scratchPoison := r.1.foldl (fun p i => aset p (way * 98304 + i % 2 ^ 43) true) s.scratchPoison })
  let s := sliceOf d q
  ((memRead s.scratch a n).zipIdx.map (fun (b, i) => (b, aget s.scratchPoison ((a + i) / 32))), d)

/-- A write to a scratch way, with its CAPTURE_COUNT packet (R511). -/
def scratchWrite (c : Cfg) (q way o pa : Nat) (data : List PByte) (d : Dev) : Dev :=
  let a := way * 3145728 + o
  let n := data.length
  let d := setSlice (chipWrite q 1 (scratchLoc way o) n d) q (fun s => { s with
    scratch := memWrite s.scratch a (pdata data)
    scratchPoison := (sectorsOf a n).foldl (fun p i => aset p i (newMark (aget p i) a n data i)) s.scratchPoison })
  if d.obs.capEn = true ∧ d.obs.capBase ≤ pa ∧ pa < d.obs.capBase + d.obs.capLen * 65536 ∧ 0 < n then
    obsEmit c 7 0x81 0 (q % 4 * 256) (sectorsOf a n).length [] d
  else d

/-! ### Requests -/

/-- The pieces of a request, line by line: address and length. -/
def linePieces (pa len : Nat) : List (Nat × Nat) :=
  if len = 0 then [] else
  (List.range ((pa + len - 1) / 128 - pa / 128 + 1)).map (fun i =>
    let lo := Nat.max pa ((pa / 128 + i) * 128)
    (lo, Nat.min (pa + len) ((pa / 128 + i) * 128 + 128) - lo))

/-- A read of BAR 0 through region 0xF: as the host's, but the UPD block and the update mailbox read zero (R380). -/
def regsRead (c : Cfg) (o len : Nat) (d : Dev) : List Byte × Dev :=
  if 0x60000 ≤ o ∧ o < 0xA0000 then (List.replicate len 0, d) else bar0Read c o len d

/-- A read of physical bytes: status (0 performed) and data. A failed check performs nothing (R94). -/
def physRead (c : Cfg) (rq : Rq) (pa len : Nat) (errs : List SectorErr) (d : Dev) : Nat × List PByte × Dev :=
  match place c d rq pa len with
  | .bad st sl =>
    (st, List.replicate len (0, false), if rq.ctx = none then countDropped rq st sl d else d)
  | .regs o => let r := regsRead c o len d; (0, mark false r.1, r.2)
  | .bus a => let r := busRead d a len; (0, r.1, r.2)
  | .scratch q way o => (0, scratchRead q way o len d)
  | .dram _ _ =>
    let r := (linePieces pa len).foldl (fun (acc, d) p =>
      match place c d rq p.1 p.2 with
      | .dram q off =>
        let r := lineRead c q rq (off / 128) (off % 128) p.2 errs d
        (acc ++ r.1, r.2)
      | _ => (acc, d)) (([] : List PByte), d)
    (0, r.1, r.2)

/-- A write of physical bytes: status (0 performed). -/
def physWrite (c : Cfg) (rq : Rq) (pa : Nat) (data : List PByte) (errs : List SectorErr) (d : Dev) : Nat × Dev :=
  match place c d rq pa data.length with
  | .bad st sl => (st, if rq.ctx = none then countDropped rq st sl d else d)
  | .regs o =>
    if (data.length = 4 ∨ data.length = 8) ∧ o % data.length = 0 then
      (0, { d with notes := d.notes ++ [.regWrite o (pdata data)] })
    else (0, d)
  | .bus a => (0, busWrite d a data)
  | .scratch q way o => (0, scratchWrite c q way o pa data d)
  | .dram _ _ =>
    (0, (linePieces pa data.length).foldl (fun d p =>
      match place c d rq p.1 p.2 with
      | .dram q off =>
        lineWrite c q rq p.1 (off / 128) (off % 128) ((data.drop (p.1 - pa)).take p.2) errs d
      | _ => d) d)

/-- A prefetch of one line (R108), and the status of a request that fails its check (R94, R97): it is dropped when the line is resident, in
staging or in the side buffer, and when supply is short (S1). -/
def prefetchLine (c : Cfg) (rq : Rq) (pa : Nat) (errs : List SectorErr) (d : Dev) : Nat × Dev :=
  match place c d rq pa 1 with
  | .dram q off =>
    let l := off / 128
    let s := sliceOf d q
    if decide (1 ≤ d.pwr.stage) || s.memLost || (findWay d q l).isSome || (stagedAt d q l).isSome || s.side.any (fun e => e.l == l) ||
        waitersOf c d q l != [] then (0, d)
    else
      let r := fetchSectors q 0xF errs (freshLine l) d
      let d := setSlice (chipWrite q 1 (bufferLoc 17 l) 128 r.2) q (fun s => { s with
        side := (⟨l, rq.ctx, r.1.poison, r.1.data⟩ :: s.side).take 256 })
      (0, obsCount 0x34 q 0xF none 1 d)
  | .bad st sl => (st, if rq.ctx = none then countDropped rq st sl d else d)
  | _ => (0, d)

/-! ### Maintenance (R113, R116) -/

/-- The physical aliases of a line of quarter `q` (R92). -/
def aliases (q l : Nat) : List Nat := [uninterleave q (l * 128), (1 + q) * 2 ^ 40 + l * 128]

/-- Whether `[pa, pa + len)` meets the line, and whether it covers it whole. -/
def rangeHits (q l pa len : Nat) : Bool × Bool :=
  let al := aliases q l
  (al.any (fun a => decide (a < pa + len) && decide (pa < a + 128)),
   al.any (fun a => decide (pa ≤ a) && decide (a + 128 ≤ pa + len)))

/-- Treat one line held by a way: 1 CLEAN, 2 INVALIDATE, 3 CLEAN_INVALIDATE; a line covered in part is
cleaned and invalidated under INVALIDATE. -/
def maintLine (op : Nat) (whole : Bool) (q idx : Nat) (d : Dev) : Dev :=
  let d := checkLine q (idx / 16) (idx % 16) (aget (sliceOf d q).lines idx).dirty d
  let x := aget (sliceOf d q).lines idx
  if x.present = false ∨ op = 0 ∨ 3 < op then d else
  let d := if op = 2 ∧ whole then d else writeBack q x d
  let x' : Line := if op = 1 then { x with dirty := 0 } else default
  setSlice d q (fun s => { s with lines := aset s.lines idx x' })

/-- Treat a staged line: its data goes to the controller, or INVALIDATE discards it when it is covered whole. -/
def maintStaged (op : Nat) (whole : Bool) (q : Nat) (x : Line) (d : Dev) : Dev :=
  if op = 2 ∧ whole then setSlice d q (fun s => { s with staged := s.staged.filter (fun y => y.l != x.l) })
  else acceptLine q x d

/-- Treat every line of a physical range, whatever its home slice: the requests that wait for a line of it are performed first, lines in ways and
in staging are treated, and side-buffer lines are discarded by an invalidation. -/
def maintRange (c : Cfg) (op pa len : Nat) (d : Dev) : Dev :=
  if op = 0 ∨ 3 < op then d else
  (List.range 4).foldl (fun d q =>
    let ls := ((sliceOf d q).waiting.filterMap (fun f => (fillLine c d f).map (fun p => p.2.1))).filter (fun l => (rangeHits q l pa len).1)
    let d := ls.foldl (fun d l => serveWaiting c q l d) d
    let idxs := (sliceOf d q).lines.filter (fun p => (rangeHits q p.2.l pa len).1)
    let d := idxs.foldl (fun d p => maintLine op (rangeHits q p.2.l pa len).2 q p.1 d) d
    let d := ((sliceOf d q).staged.filter (fun x => (rangeHits q x.l pa len).1)).foldl (fun d x => maintStaged op (rangeHits q x.l pa len).2 q x d) d
    if op = 2 ∨ op = 3 then
      setSlice d q (fun s => { s with side := s.side.filter (fun e => !(rangeHits q e.l pa len).1) })
    else d) d

/-- Clean and invalidate every line of the ways in `mask` (R119). -/
def cleanWays (q mask : Nat) (d : Dev) : Dev :=
  ((sliceOf d q).lines.filter (fun p => bit mask (p.1 % 16))).foldl (fun d p => maintLine 3 true q p.1 d) d

/-- Zero scratch ways of slice `q` (R98). -/
def zeroScratch (q mask : Nat) (d : Dev) : Dev :=
  (onesBelow 16 mask).foldl (fun d w => setSlice d q (fun s => { s with
    scratch := memZero s.scratch (w * 3145728) ((w + 1) * 3145728)
    scratchPoison := s.scratchPoison.filter (fun p => !(decide (w * 98304 ≤ p.1) && decide (p.1 < (w + 1) * 98304))) })) d

/-- Zero every scratch way owned by class `rc`, in every slice; requests to them wait (R98). -/
def zeroClass (c : Cfg) (rc : Nat) (d : Dev) : Dev :=
  (List.range 4).foldl (fun d q =>
    let mask := maskOf ((scratchWays c q).filter (fun w => (c.ways q).owner.getD w 0xFF == rc))
    setSlice (zeroScratch q mask d) q (fun s => { s with zeroing := s.zeroing ||| mask })) d

/-- Discard the side-buffer entries of a context (R109). -/
def flushSide (ctx : Nat) (d : Dev) : Dev :=
  (List.range 4).foldl (fun d q =>
    let n := ((sliceOf d q).side.filter (fun e => e.ctx == some ctx)).length
    obsCount 0x36 q 0xF none n
      (setSlice d q (fun s => { s with side := s.side.filter (fun e => e.ctx != some ctx) }))) d

/-- A quarter's memory is lost: its dirty lines are discarded with the rest of what the slice caches (R112). -/
def loseMemory (q : Nat) (d : Dev) : Dev :=
  let d := setSlice d q (fun s => { s with memLost := true, lines := [], side := [], staged := [], recency := [] })
  if q = 0 then { d with pwr := { d.pwr with keepReady := false } } else d

end Sys2Proof.Machine
end

