-- ==== Sys2Proof/Machine/Mmu.lean ====
section
/-! DEFINITION. Address translation: page-table walks (R383 to R385), caches (R386 to R388), fault
batches and replay (R389 to R393), and the accesses that engines make at virtual addresses (R395). -/

namespace Sys2Proof.Machine

/-! ### Walks -/

/-- Position of a level's index in a virtual address, its width, and its table's size: levels 3 to 0 (R383). -/
def levelShift : Nat → Nat
  | 3 => 39
  | 2 => 30
  | 1 => 21
  | _ => 16

/-- Entries of a table. -/
def levelEntries (level : Nat) : Nat := if level = 0 then 32 else 512

/-- Whether a table of a level may stand at `pa`: aligned to its size, in node 0, region 0x0 to 0x4, in the valid range (R383). -/
def tableOk (level pa : Nat) : Bool :=
  let size := levelEntries level * 8
  let o := pa % 2 ^ 40
  pa % size == 0 && decide (pa / 2 ^ 44 = 0) && decide (pa / 2 ^ 40 ≤ 4) &&
    (if pa / 2 ^ 40 = 0 then decide (o + size ≤ 4 * dramBytes) else decide (o + size ≤ dramBytes))

/-- How a walk ends. -/
inductive WalkRes where
  | leaf (e : TlbEnt)
  | fault (kind level entry entryPa : Nat)
deriving DecidableEq, Repr

/-- What one table entry says (R384, R385), in the order of R385. -/
inductive EntryRes where
  | pointer (pa : Nat)
  | leaf (e : TlbEnt)
  | fault (kind : Nat)
deriving DecidableEq, Repr

/-- The checks of R385 on entry `v` read at `level` for a request that writes or not. -/
def checkEntry (ctx va level v : Nat) (poisoned write : Bool) : EntryRes :=
  let addr := (bits v 47 8) * 256
  let isPtr := bit v 1
  let size := levelShift level
  let badPtr := isPtr && (bit v 2 || bit v 3 || bit v 4 || level == 0 || !tableOk (level - 1) addr)
  let badLeaf := !isPtr && (level == 3 || decide (addr % 2 ^ size ≠ 0))
  if poisoned then .fault 5
  else if !bit v 0 then .fault 1
  else if bits v 55 48 ≠ 0 ∨ bits v 7 5 ≠ 0 ∨ badPtr = true ∨ badLeaf = true then .fault 4
  else if isPtr then .pointer addr
  else if bit v 3 then .fault 3
  else if write && !bit v 2 then .fault 2
  else .leaf ⟨ctx, (va / 2 ^ size) * 2 ^ size, size, addr, bit v 2, bit v 4⟩

/-- The walker's requests: through the store without allocating (R100, R383). -/
def rqWalk : Rq := { rqZero 13 with noalloc := true }

/-- Read one table entry. -/
def readEntry (c : Cfg) (pa : Nat) (d : Dev) : (Nat × Bool) × Dev :=
  let r := physRead c rqWalk pa 8 [] d
  ((leNat (pdata r.2.1), ppoison r.2.1), r.2.2)

/-- Keep a table pointer in the walk cache (R386, 1,024 entries). -/
def putWalk (e : WcEnt) (d : Dev) : Dev :=
  { d with mmu := { d.mmu with wc := (e :: d.mmu.wc.filter (· != e)).take 1024 } }

/-- A walk from a table of level `n` at `table` (R385). -/
def walkFrom (c : Cfg) (ctx va : Nat) (write : Bool) : Nat → Nat → Dev → WalkRes × Dev
  | 0, table, d => walkLevel 0 table d (fun _ d => (.fault 4 0 0 table, d))
  | n + 1, table, d => walkLevel (n + 1) table d (fun pa d => walkFrom c ctx va write n pa d)
where
  walkLevel (level table : Nat) (d : Dev) (next : Nat → Dev → WalkRes × Dev) : WalkRes × Dev :=
    let ea := table + 8 * ((va / 2 ^ levelShift level) % levelEntries level)
    let r := readEntry c ea d
    match checkEntry ctx va level r.1.1 r.1.2 write with
    | .fault k => (.fault k level r.1.1 ea, r.2)
    | .leaf e => (.leaf e, r.2)
    | .pointer pa =>
      let span := levelShift level
      next pa (putWalk ⟨ctx, level, (va / 2 ^ span) * 2 ^ span, pa⟩ r.2)

/-- The deepest table that the walk cache knows for an address: level to start at, and its table. -/
def walkStart (d : Dev) (ctx va : Nat) : Nat × Nat :=
  let hit := fun lvl => d.mmu.wc.find? (fun e =>
    e.ctx == ctx && e.level == lvl && e.va == (va / 2 ^ levelShift lvl) * 2 ^ levelShift lvl)
  match hit 1, hit 2, hit 3 with
  | some e, _, _ => (0, e.pa)
  | none, some e, _ => (1, e.pa)
  | none, none, some e => (2, e.pa)
  | none, none, none => (3, (aget d.fe.ctxs ctx).root)

/-- A walk of an address in a context; how many SCLK periods it takes, no rule fixes (log 165). -/
def walk (c : Cfg) (ctx va : Nat) (write : Bool) (d : Dev) : WalkRes × Dev :=
  let s := walkStart d ctx va
  let d := { d with freeCount := d.freeCount + 1 }
  walkFrom c ctx va write s.1 s.2
    (obsCount 0x54 4 0xF (some ctx) (Config.periods 0x54 0 d.freeCount % 2 ^ 16) (obsCount 0x53 4 0xF (some ctx) 1 d))

/-! ### Caches -/

/-- Whether a cached leaf serves a request: a leaf with W 0 never serves a write (R387). -/
def tlbServes (ctx va : Nat) (write : Bool) (e : TlbEnt) : Bool :=
  e.ctx == ctx && e.va == (va / 2 ^ e.size) * 2 ^ e.size && (!write || e.w)

/-- The units with a micro-TLB: ME, SNE, Mule, shader cores, TOK, TIL, COMP, PACK and CVU (R386). -/
def hasUtlb (rq : Rq) : Bool := decide (1 ≤ rq.cls) && decide (rq.cls ≤ 9)

/-- The set of a leaf in a shared TLB of 256 sets and 8 ways: the low bits of its page number, whatever the page's size (DESIGN CHOICE, log 19). -/
def tlbSet (e : TlbEnt) : Nat := (e.va / 2 ^ e.size) % 256

/-- A leaf comes first in a shared TLB; of its set the seven used last remain. -/
def putShared (e : TlbEnt) (l : List TlbEnt) : List TlbEnt :=
  let older := (l.filter (fun x => tlbSet x == tlbSet e)).drop 7
  e :: l.filter (fun x => !older.contains x)

/-- The micro-TLB of a requester. -/
def utlbIdx (rq : Rq) : Nat := rq.cls * 32 + (if rq.quarter < 4 then rq.quarter * 8 else 0) + rq.inst

/-- Keep a leaf in the requester's micro-TLB (32 entries) and, for a quarter, in its shared TLB (2,048 entries). -/
def putLeaf (rq : Rq) (e : TlbEnt) (d : Dev) : Dev :=
  let drop := fun (l : List TlbEnt) => l.filter (fun x => !(x.ctx == e.ctx && x.va == e.va && x.size == e.size))
  let utlb := if hasUtlb rq then amod d.mmu.utlb (utlbIdx rq) (fun l => (e :: drop l).take 32) else d.mmu.utlb
  let stlb := if rq.quarter < 4 then upd d.mmu.stlb rq.quarter (fun l => putShared e (drop l)) else d.mmu.stlb
  { d with mmu := { d.mmu with utlb := utlb, stlb := stlb } }

/-- A translation through micro-TLB, shared TLB and walk (R386). FE and SEQ have neither TLB. -/
def translate (c : Cfg) (rq : Rq) (ctx va : Nat) (write : Bool) (d : Dev) : WalkRes × Dev :=
  let va := va % 2 ^ 48
  let own := if hasUtlb rq then (aget d.mmu.utlb (utlbIdx rq)).find? (tlbServes ctx va write) else none
  match own with
  | some e => (.leaf e, d)
  | none =>
    let d := if hasUtlb rq then obsCount 0x50 rq.quarter 0xF (some ctx) 1 d else d
    let shared := if rq.quarter < 4 then (d.mmu.stlb.getD rq.quarter []).find? (tlbServes ctx va write) else none
    match shared with
    | some e => (.leaf e, putLeaf rq e (obsCount 0x51 rq.quarter 0xF (some ctx) 1 d))
    | none =>
      let d := if rq.quarter < 4 then obsCount 0x52 rq.quarter 0xF (some ctx) 1 d else d
      let r := walk c ctx va write d
      match r.1 with
      | .leaf e => (.leaf e, putLeaf rq e r.2)
      | .fault .. => r

/-- Remove the cached entries of a context that meet `[va, va + len)`; pointers whose span meets it (R397). -/
def dropCached (ctx : Option Nat) (va len : Nat) (d : Dev) : Dev :=
  let mine := fun (x : Nat) => match ctx with
    | some k => x == k
    | none => true
  let meets := fun (base size : Nat) => decide (base < va + len) && decide (va < base + 2 ^ size)
  let keepLeaf := fun (e : TlbEnt) => !(mine e.ctx && meets e.va e.size)
  let m := d.mmu
  { d with mmu := { m with
    utlb := m.utlb.foldl (fun a p => aset a p.1 (p.2.filter keepLeaf)) m.utlb
    stlb := m.stlb.map (fun l => l.filter keepLeaf)
    wc := m.wc.filter (fun e => !(mine e.ctx && meets e.va (levelShift e.level))) } }

/-! ### Fault batches -/

/-- A fault record's bytes (R390). -/
def faultBytes (batch : Nat) (r : FaultRec) : List Byte :=
  leBytes 1 r.kind ++ leBytes 1 r.ctx ++ leBytes 1 r.access ++ leBytes 1 r.level ++ leBytes 4 batch ++
    leBytes 8 r.va ++ leBytes 8 r.entry ++ leBytes 1 r.cls ++ leBytes 1 r.quarter ++ leBytes 1 r.inst ++
    leBytes 1 r.count ++ leBytes 4 0

/-- Whether the fault ring has room for `n` records (R393). -/
def faultRoom (m : MmuSt) (n : Nat) : Bool :=
  m.enable && decide ((m.wptr + 2 ^ 32 - m.rptr) % 2 ^ 32 + n ≤ 1024)

/-- Write a closed batch's records into the ring, then take its number and raise the interrupt (R391). -/
def writeBatch (c : Cfg) (no : Nat) (recs : List FaultRec) (d : Dev) : Dev :=
  let d := recs.foldl (fun d r =>
    let a := d.mmu.base + (d.mmu.wptr % 1024) * 32
    let d := (physWrite c (rqZero 13) a (mark false (faultBytes no r)) [] d).2
    { d with mmu := { d.mmu with wptr := (d.mmu.wptr + 1) % 2 ^ 32 } }) d
  obsEmit c 3 0x31 0 0xF2 no [] (raise 9 { d with mmu := { d.mmu with closed := no } })

/-- Close the open batch; it waits on chip when the ring has no room or is not enabled (R393). -/
def closeBatch (c : Cfg) (d : Dev) : Dev :=
  let m := d.mmu
  if m.openRecs = [] then d else
  let d1 := { d with mmu := { m with openRecs := [], openNo := (m.openNo + 1) % 2 ^ 32 } }
  if m.waitq = [] ∧ faultRoom m m.openRecs.length then writeBatch c m.openNo m.openRecs d1
  else { d1 with mmu := { d1.mmu with waitq := m.waitq ++ [(m.openNo, m.openRecs)], ringFull := satInc 255 m.ringFull } }

/-- Write the batches that wait, oldest first, as long as the ring has room (R393). -/
def drainBatches (c : Cfg) : Nat → Dev → Dev
  | 0, d => d
  | n + 1, d =>
    match d.mmu.waitq with
    | [] => d
    | (no, recs) :: rest =>
      if faultRoom d.mmu recs.length then
        drainBatches c n (writeBatch c no recs { d with mmu := { d.mmu with waitq := rest } })
      else d

/-- QUARTER and INSTANCE of a record (R390). -/
def faultInst (rq : Rq) : Nat := if rq.quarter < 4 ∨ rq.cls = 8 ∨ rq.cls = 9 then rq.inst else 0xFF

/-- A request that faults stalls; its fault joins the open batch or merges into its record (R391). -/
def addFault (c : Cfg) (rq : Rq) (ctx va access kind level entry entryPa : Nat) (d : Dev) : Dev :=
  let m := d.mmu
  let cls := if rq.cls = 14 then 0xF3 else rq.cls
  let q := if rq.quarter < 4 then rq.quarter else 0xFF
  let same := fun (r : FaultRec) => r.ctx == ctx && r.entryPa == entryPa
  let recs := if m.openRecs.any same then
      m.openRecs.map (fun r => if same r then { r with access := r.access ||| access, count := satInc 255 r.count } else r)
    else m.openRecs ++ [⟨kind, ctx, access, level, va % 2 ^ 48, entry, entryPa, cls, q, faultInst rq, 1⟩]
  let st : Stall := ⟨ctx, va % 2 ^ 48, access, rq.cls, rq.quarter, rq.inst, m.openNo, rq.serial⟩
  let t := if m.openRecs = [] then d.phe.tb else m.openTb
  let d := { d with mmu := { m with openRecs := recs, openTb := t, stalled := m.stalled ++ [st] } }
  if d.mmu.countCfg ≤ recs.length then closeBatch c d else d

/-- Whether a unit holds a stalled request of a context: it issues nothing further (R389). -/
def unitStalled (d : Dev) (rq : Rq) : Bool :=
  d.mmu.stalled.any (fun s => some s.ctx == rq.ctx && s.cls == rq.cls && s.quarter == rq.quarter && s.inst == rq.inst && s.serial == rq.serial)

/-! ### Accesses at virtual addresses -/

/-- Whether ranges of `n` bytes at `a` and `m` bytes at `b` share a byte: a virtual address is its low 48 bits (R378). -/
def vaMeet (a n b m : Nat) : Bool :=
  decide (0 < n) && decide (0 < m) &&
    (decide ((b % 2 ^ 48 + 2 ^ 48 - a % 2 ^ 48) % 2 ^ 48 < n) || decide ((a % 2 ^ 48 + 2 ^ 48 - b % 2 ^ 48) % 2 ^ 48 < m))

/-- Why an engine stops within a unit of work: a stalled request (R389), a losing status (R348), an invalid payload (R157). -/
inductive Stop where
  | stall
  | fail (status : Nat)
  | invalid
deriving DecidableEq, Repr

/-- Work of an engine over the device: it may stop, and what it did before stays done. -/
abbrev Eng (α : Type) := ExceptT Stop (StateM Dev) α

/-- Run engine work. -/
def runEng {α : Type} (e : Eng α) (d : Dev) : Except Stop α × Dev := e d

/-- An operation on the device that cannot stop. -/
def liftDev (f : Dev → Dev) : Eng Unit := modify f

/-- The parts of a range, split at 64 KiB page boundaries (R395). -/
def pageParts (va len : Nat) : List (Nat × Nat) :=
  if len = 0 then [] else
  (List.range ((va + len - 1) / 65536 - va / 65536 + 1)).map (fun i =>
    let lo := Nat.max va ((va / 65536 + i) * 65536)
    (lo, Nat.min (va + len) ((va / 65536 + i) * 65536 + 65536) - lo))

/-- Physical address of a virtual address through a leaf. -/
def leafPa (e : TlbEnt) (va : Nat) : Nat := e.pa + (va % 2 ^ 48) % 2 ^ e.size

/-- What came of an access's parts so far: the first losing status, and whether a part stalled. -/
structure Parts where
  status : Nat
  stalled : Bool
  data : List PByte
deriving DecidableEq, Repr

/-- A read at virtual addresses: every part that translates is performed at once (R395). `access` as in R390. -/
def virtRead (c : Cfg) (rq : Rq) (ctx va len access : Nat) (d : Dev) : Parts × Dev :=
  (pageParts va len).foldl (fun (acc, d) p =>
    let t := translate c rq ctx p.1 false d
    match t.1 with
    | .leaf e =>
      let r := physRead c { rq with noalloc := rq.noalloc || e.noalloc } (leafPa e p.1) p.2 [] t.2
      (⟨if acc.status = 0 then r.1 else acc.status, acc.stalled, acc.data ++ r.2.1⟩, r.2.2)
    | .fault k l v a =>
      (⟨acc.status, true, acc.data ++ List.replicate p.2 (0, false)⟩, addFault c rq ctx p.1 access k l v a t.2))
    (⟨0, false, []⟩, d)

/-- A write at virtual addresses. -/
def virtWrite (c : Cfg) (rq : Rq) (ctx va : Nat) (data : List PByte) (d : Dev) : Parts × Dev :=
  (pageParts va data.length).foldl (fun (acc, d) p =>
    let t := translate c rq ctx p.1 true d
    match t.1 with
    | .leaf e =>
      let r := physWrite c { rq with noalloc := rq.noalloc || e.noalloc } (leafPa e p.1)
        ((data.drop (p.1 - va)).take p.2) [] t.2
      (⟨if acc.status = 0 then r.1 else acc.status, acc.stalled, []⟩, r.2)
    | .fault k l v a => (⟨acc.status, true, []⟩, addFault c rq ctx p.1 2 k l v a t.2))
    (⟨0, false, []⟩, d)

/-- Stop an engine where an access stalled or failed. -/
def partsDone (r : Parts × Dev) : Eng (List PByte) := do
  set r.2
  if r.1.stalled then throw .stall
  else if r.1.status ≠ 0 then throw (.fail r.1.status)
  else pure r.1.data

/-- The instance that a requester is. -/
def rqInst (rq : Rq) : Nat := instIdx rq.cls (if quarterClass rq.cls then rq.quarter else 0) rq.inst

/-- Bytes of the buffer that the operands of a class pass through: SNE 512 KiB, Mule staging and TOK's working memory 32 KiB (R34); an ME's are its own
structure. -/
def bufBytes (cls : Nat) : Nat := if cls = 2 then 524288 else if cls = 3 ∨ cls = 5 then 32768 else 0

/-- What an engine has read stands in its buffer, which keeps the last bytes that it has room for (DESIGN CHOICE, log 166). -/
def stageBytes (rq : Rq) (l : List PByte) (d : Dev) : Dev :=
  if bufBytes rq.cls = 0 then d
  else setInst d (rqInst rq) (fun s =>
    let b := s.buf ++ l
    { s with buf := b.drop (b.length - bufBytes rq.cls) })

/-- What an engine writes while its buffer holds an uncorrectable error is poisoned (R429). -/
def tainted (rq : Rq) (d : Dev) : Bool := ((instOf d (rqInst rq)).run.map (·.taint)).getD false

/-- An access of work that a replay goes on with (R389): performed already, it answers as it did; otherwise it is performed and kept. -/
def once (k kind va len : Nat) (op : Eng (List PByte)) : Eng (List PByte) := do
  let s := instOf (← get) k
  match s.pos with
  | none => op
  | some n =>
    match s.log[n]? with
    | some e =>
      if e.kind = kind ∧ e.va = va ∧ e.len = len then do
        liftDev (fun d => setInst d k (fun s => { s with pos := some (n + 1) }))
        pure e.data
      else do
        liftDev (fun d => setInst d k (fun s => { s with log := s.log.take n }))
        let l ← op
        liftDev (fun d => setInst d k (fun s => { s with log := s.log ++ [⟨kind, va, len, l⟩], pos := some (n + 1) }))
        pure l
    | none => do
      let l ← op
      liftDev (fun d => setInst d k (fun s => { s with log := s.log ++ [⟨kind, va, len, l⟩], pos := some (n + 1) }))
      pure l

/-- An operation on registers in work that a replay goes on with: it takes place once. -/
def onceDo (k : Nat) (f : Dev → Dev) : Eng Unit := do
  let _ ← once k 3 0 0 (do liftDev f; pure [])

/-- Work of instance `k` that a replay goes on with: the accesses performed before a stall are kept and not performed again. -/
def resumable {α : Type} (k : Nat) (e : Eng α) : Eng α := fun d =>
  match runEng e (setInst d k (fun s => { s with pos := some 0 })) with
  | (.error .stall, d) => (.error .stall, setInst d k (fun s => { s with pos := none }))
  | (r, d) => (r, setInst d k (fun s => { s with log := [], pos := none }))

/-- An engine's read in its command's context. -/
def eRead (c : Cfg) (rq : Rq) (va len : Nat) : Eng (List PByte) := once (rqInst rq) 0 va len do
  let l ← partsDone (virtRead c rq (rq.ctx.getD 0) va len 1 (← get))
  set (stageBytes rq l (← get))
  pure l

/-- An engine's write in its command's context. -/
def eWrite (c : Cfg) (rq : Rq) (va : Nat) (data : List PByte) : Eng Unit := do
  let _ ← once (rqInst rq) 1 va data.length do
    let d ← get
    partsDone (virtWrite c rq (rq.ctx.getD 0) va (if tainted rq d then mark true (pdata data) else data) d)
  pure ()

/-- An indivisible read-modify-write of up to 64 bits, which nodes 1 to 8 refuse with PA_RANGE (R381): the old bytes. -/
def eRmw (c : Cfg) (rq : Rq) (va len : Nat) (f : List PByte → List PByte) : Eng (List PByte) := once (rqInst rq) 2 va len do
  let ctx := rq.ctx.getD 0
  let d ← get
  let t := translate c rq ctx va true d
  match t.1 with
  | .fault k l v a => do
    set (addFault c rq ctx va 4 k l v a t.2)
    throw .stall
  | .leaf e =>
    let pa := leafPa e va
    match place c t.2 rq pa len with
    | .bus _ => do
      set t.2
      throw (.fail 0x07)
    | _ =>
      let r := physRead c { rq with noalloc := rq.noalloc || e.noalloc } pa len [] t.2
      if r.1 ≠ 0 then do
        set r.2.2
        throw (.fail r.1)
      else do
        let w := physWrite c { rq with noalloc := rq.noalloc || e.noalloc } pa (f r.2.1) [] r.2.2
        set w.2
        pure r.2.1

end Sys2Proof.Machine
end

