-- ==== Sys2Proof/Machine/Fe.lean ====
section
/-! DEFINITION. The front end: rings and commands, fences (R350, R351), reference counts (R353, R354),
completion records (R347 to R349), the loss sequence (R334) and the device fault state (R437). -/

namespace Sys2Proof.Machine

/-! ### Access -/

/-- Change ring `r`. -/
def setRing (d : Dev) (r : Nat) (f : Ring → Ring) : Dev :=
  { d with fe := { d.fe with rings := amod d.fe.rings r f } }

/-- A command by its serial number: of a ring, or of the kernel queue. -/
def cmdOf (d : Dev) (serial : Nat) : Option Cmd :=
  ((d.fe.rings.flatMap (fun p => p.2.cmds)) ++ d.fe.kqCmds).find? (fun x => x.serial == serial)

/-- Change a command by its serial number. -/
def setCmd (d : Dev) (serial : Nat) (f : Cmd → Cmd) : Dev :=
  let g := fun (l : List Cmd) => l.map (fun x => if x.serial == serial then f x else x)
  { d with fe := { d.fe with
    rings := amapAll d.fe.rings (fun _ r => { r with cmds := g r.cmds }), kqCmds := g d.fe.kqCmds } }

/-- The oldest undispatched command of a ring. -/
def oldestWaiting (r : Ring) : Option Cmd :=
  r.cmds.find? (fun x => x.phase == .fetched || x.phase == .armed)

/-- The device fault state holds (R437). -/
def faulted (d : Dev) : Bool := d.err.devFault != 0

/-! ### Entries (R342, R345) -/

/-- A phase specifier (R76). -/
def parseSpec (b : List Byte) (o : Nat) : PhaseSpec :=
  ⟨getLe b o 1, getLe b (o + 1) 1, getLe b (o + 2) 2, getLe b (o + 8) 8⟩

/-- A ring entry from its 128 bytes; counts and numbers out of range act as R345 says. -/
def parseEntry (b : List Byte) : Entry :=
  { cls := getLe b 0 1, quarter := getLe b 1 1 % 4, mask := getLe b 2 2, op := getLe b 4 2
    flags := getLe b 6 1 % 8, ring := getLe b 7 1 % 64
    objects := (List.range (Nat.min 8 (getLe b 8 1))).map (fun i => getLe b (0x18 + 2 * i) 2)
    waits := (List.range (Nat.min 2 (getLe b 9 1))).map
               (fun i => (getLe b (0x28 + 16 * i) 2 % 4096, getLe b (0x30 + 16 * i) 8))
    tag := getLe b 0xC 4, payload := getLe b 0x10 8, sigFence := getLe b 0x48 2 % 4096
    sigValue := getLe b 0x50 8, start := parseSpec b 0x58, deadline := parseSpec b 0x68 }

/-- FLAGS bits. -/
def Entry.afterAll (e : Entry) : Bool := bit e.flags 0
/-- FLAGS bit 1. -/
def Entry.hasSignal (e : Entry) : Bool := bit e.flags 1
/-- FLAGS bit 2. -/
def Entry.notify (e : Entry) : Bool := bit e.flags 2

/-- Whether an entry can be routed to an engine or the FE (R343); MGMT only on the kernel queue. -/
def routable (e : Entry) : Bool :=
  (e.cls == 0 && (e.op == 1 || e.op == 2)) || (decide (1 ≤ e.cls) && decide (e.cls ≤ 9))

/-- The input queue of an entry: class × 4 + quarter, quarter 0 for spine units (R22). -/
def queueOf (e : Entry) : Nat := e.cls * 4 + (if 1 ≤ e.cls ∧ e.cls ≤ 4 then e.quarter else 0)

/-! ### Reference counts -/

/-- A RELEASE, CONTEXT_LOST or MGMT record for the KQ completion queue; it waits while that queue is full or
not enabled (R349). -/
def kqRoom (f : FeSt) : Bool :=
  f.kqEnable && decide ((f.kqCqWptr + 2 ^ 32 - f.kqCqRptr) % 2 ^ 32 < f.kqCqSize)

/-- Write a record into the KQ completion queue. -/
def kqPut (bytes : List Byte) (d : Dev) : Dev :=
  let f := d.fe
  let d := busWrite d (f.kqCqBase + (f.kqCqWptr % f.kqCqSize) * 32) (mark false bytes)
  { d with fe := { d.fe with kqCqWptr := (f.kqCqWptr + 1) % 2 ^ 32 } }

/-- Release of an object: its record and its interrupt (R354). -/
def releaseBytes (obj : Nat) : List Byte := leBytes 1 0x20 ++ leBytes 1 0 ++ leBytes 2 obj ++ leBytes 28 0

/-- Put a record that names nothing to release, or let it wait. -/
def kqRecord (bytes : List Byte) (objects : List Nat) (d : Dev) : Bool × Dev :=
  if faulted d then (false, d)
  else if d.fe.kqRecs = [] ∧ kqRoom d.fe then (true, kqPut bytes d)
  else
    let f := d.fe
    (false, raise 14 { d with fe := { f with kqRecs := f.kqRecs ++ [⟨bytes, objects, none⟩], cqFull := satInc 255 f.cqFull } })

/-- A take or an ADD (R354). -/
def refAdd (obj n : Nat) (take : Bool) (d : Dev) : Dev :=
  let f := d.fe
  let v := aget f.refs obj
  let sat := decide (16777215 < v + n)
  { d with fe := { f with
    refs := aset f.refs obj (Nat.min 16777215 (v + n))
    refSat := if sat then satInc 255 f.refSat else f.refSat
    refFromZero := if take && v == 0 then satInc 255 f.refFromZero else f.refFromZero } }

/-- A drop (R354): a release at zero posts a RELEASE record. -/
def refDrop (obj n : Nat) (d : Dev) : Dev :=
  let f := d.fe
  let v := aget f.refs obj
  if v < n then
    { d with fe := { f with refs := aset f.refs obj 0, refUnderflow := satInc 255 f.refUnderflow } }
  else
    let d := { d with fe := { f with refs := aset f.refs obj (v - n) } }
    if v = n ∧ 0 < n ∧ faulted d = false then raise 8 (kqRecord (releaseBytes obj) [] d).2 else d

/-- The take of each listed handle at fetch (R346 step 1). -/
def takeRefs (objs : List Nat) (d : Dev) : Dev := objs.foldl (fun d o => refAdd o 1 true d) d

/-- The drop of each listed handle (R346 step 7). -/
def dropRefs (objs : List Nat) (d : Dev) : Dev := objs.foldl (fun d o => refDrop o 1 d) d

/-! ### Fences -/

/-- Evaluate the waits of a command against the fences (R351). -/
def evalWaits (d : Dev) (x : Cmd) : Nat :=
  if x.entry.waits.all (fun w => decide (w.2 ≤ (aget d.fe.fences w.1).v)) then
    (if x.entry.waits.any (fun w => (aget d.fe.fences w.1).e) then 2 else 1)
  else 0

/-- A command whose waits are no longer satisfied is not ready any more: its specifiers are resolved again when it is (DEDUCED, log 172). -/
def unready (x : Cmd) : Cmd :=
  { x with phase := .fetched, ready := false, startTarget := none, specWait := false, startLate := false, deadlineTarget := none, deadlineEpoch := 0 }

/-- Re-evaluate every command that names a fence and is not dispatched (R351). -/
def reevaluate (fence : Nat) (d : Dev) : Dev :=
  let g := fun (x : Cmd) =>
    if (x.phase == .fetched || x.phase == .armed) && x.entry.waits.any (fun w => w.1 == fence) then
      let w := evalWaits d x
      { (if w = 0 ∧ x.ready = true then unready x else x) with waitRes := w }
    else x
  { d with fe := { d.fe with
    rings := amapAll d.fe.rings (fun _ r => { r with cmds := r.cmds.map g }), kqCmds := d.fe.kqCmds.map g } }

/-- A signal of value `s` (R350). -/
def signal (fence s : Nat) (err : Bool) (d : Dev) : Dev :=
  if faulted d then d else
  let v := (aget d.fe.fences fence).v
  if s < v then raise 7 { d with fe := { d.fe with fenceRegress := satInc 255 d.fe.fenceRegress } }
  else if s = v then d
  else reevaluate fence { d with fe := { d.fe with fences := aset d.fe.fences fence ⟨s, err⟩ } }

/-! ### Completion (R346 to R349) -/

/-- RC-class request of the FE for a ring of a context (R100). -/
def rqFe (c : Cfg) (ctx : Nat) : Rq := ⟨some ctx, 0, 4, 0, c.contextRc ctx, none, false, none⟩

/-- A read at virtual addresses that drops silently where a part does not translate (R389), and the device after it. -/
def peekRead (c : Cfg) (rq : Rq) (ctx va len : Nat) (d : Dev) : Option (List PByte) × Dev :=
  (pageParts va len).foldl (fun (acc, d) p =>
    match acc with
    | none => (none, d)
    | some l =>
      let t := translate c rq ctx p.1 false d
      match t.1 with
      | .leaf e =>
        let r := physRead c { rq with noalloc := rq.noalloc || e.noalloc } (leafPa e p.1) p.2 [] t.2
        if r.1 = 0 then (some (l ++ r.2.1), r.2.2) else (none, t.2)
      | .fault .. => (none, t.2)) (some [], d)

/-- DEADLINE_MISSED and DEADLINE_UNKNOWN of a completion (R82), as FLAGS bits 2 and 3. -/
def deadlineFlags (d : Dev) (x : Cmd) : Nat :=
  let s := x.entry.deadline
  if s.kind = 0 ∨ 4 < s.kind ∨ 10 < s.ref then 0 else
  let r := refOf d s.ref
  match x.deadlineTarget with
  | none => 8
  | some t =>
    if !refValid r || r.epoch != x.deadlineEpoch then 8
    else if stampAfter (refStamp r) t then 4 else 0

/-- The 32 bytes of a COMMAND record (R347). -/
def commandRecord (c : Cfg) (d : Dev) (x : Cmd) (status : Nat) : List Byte :=
  let r := refOf d (c.ring x.ring).ref
  let flags := b2n x.poisoned + 2 * b2n x.startLate + deadlineFlags d x
  let dur := if x.ran then Nat.min 0xFFFFFFFF (d.phe.tb - x.dispatchTb) else 0
  leBytes 1 0x01 ++ leBytes 1 status ++ leBytes 1 flags ++ leBytes 1 x.entry.cls ++ leBytes 4 x.entry.tag ++
    leBytes 4 x.index ++ leBytes 1 x.ring ++ leBytes 1 x.ctx ++ leBytes 1 (if x.ran then x.instNo else 0xFF) ++
    leBytes 1 0 ++ leBytes 8 (if refValid r then refStamp r else 0) ++ leBytes 4 dur ++ leBytes 4 0

/-- Whether a ring's completion queue has room. -/
def cqRoom (r : Ring) : Bool := decide ((r.cqWptr + 2 ^ 32 - r.cqRptr) % 2 ^ 32 < r.cqSize)

/-- Write a record into a ring's completion queue: the status of its check. When that fails, the records that wait are discarded too, and their
references dropped (R533). -/
def cqPut (c : Cfg) (ring : Nat) (bytes : List Byte) (d : Dev) : Nat × Dev :=
  let r := ringOf d ring
  let a := r.cqBase + (r.cqWptr % r.cqSize) * 32
  let w := if a / 2 ^ 44 = 8 then (0, busWrite d (a % 2 ^ 44) (mark false bytes))
    else physWrite c (rqFe c r.ctx) a (mark false bytes) [] d
  if w.1 = 0 then
    (0, obsCount 0xB1 4 0xF (some r.ctx) 1
      (setRing w.2 ring (fun r => { r with cqWptr := (r.cqWptr + 1) % 2 ^ 32 })))
  else
    (w.1, dropRefs (r.waitRecs.flatMap (fun w => w.objects)) (setRing w.2 ring (fun r => { r with cqDiscard := true, waitRecs := [] })))

/-- A record for a ring's completion queue: written, discarded (R533), or waiting (R349). Its status is that of a
failed check, which loses the ring's context. -/
def ringRecord (c : Cfg) (ring : Nat) (bytes : List Byte) (objs : List Nat) (notify : Option Nat) (d : Dev) : Nat × Dev :=
  if faulted d then (0, d) else
  let r := ringOf d ring
  let fin := fun (d : Dev) => dropRefs objs (match notify with
    | some s => raise s d
    | none => d)
  if r.cqDiscard then (0, dropRefs objs d)
  else if r.waitRecs = [] ∧ cqRoom r then
    let w := cqPut c ring bytes d
    if w.1 = 0 then (0, fin w.2) else (w.1, dropRefs objs w.2)
  else
    let d := setRing d ring (fun r => { r with waitRecs := r.waitRecs ++ [⟨bytes, objs, notify⟩] })
    (0, raise 14 { d with fe := { d.fe with cqFull := satInc 255 d.fe.cqFull } })

/-- The CMD_START and CMD_END argument (R509). -/
def cmdArg (x : Cmd) : Nat := x.ring % 64 + (x.ctx % 64) * 64 + (x.index % 65536) * 4096

/-- Trace source word of a unit (R508). -/
def srcWord (cls q i : Nat) : Nat := cls % 256 + (q % 4) * 256 + (i % 16) * 1024

/-- A lane that becomes empty loses a positive deficit (R362). -/
def trimLane (idx : Nat) (d : Dev) : Dev :=
  if aget d.sched.lanes idx = [] ∧ 0 < aget d.sched.deficit idx then
    { d with sched := { d.sched with deficit := aset d.sched.deficit idx 0 } }
  else d

/-- A command's tokens leave their lanes (R362). -/
def dropTokens (serial : Nat) (d : Dev) : Dev :=
  let mine := (d.sched.lanes.filter (fun p => p.2.contains serial)).map (·.1)
  mine.foldl (fun d idx =>
    trimLane idx { d with sched := { d.sched with lanes := amod d.sched.lanes idx (fun l => l.filter (· != serial)) } }) d

/-- Remove a command from its ring or from the kernel queue, its tokens from their lane, and its units from
instances that have no stalled request. -/
def withdraw (d : Dev) (x : Cmd) : Dev :=
  let drop := fun (l : List Cmd) => l.filter (fun y => y.serial != x.serial)
  let d := { d with fe := { d.fe with
    rings := amapAll d.fe.rings (fun _ r => { r with cmds := drop r.cmds }), kqCmds := drop d.fe.kqCmds } }
  let d := dropTokens x.serial d
  let insts := amapAll d.sched.insts (fun _ i => match i.run with
    | some r => if r.serial == x.serial then { i with run := none, lastCtx := some r.ctx } else i
    | none => i)
  { d with sched := { d.sched with insts := insts } }

/-- Steps 5 to 7 of R346 for a command that ends with `status`: signal, record, release. `sig` is
false where no SIGNAL may be applied (R431). Answers a losing status of the record write. -/
def finishCmd (c : Cfg) (x : Cmd) (status : Nat) (sig : Bool) (d : Dev) : Nat × Dev :=
  let d := withdraw d x
  let d := if sig && x.entry.hasSignal then signal x.entry.sigFence x.entry.sigValue (status != 0) d else d
  let arg := cmdArg x + (if status < 0x10 then status else 0xF) * 2 ^ 28
  let d := obsEmit c 0 0x02 (if x.poisoned then 2 else 0) (srcWord x.entry.cls x.entry.quarter 0) arg [] d
  let bytes := commandRecord c d x status
  let notify := if x.entry.notify then some (32 + x.ring) else none
  let objs := if sig then x.entry.objects else []
  let r : Nat × Dev := if x.toKq then
      let k := kqRecord bytes objs d
      (0, if k.1 then dropRefs objs k.2 else k.2)
    else ringRecord c x.ring bytes objs notify d
  (r.1, { r.2 with notes := r.2.notes ++ [.done x status] })

/-! ### Loss of a context (R334) -/

/-- Commands of a context that are fetched and not completed, in ring order. -/
def cmdsOfCtx (d : Dev) (ctx : Nat) : List Cmd :=
  (d.fe.rings.flatMap (fun p => p.2.cmds)).filter (fun x => x.ctx == ctx)

/-- The CONTEXT_LOST record (R347). -/
def ctxLostBytes (ctx cause : Nat) : List Byte :=
  leBytes 1 0x21 ++ leBytes 1 cause ++ leBytes 11 0 ++ leBytes 1 ctx ++ leBytes 18 0

/-- A command of a lost context completes: withdrawn, error signal, record (R334 steps 2, 3 and 5). -/
def loseCmd (c : Cfg) (status : Nat) (d : Dev) (x : Cmd) : Dev :=
  let d := withdraw d x
  let d := if x.entry.hasSignal then signal x.entry.sigFence x.entry.sigValue true d else d
  let bytes := commandRecord c d x status
  let notify := if x.entry.notify then some (32 + x.ring) else none
  let arg := cmdArg x + (if status < 0x10 then status else 0xF) * 2 ^ 28
  let d := obsEmit c 0 0x02 0 (srcWord x.entry.cls x.entry.quarter 0) arg [] d
  let d := (ringRecord c x.ring bytes x.entry.objects notify d).2
  { d with notes := d.notes ++ [.done x status] }

/-- Steps 1 and 2 of R334: the state word becomes LOST, and commands not dispatched complete CONTEXT_LOST. -/
def lossStart (c : Cfg) (ctx cause : Nat) (d : Dev) : Dev :=
  let d := { d with fe := { d.fe with ctxs := amod d.fe.ctxs ctx (fun x => { x with state := 2, cause := cause }) } }
  let d := obsEmit c 3 0x30 0 0 (ctx % 64 + cause * 256) [] d
  ((cmdsOfCtx d ctx).filter (fun x => x.phase == .fetched || x.phase == .armed)).foldl (loseCmd c 0x13) d

/-- The primary chains that run on a context's rings: ring, cycle, epoch (R229). -/
def primaries (d : Dev) (ctx : Nat) : List (Nat × Nat × Nat) :=
  ((d.dlm.flatMap (fun s => s.chains)).filter (fun h =>
    (h.kind == 0 || h.kind == 1) && decide (h.ring < 8) && (ringOf d h.ring).bound && (ringOf d h.ring).ctx == ctx)).map
    (fun h => (h.ring, h.cmark.cycle, h.epoch))

/-- Steps 3 to 6 of R334: running commands complete CONTEXT_LOST, or with the code of their own in `own`; stalled requests are
discarded (R394); scratch ways are zeroed and side-buffer entries discarded; the CONTEXT_LOST record and its interrupt. -/
def lossFinish (c : Cfg) (ctx cause : Nat) (own : List (Nat × Nat)) (d : Dev) : Dev :=
  let running := primaries d ctx
  let mine := cmdsOfCtx d ctx
  let isOwn := fun (x : Cmd) => own.any (fun p => p.1 == x.serial)
  let d := { d with mmu := { d.mmu with stalled := d.mmu.stalled.filter (fun s => s.ctx != ctx) } }
  let d := flushSide ctx (zeroClass c (c.contextRc ctx) d)
  let status := fun (x : Cmd) => ((own.find? (fun p => p.1 == x.serial)).map (·.2)).getD 0x13
  let d := (mine.filter isOwn ++ mine.filter (fun x => !isOwn x)).foldl (fun d x => loseCmd c (status x) d x) d
  let d := raise 6 (kqRecord (ctxLostBytes ctx cause) [] d).2
  { d with notes := d.notes ++ [.ctxLost ctx cause running] }

/-- The loss sequence of an ACTIVE context (R333, R334): `own` gives commands that complete with a code of their own. -/
def loseContext (c : Cfg) (ctx cause : Nat) (own : List (Nat × Nat)) (d : Dev) : Dev :=
  if (ctxOf d ctx).state ≠ 1 ∨ faulted d then d
  else lossFinish c ctx cause own (lossStart c ctx cause d)

/-- Whether a status loses its context (R348). -/
def loses (status : Nat) : Bool := (decide (1 ≤ status) && decide (status ≤ 0x0A)) || status == 0x18

/-- A command ends with a status: a losing one runs the loss sequence, any other completes it alone. -/
def endCmd (c : Cfg) (x : Cmd) (status : Nat) (d : Dev) : Dev :=
  if loses status && (ctxOf d x.ctx).state == 1 then
    loseContext c x.ctx status [(x.serial, status)] (setCmd d x.serial (fun y => { y with phase := .finished }))
  else
    let r := finishCmd c x (if loses status then 0x13 else status) true d
    if r.1 = 0 then r.2 else loseContext c x.ctx r.1 [] r.2

/-! ### Device fault state (R437) -/

/-- Entry into the device fault state with its cause. -/
def enterDevFault (c : Cfg) (cause : Nat) (d : Dev) : Dev :=
  if faulted d then d else
  let ctxs := (List.range 64).foldl (fun a i => amod a i (fun x => { x with state := 2 })) d.fe.ctxs
  let d := { d with fe := { d.fe with ctxs := ctxs }, err := { d.err with devFault := cause, aerInternal := true } }
  let d := obsEmit c 3 0x33 0 0 cause [] d
  { d with notes := d.notes ++ [.devFault] }

/-! ### Readiness (R77, R79, R351) -/

/-- Whether a specifier has an effect. -/
def specActive (s : PhaseSpec) (deadline : Bool) : Bool :=
  decide (1 ≤ s.kind) && decide (s.kind ≤ (if deadline then 4 else 3)) && decide (s.ref ≤ 10)

/-- A start target from a valid stamp (R77). -/
def startTargetOf (s : PhaseSpec) (stamp : Nat) : Nat :=
  if s.kind = 1 then s.value else if s.kind = 2 then nextAngle s.value stamp else (stamp + s.value) % 2 ^ 64

/-- A deadline's target at readiness: kinds 1 to 3. -/
def deadlineTargetOf (d : Dev) (x : Cmd) : Option Nat :=
  let s := x.entry.deadline
  let r := refOf d s.ref
  if !specActive s true || s.kind == 4 || !refValid r then none
  else if s.kind = 1 then some s.value
  else if s.kind = 3 then some ((refStamp r + s.value) % 2 ^ 64)
  else
    let from_ := match x.startTarget with
      | some t => if x.entry.start.ref = s.ref then t else refStamp r
      | none => refStamp r
    some (nextAngle s.value from_)

/-- The comparator of a ring finds its target reached (R78). -/
def targetReached (d : Dev) (x : Cmd) : Bool :=
  match x.startTarget with
  | some t => let r := refOf d x.entry.start.ref; refValid r && !stampAfter t (refStamp r)
  | none => false

/-- Resolve the specifiers of a command at the moment of its readiness, or when its reference enters LOCKED (R77). -/
def resolveSpecs (d : Dev) (x : Cmd) : Cmd :=
  let s := x.entry.start
  let r := refOf d s.ref
  let x := if specActive s false && x.startTarget == none && (refValid r || s.kind == 1) then
      { x with startTarget := some (startTargetOf s (refStamp r)) } else x
  let l := x.entry.deadline
  let ep := if l.kind = 1 then l.epoch else (refOf d l.ref).epoch
  let wait := specActive s false && !refValid r
  let later := l.ref == s.ref && (l.kind == 2 || l.kind == 3)
  -- at the lock only a deadline of the same reference that depends on a stamp is resolved; any other was resolved at readiness
  if x.specWait && !later then { x with specWait := wait }
  else if wait && later then { x with specWait := true, deadlineEpoch := ep }
  else { x with specWait := wait, deadlineTarget := deadlineTargetOf d x, deadlineEpoch := ep }

/-- The quarter of a command that waits for its start, or whose token is posted, leaves IDLE-Q (R460). -/
def clocksRun (e : Entry) (d : Dev) : Dev :=
  if quarterClass e.cls then { d with pwr := { d.pwr with idleq := putBit d.pwr.idleq e.quarter false } } else d

/-- What becomes of the oldest undispatched command of a ring: it becomes ready, its comparator is armed,
or it ends DEPENDENCY_FAILED or PHASE_LOST. None when nothing changes. -/
def readyChange (c : Cfg) (ring : Nat) (d : Dev) : Option Dev :=
  let r := ringOf d ring
  match r.cmds.find? (fun x => (x.phase == .fetched || x.phase == .armed) && x.waitRes == 2) with
  | some x => some (endCmd c x 0x14 d)
  | none =>
    match oldestWaiting r with
    | none => none
    | some x =>
      let s := x.entry.start
      let active := specActive s false
      let rf := refOf d s.ref
      let earlier := r.cmds.any (fun y => y.serial < x.serial)
      if x.waitRes = 1 ∧ (x.entry.afterAll && earlier) = false ∧ x.ready = false then
        if active && (rf.state == 0 || rf.state == 4 || (s.kind == 1 && s.epoch != rf.epoch)) then
          some (endCmd c { x with ready := true } 0x15 d)
        else
          let y := resolveSpecs d { x with ready := true }
          let late := active && targetReached d y
          let d := setCmd d x.serial (fun _ => { y with phase := if active then .armed else .fetched, startLate := late })
          some (if active then clocksRun x.entry d else d)
      else if x.phase = .armed ∧ (rf.state = 0 ∨ rf.state = 4 ∨ (s.kind = 1 ∧ s.epoch ≠ rf.epoch)) then
        some (endCmd c x 0x15 d)
      else if x.phase = .armed ∧ x.specWait = true ∧ refValid rf = true then
        let y := resolveSpecs d x
        some (setCmd d x.serial (fun _ => { y with startLate := x.startLate || targetReached d y }))
      else none

/-- Apply readiness changes over all rings until none remains. -/
def settleRings (c : Cfg) : Nat → Dev → Dev
  | 0, d => d
  | n + 1, d =>
    match d.fe.rings.findSome? (fun p => readyChange c p.1 d) with
    | some d' => settleRings c n d'
    | none =>
      match d.fe.kqCmds.find? (fun x => x.phase == .fetched && x.waitRes == 2) with
      | some x => settleRings c n (endCmd c x 0x14 d)
      | none => d

/-- A bound on how many readiness changes one event can cause. -/
def settleFuel (d : Dev) : Nat := 4 * (d.fe.rings.map (fun p => p.2.cmds.length + 1)).sum + 4

end Sys2Proof.Machine
end

