-- ==== Sys2Proof/Machine/Phe.lean ====
section
/-! DEFINITION. The phase engine: the passing of time, conditioned inputs, alignment and the states of
references (R61 to R84), and the maintenance window (R85, R86). -/

namespace Sys2Proof.Machine

/-! ### Rates -/

/-- Frame period of a display pipe in TBCLK periods: lines × pixels per line at PIXEL_KHZ (R70), rounded down, which R70 leaves open (DESIGN CHOICE,
log 153). -/
def framePeriod (c : Cfg) (p : Nat) : Nat :=
  let r := c.disp p
  let h := r.hActive + r.hFront + r.hSync + r.hBack
  let v := r.vActive + r.vFront + r.vSync + r.vBack
  if r.pixelKhz = 0 then 1 else (h * v * 500000) / r.pixelKhz

/-- INC of a reference (R70); 0 while it does not interpolate. -/
def refInc (c : Cfg) (n : Nat) (r : RefSt) : Nat :=
  if refMode c n = 3 ∨ !refValid r ∨ r.period = 0 then 0 else 2 ^ 48 / r.period

/-- A reference after `k` TBCLK periods: it interpolates, and a held stamp waits for the edge-based value. -/
def refAdvance (c : Cfg) (n k : Nat) (r : RefSt) : RefSt :=
  if n = 10 then
    if refValid r then { r with count := r.count + k, acc := (r.count + k) * 2 ^ 48 / 500000 } else r
  else
    let t := refInc c n r * k
    { r with acc := r.acc + (t - r.hold), hold := r.hold - t }

/-- Turns of a ring's REF, in 2^-48 turn, over `k` TBCLK periods: as its stamp moves, or at its last PERIOD_TICKS while it has no valid stamp (R84). -/
def turnsIn (c : Cfg) (d : Dev) (n k : Nat) : Int :=
  let r := refOf d n
  if refValid r then ((refAdvance c n k r).acc : Int) - r.acc
  else ((k * (2 ^ 48 / (if r.everLocked && r.period != 0 then r.period else 10000000)) : Nat) : Int)

/-- TBCLK periods until a reference has turned by `need`, in 2^-48 turn; none where no passing of time takes it there: a mode-Q shaft turns by its
steps alone. -/
def ticksToTurn (c : Cfg) (n need : Nat) (d : Dev) : Option Nat :=
  let r := refOf d n
  if need = 0 then some 0
  else if !refValid r then some (ceilDiv need (Nat.max 1 (turnsIn c d n 1).toNat))
  else if n = 10 then some (ceilDiv ((r.acc + need) * 500000) (2 ^ 48) - r.count)
  else
    let inc := refInc c n r
    if inc = 0 then none else some (ceilDiv (need + r.hold) inc)

/-- TBCLK periods until the age of a ring's command has grown by `need` (R371, R84). -/
def ticksToAge (c : Cfg) (d : Dev) (ring need : Nat) : Option Nat :=
  let g := c.ring ring
  if g.unit = 0 then some need else ticksToTurn c g.ref need d

/-- The limit that the age of a command is compared with (R371): TIMEOUT in microseconds or in turns. -/
def timeoutLimit (c : Cfg) (ring : Nat) : Nat :=
  let g := c.ring ring
  if g.unit = 0 then (if g.timeout = 0 then 20000 else g.timeout) * 500
  else (if g.timeout = 0 then 20000 else g.timeout) * 2 ^ 48

/-- Lane of a ring's command. -/
def laneIdx (e : Entry) (ring : Nat) : Nat := queueOf e * 64 + ring

/-- Whether a command's token waits in an input queue (R359): not every unit was handed out. -/
def tokenQueued (d : Dev) (x : Cmd) : Bool := (aget d.sched.lanes (laneIdx x.entry x.ring)).contains x.serial

/-- Whether a dispatched command's timeout stands still: its token waits in a queue whose engines are in a service
window, or its ring is one of 8 to 63 while hand-out is stopped (R371). -/
def timeoutPaused (d : Dev) (x : Cmd) : Bool :=
  (decide (8 ≤ x.ring) && rrHeld d) ||
  (decide (1 ≤ x.entry.cls) && decide (x.entry.cls ≤ 4) && tokenQueued d x &&
    (instOf d (instIdx x.entry.cls x.entry.quarter 0)).window)

/-- The monitor whose FALLBACK_RING a ring is (R230, R532). -/
def gateOf (c : Cfg) (ring : Nat) : Option Nat :=
  (List.range 8).find? (fun r => match c.dlm r with
    | some m => m.fallbackRing == ring
    | none => false)

/-- Whether the monitor gates a command: it stands inside a chain (R230). -/
def insideChain (d : Dev) (mon : Nat) (r : Ring) (x : Cmd) : Bool :=
  let open0 := ((d.dlm.getD mon default).chains.any (fun h => h.kind == 3 && !h.ended))
  let before := r.cmds.takeWhile (fun y => y.serial != x.serial)
  let isStart : Cmd → Bool := fun y => match y.cmark with
    | some m => m.kind == 1
    | none => false
  let isEnd : Cmd → Bool := fun y => match y.cmark with
    | some m => m.kind == 2
    | none => false
  isStart x || before.foldl (fun (b : Bool) (y : Cmd) => if isStart y then true else if isEnd y then false else b) open0

/-- Whether a gated command waits for its release (R230). -/
def waitsForRelease (c : Cfg) (d : Dev) (x : Cmd) : Bool :=
  match gateOf c x.ring with
  | some m => !x.released && insideChain d m (ringOf d x.ring) x
  | none => false

/-- Whether a lane has room: 8 tokens (R359). -/
def laneRoom (d : Dev) (x : Cmd) : Bool := decide ((aget d.sched.lanes (laneIdx x.entry x.ring)).length < 8)

/-- Whether a waiting command's wait timeout stands still (R373). -/
def waitPaused (c : Cfg) (d : Dev) (x : Cmd) : Bool :=
  (ringOf d x.ring).waitRecs != [] || waitsForRelease c d x ||
  (x.ready && (x.phase == .fetched || targetReached d x) && !laneRoom d x) || (decide (8 ≤ x.ring) && rrHeld d)

/-- The ages of commands after `k` TBCLK periods. -/
def ageCmds (c : Cfg) (k : Nat) (d : Dev) : Dev :=
  let f := fun (ring : Nat) (r : Ring) =>
    let oldest := (oldestWaiting r).map (·.serial)
    { r with cmds := r.cmds.map (fun x =>
        if x.phase = .dispatched then
          (if timeoutPaused d x then x else { x with age := x.age + (if (c.ring ring).unit = 0 then (k : Int) else turnsIn c d (c.ring ring).ref k) })
        else if some x.serial = oldest ∧ waitPaused c d x = false then { x with waitAge := x.waitAge + k }
        else x) }
  { d with fe := { d.fe with rings := amapAll d.fe.rings f } }

/-- The part of `n` clock periods that an event took whose course in time no rule gives (R507): any part of them (log 165). -/
def share (ev unit n : Nat) (d : Dev) : Nat := Config.periods ev unit d.phe.tb % (n + 1)

/-- Busy, stalled and idle periods of an ME, SNE or Mule over `n` ACLK periods. One with a request that waits for a replay is stalled. -/
def unitPeriods (ev0 evStall evIdle cls q i n : Nat) (d : Dev) : Dev :=
  match (instOf d (instIdx cls q i)).run with
  | some r =>
    let held := if instStalled d (instIdx cls q i) then n else share evStall (instIdx cls q i) n d
    if evStall = 0 then obsCount ev0 q i (some r.ctx) n d
    else obsCount evStall q i (some r.ctx) held (obsCount ev0 q i (some r.ctx) (n - held) d)
  | none => if evIdle = 0 then d else obsCount evIdle q i none n d

/-- Periods of a shader core over `n` ACLK periods: a scheduler issued, none issued with groups resident, or no group was resident. -/
def corePeriods (q i n : Nat) (d : Dev) : Dev :=
  let k := coreOf d (coreIdx q i)
  if k.groups = [] then obsCount 0x23 q i none n d
  else
    let ctx := (k.blocks.head?).map (·.ctx)
    let issued := share 0x21 (instIdx 4 q i) n d
    obsCount 0x22 q i ctx (n - issued) (obsCount 0x21 q i ctx issued d)

/-- Periods in which requests waited for a bank pair or lay queued in the memory controller: all of them while the controller holds writes or a
fill is out. -/
def memoryPeriods (q n sclk : Nat) (d : Dev) : Dev :=
  let s := sliceOf d q
  let queued := if s.wq ≠ 0 ∨ s.waiting.any (fun f => f.stage == 1) then sclk else share 0x42 q sclk d
  obsCount 0x42 q 0xF none queued (obsCount 0x37 q 0xF none (share 0x37 q n d) d)

/-- Time-driven event counters over `k` TBCLK periods (R507): SCLK and ACLK periods, busy, stalled and idle engines,
IDLE-Q, in which the quarter's ACLK stands (R460), and domain residency. A unit in a domain that is off raises none (R506). -/
def ageCounters (k : Nat) (d : Dev) : Dev :=
  let sclk := (d.phe.tb + k) * 8 / 5 - d.phe.tb * 8 / 5
  let d := obsCount 0x01 4 0xF none sclk d
  let d := (List.range 27).foldl (fun d i =>
    if d.clk.domains.getD i 0 = 1 then obsCount (0x80 + i) 4 0xF none sclk d else d) d
  (List.range 4).foldl (fun d q =>
    let a0 := d.clk.aclk.getD q 0
    let a1 := if bit d.pwr.idleq q then a0 else a0 + k * quarterStep d q * 55
    let n := a1 / 1000 - a0 / 1000
    let d := { d with clk := { d.clk with aclk := d.clk.aclk.set q a1 } }
    let d := obsCount 0x02 q 0xF none n d
    let d := if bit d.pwr.idleq q then obsCount 0x70 q 0xF none sclk d else d
    let on := fun (i : Nat) => d.clk.domains.getD (i + 5 * q) 0 == 1
    let d := if on 10 then
        (List.range 4).foldl (fun d i => unitPeriods 0x1C 0 0 3 q i n d)
          (unitPeriods 0x18 0x19 0x1A 2 q 0 n ((List.range 8).foldl (fun d i => unitPeriods 0x10 0x11 0x12 1 q i n d) d))
      else d
    let d := (List.range 6).foldl (fun d i => if on (if i < 3 then 8 else 9) then corePeriods q i n d else d) d
    if on 11 then memoryPeriods q n sclk d else d) d

/-- Bytes that the trace port sends in `k` TBCLK periods: 400 MB/s (R514). -/
def portBytes (tb k : Nat) : Nat := (tb + k) * 4 / 5 - tb * 4 / 5

/-- `k` TBCLK periods pass. References interpolate, the timeouts of commands advance, event counters and clocks
count. A carry of an angle accumulator is taken up by INTERPOLATED_TURN. While the spine domain is off, AO alone counts time (R466). -/
def advance (c : Cfg) (k : Nat) (d : Dev) : Dev :=
  if k = 0 then d else
  if d.clk.domains.getD 1 0 ≠ 1 then { d with phe := { d.phe with tb := d.phe.tb + k } } else
  let d := ageCounters k (ageCmds c k d)
  let d := { d with obs := { d.obs with port := d.obs.port.drop (portBytes d.phe.tb k) } }
  { d with phe := { d.phe with
    tb := d.phe.tb + k, refs := d.phe.refs.zipIdx.map (fun (r, n) => refAdvance c n k r) } }

/-- Time passes up to TBCLK period `t`, if that is still to come. -/
def advanceTo (c : Cfg) (t : Nat) (d : Dev) : Dev := advance c (t - d.phe.tb) d

/-- TBCLK periods until a reference's stamp is not before `target`; 0 when it is reached, or when no passing of time takes it there. -/
def ticksToStamp (c : Cfg) (n target : Nat) (d : Dev) : Nat :=
  let r := refOf d n
  let s := refStamp r
  if !stampAfter target s || !refValid r then 0 else
  (ticksToTurn c n (((target + 2 ^ 64 - s) % 2 ^ 64) * 2 ^ 16 - r.acc % 2 ^ 16) d).getD 0

/-! ### State changes -/

/-- Change reference `n`. -/
def setRef (d : Dev) (n : Nat) (f : RefSt → RefSt) : Dev := { d with phe := { d.phe with refs := upd d.phe.refs n f } }

/-- A REF_STATE packet, with a SYNC when the trace reference changes its epoch (R509). -/
def refTrace (c : Cfg) (n : Nat) (newEpoch : Bool) (d : Dev) : Dev :=
  let r := refOf d n
  let d := obsEmit c 1 0x10 0 0xF0 (n + r.state * 16 + r.epoch * 65536) [] d
  if newEpoch && d.obs.traceRef == n then obsSync c d else d

/-- Entry into ACQUIRING (R73). -/
def enterAcquiring (c : Cfg) (n : Nat) (d : Dev) : Dev :=
  refTrace c n true (setRef d n (fun r => { r with
    state := 1, epoch := (r.epoch + 1) % 65536, timingTb := d.phe.tb, lastEdge := none, good := 0
    pulses := 0, pulseBad := false, hold := 0, travel := 0, lastStep := none, lastTurnTb := none }))

/-- A reference enters LOCKED with turn count 0 and a given accumulator; a comparator armed on it whose target is already
reached carries START_LATE (R78). -/
def lateArmed (n : Nat) (d : Dev) : Dev :=
  let g := fun (x : Cmd) =>
    if x.phase == .armed && x.entry.start.ref == n && targetReached d x then { x with startLate := true } else x
  { d with fe := { d.fe with rings := amapAll d.fe.rings (fun _ r => { r with cmds := r.cmds.map g }) } }

/-- Entry into LOCKED from ACQUIRING, timed to the edge at `edge`. -/
def enterLocked (c : Cfg) (n period edge : Nat) (d : Dev) : Dev :=
  let inc := if period = 0 then 0 else 2 ^ 48 / period
  let ahead := if refMode c n = 3 then 0 else inc * (d.phe.tb - edge)
  let d := setRef d n (fun r => { r with
    state := 2, turn := 0, acc := ahead, hold := 0, period := period, edgeTb := edge, everLocked := true
    coastLeft := 0, count := 0, travel := 0, pulses := 0 })
  refTrace c n false (lateArmed n d)

/-- Entry into LOST (R73): the stamp freezes, the loss is counted; waiting start phases fail (R79) as the step settles. -/
def enterLost (c : Cfg) (n : Nat) (d : Dev) : Dev :=
  refTrace c n false (setRef d n (fun r => { r with
    state := 4, coastLeft := 0, hold := 0, loss := satInc 255 r.loss, lastEdge := none, good := 0 }))

/-- The stamp of a reference moves by itself by `delta`, in 2^-48 turn: the timeouts that count its turns follow (R84). -/
def ageTurns (c : Cfg) (n : Nat) (delta : Int) (d : Dev) : Dev :=
  if delta = 0 then d else
  let f := fun (ring : Nat) (r : Ring) =>
    if (c.ring ring).unit = 0 ∨ (c.ring ring).ref ≠ n then r else
    { r with cmds := r.cmds.map (fun x =>
        if x.phase = .dispatched ∧ timeoutPaused d x = false then { x with age := x.age + delta } else x) }
  { d with fe := { d.fe with rings := amapAll d.fe.rings f } }

/-- Where a running reference's edge-based line stands, in 2^-48 turn. -/
def edgeLine (r : RefSt) : Int := (r.turn * 2 ^ 48 + r.acc : Nat) - (r.hold : Int)

/-- Align a running stamp to an edge-based value, both in 2^-48 turn: jump forward, or hold (R71). -/
def alignTo (c : Cfg) (n : Nat) (edgeValue : Int) (d : Dev) : Dev :=
  let r := refOf d n
  let now : Int := (r.turn * 2 ^ 48 + r.acc : Nat)
  if now ≤ edgeValue then
    ageTurns c n (edgeValue - now) (setRef d n (fun r => { r with acc := (edgeValue - (r.turn * 2 ^ 48 : Nat)).toNat, hold := 0 }))
  else setRef d n (fun r => { r with hold := (now - edgeValue).toNat })

/-- The value with a given angle, of this turn or one beside it, that lies nearest to `pos`; both in 2^-48 turn. -/
def nearestAngle (frac : Nat) (pos : Int) : Int :=
  let base := pos / 2 ^ 48
  let cand := [base - 1, base, base + 1].map (fun b => b * 2 ^ 48 + (frac : Int))
  cand.foldl (fun b v => if (v - pos).natAbs < (b - pos).natAbs then v else b) (base * 2 ^ 48 + frac)

/-! ### Turn boundaries in modes P and PN -/

/-- The interpolated turn boundary nearest to TBCLK time `t`: the turn that it begins, counted from turn 0 of the present count (a negative one lies
before its wrap). A tie takes the earlier (R72). -/
def nearestTurn (c : Cfg) (n t : Nat) (d : Dev) : Int :=
  let r := refOf d n
  let pos := edgeLine r - ((refInc c n r * (d.phe.tb - t) : Nat) : Int)
  let k := pos / 2 ^ 48
  if (pos % 2 ^ 48) * 2 ≤ 2 ^ 48 then k else k + 1

/-- Rounded quotient, halves upward. -/
def roundDiv (a b : Nat) : Nat := if b = 0 then 0 else (2 * a + b) / (2 * b)

/-- Whether a period in TBCLK periods lies in the window of a record. -/
def inWindow (c : Cfg) (n p : Nat) : Bool :=
  decide ((c.phin n).periodMin ≤ 2 * p) && decide (2 * p ≤ (c.phin n).periodMax)

/-- A boundary edge at time `t` while LOCKED or COASTING (R71 to R73). -/
def boundaryRunning (c : Cfg) (n t : Nat) (d : Dev) : Dev :=
  let r := refOf d n
  let k := nearestTurn c n t d
  let k0 := nearestTurn c n r.edgeTb d
  let p := roundDiv (t - r.edgeTb) (k - k0).toNat
  if k ≤ k0 ∨ inWindow c n p = false then
    setRef d n (fun r => { r with periodViolation := satInc 255 r.periodViolation })
  else
    let edgeValue := k * 2 ^ 48 + (((2 ^ 48 / p) * (d.phe.tb - t) : Nat) : Int)
    let d := alignTo c n edgeValue d
    let was := r.state
    let d := setRef d n (fun r => { r with state := 2, coastLeft := 0, period := p, edgeTb := t })
    if was = 3 then refTrace c n false d else d

/-- A boundary edge at time `t` while ACQUIRING (R73). -/
def boundaryAcquiring (c : Cfg) (n t : Nat) (d : Dev) : Dev :=
  let r := refOf d n
  let pn := refMode c n == 2
  match r.lastEdge with
  | none => setRef d n (fun r => { r with lastEdge := some t, timingTb := d.phe.tb, good := 0, pulses := 0, pulseBad := false })
  | some t0 =>
    let p := t - t0
    let okCount := !pn || (r.pulses == (c.phin n).pulses - 1 && !r.pulseBad)
    let okWin := inWindow c n p
    if okWin && okCount then
      if r.good = 0 then
        setRef d n (fun r => { r with lastEdge := some t, timingTb := d.phe.tb, good := 1, pulses := 0, pulseBad := false })
      else enterLocked c n p t d
    else
      setRef d n (fun r => { r with
        lastEdge := some t, timingTb := d.phe.tb, good := 0, pulses := 0, pulseBad := false
        periodViolation := if okWin then r.periodViolation else satInc 255 r.periodViolation })

/-- A boundary edge in any state of a P or PN reference. -/
def boundaryEdge (c : Cfg) (n t : Nat) (d : Dev) : Dev :=
  let s := (refOf d n).state
  if s = 2 ∨ s = 3 then boundaryRunning c n t d
  else if s = 1 then boundaryAcquiring c n t d
  else if s = 4 then
    setRef (enterAcquiring c n d) n (fun r => { r with lastEdge := some t })
  else d

/-- W of a pin's glitch filter in samples (R64). -/
def glitchW (c : Cfg) (n : Nat) : Nat := ceilDiv (c.phin n).glitchNs 2

/-- An index edge in mode PN: the pulse count of the turn is judged, and the boundary is taken (R67). -/
def indexPn (c : Cfg) (n t : Nat) (d : Dev) : Dev :=
  let r := refOf d n
  let coincident := decide (r.lastPulse ≠ 0) && decide (t ≤ r.lastPulse + 2 * glitchW c n) && decide (0 < r.pulses)
  let pulses := if coincident then r.pulses - 1 else r.pulses
  let bad := (r.lastEdge.isSome || refValid r) && pulses != (c.phin n).pulses - 1
  let d := setRef d n (fun r => { r with
    pulses := pulses, pulseBad := bad, pulseCount := if bad then satInc 255 r.pulseCount else r.pulseCount })
  let d := boundaryEdge c n t d
  setRef d n (fun r => { r with pulses := 0, pulseBad := false, lastIndex := t, lastPulse := 0 })

/-- A pulse edge in mode PN: it sets the angle to k / PULSES, unless it coincides with an index or is in excess (R67). -/
def pulsePn (c : Cfg) (n t : Nat) (d : Dev) : Dev :=
  let r := refOf d n
  if r.lastIndex ≠ 0 ∧ t ≤ r.lastIndex + 2 * glitchW c n then d else
  let k := r.pulses + 1
  let d := setRef d n (fun r => { r with pulses := k, lastPulse := t })
  if refValid r && decide (k ≤ (c.phin n).pulses - 1) && decide (0 < (c.phin n).pulses) then
    let back : Int := ((refInc c n r * (d.phe.tb - t) : Nat) : Int)
    alignTo c n (nearestAngle ((k * 2 ^ 32 / (c.phin n).pulses) * 2 ^ 16) (edgeLine r - back) + back) d
  else d

/-! ### Mode Q -/

/-- The angle of a quadrature position (R68). A count of PULSES or more, which R69 lets stand one step before an index, carries into the turn part
of the stamp (DESIGN CHOICE, log 154). -/
def qAcc (c : Cfg) (n count : Nat) : Nat := (count * 2 ^ 32 / (c.phin n).pulses) * 2 ^ 16

/-- A quadrature error moves the reference to LOST (R69). -/
def qLost (c : Cfg) (n : Nat) (d : Dev) : Dev :=
  enterLost c n (setRef d n (fun r => { r with pulseCount := satInc 255 r.pulseCount }))

/-- One quadrature step at time `t`, forward or backward (R68, R69). The errors of R69, which names no state, are watched while ACQUIRING too; a LOST
reference shows the direction of its steps and is not lost again. -/
def qStep (c : Cfg) (n t : Nat) (back : Bool) (d : Dev) : Dev :=
  let r := refOf d n
  let p := (c.phin n).pulses
  if r.state ≠ 2 ∧ r.state ≠ 1 then setRef d n (fun r => { r with dirBack := back }) else
  let tooClose := match r.lastStep with
    | some t0 => decide ((t - t0) * 2 * p < (c.phin n).periodMin)
    | none => false
  let travel := if r.dirBack = back then r.travel + 1 else 1
  let d := setRef d n (fun r => { r with lastStep := some t, dirBack := back, travel := travel })
  if tooClose then
    enterLost c n (setRef d n (fun r => { r with periodViolation := satInc 255 r.periodViolation }))
  else if 2 * p ≤ travel then qLost c n d
  else if r.state = 1 then d
  else
    let count := if back then (if r.count = 0 then p - 1 else r.count - 1) else r.count + 1
    ageTurns c n ((qAcc c n count : Int) - r.acc) (setRef d n (fun r => { r with count := count, acc := qAcc c n count }))

/-- Pending writes of the window registers take effect at a turn boundary of the window reference (R86). -/
def maintUpdate (n : Nat) (d : Dev) : Dev :=
  if n ≠ d.phe.maintRef then d else
  { d with phe := { d.phe with
    maintStart := d.phe.pendStart.getD d.phe.maintStart, maintLen := d.phe.pendLen.getD d.phe.maintLen
    pendStart := none, pendLen := none } }

/-- An index edge in mode Q (R68, R69, R73). PERIOD_TICKS is the time between two indices passed in one direction: a full turn (R87). -/
def qIndex (c : Cfg) (n t : Nat) (d : Dev) : Dev :=
  let r := refOf d n
  let p := (c.phin n).pulses
  if r.state = 4 then enterAcquiring c n d
  else if r.state = 1 then
    let d := enterLocked c n r.period t d
    maintUpdate n (setRef d n (fun r => { r with count := 0, acc := 0, travel := 0, lastTurnTb := some t, lastTurnBack := r.dirBack }))
  else if r.state = 2 then
    let m := r.count % p
    if m ≠ 0 ∧ m ≠ 1 ∧ m + 1 ≠ p then qLost c n d
    else
      let period := match r.lastTurnTb with
        | some t0 => if r.lastTurnBack = r.dirBack then t - t0 else r.period
        | none => r.period
      let turned : Int := if r.dirBack then -(2 ^ 48) else 2 ^ 48
      maintUpdate n (ageTurns c n (turned - r.acc) (setRef d n (fun r => { r with
        count := 0, acc := 0, travel := 0, edgeTb := t, period := period, lastTurnTb := some t, lastTurnBack := r.dirBack
        turn := if r.dirBack then (r.turn + 2 ^ 32 - 1) % 2 ^ 32 else (r.turn + 1) % 2 ^ 32 })))
  else d

/-! ### Pins (R64, R65) -/

/-- The reference that uses a pin and the pin's part in it: 0 pulse or A, 1 B, 2 index. -/
def pinUse (c : Cfg) (pin : Nat) : Option (Nat × Nat) :=
  (List.range 8).findSome? (fun n =>
    let m := (c.phin n).mode
    if pin = n ∧ (m = 1 ∨ m = 2 ∨ m = 3) then some (n, 0)
    else if pin = n + 1 ∧ m = 2 then some (n, 2)
    else if pin = n + 1 ∧ m = 3 then some (n, 1)
    else if pin = n + 2 ∧ m = 3 then some (n, 2) else none)

/-- An accepted edge of a pin at time `t` to `level`, with the pins as they are after it. -/
def pinEdge (c : Cfg) (n part t : Nat) (level both : Bool) (d : Dev) : Dev :=
  let m := (c.phin n).mode
  let counts := level == ((c.phin n).edge == 0)
  if m = 1 then (if counts then boundaryEdge c n t d else d)
  else if m = 2 then
    (if counts then (if part = 2 then indexPn c n t d else pulsePn c n t d) else d)
  else if m = 3 then
    if part = 2 then (if counts then qIndex c n t d else d)
    else if both then (if (refOf d n).state = 2 ∨ (refOf d n).state = 1 then qLost c n d else d)
    else
      let a := (d.phe.pins.getD n default).level
      let b := (d.phe.pins.getD (n + 1) default).level
      -- A leads B forward: A changes to differ from B, or B changes to equal A
      let fwd := if part = 0 then a != b else a == b
      qStep c n t (!fwd) d
  else d

/-- PHIN_EDGE_ACCEPTED: a level under test has held for W samples; time passes until it has (R64). -/
def phinEdge (c : Cfg) (pin : Nat) (d : Dev) : Dev :=
  match pinUse c pin with
  | none => d
  | some (n, part) =>
    let p := d.phe.pins.getD pin default
    if p.raw = p.level then d else
    let d := advanceTo c (p.since + glitchW c n) d
    let other := if part = 0 then d.phe.pins.getD (n + 1) default else d.phe.pins.getD n default
    let both := (c.phin n).mode == 3 && part != 2 && other.raw != other.level && other.since == p.since
    let pins := upd d.phe.pins pin (fun p => { p with level := p.raw })
    let pins := if both then upd pins (if part = 0 then n + 1 else n) (fun p => { p with level := p.raw }) else pins
    pinEdge c n part p.since p.raw both { d with phe := { d.phe with pins := pins } }

/-- PHIN_LEVEL_CHANGE: the sampled level of a pin changes. A level that changes back before W samples is discarded; one that has held for W samples
was accepted when it had (R64). -/
def phinLevel (c : Cfg) (pin : Nat) (level : Bool) (d : Dev) : Dev :=
  match pinUse c pin with
  | none => { d with phe := { d.phe with pins := upd d.phe.pins pin (fun p => { p with raw := level, level := level, since := d.phe.tb }) } }
  | some (n, _) =>
    let p := d.phe.pins.getD pin default
    if p.raw = level then d else
    let early := decide (level = p.level) && decide (d.phe.tb < p.since + glitchW c n)
    let d := if level = p.level ∧ early = false then phinEdge c pin d else d
    let d := { d with phe := { d.phe with pins := upd d.phe.pins pin (fun p => { p with raw := level, since := d.phe.tb }) } }
    if early then setRef d n (fun r => { r with glitch := satInc 255 r.glitch }) else d

/-! ### Timeouts of references (R73) -/

/-- ACQUIRE_TIMEOUT. -/
def acquireTimeout (c : Cfg) (n : Nat) (d : Dev) : Dev :=
  let r := refOf d n
  if r.state ≠ 1 ∨ (refMode c n ≠ 1 ∧ refMode c n ≠ 2) then d else
  let d := advanceTo c (r.timingTb + ceilDiv ((c.phin n).timeoutK * (c.phin n).periodMax) 2) d
  setRef d n (fun r => { r with
    timingTb := d.phe.tb, lastEdge := none, good := 0, timeout := satInc 255 r.timeout, pulses := 0, pulseBad := false })

/-- The interpolated boundary that coincides with an entry into COASTING, which does not count (R73): the next one where the accumulator stands at its
carry, to what INC's rounding loses over TIMEOUT_K periods; otherwise the present turn's own, which is past. -/
def entryTurn (c : Cfg) (n : Nat) (r : RefSt) : Nat :=
  if 2 ^ 48 ≤ r.acc + (c.phin n).timeoutK * (2 ^ 48 % Nat.max 1 r.period) - r.hold then (r.turn + 1) % 2 ^ 32 else r.turn

/-- LOCK_TIMEOUT. -/
def lockTimeout (c : Cfg) (n : Nat) (d : Dev) : Dev :=
  let r := refOf d n
  if r.state ≠ 2 ∨ (refMode c n ≠ 1 ∧ refMode c n ≠ 2) then d else
  let d := advanceTo c (r.edgeTb + (c.phin n).timeoutK * r.period) d
  let d := setRef d n (fun r => { r with timeout := satInc 255 r.timeout })
  if (c.phin n).coastTurns = 0 then enterLost c n d
  else
    refTrace c n false (setRef d n (fun r => { r with
      state := 3, coastLeft := (c.phin n).coastTurns, coastEntry := entryTurn c n r }))

/-- INTERPOLATED_TURN: time passes to the TBCLK period at which the accumulator carries; the turn count rises
(R70), and COASTING counts the boundary unless it is the one that coincides with the entry, to the rounding of INC (R73). -/
def interpolatedTurn (c : Cfg) (n : Nat) (d : Dev) : Dev :=
  let r := refOf d n
  let inc := refInc c n r
  if refValid r = false ∨ refMode c n = 3 ∨ (inc = 0 ∧ n ≠ 10) then d else
  let k := if 2 ^ 48 ≤ r.acc then 0
    else if n = 10 then 500000 - r.count else ceilDiv (2 ^ 48 - r.acc + r.hold) inc
  let d := advance c k d
  let d := setRef d n (fun r =>
    if n = 10 then { r with turn := (r.turn + 1) % 2 ^ 32, count := r.count - 500000, acc := (r.count - 500000) * 2 ^ 48 / 500000 }
    else { r with turn := (r.turn + 1) % 2 ^ 32, acc := r.acc - 2 ^ 48 })
  let d := maintUpdate n d
  if r.state = 3 ∧ (refOf d n).turn ≠ r.coastEntry then
    let d := setRef d n (fun r => { r with coastLeft := r.coastLeft - 1 })
    if (refOf d n).coastLeft = 0 then enterLost c n d else d
  else d

/-- DISPLAY_LINE_START of line `line` of a pipe (R63): at the first frame after the pipe is enabled the reference locks with a new epoch;
then each line start aligns it to floor(i × 2^32 / V_total). -/
def displayLine (c : Cfg) (p line : Nat) (d : Dev) : Dev :=
  let n := 8 + p
  let vt := totalLines c p
  if 2 ≤ p ∨ (c.disp p).enable = 0 ∨ vt ≤ line ∨ d.clk.domains.getD 3 0 ≠ 1 then d else
  let r := refOf d n
  if r.state = 0 then
    if line ≠ 0 then d else
    let d := setRef d n (fun r => { r with epoch := (r.epoch + 1) % 65536 })
    refTrace c n true (enterLocked c n (framePeriod c p) d.phe.tb d)
  else
    let d := alignTo c n (nearestAngle ((line * 2 ^ 32 / vt) * 2 ^ 16) (edgeLine r)) d
    if line = 0 then setRef d n (fun r => { r with edgeTb := d.phe.tb }) else d

/-! ### Maintenance window (R85) -/

/-- Whether an activity of `ticks` TBCLK periods fits in the present window, and the turn in which that window began. -/
def windowFits (_c : Cfg) (ticks : Nat) (d : Dev) : Option Nat :=
  let n := d.phe.maintRef
  let r := refOf d n
  if refValid r = false ∨ r.period = 0 then none else
  let s := refStamp r
  let angle := s % 2 ^ 32
  let turn := s / 2 ^ 32
  let into := (angle + 2 ^ 32 - d.phe.maintStart % 2 ^ 32) % 2 ^ 32
  let len := if d.phe.maintLen = 0 then 2 ^ 32 else d.phe.maintLen
  let need := ceilDiv (ticks * 2 ^ 32) r.period
  if into + need ≤ len then some (if angle < into then (turn + 2 ^ 32 - 1) % 2 ^ 32 else turn) else none

/-- Whether the present moment is inside the window at all. -/
def windowOpen (c : Cfg) (d : Dev) : Bool := (windowFits c 0 d).isSome

/-- Begin the 1.5 us retraining of a quarter. -/
def beginRetrain (q : Nat) (win : Option Nat) (d : Dev) : Dev :=
  { d with phe := { d.phe with retraining := some (q, d.phe.tb), windowUsed := win, nextRetrain := (q + 1) % 4 } }

/-- RETRAIN_START: the next quarter in order that is due starts when its retraining fits in the open window: one quarter per window. -/
def retrainStart (c : Cfg) (q : Nat) (d : Dev) : Dev :=
  match windowFits c 750 d with
  | none => d
  | some w =>
    let order := (List.range 4).map (fun i => (d.phe.nextRetrain + i) % 4)
    let next := order.find? (fun q => retrainDue d q)
    if d.phe.retraining = none ∧ d.phe.windowUsed ≠ some w ∧ next = some q then beginRetrain q (some w) d else d

/-- RETRAIN_FORCED: a quarter not retrained within 48 ms retrains at once, and MAINT_FORCED is incremented. -/
def retrainForced (c : Cfg) (q : Nat) (d : Dev) : Dev :=
  if d.clk.domains.getD (11 + 5 * q) 0 ≠ 1 ∨ d.phe.retraining ≠ none ∨ d.clk.switches.any (fun w => w.quarter == q) = true then d else
  let d := advanceTo c (d.phe.lastRetrain.getD q 0 + 24000000) d
  let d := { d with phe := { d.phe with maintForced := satInc 65535 d.phe.maintForced } }
  beginRetrain q d.phe.windowUsed d

/-- RETRAIN_END: the retraining ends and the quarter's DRAM serves requests again. -/
def retrainEnd (c : Cfg) (q : Nat) (d : Dev) : Dev :=
  match d.phe.retraining with
  | some (q', t) =>
    if q' = q then
      let d := advanceTo c (t + 750) d
      { d with phe := { d.phe with retraining := none, lastRetrain := d.phe.lastRetrain.set q d.phe.tb } }
    else d
  | none => d

end Sys2Proof.Machine
end

