-- ==== Sys2Proof/Machine/Dlm.lean ====
section
/-! DEFINITION. Deadline monitors and their chains (R227 to R233). -/

namespace Sys2Proof.Machine

/-- Every enabled monitor waits for its next START (R233). -/
def dlmArm (c : Cfg) (d : Dev) : Dev :=
  { d with dlm := d.dlm.zipIdx.map (fun (s, r) => { s with state := if (c.dlm r).isSome then 1 else 0 }) }

/-- Change monitor `r`. -/
def setDlm (d : Dev) (r : Nat) (f : DlmSt → DlmSt) : Dev := { d with dlm := upd d.dlm r f }

/-- A mark's payload (R228). -/
def parseMark (b : List Byte) : Mark :=
  ⟨getLe b 0 1, getLe b 1 1 % 16, getLe b 4 4, getLe b 8 4, getLe b 12 4, getLe b 16 8⟩

/-- Whether a command is a CYCLE_MARK. -/
def isMark (x : Cmd) : Bool := x.entry.cls == 0 && x.entry.op == 2

/-- Whether a command is a START mark that was read. -/
def isStart (x : Cmd) : Bool := match x.cmark with
  | some m => m.kind == 1
  | none => false

/-- Whether a command is an END mark that was read. -/
def isEnd (x : Cmd) : Bool := match x.cmark with
  | some m => m.kind == 2
  | none => false

/-- The chains staged on a fall-back ring, in ring order: payload of START, and the serial numbers from START to END (or to the last
entry fetched), with whether its END was seen. -/
def stagedChains (r : Ring) : List (Mark × List Nat × Bool) :=
  let step := fun (acc : List (Mark × List Nat × Bool) × Option (Mark × List Nat)) (x : Cmd) =>
    if isStart x && !x.released && x.phase == .fetched then
      let done := match acc.2 with
        | some (m, l) => acc.1 ++ [(m, l, true)]
        | none => acc.1
      (done, some (x.cmark.getD default, [x.serial]))
    else match acc.2 with
      | some (m, l) =>
        if isEnd x then (acc.1 ++ [(m, l ++ [x.serial], true)], none) else (acc.1, some (m, l ++ [x.serial]))
      | none => acc
  let s := r.cmds.foldl step ([], none)
  match s.2 with
  | some (m, l) => s.1 ++ [(m, l, false)]
  | none => s.1

/-- A mark's payload has been read: a START ends what was released before it (R228, R230). -/
def stageMark (ring serial : Nat) (mk : Mark) (d : Dev) : Dev :=
  setRing d ring (fun r => { r with cmds := r.cmds.map (fun y =>
    if y.serial = serial then { y with cmark := some mk }
    else if mk.kind = 1 ∧ serial < y.serial ∧ y.phase = .fetched then { y with released := false } else y) })

/-- The marks of a gated ring that were not readable when they were fetched are read again, before the monitor looks at the chains staged there: what
does not translate stays unread, in silence (R230, R389). -/
def readMarks (c : Cfg) (ring : Nat) (d : Dev) : Dev :=
  ((ringOf d ring).cmds.filter (fun x => isMark x && x.cmark == none && x.phase == .fetched)).foldl (fun d x =>
    let r := peekRead c (rqFe c x.ctx) x.ctx x.entry.payload 64 d
    match r.1 with
    | some b => if ppoison b then r.2 else stageMark ring x.serial (parseMark (pdata b)) r.2
    | none => r.2) d

/-- All quarters of a mask have their memory. -/
def memPresent (d : Dev) (mask : Nat) : Bool := (onesBelow 4 mask).all (fun q => !(sliceOf d q).memLost)

/-- Commands complete with a status, in order. -/
def endAll (c : Cfg) (status : Nat) (serials : List Nat) (d : Dev) : Dev :=
  serials.foldl (fun d s => match cmdOf d s with
    | some x => endCmd c x status d
    | none => d) d

/-- Chains of the monitor's fall-back ring that satisfy `p` complete SKIPPED (R230). -/
def skipChains (c : Cfg) (r : Nat) (p : Mark → Bool) (d : Dev) : Dev :=
  match c.dlm r with
  | none => d
  | some m =>
    (stagedChains (ringOf d m.fallbackRing)).foldl (fun d h =>
      if p h.1 then
        let d := endAll c 0x16 h.2.1 d
        if h.2.2 then d else setDlm d r (fun s => { s with skipping := true })
      else d) d

/-- The cycle record of turn `n` in an epoch. -/
def cycleOf (s : DlmSt) (n epoch : Nat) : Option Cycle := s.cycles.find? (fun y => y.n == n && y.epoch == epoch)

/-- The cycle for which a fall-back chain was released: in whichever epoch its trigger came (R232). -/
def fallbackCycle (s : DlmSt) (h : Chain) : Cycle :=
  (s.cycles.find? (fun y => y.n == h.cmark.cycle && y.dispatched)).getD ⟨h.cmark.cycle, h.epoch, false, false, false, true, 0, false⟩

/-- Change a cycle record, or make it. -/
def setCycle (n epoch : Nat) (f : Cycle → Cycle) (s : DlmSt) : DlmSt :=
  match cycleOf s n epoch with
  | some y => { s with cycles := s.cycles.map (fun z => if z = y then f y else z) }
  | none => { s with cycles := f ⟨n, epoch, false, false, false, false, 0, false⟩ :: s.cycles }

/-- The deadline D_c of cycle `n` (R227). -/
def deadlineOf (m : DeadlineMonRec) (n : Nat) : Nat :=
  let t := if m.checkAngle < m.deadlineAngle then n else n + 1
  (t * 2 ^ 32 + m.deadlineAngle) % 2 ^ 64

/-- The monitor's RESULT record (R232): tag 1 PRIMARY, 2 FALLBACK, 3 LATE, 4 NONE. -/
def deliver (c : Cfg) (r : Nat) (m : DeadlineMonRec) (y : Cycle) (tag : Nat) (h : Option Chain) (d : Dev) : Dev :=
  if d.pwr.state ≠ 0 ∨ faulted d then d else
  let rf := refOf d m.ref
  let known := refValid rf && rf.epoch == y.epoch
  let missed := known && stampAfter (refStamp rf) (deadlineOf m y.n)
  let k := h.getD default
  let flags := b2n missed + 2 * b2n k.poisoned + 4 * b2n y.missing + 8 * b2n (!known)
  let bytes := leBytes 1 0x10 ++ leBytes 1 tag ++ leBytes 1 flags ++ leBytes 1 y.trigger ++ leBytes 4 y.n ++
    leBytes 8 (if tag = 4 then 0 else k.cmark.resultAddr) ++ leBytes 4 (if tag = 4 then 0 else k.cmark.resultLen) ++
    leBytes 1 (if h.isSome then k.ring else r) ++ leBytes 3 0 ++ leBytes 8 (if known then refStamp rf else 0)
  let ring := if tag = 3 then m.lateRing else m.outputRing
  let w := ringRecord c ring bytes [] none d
  let d := if w.1 = 0 then w.2 else loseContext c (ringOf w.2 ring).ctx w.1 [] w.2
  let d := raise (96 + r) d
  let d := obsEmit c 2 0x20 (2 * b2n k.poisoned) 0xF0 (r + y.trigger * 16 + tag * 256 + (y.n % 65536) * 65536) [] d
  let d := setDlm d r (fun s => { s with
    lastTag := tag
    none_ := if tag = 4 then satInc 255 s.none_ else s.none_
    latePrimary := if tag = 1 ∧ missed = true then satInc 255 s.latePrimary else s.latePrimary })
  if tag = 3 then d else
  let d := setDlm d r (fun s => { setCycle y.n y.epoch (fun y => { y with delivered := true }) s with cycle := y.n, state := 4 })
  if tag = 1 then skipChains c r (fun k => k.cycle == y.n) d else d

/-- Whether a command belongs to a chain: it carries its number, or it stands in the ring ahead of the chain's END. -/
def memberOf (d : Dev) (h : Chain) (x : Cmd) : Bool :=
  x.chain == some h.id ||
  (x.ring == h.ring && x.chain == none && !isMark x && !h.ended && x.phase != .dispatched &&
    !(((ringOf d h.ring).cmds.takeWhile (fun y => y.serial != x.serial)).any isMark))

/-- POLICY ABANDON at the trigger (R231): units not taken are withdrawn; commands that have not completed complete ABANDONED, those of which a unit
runs when it ends. -/
def abandonChain (c : Cfg) (h : Chain) (d : Dev) : Dev :=
  let d := setDlm d h.monitor (fun s => { s with
    chains := s.chains.map (fun k => if k.id = h.id ∧ k.ring = h.ring then { k with withdrawn := true } else k) })
  ((ringOf d h.ring).cmds.filter (fun x => memberOf d h x)).foldl (fun d x =>
    if x.unitsRunning = 0 then endCmd c x 0x17 d
    else
      dropTokens x.serial (setCmd d x.serial (fun x => { x with unitsLeft := [], status := 0x17 }))) d

/-- The primary of a cycle whose record it will not deliver runs on late or is abandoned (R231). -/
def retirePrimary (c : Cfg) (m : DeadlineMonRec) (r n : Nat) (d : Dev) : Dev :=
  match (dlmOf d r).chains.find? (fun h => h.kind == 0 && h.cmark.cycle == n) with
  | none => d
  | some h =>
    let d := setDlm d r (fun s => { s with
      chains := s.chains.map (fun k => if k.id = h.id then { k with kind := 1 } else k) })
    if m.policy = 1 then abandonChain c { h with kind := 1 } d else d

/-- A trigger of cycle `n` (R229): 1 NO_CHAIN, 2 PREDICTED, 3 SHED, 4 FAULT, 5 QUARTER_OUT. It is taken only while no record
of the cycle was delivered and no fall-back of it dispatched. -/
def dlmTrigger (c : Cfg) (r n epoch trig : Nat) (d : Dev) : Dev :=
  match c.dlm r with
  | none => d
  | some m =>
    let y := (cycleOf (dlmOf d r) n epoch).getD ⟨n, epoch, false, false, false, false, 0, false⟩
    if y.delivered ∨ y.dispatched ∨ d.pwr.state ≠ 0 then d else
    let d := readMarks c m.fallbackRing d
    match (stagedChains (ringOf d m.fallbackRing)).find? (fun h => h.1.cycle == n && memPresent d h.1.needed) with
    | some h =>
      let d := setDlm d r (fun s => { setCycle n epoch (fun y => { y with dispatched := true, trigger := trig }) s with
        fallbacks := satInc 255 s.fallbacks, state := 3 })
      let d := h.2.1.foldl (fun d s => setCmd d s (fun x => { x with released := true })) d
      let d := skipChains c r (fun k => k.cycle == n) d
      let d := obsEmit c 2 0x20 0 0xF0 (r + trig * 16 + (n % 65536) * 65536) [] (raise (104 + r) d)
      retirePrimary c m r n d
    | none =>
      let d := setDlm d r (fun s => { setCycle n epoch (fun y => { y with missing := true, trigger := trig }) s with
        missing := satInc 255 s.missing })
      let d := skipChains c r (fun k => k.cycle == n) d
      if trig = 2 ∨ trig = 3 then d
      else
        let y := (cycleOf (dlmOf d r) n epoch).getD default
        retirePrimary c m r n (deliver c r m y 4 none d)

/-- A chain whose END was reached and whose commands have all completed (R228, R231). -/
def chainComplete (c : Cfg) (r : Nat) (h : Chain) (d : Dev) : Dev :=
  match c.dlm r with
  | none => d
  | some m =>
    let d := setDlm d r (fun s => { s with chains := s.chains.filter (fun k => k.id != h.id) })
    let y := (cycleOf (dlmOf d r) h.cmark.cycle h.epoch).getD ⟨h.cmark.cycle, h.epoch, false, false, false, false, 0, false⟩
    if h.kind = 0 then (if y.delivered ∨ y.dispatched then d else deliver c r m y 1 (some h) d)
    else if h.kind = 1 ∨ h.kind = 4 then (if m.policy = 0 then deliver c r m y 3 (some h) d else d)
    else if h.kind = 3 then
      let y := fallbackCycle (dlmOf d r) h
      if y.delivered then d else deliver c r m y 2 (some h) d
    else d

/-- Take up every chain that is complete. -/
def sweepChains (c : Cfg) (r : Nat) : Nat → Dev → Dev
  | 0, d => d
  | n + 1, d =>
    match (dlmOf d r).chains.find? (fun h => h.ended && !((ringOf d h.ring).cmds.any (fun x => x.chain == some h.id))) with
    | some h => sweepChains c r n (chainComplete c r h d)
    | none => d

/-- The open chain of a ring. -/
def openChain (d : Dev) (ring : Nat) : Option Chain :=
  (d.dlm.flatMap (fun s => s.chains)).find? (fun h => h.ring == ring && !h.ended)

/-- End the open chain of a ring. -/
def closeChain (c : Cfg) (ring : Nat) (d : Dev) : Dev :=
  match openChain d ring with
  | none => d
  | some h =>
    sweepChains c h.monitor 4 (setDlm d h.monitor (fun s => { s with
      chains := s.chains.map (fun k => if k.id = h.id then { k with ended := true } else k) }))

/-- A START is reached on a ring (R228, R229, R231): of a cycle whose record was delivered, it begins a late chain, as does a first START after the
fall-back was dispatched; a second START begins a chain that the monitor does not look at. -/
def startReached (c : Cfg) (ring : Nat) (mk : Mark) (d : Dev) : Dev :=
  let d := closeChain c ring d
  let put := fun (mon kind epoch : Nat) (d : Dev) =>
    setDlm d mon (fun s => { s with nextId := s.nextId + 1, chains := s.chains ++
      [⟨mon + 8 * s.nextId, mon, ring, kind, mk, none, epoch, 0, false, false, false, false⟩] })
  match gateOf c ring with
  | some mon =>
    match c.dlm mon with
    | some m => put mon 3 (refOf d m.ref).epoch d
    | none => d
  | none =>
    if 8 ≤ ring then d else
    match c.dlm ring with
    | none => d
    | some m =>
      let epoch := (refOf d m.ref).epoch
      let y := (cycleOf (dlmOf d ring) mk.cycle epoch).getD ⟨mk.cycle, epoch, false, false, false, false, 0, false⟩
      if y.delivered ∨ (y.dispatched = true ∧ y.started = false) then
        let d := put ring 4 epoch d
        match openChain d ring with
        | some h => if m.policy = 1 then abandonChain c h d else d
        | none => d
      else if y.started then put ring 2 epoch d
      else
        let d := put ring 0 epoch d
        let d := setDlm d ring (fun s => { setCycle mk.cycle epoch (fun y => { y with started := true }) s with state := 2 })
        if memPresent d mk.needed then d else dlmTrigger c ring mk.cycle epoch 5 d

/-- A command is dispatched: it joins its ring's open chain, whose first dispatch stamp is its start. -/
def joinChain (c : Cfg) (x : Cmd) (d : Dev) : Dev :=
  match openChain d x.ring with
  | none => d
  | some h =>
    let stamp := match c.dlm h.monitor with
      | some m => refStamp (refOf d m.ref)
      | none => 0
    let d := setDlm d h.monitor (fun s => { s with
      chains := s.chains.map (fun k => if k.id = h.id ∧ k.startStamp = none then { k with startStamp := some stamp } else k) })
    setCmd d x.serial (fun x => { x with chain := some h.id })

/-- A command of a chain has completed (R229, R231). -/
def dlmDone (c : Cfg) (x : Cmd) (status : Nat) (d : Dev) : Dev :=
  let found := (d.dlm.flatMap (fun s => s.chains)).find? (fun h =>
    x.chain == some h.id || (x.chain == none && x.ring == h.ring && !h.ended && !isMark x && !x.ran &&
      !((ringOf d h.ring).cmds.any (fun y => isMark y && decide (y.serial < x.serial)))))
  match found with
  | none => d
  | some h =>
    let bad := status != 0
    let d := setDlm d h.monitor (fun s => { s with
      chains := s.chains.map (fun k => if k.id = h.id then { k with
        done := if isMark x then k.done else k.done + 1, failed := k.failed || bad
        poisoned := k.poisoned || x.poisoned } else k) })
    let d :=
      if bad = false ∨ h.withdrawn then d
      else if h.kind = 0 then dlmTrigger c h.monitor h.cmark.cycle h.epoch 4 d
      else if h.kind = 3 then
        match c.dlm h.monitor with
        | some m =>
          let y := fallbackCycle (dlmOf d h.monitor) h
          if y.delivered then d else abandonChain c h (deliver c h.monitor m y 4 none d)
        | none => d
      else d
    sweepChains c h.monitor 4 d

/-- Commands of an abandoned chain that are fetched later complete ABANDONED when they are the oldest (R231). -/
def abandonLater (c : Cfg) (d : Dev) : Option Dev :=
  (d.dlm.flatMap (fun s => s.chains)).findSome? (fun h =>
    if h.withdrawn && !h.ended then
      match oldestWaiting (ringOf d h.ring) with
      | some x => if isMark x then none else some (endCmd c { x with chain := some h.id } 0x17 d)
      | none => none
    else none)

/-- A quarter's memory is lost: QUARTER_OUT for every running primary that needs it (R229). -/
def dlmQuarterOut (c : Cfg) (q : Nat) (d : Dev) : Dev :=
  (d.dlm.flatMap (fun s => s.chains)).foldl (fun d h =>
    if h.kind = 0 ∧ bit h.cmark.needed q then dlmTrigger c h.monitor h.cmark.cycle h.epoch 5 d else d) d

/-- The turn of a monitor's reference whose check is the last one passed; none when none was. -/
def lastCheckTurn (m : DeadlineMonRec) (stamp : Nat) : Option Nat :=
  if m.checkAngle ≤ stamp % 2 ^ 32 then some (stamp / 2 ^ 32)
  else if stamp / 2 ^ 32 = 0 then none else some (stamp / 2 ^ 32 - 1)

/-- The loss of a monitored ring's context (R229): a FAULT of the cycle whose primary chain was `running`, or of the next cycle whose check has not
fired. -/
def dlmCtxLost (c : Cfg) (ctx : Nat) (running : List (Nat × Nat × Nat)) (d : Dev) : Dev :=
  (List.range 8).foldl (fun d r =>
    let rg := ringOf d r
    match c.dlm r with
    | none => d
    | some m =>
      if rg.bound = false ∨ rg.ctx ≠ ctx then d else
      match running.find? (fun h => h.1 == r) with
      | some h => dlmTrigger c r h.2.1 h.2.2 4 d
      | none =>
        let rf := refOf d m.ref
        let n := match lastCheckTurn m (refStamp rf) with
          | some t => if (cycleOf (dlmOf d r) t rf.epoch).any (fun y => y.checked) then t + 1 else t
          | none => 0
        dlmTrigger c r (n % 2 ^ 32) rf.epoch 4 d) d

/-- Whether the predicted completion lies after the threshold at the check (R229). -/
def predictedLate (m : DeadlineMonRec) (n : Nat) (h : Chain) : Bool :=
  match h.startStamp with
  | none => true
  | some s0 =>
    if h.done = 0 ∨ h.cmark.commands = 0 then true
    else
      let sCheck := (n * 2 ^ 32 + m.checkAngle) % 2 ^ 64
      let elapsed := (sCheck + 2 ^ 64 - s0) % 2 ^ 64
      let span := ceilDiv (elapsed * h.cmark.commands) (Nat.min h.done h.cmark.commands)
      let threshold := (deadlineOf m n + 2 ^ 64 - m.margin) % 2 ^ 64
      decide (toSigned 64 (threshold + 2 ^ 64 - s0) < (span : Int))

/-- DLM_CHECK of monitor `r` (R229, R230): the check of the last turn whose check angle is passed and has not fired, or, once
time has reached it, of the next one. No monitor decides a cycle outside RUN (R462). -/
def dlmCheck (c : Cfg) (r : Nat) (d : Dev) : Dev :=
  match c.dlm r with
  | none => d
  | some m =>
    if d.pwr.state ≠ 0 ∨ faulted d ∨ refValid (refOf d m.ref) = false then d else
    let epoch := (refOf d m.ref).epoch
    let stamp := refStamp (refOf d m.ref)
    let fresh := fun (t : Nat) => !((cycleOf (dlmOf d r) t epoch).any (fun y => y.checked))
    let due := (lastCheckTurn m stamp).filter fresh
    let n := due.getD (stamp / 2 ^ 32 + (if m.checkAngle ≤ stamp % 2 ^ 32 then 1 else 0))
    let at' := (n * 2 ^ 32 + m.checkAngle) % 2 ^ 64
    let d0 := d
    let d := match due with
      | some _ => d
      | none => advance c (ticksToStamp c m.ref at' d) d
    if due.isNone && stampAfter at' (refStamp (refOf d m.ref)) then d0 else
    let d := readMarks c m.fallbackRing d
    let d := skipChains c r (fun k => decide (toSigned 32 (k.cycle + 2 ^ 32 - n % 2 ^ 32) < 0)) d
    let d := setDlm d r (fun s => setCycle n epoch (fun y => { y with checked := true }) s)
    let y := (cycleOf (dlmOf d r) n epoch).getD default
    if y.delivered ∨ y.dispatched then d
    else if y.started = false then dlmTrigger c r n epoch 1 d
    else
      match (dlmOf d r).chains.find? (fun h => h.kind == 0 && h.cmark.cycle == n) with
      | none => d
      | some h =>
        if predictedLate m n h then dlmTrigger c r n epoch 2 d
        else if 3 ≤ d.pwr.stage then dlmTrigger c r n epoch 3 d
        else d

/-- DLM_CLEAR: a write with CLR zeroes DLM_COUNT_r (R233). -/
def dlmClear (r v : Nat) (d : Dev) : Dev :=
  if bit v 0 then setDlm d r (fun s => { s with fallbacks := 0, latePrimary := 0, missing := 0, none_ := 0 }) else d

end Sys2Proof.Machine
end

