-- ==== Sys2Proof/Machine/FeCmds.lean ====
section
/-! DEFINITION. Submission: doorbells (R338 to R340), fetching (R335, R339, R346), dispatch, completion,
waiting records (R349), host writes of references and fences, and the management commands of R357 and R396. -/

namespace Sys2Proof.Machine

/-- The FE neither fetches nor posts: before READY, in the fault state, outside RUN and while REST or HOLD is
being entered (R437, R463, R466). -/
def feStopped (d : Dev) : Bool :=
  faulted d || d.boot.phase != 2 || d.pwr.state != 0 || d.pwr.entering != 0

/-- A power of two from 16 to 65,536 (R336). -/
def queueSizeOk (n : Nat) : Bool := (List.range 13).any (fun i => n == 2 ^ (4 + i))

/-- The index rule of R338: `(a - b) mod 2^32 ≤ size`. -/
def idxLe (a b size : Nat) : Bool := decide ((a + 2 ^ 32 - b % 2 ^ 32) % 2 ^ 32 ≤ size)

/-! ### Doorbells -/

/-- A doorbell or CQ_RPTR write that is ignored and counted (R338). -/
def dbIgnore (ring : Nat) (d : Dev) : Dev :=
  let d := setRing d ring (fun r => { r with ignored := satInc 255 r.ignored })
  { d with fe := { d.fe with dbIgnored := satInc 255 d.fe.dbIgnored } }

/-- A doorbell takes effect: the fetcher sees the index, the pending bit is set (R339). -/
def dbEffect (ring : Nat) (d : Dev) : Dev :=
  setRing d ring (fun r => { r with effWptr := r.wptr, pending := true })

/-- The open batch closes: the doorbells of every ring in it take effect (R340). -/
def closeDbBatch (d : Dev) : Dev :=
  let d := d.fe.batchRings.foldl (fun d r => dbEffect r d) d
  { d with fe := { d.fe with batchTb := none, batchCount := 0, batchRings := [] } }

/-- The conditions under which a doorbell is accepted (R338). -/
def dbAccepts (c : Cfg) (ring w : Nat) (d : Dev) : Bool :=
  let r := ringOf d ring
  d.boot.phase == 2 && !faulted d && r.bound && !r.devWriter && c.submit.mode == 1 && idxLe (w % 2 ^ 32) r.rptr r.size &&
    idxLe (w % 2 ^ 32) r.wptr r.size

/-- DB_WPTR_WRITE: accepted into the batch or at once, or ignored and counted (R338, R340). -/
def dbWptr (c : Cfg) (ring w : Nat) (d : Dev) : Dev :=
  if d.boot.phase ≠ 2 ∨ faulted d then d else
  let w := w % 2 ^ 32
  if dbAccepts c ring w d then
    let d := setRing d ring (fun r => { r with wptr := w })
    if ring < 8 ∨ c.submit.coalesceUs = 0 then dbEffect ring d
    else
      let f := d.fe
      let rings := if f.batchRings.contains ring then f.batchRings else f.batchRings ++ [ring]
      let d := { d with fe := { f with
        batchTb := some (f.batchTb.getD d.phe.tb), batchCount := f.batchCount + 1, batchRings := rings } }
      if c.submit.coalesceK ≤ d.fe.batchCount then closeDbBatch d else d
  else dbIgnore ring d

/-- DOORBELL_BATCH_CLOSE: COALESCE_US after the batch opened (R340). -/
def dbBatchClose (c : Cfg) (d : Dev) : Dev :=
  match d.fe.batchTb with
  | none => d
  | some t => closeDbBatch (advanceTo c (t + c.submit.coalesceUs * 500) d)

/-- DB_CQ_RPTR_WRITE (R338). -/
def dbCqRptr (ring v : Nat) (d : Dev) : Dev :=
  if d.boot.phase ≠ 2 then d else
  let r := ringOf d ring
  let v := v % 2 ^ 32
  if idxLe r.cqWptr v r.cqSize && idxLe v r.cqRptr r.cqSize then setRing d ring (fun r => { r with cqRptr := v })
  else dbIgnore ring d

/-- FE_KQ_WPTR_WRITE: the same rules against the kernel queue's size (R338); ignored while ENABLE is 0. -/
def kqWptrWrite (v : Nat) (d : Dev) : Dev :=
  let f := d.fe
  let v := v % 2 ^ 32
  if d.boot.phase ≠ 2 then d
  else if f.kqEnable && idxLe v f.kqRptr f.kqSize && idxLe v f.kqWptr f.kqSize then { d with fe := { f with kqWptr := v } }
  else { d with fe := { f with dbIgnored := satInc 255 f.dbIgnored } }

/-- FE_KQ_CQ_RPTR_WRITE (R338). -/
def kqCqRptrWrite (v : Nat) (d : Dev) : Dev :=
  let f := d.fe
  let v := v % 2 ^ 32
  if d.boot.phase ≠ 2 then d
  else if idxLe f.kqCqWptr v f.kqCqSize && idxLe v f.kqCqRptr f.kqCqSize then { d with fe := { f with kqCqRptr := v } }
  else { d with fe := { f with dbIgnored := satInc 255 f.dbIgnored } }

/-! ### Waiting records (R349) -/

/-- Write the oldest waiting record of the KQ completion queue, and drop its references. -/
def drainKq (d : Dev) : Dev :=
  match d.fe.kqRecs with
  | [] => d
  | w :: rest =>
    if kqRoom d.fe = false ∨ faulted d then d else
    dropRefs w.objects (kqPut w.bytes { d with fe := { d.fe with kqRecs := rest } })

/-- Write the oldest waiting record of a ring (R346 steps 6 and 7). -/
def drainRing (c : Cfg) (ring : Nat) (d : Dev) : Dev :=
  let r := ringOf d ring
  match r.waitRecs with
  | [] => d
  | w :: rest =>
    if cqRoom r = false ∨ faulted d then d else
    let d := setRing d ring (fun r => { r with waitRecs := rest })
    let p := cqPut c ring w.bytes d
    if p.1 = 0 then
      dropRefs w.objects (match w.notify with
        | some s => raise s p.2
        | none => p.2)
    else loseContext c r.ctx p.1 [] (dropRefs w.objects p.2)

/-- CQ_RECORD_DRAIN of queue 0 to 63 (rings) or 64 (the KQ completion queue). -/
def cqRecordDrain (c : Cfg) (queue : Nat) (d : Dev) : Dev :=
  if queue < 64 then drainRing c queue d else drainKq d

/-- FE_KQ_ENABLE: a write of FE_KQ_CTRL. Setting ENABLE needs both sizes valid, zeroes the KQ indices and writes
the records that waited, in order, from index 0 (R349, R358). -/
def kqEnableWrite (v : Nat) (d : Dev) : Dev :=
  let f := d.fe
  if bit v 0 = false then { d with fe := { f with kqEnable := false } }
  else if queueSizeOk f.kqSize && queueSizeOk f.kqCqSize then
    let d := { d with fe := { f with kqEnable := true, kqWptr := 0, kqRptr := 0, kqCqWptr := 0, kqCqRptr := 0 } }
    iter drainKq d.fe.kqRecs.length d
  else d

/-! ### Fetch (R335, R346 step 1) -/

/-- A new command from an entry. -/
def newCmd (d : Dev) (e : Entry) (index ring ctx : Nat) (kq toKq : Bool) : Cmd :=
  { (default : Cmd) with
    serial := d.fe.nextSerial, entry := e, index := index, ring := ring, ctx := ctx, kq := kq, toKq := toKq
    phase := .fetched, instNo := 0xFF }

/-- Take the next serial number. -/
def bumpSerial (d : Dev) : Dev := { d with fe := { d.fe with nextSerial := d.fe.nextSerial + 1 } }

/-- Prefetches of `n` bytes at a virtual address into the side buffers of their home slices: what does not translate or fails its check is dropped
in silence, because no command asked for it (R108, R389). -/
def prefetchVirt (c : Cfg) (rq : Rq) (va n : Nat) (d : Dev) : Dev :=
  (linePieces (va % 2 ^ 48) n).foldl (fun d p =>
    let t := translate c rq (rq.ctx.getD 0) p.1 false d
    match t.1 with
    | .leaf e => (prefetchLine c { rq with noalloc := rq.noalloc || e.noalloc } (leafPa e p.1) [] t.2).2
    | .fault .. => t.2) d

/-- Length of the payload of an entry's class and OP (R343): of a TOK payload the part before its items, whose number stands in it. -/
def payloadBytes (e : Entry) : Nat :=
  match e.cls with
  | 0 => if e.op = 2 then 64 else 0
  | 6 => 256
  | 7 => 416
  | 9 => 64
  | _ => 128

/-- The prefetch of an entry's payload (R368). -/
def prefetchPayload (c : Cfg) (x : Cmd) (d : Dev) : Dev := prefetchVirt c (rqFe c x.ctx) x.entry.payload (payloadBytes x.entry) d

/-- On a gated ring: the mark's payload is read ahead, and entries behind a released START are released with it (R230). Answered too is whether a mark
could not be read. -/
def gateFetched (c : Cfg) (x : Cmd) (d : Dev) : Cmd × Bool × Dev :=
  match gateOf c x.ring with
  | none => (x, false, d)
  | some _ =>
    let r : Option (List PByte) × Dev := if isMark x then peekRead c (rqFe c x.ctx) x.ctx x.entry.payload 64 d else (none, d)
    let unread := isMark x && r.1.isNone
    let x := match r.1 with
      | some b => if ppoison b then x else { x with cmark := some (parseMark (pdata b)) }
      | none => x
    let prev := (ringOf d x.ring).cmds.getLast?
    let rel := match prev with
      | some y => y.released && !isEnd y
      | none => (openChain d x.ring).isSome
    ({ x with released := rel && !isStart x }, unread, r.2)

/-- The chain whose entries are skipped as they come has ended: its END was fetched, or the next START (R228, R230). -/
def endSkipping (mon : Option Nat) (d : Dev) : Dev :=
  match mon with
  | some m => setDlm d m (fun s => { s with skipping := false })
  | none => d

/-- A fetched entry joins its ring, or completes at fetch. -/
def enterRing (c : Cfg) (x : Cmd) (d : Dev) : Dev :=
  let d := takeRefs x.entry.objects (bumpSerial d)
  if (ctxOf d x.ctx).state ≠ 1 then (finishCmd c x 0x13 true d).2
  else if routable x.entry = false then endCmd c x 0x10 d
  else
    let g := gateFetched c x d
    let x := { g.1 with waitRes := evalWaits g.2.2 g.1 }
    let mon := gateOf c x.ring
    let skip := match mon with
      | some m => (dlmOf g.2.2 m).skipping && !isStart x && !g.2.1
      | none => false
    let d := if isEnd x ∨ isStart x then endSkipping mon g.2.2 else g.2.2
    if skip then endCmd c x 0x16 d
    else
      prefetchPayload c x (setRing d x.ring (fun r => { r with cmds := r.cmds ++ [x] }))

/-- A fetcher's pass over its ring (R339): when it idles and the pending bit is set, the bit is cleared and the pass goes up to the index it then reads;
at the end of the pass it goes round again, or idles. -/
def fetcherPass (r : Ring) : Ring :=
  let begun := { r with pending := false, fetchTo := some r.effWptr }
  let r := match r.fetchTo with
    | none => if r.pending then begun else r
    | some w => if r.rptr = w ∧ (r.pending || r.effWptr != r.rptr) then begun else r
  if r.fetchTo = some r.rptr ∧ r.pending = false ∧ r.effWptr = r.rptr then { r with fetchTo := none } else r

/-- The fetchers of the rings go on with their passes. -/
def fetchers (d : Dev) : Dev :=
  if feStopped d then d else
  { d with fe := { d.fe with rings := amapAll d.fe.rings (fun _ r =>
    if r.bound && !r.fetchStopped && !r.unbinding then fetcherPass r else r) } }

/-- RING_ENTRY_FETCH of a ring in device memory (R339, R346, R431, R533). A slot that the host wrote while the ring is device-written holds an undefined
command (R341). -/
def ringFetch (c : Cfg) (ring : Nat) (d : Dev) : Dev :=
  let r := ringOf d ring
  if feStopped d ∨ r.bound = false ∨ r.fetchStopped ∨ r.unbinding ∨ r.rptr = r.effWptr then d else
  let p := physRead c (rqFe c r.ctx) (r.base + (r.rptr % r.size) * 128) 128 [] d
  let d := p.2.2
  if p.1 ≠ 0 then
    loseContext c r.ctx p.1 [] (setRing d ring (fun r => { r with fetchStopped := true }))
  else
    let d := setRing d ring (fun r => { r with rptr := (r.rptr + 1) % 2 ^ 32 })
    let b := if r.devWriter ∧ r.foreign.contains (r.rptr % r.size) then freeBytes 128 d else (pdata p.2.1, d)
    let d := b.2
    let x := newCmd d (parseEntry b.1) r.rptr ring r.ctx false false
    if ppoison p.2.1 then
      let f := finishCmd c { x with poisoned := true } 0x10 false (bumpSerial d)
      if f.1 = 0 then f.2 else loseContext c r.ctx f.1 [] f.2
    else enterRing c x d

/-- KQ_ENTRY_FETCH (R335): the next kernel-queue entry is routed to its ring's on-chip queue, kept as MGMT work, or
completes at once; a full on-chip queue stops the fetching, as does a RING_UNBIND that waits (R357). -/
def kqFetch (c : Cfg) (d : Dev) : Dev :=
  let f := d.fe
  if feStopped d ∨ f.kqEnable = false ∨ f.kqRptr = f.kqWptr ∨ f.rings.any (fun p => p.2.unbinding) = true then d else
  let p := busRead d (f.kqBase + (f.kqRptr % f.kqSize) * 128) 128
  let e := parseEntry (pdata p.1)
  let r := ringOf d e.ring
  let direct := c.submit.mode == 1
  let toRing := !direct && e.cls != 15 && r.bound
  let full := decide (32 ≤ (r.cmds.filter (fun x => x.phase == .fetched || x.phase == .armed)).length)
  if !ppoison p.1 && toRing && full && (ctxOf d r.ctx).state == 1 then d else
  let d := { p.2 with fe := { p.2.fe with kqRptr := (f.kqRptr + 1) % 2 ^ 32 } }
  let x := newCmd d e f.kqRptr e.ring r.ctx true (!toRing)
  if ppoison p.1 then (finishCmd c { x with poisoned := true, toKq := true } 0x10 false (bumpSerial d)).2
  else if toRing then enterRing c x d
  else
    let d := takeRefs e.objects (bumpSerial d)
    if e.cls = 15 then
      let x := { x with waitRes := evalWaits d x }
      { d with fe := { d.fe with kqCmds := d.fe.kqCmds ++ [x] } }
    else (finishCmd c x 0x10 true d).2

/-! ### Dispatch (R346 step 3, R78) -/

/-- Whether the FE may post the oldest waiting command of a ring now. -/
def mayPost (c : Cfg) (d : Dev) (x : Cmd) : Bool :=
  !feStopped d && !d.fe.postStop && (ringOf d x.ring).waitRecs == [] && laneRoom d x &&
    !waitsForRelease c d x && (ctxOf d x.ctx).state == 1

/-- A dispatched command's AFTER_START deadline is resolved from the dispatch stamp (R77). -/
def resolveAfterStart (d : Dev) (x : Cmd) : Cmd :=
  let s := x.entry.deadline
  if s.kind = 4 ∧ s.ref ≤ 10 then
    let r := refOf d s.ref
    { x with
      deadlineTarget := if refValid r then some ((refStamp r + s.value) % 2 ^ 64) else none, deadlineEpoch := r.epoch }
  else x

/-- Post the token of a command: it enters its lane, and a gated quarter's clock restarts (R22, R460). -/
def postToken (c : Cfg) (x : Cmd) (d : Dev) : Dev :=
  let y := { resolveAfterStart d x with phase := .dispatched, dispatchTb := d.phe.tb }
  let d := joinChain c y (setCmd d x.serial (fun _ => y))
  let lane := laneIdx x.entry x.ring
  let d := { d with sched := { d.sched with lanes := amod d.sched.lanes lane (fun l => l ++ [x.serial]) } }
  let d := clocksRun x.entry d
  obsEmit c 0 0x01 0 (srcWord x.entry.cls x.entry.quarter 0) (cmdArg x) [] (obsCount 0xB0 4 0xF (some x.ctx) 1 d)

/-- COMMAND_DISPATCH of a ring's ready command. -/
def commandDispatch (c : Cfg) (ring : Nat) (d : Dev) : Dev :=
  match oldestWaiting (ringOf d ring) with
  | none => d
  | some x => if x.ready && x.phase == .fetched && x.entry.cls != 0 && mayPost c d x then postToken c x d else d

/-- Whether a ready command of the FE's own class may run once its start phase is reached. -/
def feMay (c : Cfg) (d : Dev) (x : Cmd) : Bool :=
  x.ready && !feStopped d && (ringOf d x.ring).waitRecs == [] && !waitsForRelease c d x

/-- Whether a command of the FE's own class can run now: the oldest waiting, ready, with its start phase reached. -/
def feReady (c : Cfg) (d : Dev) (x : Cmd) : Bool :=
  (x.phase == .fetched || (x.phase == .armed && targetReached d x)) && feMay c d x

/-- FE_NOP of a ring: completes at once (R343). -/
def feNop (c : Cfg) (ring : Nat) (d : Dev) : Dev :=
  match oldestWaiting (ringOf d ring) with
  | none => d
  | some x =>
    if x.entry.cls = 0 ∧ x.entry.op = 1 ∧ feReady c d x = true then
      let d := joinChain c x d
      endCmd c { resolveAfterStart d ((cmdOf d x.serial).getD x) with dispatchTb := d.phe.tb, ran := true } 0 d
    else d

/-- CYCLE_MARK of a ring (R228): its payload is read in the ring's context; a fault stalls it, poison makes it INVALID_COMMAND. A START of a gated ring
that could not be read ahead is staged, and waits for its release (R230). -/
def cycleMark (c : Cfg) (ring : Nat) (d : Dev) : Dev :=
  match oldestWaiting (ringOf d ring) with
  | none => d
  | some x =>
    let rq := { rqFe c x.ctx with serial := some x.serial }
    if x.entry.cls ≠ 0 ∨ x.entry.op ≠ 2 ∨ feReady c d x = false ∨ unitStalled d rq then d else
    let r := virtRead c rq x.ctx x.entry.payload 64 1 d
    if r.1.stalled then r.2
    else if r.1.status ≠ 0 then endCmd c x r.1.status r.2
    else
      let x : Cmd := { resolveAfterStart d x with dispatchTb := d.phe.tb, ran := true }
      if ppoison r.1.data then endCmd c { x with poisoned := true } 0x10 r.2
      else
        let mk := parseMark (pdata r.1.data)
        let gated := gateOf c ring
        if gated.isSome ∧ mk.kind = 1 ∧ x.released = false then endSkipping gated (stageMark ring x.serial mk r.2) else
        let d := if gated.isSome ∧ x.cmark.isNone ∧ mk.kind = 2 then endSkipping gated r.2 else r.2
        let d := if mk.kind = 1 then startReached c ring mk d else d
        let d := endCmd c x 0 d
        if mk.kind = 2 then closeChain c ring d else d

/-- A comparator whose target is reached dispatches its waiting command, where nothing else holds it back (R78, R80): its token is posted, or a
command of the FE's own class runs. -/
def fireNow (c : Cfg) (ring : Nat) (d : Dev) : Dev :=
  match oldestWaiting (ringOf d ring) with
  | none => d
  | some x =>
    let may := if x.entry.cls = 0 then feMay c d x else mayPost c d x
    if x.phase ≠ .armed ∨ may = false ∨ targetReached d x = false then d else
    let d := obsEmit c 1 0x11 0 0xF0 ring [] d
    if x.entry.cls ≠ 0 then postToken c x d
    else if x.entry.op = 1 then feNop c ring d
    else cycleMark c ring d

/-- START_COMPARATOR_FIRE: time passes until the comparator's reference reaches the target. Commands of lower rings whose comparators have fired
by then enter the same input queue first (R81). -/
def comparatorFire (c : Cfg) (ring : Nat) (d : Dev) : Dev :=
  match oldestWaiting (ringOf d ring) with
  | none => d
  | some x =>
    match x.startTarget with
    | none => d
    | some t =>
      let n := x.entry.start.ref
      let may := if x.entry.cls = 0 then feMay c d x else mayPost c d x
      if x.phase ≠ .armed ∨ refValid (refOf d n) = false ∨ may = false then d else
      let d := advance c (ticksToStamp c n t d) d
      let same := fun (r : Nat) => match oldestWaiting (ringOf d r) with
        | some y => x.entry.cls != 0 && queueOf y.entry == queueOf x.entry
        | none => false
      fireNow c ring (((List.range ring).filter same).foldl (fun d r => fireNow c r d) d)

/-- COMMAND_COMPLETE of the command with a given ring index (R346 steps 5 to 7). -/
def commandComplete (c : Cfg) (ring index : Nat) (d : Dev) : Dev :=
  match (ringOf d ring).cmds.find? (fun x => x.phase == .finished && x.index == index) with
  | some x => endCmd c x x.status d
  | none => d

/-! ### Host writes of references, fences and counters -/

/-- FE_REF_ADD and FE_REF_DROP: N of 0 does nothing (R353). -/
def feRefAdd (obj n : Nat) (d : Dev) : Dev := if n % 256 = 0 then d else refAdd (obj % 65536) (n % 256) false d

/-- FE_REF_DROP. -/
def feRefDrop (obj n : Nat) (d : Dev) : Dev := if n % 256 = 0 then d else refDrop (obj % 65536) (n % 256) d

/-- FE_FENCE_SIG: a normal signal to the selected fence (R350). -/
def feFenceSig (v : Nat) (d : Dev) : Dev := signal (d.fe.sigSel % 4096) (v % 2 ^ 64) false d

/-- FE_COUNT_CLEAR: CLR zeroes the FE counters and every ring's IGNORED (R358). -/
def feCountClear (v : Nat) (d : Dev) : Dev :=
  if bit v 0 = false then d else
  { d with fe := { d.fe with
    fenceRegress := 0, dbIgnored := 0, refUnderflow := 0, refFromZero := 0, refSat := 0, cqFull := 0
    rings := amapAll d.fe.rings (fun _ r => { r with ignored := 0 }) } }

/-- FE_SCHED_CLEAR: CLR zeroes every FE_SCHED_r_COUNT (R377). -/
def feSchedClear (v : Nat) (d : Dev) : Dev :=
  if bit v 0 then { d with sched := { d.sched with counts := [] } } else d

/-! ### Management commands (R357, R396) -/

/-- The operations of the management table. -/
def mgmtKnown (op : Nat) : Bool := (decide (1 ≤ op) && decide (op ≤ 8)) || op == 0x10 || op == 0x11

/-- The MGMT entry at the head of the queue, when its waits are satisfied. -/
def mgmtHead (d : Dev) : Option Cmd :=
  match d.fe.kqCmds with
  | x :: _ => if x.waitRes = 1 ∧ feStopped d = false then some x else none
  | [] => none

/-- How a management command goes: done with a status, or not finished yet. -/
inductive MgmtRes where
  | done (status : Nat) (d : Dev)
  | wait (d : Dev)

/-- Complete the head MGMT command. -/
def mgmtEnd (c : Cfg) (x : Cmd) (status : Nat) (d : Dev) : Dev :=
  (finishCmd c { x with ran := true, dispatchTb := if x.ran ∨ x.phase = .dispatched then x.dispatchTb else d.phe.tb } status true d).2

/-- A management command that does not complete at once has been dispatched: its duration counts from here (R347). -/
def mgmtBegun (x : Cmd) (d : Dev) : Dev := setCmd d x.serial (fun y => if y.ran then y else { y with ran := true, dispatchTb := d.phe.tb })

/-- Run the head MGMT command when its operation is `op`; an operation of no row completes INVALID_COMMAND. The payload is
64 bytes, 64-byte aligned, read in RC0 on the spine's own account (R357). -/
def mgmtRun (c : Cfg) (op : Nat) (f : Cmd → List Byte → Dev → MgmtRes) (d : Dev) : Dev :=
  match mgmtHead d with
  | none => d
  | some x =>
    if mgmtKnown x.entry.op = false then mgmtEnd c x 0x10 d
    else if x.entry.op ≠ op ∨ x.phase ≠ .fetched then d
    else if x.entry.payload % 64 ≠ 0 then mgmtEnd c x 0x10 d
    else
      let r := physRead c (rqZero 0) (x.entry.payload % 2 ^ 48) 64 [] d
      if r.1 ≠ 0 ∨ ppoison r.2.1 then mgmtEnd c x 0x10 r.2.2
      else
        match f x (pdata r.2.1) r.2.2 with
        | .done st d => mgmtEnd c x st d
        | .wait d => mgmtBegun x d

/-- CTX_CREATE: a FREE context becomes ACTIVE with its root (R333, R396). -/
def ctxCreate (c : Cfg) : Dev → Dev := mgmtRun c 1 (fun _ b d =>
  let x := getLe b 0 1
  let root := getLe b 8 8
  if 64 ≤ x ∨ (ctxOf d x).state ≠ 0 ∨ tableOk 3 root = false ∨ d.mmu.enable = false then .done 0x10 d
  else
    .done 0 (dropCached (some x) 0 (2 ^ 48) { d with fe := { d.fe with ctxs := aset d.fe.ctxs x ⟨1, 0, root⟩ } }))

/-- CTX_KILL (R357). -/
def ctxKill (c : Cfg) : Dev → Dev := mgmtRun c 2 (fun _ b d =>
  let x := getLe b 0 1
  if 64 ≤ x then .done 0x10 d
  else .done 0 (if (ctxOf d x).state = 1 then loseContext c x 0x19 [] d else d))

/-- The rings of a context are unbound. -/
def unbindCtx (x : Nat) (d : Dev) : Dev :=
  { d with fe := { d.fe with
    rings := amapAll d.fe.rings (fun _ r => if r.bound && r.ctx == x then { r with bound := false } else r) } }

/-- CTX_RELEASE: it completes once the context is FREE (R333). A command whose record waits has not completed, so that no record is lost (R349). -/
def ctxRelease (c : Cfg) : Dev → Dev := mgmtRun c 3 (fun _ b d =>
  let x := getLe b 0 1
  if 64 ≤ x then .done 0x10 d
  else
    let d := if (ctxOf d x).state = 1 then loseContext c x 0x19 [] d else d
    if (ctxOf d x).state = 0 then .done 0 d
    else if cmdsOfCtx d x ≠ [] ∨ d.fe.rings.any (fun p => p.2.bound && p.2.ctx == x && p.2.waitRecs != []) = true then .wait d
    else
      let cause := (ctxOf d x).cause
      let d := unbindCtx x { d with fe := { d.fe with ctxs := aset d.fe.ctxs x ⟨0, cause, 0⟩ } }
      .done 0 (flushSide x (dropCached (some x) 0 (2 ^ 48) d)))

/-- Whether a ring's BASE meets R336: node 0, region 0x0 to 0x4 or 0x8, 128-byte aligned. -/
def ringBaseOk (pa : Nat) : Bool :=
  pa % 128 == 0 && (decide (pa / 2 ^ 40 ≤ 4) || pa / 2 ^ 40 == 8)

/-- Whether a completion queue's base meets R336: node 0 or 8, 32-byte aligned. -/
def cqBaseOk (pa : Nat) : Bool := pa % 32 == 0 && (pa / 2 ^ 44 == 0 || pa / 2 ^ 44 == 8)

/-- RING_INIT: the ring becomes bound with every index at 0 (R357); its deficits start at 0 (R361). -/
def ringInit (c : Cfg) : Dev → Dev := mgmtRun c 4 (fun _ b d =>
  let r := getLe b 0 1
  let x := getLe b 1 1
  let size := getLe b 4 4
  let base := getLe b 8 8
  let cq := getLe b 0x10 8
  let cqSize := getLe b 0x18 4
  if 64 ≤ r ∨ 64 ≤ x ∨ (ringOf d r).bound ∨ (ctxOf d x).state ≠ 1 ∨ queueSizeOk size = false ∨
      queueSizeOk cqSize = false ∨ ringBaseOk base = false ∨ cqBaseOk cq = false then .done 0x10 d
  else
    let ring : Ring := { (default : Ring) with
      bound := true, ctx := x, size := size, base := base, cqBase := cq, cqSize := cqSize, ignored := (ringOf d r).ignored
      devWriter := (ringOf d r).devWriter }
    let deficit := d.sched.deficit.filter (fun p => p.1 % 64 != r)
    .done 0 { d with
      fe := { d.fe with rings := aset d.fe.rings r ring }
      sched := { d.sched with deficit := deficit } })

/-- RING_UNBIND: fetching stops; it completes once every fetched command and its record are done (R357). -/
def ringUnbind (c : Cfg) : Dev → Dev := mgmtRun c 5 (fun _ b d =>
  let r := getLe b 0 1
  if 64 ≤ r then .done 0x10 d
  else if (ringOf d r).bound = false then .done 0 d
  else if (ringOf d r).cmds = [] ∧ (ringOf d r).waitRecs = [] then
    .done 0 (setRing d r (fun r => { r with bound := false, unbinding := false, pending := false, fetchTo := none }))
  else .wait (setRing d r (fun r => { r with unbinding := true })))

/-- FENCE_INIT (R357). -/
def fenceInit (c : Cfg) : Dev → Dev := mgmtRun c 6 (fun _ b d =>
  let f := getLe b 0 2 % 4096
  let e := getLe b 2 1
  if 1 < e then .done 0x10 d
  else .done 0 (reevaluate f { d with fe := { d.fe with fences := aset d.fe.fences f ⟨getLe b 8 8, e == 1⟩ } }))

/-- The command stays in front until the requests of the old translation have completed (R397). -/
def holdHead (x : Cmd) (d : Dev) : Dev := setCmd d x.serial (fun x => { x with phase := .dispatched, dispatchTb := d.phe.tb })

/-- The requests of a context, or of every context, that are under way at the instant of an INVALIDATE: it waits for them (R397 step 2). A request
under way carries its physical address only, so it waits for those of the whole context. -/
def markIssued (who : Option Nat) (d : Dev) : Dev :=
  let mine := fun (rq : Rq) => match who with
    | some k => rq.ctx == some k
    | none => rq.ctx.isSome
  { d with
    host := { d.host with outReads := d.host.outReads.map (fun r => { r with inv := mine r.rq }) }
    store := d.store.map (fun s => { s with waiting := s.waiting.map (fun f => { f with inv := mine f.rq }) }) }

/-- INVALIDATE: cached translations of a range are removed at one instant (R397). -/
def invalidate (c : Cfg) : Dev → Dev := mgmtRun c 0x10 (fun x b d =>
  let ctx := getLe b 0 1
  let len := getLe b 0x10 8
  let va := getLe b 8 8 % 2 ^ 48
  if 64 ≤ ctx ∧ ctx ≠ 0xFF then .done 0x10 d
  else
    let who := if ctx = 0xFF then none else some ctx
    .wait (holdHead x (markIssued who (if len = 0 then dropCached who 0 (2 ^ 48) d else dropCached who va len d))))

/-- CTX_SET_ROOT: a new root, then the invalidation of the whole context (R396). -/
def ctxSetRoot (c : Cfg) : Dev → Dev := mgmtRun c 0x11 (fun x b d =>
  let ctx := getLe b 0 1
  let root := getLe b 8 8
  if 64 ≤ ctx ∨ (ctxOf d ctx).state ≠ 1 ∨ tableOk 3 root = false then .done 0x10 d
  else
    let d := { d with fe := { d.fe with ctxs := amod d.fe.ctxs ctx (fun s => { s with root := root }) } }
    .wait (holdHead x (markIssued (some ctx) (dropCached (some ctx) 0 (2 ^ 48) d))))

/-- INVALIDATE_COMPLETE: the requests translated before the instant have completed (R397 step 4). -/
def invalidateComplete (c : Cfg) (d : Dev) : Dev :=
  match d.fe.kqCmds with
  | x :: _ =>
    if x.phase = .dispatched ∧ (x.entry.op = 0x10 ∨ x.entry.op = 0x11) ∧ d.host.outReads.all (fun r => !r.inv) ∧
        d.store.all (fun s => s.waiting.all (fun f => !f.inv)) then mgmtEnd c x 0 d
    else d
  | [] => d

end Sys2Proof.Machine
end

