-- ==== Sys2Proof/Machine/Sched.lean ====
section
/-! DEFINITION. Input queues: allowed sets (R360), the choice of a lane (R361), hand-out and the end of
units (R362, R363), timeouts (R371 to R374). -/

namespace Sys2Proof.Machine

/-- Instances of a class in a quarter, or in the spine (R16). -/
def instCount (cls : Nat) : Nat :=
  if cls = 1 then 8 else if cls = 3 then 4 else if cls = 4 then 6 else if cls = 8 then 2 else if cls = 9 then 4 else 1

/-- The power domain of an instance (R459). -/
def domainOf (cls q i : Nat) : Nat :=
  if cls = 1 ∨ cls = 2 then 10 + 5 * q
  else if cls = 3 then 7 + 5 * q
  else if cls = 4 then (if i < 3 then 8 else 9) + 5 * q
  else if cls = 6 then 4 else if cls = 7 then 3 else if cls = 8 ∨ cls = 9 then 5 else 1

/-- The rings whose accepted RT_SHARE reserves an ME or shader core. -/
def reservedFor (c : Cfg) (cls q i : Nat) : Option Nat :=
  (List.range 8).find? (fun r => match c.share r with
    | some s => bit ((if cls = 1 then s.meMask else s.scMask).getD q 0) i
    | none => false)

/-- Whether an instance can go on with work it has: powered, its microcode in force, not in reset, its quarter's clock not switching
(R469). -/
def unitUp (d : Dev) (cls q i : Nat) : Bool :=
  let s := instOf d (instIdx cls q i)
  !s.off && s.resetEnd == none && d.clk.domains.getD (domainOf cls q i) 0 == 1 &&
    (if cls = 1 ∨ cls = 2 then bit d.boot.microcode (8 + q) else cls != 5 || bit d.boot.microcode 3) &&
    !(quarterClass cls && d.clk.switches.any (fun w => w.quarter == q))

/-- Whether a shed stage holds back new work: TIL, and shader cores outside every reservation, from S2; MEs outside every reservation from S3
(R367, R477). -/
def shedOut (c : Cfg) (d : Dev) (cls q i : Nat) : Bool :=
  (cls == 6 && decide (2 ≤ d.pwr.stage)) ||
    (cls == 4 && decide (2 ≤ d.pwr.stage) && (reservedFor c cls q i).isNone) ||
    (cls == 1 && decide (3 ≤ d.pwr.stage) && (reservedFor c cls q i).isNone)

/-- Whether an instance may take new work: it can run, passed its known-answer test, is in no service window, and no shed stage holds it back
(R58, R59, R360, R367). -/
def inService (c : Cfg) (d : Dev) (cls q i : Nat) : Bool :=
  let s := instOf d (instIdx cls q i)
  unitUp d cls q i && !s.katFailed && !s.window && !shedOut c d cls q i

/-- The allowed set of a token (R360). -/
def allowedSet (c : Cfg) (d : Dev) (x : Cmd) : List Nat :=
  let e := x.entry
  let q := if quarterClass e.cls then e.quarter else 0
  (List.range (instCount e.cls)).filter (fun i =>
    (!quarterClass e.cls || bit e.mask i) && inService c d e.cls q i &&
    (if e.cls = 1 ∨ e.cls = 4 then
      match reservedFor c e.cls q i with
      | some r => r == x.ring
      | none => true
     else true))

/-- Whether an instance is idle. -/
def isIdle (d : Dev) (cls q i : Nat) : Bool := (instOf d (instIdx cls q i)).run == none

/-- The lowest idle instance that may take a command's next unit and holds the credits for its output (R23): `lack` names, by ring and instance, those
that do not. Shader cores admit blocks by their own rule. -/
def takerOf (lack : List (Nat × Nat)) (c : Cfg) (d : Dev) (x : Cmd) : Option Nat :=
  let q := if quarterClass x.entry.cls then x.entry.quarter else 0
  if x.units.isNone && x.unitsRunning != 0 then none
  else if x.units.isSome && x.unitsLeft == [] then none
  else (allowedSet c d x).find? (fun i => isIdle d x.entry.cls q i && !lack.contains (x.ring, i))

/-- The command at the head of a lane. -/
def laneHead (d : Dev) (queue ring : Nat) : Option Cmd :=
  match aget d.sched.lanes (queue * 64 + ring) with
  | s :: _ => cmdOf d s
  | [] => none

/-- Whether the hand-out of a lane is stopped: lanes 8 to 63 from S1 on (R367). -/
def laneHeld (d : Dev) (ring : Nat) : Bool := decide (8 ≤ ring) && rrHeld d

/-- Whether the head of a lane can be taken; `taker` finds its instance. -/
def canTake (taker : Dev → Cmd → Option Nat) (d : Dev) (queue ring : Nat) : Bool :=
  !laneHeld d ring && (match laneHead d queue ring with
    | some x => (taker d x).isSome
    | none => false)

/-- Slice of a ring in ns (R361). -/
def sliceNs (c : Cfg) (ring : Nat) : Nat := (c.ring ring).sliceUs * 1000

/-- Pointer of a queue; 8 before it has moved. -/
def pointerOf (d : Dev) (queue : Nat) : Nat := 8 + aget d.sched.pointer queue

/-- The round-robin search over lanes 8 to 63 (R361): the lane found, with deficits and pointer as they then stand. -/
def rrSearch (c : Cfg) (taker : Dev → Cmd → Option Nat) (queue : Nat) : Nat → Dev → Option Nat × Dev
  | 0, d => (none, d)
  | n + 1, d =>
    let l := pointerOf d queue
    let idx := queue * 64 + l
    let ok := canTake taker d queue l
    if ok && decide (0 < aget d.sched.deficit idx) then (some l, d)
    else
      let s := d.sched
      let s := if ok then { s with deficit := amod s.deficit idx (fun v => v + (sliceNs c l : Int)) } else s
      rrSearch c taker queue n { d with sched := { s with pointer := aset s.pointer queue (if l = 63 then 0 else l - 7) } }

/-- Enough rounds for the most indebted lane of a queue to recover. -/
def rrFuel (c : Cfg) (d : Dev) (queue : Nat) : Nat :=
  let rounds := (List.range 56).map (fun i =>
    let v := aget d.sched.deficit (queue * 64 + 8 + i)
    (-v).toNat / Nat.max 1 (sliceNs c (8 + i)) + 2)
  56 * (rounds.foldl Nat.max 0 + 1)

/-- The lane a queue takes from next: real-time lanes first, then deficit round robin (R361, R364). -/
def pickLane (c : Cfg) (taker : Dev → Cmd → Option Nat) (queue : Nat) (d : Dev) : Option Nat × Dev :=
  match (List.range 8).find? (fun r => canTake taker d queue r) with
  | some r => (some r, d)
  | none =>
    if (List.range 56).any (fun i => canTake taker d queue (8 + i)) then rrSearch c taker queue (rrFuel c d queue) d
    else (none, d)

/-- Remove a token whose last unit was handed out. -/
def retireToken (x : Cmd) (d : Dev) : Dev :=
  let idx := laneIdx x.entry x.ring
  trimLane idx { d with sched := { d.sched with lanes := amod d.sched.lanes idx (fun l => l.filter (· != x.serial)) } }

/-! ### Engine buffers (R34, R160, R440) -/

/-- The error-table source of the buffer of a class (R442). -/
def bufSource (cls : Nat) : Option Nat := if cls = 1 then some 2 else if cls = 2 then some 3 else if cls = 3 then some 5 else none

/-- The first location of an instance's memory in its quarter's error table (R442). -/
def bufLoc (i : Nat) : Nat := i * 2 ^ 56

/-- An instance zeroes its buffer: an ME its operand halves and accumulators, any other what was staged in it. -/
def zeroBuffer (cls q i : Nat) (d : Dev) : Dev :=
  let k := instIdx cls q i
  let d := setInst d k (fun s => { s with buf := [] })
  let d := if cls = 1 then { d with me := aset d.me k default } else d
  match bufSource cls with
  | some src => chipWrite q src (bufLoc i) (2 ^ 56) d
  | none => d

/-- Before work of another context than that of its last unit, and before its first work after start or power-up, an instance zeroes its buffer
(R160, R440). -/
def takeContext (cls q i ctx : Nat) (d : Dev) : Dev :=
  let k := instIdx cls q i
  if (instOf d k).lastCtx = some ctx then d
  else setInst (zeroBuffer cls q i d) k (fun s => { s with lastCtx := some ctx })

/-- An instance reads its buffer: a byte in error is corrected and counted, and an uncorrectable error poisons what the unit writes from then on
(R421, R429). -/
def readBuffer (cls q i : Nat) (d : Dev) : Dev :=
  match bufSource cls with
  | none => d
  | some src =>
    let r := chipRead q src (bufLoc i) (2 ^ 56) d
    if r.1 = [] then r.2 else setInst r.2 (instIdx cls q i) (fun s => { s with run := s.run.map (fun r => { r with taint := true }) })

/-- An instance takes the next unit of a command; `count` is the number of units once the payload is known. -/
def giveUnit (x : Cmd) (i : Nat) (count : Option Nat) (d : Dev) : Dev :=
  let q := if quarterClass x.entry.cls then x.entry.quarter else 0
  let left := match x.units, count with
    | some _, _ => x.unitsLeft
    | none, some n => List.range n
    | none, none => [0]
  let u := left.headD 0
  let units := match x.units with
    | some n => some n
    | none => count
  let rest := left.drop 1
  let d := setCmd d x.serial (fun x => { x with
    units := units, unitsLeft := rest, unitsRunning := x.unitsRunning + 1, ran := true, instNo := if quarterClass x.entry.cls then 8 * q + i else 0xFF })
  let d := setInst (takeContext x.entry.cls q i x.ctx d) (instIdx x.entry.cls q i) (fun s => { s with
    run := some ⟨x.serial, x.ring, x.ctx, u, d.phe.tb, none, false, 0, [], false, false⟩, log := [] })
  if rest = [] ∧ units.isSome then retireToken x d else d

/-- OVERRUN, CMD_TIMEOUT, WAIT_TIMEOUT and RESET counts. -/
def schedCount (ring : Nat) (f : SchedCount → SchedCount) (d : Dev) : Dev :=
  { d with sched := { d.sched with counts := amod d.sched.counts ring f } }

/-- Charge a unit's busy time to its ring's deficit (R362). -/
def chargeUnit (queue : Nat) (r : Run) (d : Dev) : Dev :=
  if r.ring < 8 then d else
  let idx := queue * 64 + r.ring
  let v := aget d.sched.deficit idx - (((d.phe.tb - r.tb) * 2 : Nat) : Int)
  let d := trimLane idx { d with sched := { d.sched with deficit := aset d.sched.deficit idx v } }
  if v < 0 then schedCount r.ring (fun s => { s with overrun := satInc 255 s.overrun }) d else d

/-- An instance finishes its unit: it becomes idle, the time is charged, and a command with no unit left is finished. A status
other than OK ends the command's remaining units. -/
def unitEnd (cls q i status : Nat) (poisoned : Bool) (d : Dev) : Dev :=
  let k := instIdx cls q i
  match (instOf d k).run with
  | none => d
  | some r =>
    let d := chargeUnit (cls * 4 + q) r d
    let d := setInst d k (fun s => { s with run := none, lastCtx := some r.ctx })
    let d := if quarterClass cls then
        { d with pwr := { d.pwr with lastBusy := d.pwr.lastBusy.set q d.phe.tb } } else d
    match cmdOf d r.serial with
    | none => d
    | some x =>
      -- EXPERT_RANGE (0x11) is noted when the payload is read and lets the other units run (R158)
      let st := if x.status = 0 ∨ (x.status = 0x11 ∧ status ≠ 0) then status else x.status
      let left := if st = 0 ∨ st = 0x11 then x.unitsLeft else []
      let run := x.unitsRunning - 1
      let fin := left.isEmpty && run == 0 && (x.units.isSome || st != 0)
      let d := setCmd d r.serial (fun x => { x with
        status := st, poisoned := x.poisoned || poisoned, unitsLeft := left, unitsRunning := run
        phase := if fin then .finished else x.phase })
      if left.isEmpty ∧ (st ≠ 0 ∨ x.units.isSome) then retireToken x d else d

/-- What an instance works on: its run and its command. -/
def runOf (d : Dev) (cls q i : Nat) : Option (Run × Cmd) :=
  match (instOf d (instIdx cls q i)).run with
  | none => none
  | some r => (cmdOf d r.serial).map (fun x => (r, x))

/-- The requester of an instance executing a command. -/
def rqUnit (c : Cfg) (x : Cmd) (cls q i : Nat) : Rq :=
  { rqCmd c x.ctx cls (if quarterClass cls then q else 4) i with serial := some x.serial }

/-- A command's unit count becomes known when its payload is read: the first unit is the one in hand. -/
def setUnits (x : Cmd) (n : Nat) (d : Dev) : Dev :=
  if x.units.isSome then d else
  let d := setCmd d x.serial (fun x => { x with units := some n, unitsLeft := (List.range n).drop 1 })
  if n ≤ 1 then retireToken x d else d

/-- Run a whole-command or whole-unit engine operation on an instance: it does nothing while the instance is idle, stopped, out of
clock or stalled on an unreplayed fault; a new fault leaves the unit in place; otherwise the unit ends with its status. The
operation answers whether outputs were poisoned. -/
def engineUnit (c : Cfg) (cls q i : Nat) (op : Run → Cmd → Rq → Eng Bool) (d : Dev) : Dev :=
  match runOf d cls q i with
  | none => d
  | some (r, x) =>
    let rq := rqUnit c x cls q i
    if r.stopTb.isSome || unitStalled d rq || faulted d || !unitUp d cls q i then d else
    match runEng (op r x rq) d with
    | (.ok p, d) => unitEnd cls q i 0 p d
    | (.error .stall, d) => d
    | (.error (.fail st), d) => unitEnd cls q i st false d
    | (.error .invalid, d) => unitEnd cls q i 0x10 false d

/-! ### Timeouts -/

/-- The instance index of core `k` of 0 to 23. -/
def coreInst (k : Nat) : Nat := instIdx 4 (k / 6) (k % 6)

/-- Instances on which a command's units run, with the cores that hold blocks of it (R257). -/
def instsOf (d : Dev) (serial : Nat) : List Nat :=
  let runs := (d.sched.insts.filter (fun p => match p.2.run with
    | some r => r.serial == serial
    | none => false)).map (·.1)
  let held := ((List.range 24).filter (fun k => (coreOf d k).blocks.any (fun b => b.serial == serial))).map coreInst
  runs ++ held.filter (fun k => !runs.contains k)

/-- Instances that still drain for an expired command. -/
def drainsOf (d : Dev) (serial : Nat) : List Nat :=
  (d.sched.insts.filter (fun p => match p.2.run with
    | some r => r.serial == serial && r.stopTb.isSome
    | none => false)).map (·.1)

/-- The command completes TIMEOUT and the rest of its context's loss runs (R372 steps 4 and 5). -/
def timeoutFinish (c : Cfg) (x : Cmd) (d : Dev) : Dev :=
  let d := schedCount x.ring (fun s => { s with cmdTimeout := satInc 255 s.cmdTimeout }) d
  if faulted d then d else lossFinish c x.ctx 0x0A [(x.serial, 0x0A)] d

/-- An instance stops work for an expired command (R372 steps 2 and 3): one that holds a stalled request drains for it, any other has drained. A core
goes on holding the blocks of the context's other commands. -/
def stopInst (x : Cmd) (k : Nat) (d : Dev) : Dev :=
  if instStalled d k then
    let fresh : Run := ⟨x.serial, x.ring, x.ctx, 0, d.phe.tb, none, false, 0, [], false, false⟩
    setInst d k (fun s =>
      let r := s.run.getD fresh
      { s with run := some { r with serial := x.serial, ring := x.ring, stopTb := some d.phe.tb } })
  else setInst d k (fun s => match s.run with
    | some r => if r.serial = x.serial then { s with run := none, lastCtx := some x.ctx } else s
    | none => s)

/-- What R372 takes at the expiry itself: steps 1 and 2, and steps 1 and 2 of the loss sequence. A command whose instances have all drained
completes at once. -/
def expireCmd (c : Cfg) (x : Cmd) (d : Dev) : Dev :=
  let idx := laneIdx x.entry x.ring
  let d := { d with sched := { d.sched with lanes := amod d.sched.lanes idx (fun l => l.filter (· != x.serial)) } }
  let d := trimLane idx (setCmd d x.serial (fun x => { x with unitsLeft := [], expired := true }))
  let d := lossStart c x.ctx 0x0A ((instsOf d x.serial).foldl (fun d k => stopInst x k d) d)
  if drainsOf d x.serial = [] then timeoutFinish c x d else d

/-- A dispatched command whose timeout has reached its limit and is not held (R371). -/
def timeoutDue (c : Cfg) (d : Dev) (x : Cmd) : Bool :=
  x.phase == .dispatched && !x.expired && !timeoutPaused d x && (ctxOf d x.ctx).state == 1 &&
    decide ((timeoutLimit c x.ring : Int) ≤ x.age)

/-- A wait timeout that has reached its limit and is not held (R373). A command whose waits are satisfied with the error flag completes
DEPENDENCY_FAILED and does not expire (R374). -/
def waitDue (c : Cfg) (d : Dev) (x : Cmd) : Bool :=
  !waitPaused c d x && x.waitRes != 2 && decide ((c.ring x.ring).waitTimeoutUs * 500 ≤ x.waitAge)

/-- The wait timeout of a command (R373). -/
def expireWait (c : Cfg) (x : Cmd) (d : Dev) : Dev :=
  endCmd c x 0x18 (schedCount x.ring (fun s => { s with waitTimeout := satInc 255 s.waitTimeout }) d)

/-- The command timeouts of a ring that are due at this check (R374). -/
def ringTimeouts (c : Cfg) (ring : Nat) (d : Dev) : Dev :=
  if faulted d then d else
  match (ringOf d ring).cmds.find? (timeoutDue c d) with
  | some x => expireCmd c x d
  | none => d

/-- The wait timeout of a ring that is due at this check. -/
def ringWait (c : Cfg) (ring : Nat) (d : Dev) : Dev :=
  if faulted d then d else
  match oldestWaiting (ringOf d ring) with
  | some x => if waitDue c d x then expireWait c x d else d
  | none => d

/-- The expiries of the rings below one that fall due in the same check, in ascending ring order, a command timeout before a wait timeout
(R374). -/
def expireBelow (c : Cfg) (ring : Nat) (d : Dev) : Dev :=
  (List.range ring).foldl (fun d r => ringWait c r (ringTimeouts c r d)) d

/-- COMMAND_TIMEOUT of the command with a given ring index: the limit is reached once time has passed, unless the timeout stands
still (R371, R372). -/
def commandTimeout (c : Cfg) (ring index : Nat) (d : Dev) : Dev :=
  match (ringOf d ring).cmds.find? (fun x => x.phase == .dispatched && x.index == index && !x.expired) with
  | none => d
  | some x =>
    if timeoutPaused d x ∨ faulted d ∨ (ctxOf d x.ctx).state ≠ 1 then d else
    match ticksToAge c d ring ((timeoutLimit c ring : Int) - x.age).toNat with
    | none => d
    | some k =>
      let d := expireBelow c ring (advance c k d)
      match cmdOf d x.serial with
      | some y => if timeoutDue c d y && !faulted d then expireCmd c y d else d
      | none => d

/-- Finish expired commands whose instances have all drained. -/
def finishExpired (c : Cfg) (d : Dev) : Dev :=
  match (d.fe.rings.flatMap (fun p => p.2.cmds)).find? (fun x => x.expired && (drainsOf d x.serial).isEmpty) with
  | some x => timeoutFinish c x d
  | none => d

/-- DRAIN_LIMIT_EXPIRY: an instance that has not drained within 50 us is reset (R372 step 3, R257). -/
def drainLimit (c : Cfg) (cls q i : Nat) (d : Dev) : Dev :=
  let k := instIdx cls q i
  match (instOf d k).run with
  | none => d
  | some r =>
    match r.stopTb with
    | none => d
    | some t =>
      let d := advanceTo c (t + 25000) d
      let qq := if quarterClass cls then q else 4
      let dur := if cls = 1 ∨ cls = 2 ∨ cls = 3 then 1000 else 2500
      let stalled := d.mmu.stalled.filter (fun s => !(s.cls == cls && s.quarter == qq && s.inst == i))
      let d := { d with mmu := { d.mmu with stalled := stalled } }
      let d := setInst d k (fun s => { s with run := none, lastCtx := none, resetEnd := some (d.phe.tb + dur) })
      finishExpired c (schedCount r.ring (fun s => { s with reset := satInc 255 s.reset }) d)

/-- INSTANCE_RESET_DONE: the instance rejoins its allowed sets. -/
def resetDone (c : Cfg) (cls q i : Nat) (d : Dev) : Dev :=
  match (instOf d (instIdx cls q i)).resetEnd with
  | none => d
  | some t => setInst (advanceTo c t d) (instIdx cls q i) (fun s => { s with resetEnd := none })

/-- WAIT_TIMEOUT of a ring's oldest undispatched command (R373): time passes until it is due. A command timeout of the ring that is due in the same
check comes first (R374). -/
def waitTimeout (c : Cfg) (ring : Nat) (d : Dev) : Dev :=
  match oldestWaiting (ringOf d ring) with
  | none => d
  | some x =>
    if waitPaused c d x ∨ faulted d then d else
    let d := advance c ((c.ring ring).waitTimeoutUs * 500 - x.waitAge) d
    let d := ringTimeouts c ring (expireBelow c ring d)
    match cmdOf d x.serial with
    | some y => if waitDue c d y && !faulted d then expireWait c y d else d
    | none => d

end Sys2Proof.Machine
end

