-- ==== Sys2Proof/Machine/Me.lean ====
section
/-! DEFINITION. The matrix engine (R155 to R177): its descriptor and checks, units, operand loading, tiles, split
reductions, output. -/

namespace Sys2Proof.Machine

/-! ### Reading memory -/

/-- Bytes at a virtual address, and whether any sector was poisoned. -/
def eBytes (c : Cfg) (rq : Rq) (va len : Nat) : Eng (List Byte × Bool) := do
  if len = 0 then pure ([], false)
  else
    let l ← eRead c rq va len
    pure (pdata l, ppoison l)

/-- A 128-byte payload: an address that is not 128-byte aligned, or a poisoned sector, makes the command invalid (R155, R157). -/
def ePayload (c : Cfg) (rq : Rq) (va len : Nat) : Eng (List Byte) := do
  if va % 128 ≠ 0 then throw .invalid
  else
    let r ← eBytes c rq va len
    if r.2 then throw .invalid else pure r.1

/-! ### Descriptor (R166) -/

/-- The ME descriptor. -/
structure MeDesc where
  op : Nat
  aFmt : Nat
  wFmt : Nat
  oFmt : Nat
  flags : Nat
  expG : Nat
  ksplit : Nat
  gqa : Nat
  anchor : Int
  aOff : Int
  wOff : Int
  oOff : Int
  scoreMul : Nat
  m : Nat
  n : Nat
  k : Nat
  batch : Nat
  aAddr : Nat
  aScale : Nat
  wAddr : Nat
  wAux : Nat
  oAddr : Nat
  oScale : Nat
  rowAux : Nat
  side : Nat
  status : Nat
  work : Nat
  aStride : Nat
  oStride : Nat
deriving DecidableEq, Repr, Inhabited

/-- The fields of a descriptor's bytes. -/
def parseMe (b : List Byte) : MeDesc :=
  { op := getLe b 0 1, aFmt := getLe b 1 1, wFmt := getLe b 2 1, oFmt := getLe b 3 1, flags := getLe b 4 1
    expG := getLe b 5 1, ksplit := getLe b 6 1, gqa := getLe b 7 1, anchor := toSigned 16 (getLe b 8 2)
    aOff := toSigned 8 (getLe b 0xA 1), wOff := toSigned 8 (getLe b 0xB 1), oOff := toSigned 8 (getLe b 0xC 1)
    scoreMul := getLe b 0xE 2, m := getLe b 0x10 4, n := getLe b 0x14 4, k := getLe b 0x18 4, batch := getLe b 0x1C 4
    aAddr := getLe b 0x20 8, aScale := getLe b 0x28 8, wAddr := getLe b 0x30 8, wAux := getLe b 0x38 8
    oAddr := getLe b 0x40 8, oScale := getLe b 0x48 8, rowAux := getLe b 0x50 8, side := getLe b 0x58 8
    status := getLe b 0x60 8, work := getLe b 0x68 8, aStride := getLe b 0x70 4, oStride := getLe b 0x74 4 }

/-- FLAGS bits of a descriptor. -/
def MeDesc.aE8 (d : MeDesc) : Bool := bit d.flags 0
/-- W carries E8 scales. -/
def MeDesc.wE8 (d : MeDesc) : Bool := bit d.flags 1
/-- Output scales are read. -/
def MeDesc.oE8 (d : MeDesc) : Bool := bit d.flags 2
/-- ATTN_SCORE or ATTN_VALUE. -/
def MeDesc.attn (d : MeDesc) : Bool := d.op == 4 || d.op == 5

/-- A number lies in a closed range. -/
def inRange (x lo hi : Nat) : Bool := decide (lo ≤ x) && decide (x ≤ hi)

/-- Codes of the ME output (R156). -/
def meOutOk (f : Nat) : Bool := f == 0 || f == 1 || f == 2 || f == 5 || f == 6 || f == 7 || f == 13

/-- A signed offset field lies in −127 to 127. -/
def offOk (x : Int) : Bool := decide (-127 ≤ x) && decide (x ≤ 127)

/-- The checks of R157 on a descriptor: every field against the range and alignment of its row, used or not, but for those that a row calls ignored or
gives to some operations alone; reserved bits have no effect (R10). -/
def meOk (d : MeDesc) : Bool :=
  let million := 1048576
  inRange d.op 1 5 &&
  (if d.op = 4 then d.aFmt == 1 || d.aFmt == 2 || inRange d.aFmt 5 7 else decide (d.aFmt ≤ 7)) &&
  (if d.attn then d.wFmt == 1 || d.wFmt == 2 else decide (d.wFmt ≤ 12)) &&
  meOutOk d.oFmt && (!d.wE8 || (decide (d.wFmt ≤ 7) && !d.attn)) &&
  (decide (d.wFmt < 8) || decide (d.expG ≤ 8)) &&
  (d.ksplit == 1 || ((d.ksplit == 2 || d.ksplit == 4 || d.ksplit == 8) && d.op != 3 && d.op != 4)) &&
  (!d.attn || inRange d.gqa 1 16) &&
  decide (-512 ≤ d.anchor) && decide (d.anchor ≤ 511) &&
  offOk d.aOff && offOk d.wOff && offOk d.oOff &&
  (d.op != 4 || (d.scoreMul != 0 && d.scoreMul != 0x8000)) &&
  inRange d.m 1 million &&
  (if d.attn then inRange d.n 1 64 else inRange d.n 1 million) &&
  (if d.attn then d.k == 64 || d.k == 128 else inRange d.k 1 million) &&
  (if d.op = 2 then inRange d.batch 1 65536 else if d.op = 3 then inRange d.batch 1 255
    else if d.attn then inRange d.batch 1 million else true) &&
  d.aAddr % 128 == 0 && d.wAddr % 128 == 0 && d.oAddr % 128 == 0 &&
  d.wAux % 4 == 0 && (!d.attn || d.rowAux % 4 == 0) &&
  d.side % 8 == 0 && d.status % 4 == 0 && d.work % 128 == 0 &&
  d.aStride % 32 == 0 && d.oStride % 32 == 0

/-! ### Units (R171 to R174) -/

/-- Reduction length: K, or the key capacity for ATTN_VALUE. -/
def MeDesc.red (d : MeDesc) : Nat := if d.op = 5 then d.batch else d.k
/-- Columns of the output. -/
def MeDesc.cols (d : MeDesc) : Nat := if d.op = 4 then d.batch else if d.op = 5 then d.k else d.n
/-- k-blocks. -/
def MeDesc.kb (d : MeDesc) : Nat := ceilDiv d.red 128
/-- k-blocks of a range. -/
def MeDesc.kc (d : MeDesc) : Nat := ceilDiv d.kb d.ksplit
/-- Ranges of a split reduction. -/
def MeDesc.ranges (d : MeDesc) : Nat := ceilDiv d.kb d.kc
/-- Column tiles. -/
def MeDesc.nb (d : MeDesc) : Nat := ceilDiv d.cols 128

/-- A unit: item, expert or head; row tile; column tile; k-range. -/
structure MeUnit where
  g : Nat
  rt : Nat
  nb : Nat
  s : Nat
deriving DecidableEq, Repr, Inhabited

/-- Units of one item with `rts` row tiles (R172). -/
def itemUnits (d : MeDesc) (g rts : Nat) (keep : Nat → Nat → Bool) : List MeUnit :=
  let ks := List.range d.ranges
  if bit d.flags 3 then
    (List.range rts).flatMap (fun rt => ((List.range d.nb).filter (keep rt)).flatMap (fun nb => ks.map (fun s => ⟨g, rt, nb, s⟩)))
  else
    (List.range d.nb).flatMap (fun nb => ((List.range rts).filter (fun rt => keep rt nb)).flatMap (fun rt => ks.map (fun s => ⟨g, rt, nb, s⟩)))

/-- Rows of expert `e` in ascending order (R174). -/
def expertRows (idx : List Byte) (e : Nat) : List Nat :=
  (idx.zipIdx.filter (fun p => p.1.toNat == e)).map (·.2)

/-- Row tiles of one item. -/
def MeDesc.rts (d : MeDesc) : Nat := if d.attn then ceilDiv (d.m * d.gqa) 64 else ceilDiv d.m 64

/-- The rows of a unit as (row of A, query token). -/
def unitRows (d : MeDesc) (aux : List Byte) (u : MeUnit) : List (Nat × Nat) :=
  let pick := fun (n : Nat) => (List.range n).drop (u.rt * 64) |>.take 64
  if d.op = 3 then (((expertRows aux u.g).drop (u.rt * 64)).take 64).map (fun r => (r, 0))
  else if d.attn then
    (pick (d.m * d.gqa)).map (fun j => ((j / d.gqa) * d.n * d.gqa + u.g * d.gqa + j % d.gqa, j / d.gqa))
  else (pick d.m).map (fun r => (r, 0))

/-- Visible keys of a query token (R176), within the capacity. -/
def visible (d : MeDesc) (aux : List Byte) (t : Nat) : Nat := Nat.min d.batch (getLe aux (4 * t) 4)

/-- The largest visible count of a row tile. -/
def maxVisible (d : MeDesc) (aux : List Byte) (u : MeUnit) : Nat :=
  ((unitRows d aux u).map (fun p => visible d aux p.2)).foldl Nat.max 0

/-- Every unit of a command in hand-out order. `aux` is the index or visible-count array. -/
def meUnits (d : MeDesc) (aux : List Byte) : List MeUnit :=
  let all := fun (_ _ : Nat) => true
  if d.op = 1 then itemUnits d 0 d.rts all
  else if d.op = 2 then (List.range d.batch).flatMap (fun i => itemUnits d i d.rts all)
  else if d.op = 3 then
    (List.range d.batch).flatMap (fun e => itemUnits d e (ceilDiv (expertRows aux e).length 64) all)
  else
    (List.range d.n).flatMap (fun g => itemUnits d g d.rts (fun rt nb =>
      d.op == 5 || decide (nb * 128 < maxVisible d aux ⟨g, rt, nb, 0⟩)))

/-- The status word index of a unit (R171). -/
def statusIndex (d : MeDesc) (u : MeUnit) : Nat :=
  if d.op ≤ 2 then (u.g * d.rts + u.rt) * d.nb + u.nb
  else if d.op = 3 then u.g * d.nb + u.nb
  else u.g * d.rts + u.rt

/-! ### Operands -/

/-- Operands with the events of their conversion: INPUT_SAT, INPUT_FLUSH, poison; and the expansion parameters read for them. -/
structure Loaded where
  rows : List (List Blk)
  sat : Bool
  flush : Bool
  poison : Bool
  par : List Byte
deriving DecidableEq, Repr, Inhabited

/-- Chunks of 32. -/
def chunk32 {α : Type} : Nat → List α → List (List α)
  | 0, _ => []
  | n + 1, l => if l.isEmpty then [] else l.take 32 :: chunk32 n (l.drop 32)

/-- Blocks of element codes with their scales: `scales` is none when the tensor offset applies to every block (R126, R127, R144). -/
def mkBlocks (fmt : Nat) (codes : List Nat) (scales : Option (List Nat)) (off : Int) : List Blk × Bool × Bool :=
  let bl := (chunk32 codes.length codes).zipIdx
  bl.foldl (fun (acc : List Blk × Bool × Bool) p =>
    let sc := match scales with
      | some l => l.getD p.2 0
      | none => (off + 127).toNat
    let e : Int := match scales with
      | some _ => (sc : Int)
      | none => off + 127
    let nan := scales.isSome && sc == 0xFF
    let els := p.1.map (fun x => elDecode fmt x (e - 127))
    (acc.1 ++ [⟨els.map (·.1), e, nan⟩], acc.2.1 || els.any (fun x => x.2.1), acc.2.2 || els.any (fun x => x.2.2)))
    ([], false, false)

/-- Element codes `p0` to `p1 - 1` of a packed row at `base`; `p0` is a multiple of 128. -/
def loadCodes (c : Cfg) (rq : Rq) (w base p0 p1 : Nat) : Eng (List Nat × Bool) := do
  let n := p1 - p0
  let r ← eBytes c rq (base + p0 * w / 8) (ceilDiv (n * w) 8)
  pure ((List.range n).map (packedAt r.1 w), r.2)

/-- Scale bytes of the blocks of positions `p0` to `p1 - 1`. -/
def loadScales (c : Cfg) (rq : Rq) (use : Bool) (base p0 p1 : Nat) : Eng (Option (List Nat) × Bool) := do
  if use then
    let r ← eBytes c rq (base + p0 / 32) (ceilDiv (p1 - p0) 32)
    pure (some (r.1.map (·.toNat)), r.2)
  else pure (none, false)

/-- The A rows of a unit over positions `p0` to `p1 - 1`; a row of ATTN_VALUE ends at its visible count (R168, R177). -/
def loadA (c : Cfg) (rq : Rq) (d : MeDesc) (aux : List Byte) (u : MeUnit) (p0 p1 : Nat) : Eng Loaded :=
  (unitRows d aux u).foldlM (fun (acc : Loaded) p => do
    let item := if d.op = 2 then u.g * d.m else 0
    let lim := if d.op = 5 then Nat.max p0 (Nat.min p1 (visible d aux p.2)) else p1
    let cs ← loadCodes c rq (fmtBits d.aFmt) (d.aAddr + (item + p.1) * d.aStride) p0 lim
    let sc ← loadScales c rq d.aE8 (d.aScale + (item + p.1) * ceilDiv d.red 32) p0 lim
    let b := mkBlocks d.aFmt cs.1 sc.1 d.aOff
    pure ⟨acc.rows ++ [b.1], acc.sat || b.2.1, acc.flush || b.2.2, acc.poison || cs.2 || sc.2, []⟩) ⟨[], false, false, false, []⟩

/-- The weight address and auxiliary address of a unit's item or expert (R170, R174). -/
def weightBase (c : Cfg) (rq : Rq) (d : MeDesc) (u : MeUnit) : Eng (Nat × Nat × Bool) := do
  let tile := 2048 * fmtBits d.wFmt
  let nbk := d.nb * d.kb
  let g := if d.expG = 8 then d.k else 32 * 2 ^ d.expG
  let auxSize := if d.wE8 then nbk * 512
    else if d.wFmt < 8 then 0
    else (if d.expG = 8 then 1 else d.n * ceilDiv d.k g) * (if d.wFmt = 8 then 32 else 4)
  if d.op = 2 then pure (d.wAddr + u.g * nbk * tile, d.wAux + u.g * auxSize, false)
  else if d.op = 3 then
    let r ← eBytes c rq (d.wAddr + u.g * 16) 16
    pure (getLe r.1 0 8, getLe r.1 8 8, r.2)
  else pure (d.wAddr, d.wAux, false)

/-- Expanded elements of a column (R149, R150, R169), and the parameters that they were expanded with. -/
def expandCol (c : Cfg) (rq : Rq) (d : MeDesc) (auxBase n p0 : Nat) (codes : List Nat) : Eng (List LEl × Bool × List Byte) := do
  let target := if bit d.flags 4 then 2 else 1
  let G := if d.expG = 8 then d.k else 32 * 2 ^ d.expG
  let Q := if d.expG = 8 then 0 else ceilDiv d.k G
  let size := if d.wFmt = 8 then 32 else 4
  let r ← (chunk32 codes.length codes).zipIdx.foldlM (fun (acc : List LEl × Bool × List Byte) p => do
    let q := if d.expG = 8 then 0 else (p0 + p.2 * 32) / G
    let e ← eBytes c rq (auxBase + ((if d.expG = 8 then 0 else n * Q) + q) * size) size
    let els := p.1.map (fun x =>
      if d.wFmt = 8 then
        (if target = 2 then lDecode 2 (getLe e.1 (2 * x) 2) else lDecode 1 (getLe e.1 (2 * x) 1))
      else
        let w := fmtBits d.wFmt
        let z := getLe e.1 0 1 % 2 ^ w
        let signed := d.wFmt == 10 || d.wFmt == 12
        let v := fun (y : Nat) => if signed then toSigned w y else (y : Int)
        expandZp target (v x - v z) (getLe e.1 2 2))
    pure (acc.1 ++ els, acc.2.1 || e.2, acc.2.2 ++ e.1)) ([], false, [])
  pure r

/-- The weight columns of a unit of MATMUL, BATCHED or EXPERT (R167). -/
def loadW (c : Cfg) (rq : Rq) (d : MeDesc) (u : MeUnit) (kb0 kb1 : Nat) : Eng Loaded := do
  let wb ← weightBase c rq d u
  let w := fmtBits d.wFmt
  let tile := 2048 * w
  let cols := (List.range (Nat.min 128 (d.n - u.nb * 128)))
  cols.foldlM (fun (acc : Loaded) j => do
    let col ← ((List.range (kb1 - kb0)).map (· + kb0)).foldlM (fun (a : List Blk × Bool × Bool × Bool × List Byte) kb => do
      let cnt := Nat.min 128 (d.k - kb * 128)
      let t := u.nb * d.kb + kb
      let r ← eBytes c rq (wb.1 + t * tile + j * 16 * w) (ceilDiv (cnt * w) 8)
      let codes := (List.range cnt).map (packedAt r.1 w)
      if d.wFmt < 8 then
        let sc ← (if d.wE8 then (do
            let s ← eBytes c rq (wb.2.1 + t * 512 + 4 * j) (ceilDiv cnt 32)
            pure (some (s.1.map (·.toNat)), s.2))
          else pure (none, false) : Eng (Option (List Nat) × Bool))
        let b := mkBlocks d.wFmt codes sc.1 d.wOff
        pure (a.1 ++ b.1, a.2.1 || b.2.1, a.2.2.1 || b.2.2, a.2.2.2.1 || r.2 || sc.2, a.2.2.2.2)
      else
        let x ← expandCol c rq d wb.2.1 (u.nb * 128 + j) (kb * 128) codes
        let bl := (chunk32 cnt x.1).map (fun els => (⟨els, d.wOff + 127, false⟩ : Blk))
        pure (a.1 ++ bl, a.2.1, a.2.2.1, a.2.2.2.1 || r.2 || x.2.1, a.2.2.2.2 ++ x.2.2)) ([], false, false, false, [])
    pure ⟨acc.rows ++ [col.1], acc.sat || col.2.1, acc.flush || col.2.2.1, acc.poison || col.2.2.2.1, acc.par ++ col.2.2.2.2⟩) ⟨[], false, false, wb.2.2, []⟩

/-- One slot of a key-value page: the K elements of head `g` at key position `j` (R175). -/
def loadKv (c : Cfg) (rq : Rq) (d : MeDesc) (g j part : Nat) : Eng (List Nat × Bool) := do
  let e := if d.wFmt = 1 then 1 else 2
  let pg ← eBytes c rq (d.wAddr + 8 * (j / 64)) 8
  let off := part * (d.n * 64 * d.k * e) + g * (64 * d.k * e) + (j % 64) * (d.k * e)
  let r ← loadCodes c rq (8 * e) (getLe pg.1 0 8 + off) 0 d.k
  pure (r.1, r.2 || pg.2)

/-- The keys of a score unit, one column a position below the largest visible count. -/
def loadKeys (c : Cfg) (rq : Rq) (d : MeDesc) (u : MeUnit) (top : Nat) : Eng Loaded :=
  ((List.range 128).map (· + u.nb * 128)).filter (fun j => decide (j < top)) |>.foldlM (fun (acc : Loaded) j => do
    let k ← loadKv c rq d u.g j 0
    pure ⟨acc.rows ++ [(mkBlocks d.wFmt k.1 none d.wOff).1], false, false, acc.poison || k.2, []⟩) ⟨[], false, false, false, []⟩

/-- The values of a value unit over positions `p0` to `p1 - 1`: one column a dimension. -/
def loadVals (c : Cfg) (rq : Rq) (d : MeDesc) (u : MeUnit) (p0 p1 : Nat) : Eng Loaded := do
  let rows ← ((List.range (p1 - p0)).map (· + p0)).foldlM (fun (acc : List (List Nat) × Bool) j => do
    let v ← loadKv c rq d u.g j 1
    pure (acc.1 ++ [v.1], acc.2 || v.2)) ([], false)
  pure ⟨(List.range d.k).map (fun dim => (mkBlocks d.wFmt (rows.1.map (fun r => r.getD dim 0)) none d.wOff).1), false, false, rows.2, []⟩

/-- One accumulator: the blocks of a row against those of a column. -/
def dotBlocks (anchor : Int) (a w : List Blk) : Acc :=
  (a.zip w).foldl (fun x p => accBlock anchor p.1.e p.2.e (p.1.nan || p.2.nan) ((p.1.els.zip p.2.els).map (fun q => lMul q.1 q.2)) x)
    ⟨0, false, false, false⟩

/-- The index array of EXPERT or the visible counts of ATTN, read with the payload; each byte with its mark. -/
def loadAux (c : Cfg) (rq : Rq) (d : MeDesc) : Eng (List PByte) :=
  if d.op = 3 then (if d.m = 0 then pure [] else eRead c rq d.rowAux d.m)
  else if d.attn then (if d.m = 0 then pure [] else eRead c rq d.rowAux (4 * d.m))
  else pure []

/-- A poisoned input of unit `u` in the index or count array: EXPERT's units follow from every index, an ATTN tile from the counts of its own
tokens (R159). -/
def auxPoison (d : MeDesc) (aux : List PByte) (u : MeUnit) : Bool :=
  if d.attn then (unitRows d (pdata aux) u).any (fun p => ppoison ((aux.drop (4 * p.2)).take 4)) else ppoison aux

/-- The halves of an operand buffer after `n` k-blocks of `rows` have passed through it in turn: each half keeps the last one that it took. -/
def halves (old : List (List (List Blk))) (rows : List (List Blk)) (n : Nat) : List (List (List Blk)) :=
  (List.range 2).map (fun h =>
    if n ≤ h then old.getD h []
    else
      let j := if (n - 1) % 2 = h then n - 1 else n - 2
      rows.map (fun r => (r.drop (4 * j)).take 4))

/-- Form the tile of unit `u` in an ME that holds `was`. -/
def formTile (c : Cfg) (rq : Rq) (b : List Byte) (d : MeDesc) (aux : List PByte) (u : MeUnit) (was : MeTile) : Eng MeTile := do
  let kb0 := u.s * d.kc
  let kb1 := Nat.min d.kb (kb0 + d.kc)
  let top := maxVisible d (pdata aux) u
  let p0 := kb0 * 128
  let p1 := Nat.min d.red (kb1 * 128)
  let a ← loadA c rq d (pdata aux) u p0 p1
  let w ← (if d.op = 4 then loadKeys c rq d u top
    else if d.op = 5 then loadVals c rq d u p0 (Nat.max p0 (Nat.min p1 top)) else loadW c rq d u kb0 kb1)
  let acc := a.rows.map (fun r => w.rows.map (fun col => dotBlocks d.anchor r col))
  pure { desc := b, acc := acc, wts := halves was.wts w.rows (kb1 - kb0), acts := halves was.acts a.rows (kb1 - kb0), par := w.par
         inFlush := a.flush || w.flush, inSat := a.sat || w.sat, poison := a.poison || w.poison || auxPoison d aux u, stage := 0, part := false }

/-! ### Running a unit -/

/-- The tile of an instance. -/
def meTile (d : Dev) (q i : Nat) : MeTile := aget d.me (instIdx 1 q i)

/-- Set the tile of an instance. -/
def setTile (q i : Nat) (t : MeTile) (d : Dev) : Dev := { d with me := aset d.me (instIdx 1 q i) t }

/-- The unit's result is formed; only its writes remain. -/
def markFormed (cls q i : Nat) (d : Dev) : Dev :=
  setInst d (instIdx cls q i) (fun s => { s with run := s.run.map (fun r => { r with formed := true }) })

/-- ME_MATMUL to ME_ATTN_VALUE: an instance of quarter `q` checks its command's descriptor and forms its unit's tile. `op` is the row's
operation; a descriptor of another valid operation is left for that operation's row. -/
def meForm (c : Cfg) (op q i : Nat) (d : Dev) : Dev :=
  match runOf d 1 q i with
  | none => d
  | some (r, x) =>
    let rq := rqUnit c x 1 q i
    if r.formed || r.stopTb.isSome || unitStalled d rq || faulted d || !unitUp d 1 q i then d else
    let head : Eng (List Byte × MeDesc) := do
      let b ← ePayload c rq x.entry.payload 128
      let m := parseMe b
      if meOk m then pure (b, m) else throw .invalid
    match runEng head d with
    | (.error .stall, d) => d
    | (.error (.fail st), d) => unitEnd 1 q i st false d
    | (.error .invalid, d) => unitEnd 1 q i 0x10 false d
    | (.ok (b, m), d1) =>
      if m.op ≠ op then d else
      let body : Eng (Option MeTile) := do
        let aux ← loadAux c rq m
        let us := meUnits m (pdata aux)
        let range := m.op == 3 && (pdata aux).any (fun e => decide (m.batch ≤ e.toNat) && e.toNat != 0xFF)
        liftDev (setUnits x us.length)
        if range then liftDev (fun d => setCmd d x.serial (fun x => { x with status := 0x11 }))
        match us[r.unitNo]? with
        | none => pure none
        | some u => (fun t => some t) <$> formTile c rq b m aux u (meTile (← get) q i)
      match runEng body d1 with
      | (.error .stall, d) => d
      | (.error (.fail st), d) => unitEnd 1 q i st false d
      | (.error .invalid, d) => unitEnd 1 q i 0x10 false d
      | (.ok none, d) => unitEnd 1 q i 0 false d
      | (.ok (some t), d) => markFormed 1 q i (setTile q i t d)

/-! ### Output -/

/-- Bytes of an accumulator in a workspace slot (R173). -/
def accBytes (x : Acc) : List Byte := leBytes 20 (ofSigned 160 x.v) ++ leBytes 1 (b2n x.sat + 2 * b2n x.low + 4 * b2n x.nar) ++ leBytes 3 0

/-- An accumulator read from a slot. -/
def accOf (b : List Byte) : Acc :=
  let f := getLe b 20 1
  ⟨toSigned 160 (getLe b 0 20), bit f 0, bit f 1, bit f 2⟩

/-- Merge a status word in memory (R171). -/
def mergeStatus (c : Cfg) (rq : Rq) (addr : Nat) (s : NumStat) : Eng Unit := do
  let _ ← eRmw c rq addr 4 (fun l => mark (ppoison l) (leBytes 4 (s.merge (leNat (pdata l)))))
  pure ()

/-- Merge a side word in memory, or poison its sector (R147, R159). -/
def mergeSide (c : Cfg) (rq : Rq) (addr : Nat) (poison : Bool) (s : Side) : Eng Unit := do
  let _ ← eRmw c rq addr 8 (fun l => if poison then mark true (pdata l) else mark (ppoison l) (leBytes 8 (s.merge (leNat (pdata l)))))
  pure ()

/-- The workspace of a unit's tile: its control line; the slots follow it (R173). -/
def workspace (m : MeDesc) (u : MeUnit) : Nat := m.work + statusIndex m u * (128 + m.ksplit * 196608)

/-- Address of slot `k` of a workspace. -/
def slotAddr (ws k : Nat) : Nat := ws + 128 + k * 196608

/-- Steps 1 and 2 of a split reduction (R173): the partial is written and the count raised; a range that is not the last is done. -/
def splitCount (c : Cfg) (rq : Rq) (q i : Nat) (m : MeDesc) (u : MeUnit) (t : MeTile) : Eng MeTile := do
  if m.ksplit = 1 ∨ t.stage ≠ 0 then pure t
  else
    let ws := workspace m u
    for row in t.acc.zipIdx do
      eWrite c rq (slotAddr ws u.s + row.2 * 3072) (mark t.poison (row.1.flatMap accBytes))
    let old ← eRmw c rq ws 4 (fun l => mark (ppoison l) (leBytes 4 (leNat (pdata l) + 1)))
    let last := leNat (pdata old) + 1 == m.ranges
    let t := { t with stage := if last then 1 else 2, part := !last }
    liftDev (setTile q i t)
    pure t

/-- Step 4 of a split reduction: the last range adds the partials of the others (R134, R135). -/
def splitAdd (c : Cfg) (rq : Rq) (q i : Nat) (m : MeDesc) (u : MeUnit) (t : MeTile) : Eng MeTile := do
  if t.stage ≠ 1 then pure t
  else
    let t ← ((List.range m.ranges).filter (· != u.s)).foldlM (fun (t : MeTile) k => do
      let rows ← t.acc.zipIdx.foldlM (fun (acc : List (List Acc) × Bool) p => do
        let b ← eBytes c rq (slotAddr (workspace m u) k + p.2 * 3072) (24 * p.1.length)
        let row := p.1.zipIdx.map (fun e => accMerge e.1 (accOf (slice b.1 (24 * e.2) 24)))
        pure (acc.1 ++ [row], acc.2 || b.2)) ([], t.poison)
      pure { t with acc := rows.1, poison := rows.2 }) t
    let t := { t with stage := 2 }
    liftDev (setTile q i t)
    pure t

/-- Output scale codes of a row's columns (R139, R168). -/
def outScales (c : Cfg) (rq : Rq) (m : MeDesc) (row col n : Nat) : Eng (List Nat × Bool) := do
  if m.oE8 then
    let r ← eBytes c rq (m.oScale + row * ceilDiv m.cols 32 + col / 32) (ceilDiv n 32)
    pure ((List.range n).map (fun j => getLe r.1 (j / 32) 1), r.2)
  else pure (List.replicate n (m.oOff + 127).toNat, false)

/-- The output elements of a tile: each row's place with its codes, the events, and whether an input was poisoned. -/
def outTile (c : Cfg) (rq : Rq) (m : MeDesc) (aux : List Byte) (u : MeUnit) (t : MeTile) :
    Eng (List (Nat × List Nat) × NumStat × Side × Bool) :=
  let rows := unitRows m aux u
  (rows.zip t.acc).foldlM (fun (acc : List (Nat × List Nat) × NumStat × Side × Bool) p => do
    let row := (if m.op = 2 then u.g * m.m else 0) + p.1.1
    let col := u.nb * 128
    let els := if m.op = 4 then p.2.take (visible m aux p.1.2 - col) else p.2
    let sc ← outScales c rq m row col els.length
    let outs := els.zipIdx.map (fun e =>
      let v := accValue m.anchor e.1
      let v := if m.op = 4 then (match v, (lDecode 2 m.scoreMul).value with
        | some x, some y => some (x.mul y)
        | _, _ => none) else v
      outRound m.oFmt (sc.1.getD e.2 127) v e.1.sat e.1.low)
    pure (acc.1 ++ [(m.oAddr + row * m.oStride + col * fmtBits m.oFmt / 8, outs.map (·.code))],
      outs.foldl (fun a o => a.plus o.stat) acc.2.1, outs.foldl (fun a o => a.plus o.side) acc.2.2.1,
      acc.2.2.2 || sc.2)) ([], ⟨0, 0, 0, t.inFlush, t.inSat, false, false⟩, Side.none, t.poison)

/-- Write a tile and merge its status and side words, each once even if a fault interrupts it; the control line of a split reduction is zeroed last
(R173). -/
def writeTile (c : Cfg) (rq : Rq) (q i : Nat) (m : MeDesc) (aux : List Byte) (u : MeUnit) (t : MeTile) : Eng Bool := do
  let t ← splitAdd c rq q i m u (← splitCount c rq q i m u t)
  let saddr := m.status + 4 * statusIndex m u
  if t.part then
    if m.status ≠ 0 then mergeStatus c rq saddr ⟨0, 0, 0, t.inFlush, t.inSat, false, false⟩
    pure t.poison
  else
    let o ← outTile c rq m aux u t
    let w := fmtBits m.oFmt
    if t.stage ≤ 2 then
      for r in o.1 do
        if r.2 ≠ [] then eWrite c rq r.1 (mark o.2.2.2 (packRow w r.2))
      liftDev (setTile q i { t with stage := 3 })
    if t.stage ≤ 3 then
      if m.status ≠ 0 then mergeStatus c rq saddr o.2.1
      liftDev (setTile q i { t with stage := 4 })
    if t.stage ≤ 4 then
      if m.side ≠ 0 ∧ m.oFmt ≠ 7 then mergeSide c rq m.side o.2.2.2 o.2.2.1
      liftDev (setTile q i { t with stage := 5 })
    if m.ksplit ≠ 1 then eWrite c rq (workspace m u) (mark false (leBytes 4 0))
    pure o.2.2.2

/-- ME_UNIT_COMPLETE: the instance writes its tile, merges its status word and becomes idle (R171, R173). Its operands and accumulators were read from
its buffer as it worked: an uncorrectable error there poisons the tile (R159, R421). -/
def meComplete (c : Cfg) (q i : Nat) (d : Dev) : Dev :=
  match runOf d 1 q i with
  | none => d
  | some (r, x) =>
    let rq := rqUnit c x 1 q i
    if !r.formed || r.stopTb.isSome || unitStalled d rq || faulted d || !unitUp d 1 q i then d else
    let d := readBuffer 1 q i d
    let tainted := ((instOf d (instIdx 1 q i)).run.map (·.taint)).getD false
    let t := meTile d q i
    let t := { t with poison := t.poison || tainted }
    let m := parseMe t.desc
    let work : Eng (Bool × Nat) := do
      let aux ← loadAux c rq m
      match (meUnits m (pdata aux))[r.unitNo]? with
      | none => pure (false, 0)
      | some u =>
        let p ← writeTile c rq q i m (pdata aux) u t
        pure (p, Nat.min m.kb (u.s * m.kc + m.kc) - u.s * m.kc)
    match runEng work d with
    | (.ok (p, kb), d) =>
      unitEnd 1 q i 0 p (obsCount 0x14 q i (some x.ctx) kb (obsCount 0x13 q i (some x.ctx) 1 d))
    | (.error .stall, d) => d
    | (.error (.fail st), d) => unitEnd 1 q i st false d
    | (.error .invalid, d) => unitEnd 1 q i 0x10 false d

end Sys2Proof.Machine
end

