-- ==== Sys2Proof/Machine/Engine.lean ====
section
/-! DEFINITION. What every engine unit shares: its progress, the writes it has formed, and the reading of its payload (R155, R157). A unit that
stalls on a fault keeps its progress, so that a replay goes on where it stopped (R389, R392). -/

namespace Sys2Proof.Machine

/-- The run of an instance. -/
def runAt (d : Dev) (k : Nat) : Run := ((instOf d k).run).getD default

/-- Change the run of an instance. -/
def setRun (k : Nat) (f : Run → Run) (d : Dev) : Dev := setInst d k (fun s => { s with run := s.run.map f })

/-- Make one formed write. -/
def doEff (c : Cfg) (rq : Rq) : Eff → Eng Unit
  | .write va data => if data = [] then pure () else eWrite c rq va data
  | .stat va s => mergeStatus c rq va s
  | .side va p s => mergeSide c rq va p s

/-- Make the formed writes in order; each is dropped once it is made. -/
def flushEffs (c : Cfg) (rq : Rq) (k : Nat) : Nat → Eng Unit
  | 0 => pure ()
  | n + 1 => do
    match (runAt (← get) k).held with
    | [] => pure ()
    | e :: rest => do
      doEff c rq e
      liftDev (setRun k (fun r => { r with held := rest }))
      flushEffs c rq k n

/-- Form writes and make them: progress moves with them, so that a stall repeats nothing. -/
def commit (c : Cfg) (rq : Rq) (k prog : Nat) (poison : Bool) (effs : List Eff) : Eng Unit := do
  liftDev (setRun k (fun r => { r with held := r.held ++ effs, prog := prog, poison := r.poison || r.taint || poison }))
  flushEffs c rq k (effs.length + 1)

/-- Go on with the writes that a stall left. -/
def resume (c : Cfg) (rq : Rq) (k : Nat) : Eng Unit := do
  flushEffs c rq k ((runAt (← get) k).held.length + 1)

/-- The steps `prog` to `n - 1` of a unit in order. -/
def fromProg (k n : Nat) (f : Nat → Eng Unit) : Eng Unit := do
  let p := (runAt (← get) k).prog
  for i in (List.range (n - p)) do f (p + i)

/-- A row of an engine with a payload of `len` bytes: the payload is read and checked by `ok`; where it is not `mine` the row does
nothing; otherwise the unit runs to its end, or stalls. -/
def payloadUnit (c : Cfg) (cls q i len : Nat) (ok mine : Cmd → List Byte → Bool) (op : Run → Cmd → Rq → List Byte → Eng Unit)
    (d : Dev) : Dev :=
  match runOf d cls q i with
  | none => d
  | some (r, x) =>
    let rq := rqUnit c x cls q i
    let k := instIdx cls q i
    if r.stopTb.isSome || unitStalled d rq || faulted d || !unitUp d cls q i then d else
    let head : Eng (List Byte) := do
      let b ← ePayload c rq x.entry.payload len
      if ok x b then pure b else throw .invalid
    match runEng head d with
    | (.error .stall, d) => d
    | (.error (.fail st), d) => unitEnd cls q i st false d
    | (.error .invalid, d) => unitEnd cls q i 0x10 false d
    | (.ok b, d1) =>
      if mine x b = false then d else
      match runEng (do resume c rq k; op r x rq b) (readBuffer cls q i d1) with
      | (.ok _, d) => unitEnd cls q i 0 (runAt d k).poison d
      | (.error .stall, d) => d
      | (.error (.fail st), d) => unitEnd cls q i st false d
      | (.error .invalid, d) => unitEnd cls q i 0x10 false d

end Sys2Proof.Machine
end

