-- ==== Sys2Proof/Machine/Mule.lean ====
section
/-! DEFINITION. The data movers: COPY, FILL, PREFETCH (R344), STORE_MAINT (R115), KV_STORE (R216), in spans of 64 KiB or one
page (R363). -/

namespace Sys2Proof.Machine

/-- The 128-byte pieces of `n` bytes: offset and length of piece `i`. -/
def piece128 (n i : Nat) : Nat × Nat := (128 * i, Nat.min 128 (n - 128 * i))

/-- One Mule operation: payload bytes, the check of its fields, the number of spans, and the work of span `u`. -/
structure MuleOp where
  len : Nat
  ok : List Byte → Bool
  spans : List Byte → Nat
  work : Rq → Nat → List Byte → Nat → Eng Unit

/-- A Mule runs the span in hand of a command whose operation is `op`; an operation of no row completes INVALID_COMMAND. The last
span's end finishes the command; any other waits, formed, for MULE_SPAN_COMPLETE. -/
def muleRun (c : Cfg) (op q i : Nat) (m : MuleOp) (d : Dev) : Dev :=
  match runOf d 3 q i with
  | none => d
  | some (r, x) =>
    let rq := rqUnit c x 3 q i
    let k := instIdx 3 q i
    if r.formed || r.stopTb.isSome || unitStalled d rq || faulted d || !unitUp d 3 q i then d
    else if x.entry.op = 0 ∨ 5 < x.entry.op then unitEnd 3 q i 0x10 false d
    else if x.entry.op ≠ op then d
    else
      let body : Eng Unit := do
        let b ← ePayload c rq x.entry.payload m.len
        if m.ok b = false then throw .invalid
        liftDev (setUnits x (Nat.max 1 (m.spans b)))
        resume c rq k
        m.work rq k b r.unitNo
      match runEng body (readBuffer 3 q i d) with
      | (.ok _, d) =>
        match cmdOf d x.serial with
        | some y => if y.unitsLeft = [] then unitEnd 3 q i 0 (runAt d k).poison d else markFormed 3 q i d
        | none => unitEnd 3 q i 0 (runAt d k).poison d
      | (.error .stall, d) => d
      | (.error (.fail st), d) => unitEnd 3 q i st false d
      | (.error .invalid, d) => unitEnd 3 q i 0x10 false d

/-- MULE_SPAN_COMPLETE: a finished span is charged and its Mule becomes idle (R362, R363). -/
def spanComplete (q i : Nat) (d : Dev) : Dev :=
  match runOf d 3 q i with
  | some (r, _) => if r.formed then unitEnd 3 q i 0 r.poison d else d
  | none => d

/-- Lines moved by a Mule (event 0x1D). -/
def countMoved (q i : Nat) (ctx : Option Nat) (n : Nat) : Eng Unit := liftDev (obsCount 0x1D q i ctx n)

/-- Whether two ranges of `n` bytes overlap without being equal: a virtual address is its low 48 bits (R378). -/
def copyOverlaps (src dst n : Nat) : Bool :=
  src % 2 ^ 48 != dst % 2 ^ 48 && vaMeet src n dst n

/-- COPY: marks travel with the bytes (R429); an overlap of unequal ranges leaves the destination bytes open. -/
def copyOp (c : Cfg) : MuleOp where
  len := 24
  ok := fun _ => true
  spans := fun b => ceilDiv (getLe b 16 8) 65536
  work := fun rq k b u => do
    let src := getLe b 0 8
    let dst := getLe b 8 8
    let total := getLe b 16 8
    let n := Nat.min 65536 (total - u * 65536)
    fromProg k (ceilDiv n 128) (fun j => do
      let p := piece128 n j
      let o := u * 65536 + p.1
      let data ← eRead c rq (src + o) p.2
      let data ← (if copyOverlaps src dst total then do
          let r := freeBytes p.2 (← get)
          set r.2
          pure ((data.zip r.1).map (fun z => (z.2, z.1.2)))
        else pure data)
      countMoved rq.quarter rq.inst rq.ctx 1
      commit c rq k (j + 1) (ppoison data) [.write (dst + o) data])

/-- FILL: the pattern repeats from DST. -/
def fillOp (c : Cfg) : MuleOp where
  len := 20
  ok := fun _ => true
  spans := fun b => ceilDiv (getLe b 8 8) 65536
  work := fun rq k b u => do
    let dst := getLe b 0 8
    let pat := slice b 16 4
    let n := Nat.min 65536 (getLe b 8 8 - u * 65536)
    fromProg k (ceilDiv n 128) (fun j => do
      let p := piece128 n j
      countMoved rq.quarter rq.inst rq.ctx 1
      commit c rq k (j + 1) false [.write (dst + u * 65536 + p.1)
        ((List.range p.2).map (fun z => (pat.getD (z % 4) 0, false)))])

/-- The parts of a range in 64 KiB pages, part `u`. -/
def pagePart (va len u : Nat) : Nat × Nat :=
  let lo := Nat.max va ((va / 65536 + u) * 65536)
  (lo, Nat.min (va + len) ((va / 65536 + u) * 65536 + 65536) - lo)

/-- How many 64 KiB pages a range meets. -/
def pageCount (va len : Nat) : Nat := if len = 0 then 0 else (va + len - 1) / 65536 - va / 65536 + 1

/-- STORE_MAINT: pages that do not translate, or lie outside the DRAM regions, are passed over (R115, R389). -/
def maintOp (c : Cfg) : MuleOp where
  len := 24
  ok := fun _ => true
  spans := fun b =>
    if getLe b 0 1 = 0 ∨ 3 < getLe b 0 1 then 0
    else pageCount (getLe b 8 8 % 2 ^ 48) (Nat.min (2 ^ 48) (getLe b 16 8))
  work := fun rq _ b u => do
    let op := getLe b 0 1
    let len := Nat.min (2 ^ 48) (getLe b 16 8)
    if op = 0 ∨ 3 < op ∨ len = 0 then pure ()
    else
      let p := pagePart (getLe b 8 8 % 2 ^ 48) len u
      let t := translate c rq (rq.ctx.getD 0) p.1 false (← get)
      set (match t.1 with
        | .leaf e => if leafPa e p.1 / 2 ^ 40 ≤ 4 then maintRange c op (leafPa e p.1) p.2 t.2 else t.2
        | .fault .. => t.2)

/-- PREFETCH: the lines of a range go into the side buffers of their home slices (R108); a page that does not translate is
dropped (R389), and a request that fails its check loses the context (R94, R97). -/
def prefetchOp (c : Cfg) : MuleOp where
  len := 16
  ok := fun _ => true
  spans := fun b => ceilDiv (getLe b 8 8) 65536
  work := fun rq _ b u => do
    let va := getLe b 0 8 % 2 ^ 48 + u * 65536
    let n := Nat.min 65536 (getLe b 8 8 - u * 65536)
    for p in linePieces va n do
      let t := translate c rq (rq.ctx.getD 0) p.1 false (← get)
      match t.1 with
      | .leaf e =>
        let r := prefetchLine c rq (leafPa e p.1) [] t.2
        set r.2
        if r.1 ≠ 0 then throw (.fail r.1)
      | .fault .. => set t.2

/-- KV_STORE: one page of the list for each span (R216, R175). A poisoned page address marks what is stored. -/
def kvStoreOp (c : Cfg) : MuleOp where
  len := 48
  ok := fun b => inRange (getLe b 0 1) 1 2 && inRange (getLe b 1 1) 1 64 && (getLe b 2 1 == 64 || getLe b 2 1 == 128) &&
    inRange (getLe b 4 4) 1 2048
  spans := fun b => (getLe b 8 4 + getLe b 4 4 - 1) / 64 - getLe b 8 4 / 64 + 1
  work := fun rq k b u => do
    let heads := getLe b 1 1
    let width := getLe b 2 1 * getLe b 0 1
    let rows := getLe b 4 4
    let first := getLe b 8 4
    let page := first / 64 + u
    let lo := Nat.max first (page * 64)
    let hi := Nat.min (first + rows) (page * 64 + 64)
    let pg ← eBytes c rq (getLe b 0x28 8 + 8 * page) 8
    fromProg k ((hi - lo) * 2 * heads) (fun n => do
      let j := lo + n / (2 * heads)
      let part := (n / heads) % 2
      let g := n % heads
      let src := getLe b (0x18 + 8 * part) 8 + (j - first) * getLe b 0xC 4 + g * getLe b 0x10 4
      let dst := getLe pg.1 0 8 + part * (heads * 64 * width) + g * (64 * width) + (j % 64) * width
      let data ← eRead c rq src width
      let data := if pg.2 then mark true (pdata data) else data
      countMoved rq.quarter rq.inst rq.ctx (ceilDiv width 128)
      commit c rq k (n + 1) (ppoison data) [.write dst data])

/-- MULE_COPY on Mule `i` of quarter `q`. -/
def muleCopy (c : Cfg) (q i : Nat) : Dev → Dev := muleRun c 1 q i (copyOp c)
/-- MULE_FILL. -/
def muleFill (c : Cfg) (q i : Nat) : Dev → Dev := muleRun c 2 q i (fillOp c)
/-- STORE_MAINT. -/
def muleMaint (c : Cfg) (q i : Nat) : Dev → Dev := muleRun c 3 q i (maintOp c)
/-- KV_STORE. -/
def muleKvStore (c : Cfg) (q i : Nat) : Dev → Dev := muleRun c 4 q i (kvStoreOp c)
/-- MULE_PREFETCH. -/
def mulePrefetch (c : Cfg) (q i : Nat) : Dev → Dev := muleRun c 5 q i (prefetchOp c)

end Sys2Proof.Machine
end

