-- ==== Sys2Proof/Machine/Seq.lean ====
section
/-! DEFINITION. The step sequencer: its descriptor (R204, R205), sequences and pages (R208 to R212), the batch descriptor (R213), the step
program (R218 to R220). -/

namespace Sys2Proof.Machine

/-- Instance `i`. -/
def seqOf (d : Dev) (i : Nat) : SeqSt := d.seq.getD i default

/-- Change instance `i`. -/
def setSeq (d : Dev) (i : Nat) (f : SeqSt → SeqSt) : Dev := { d with seq := upd d.seq i f }

/-! ### Descriptor fields (R204, R205) -/

/-- CONTEXT. -/
def SeqSt.ctx (s : SeqSt) : Nat := getLe s.desc 0 1
/-- TARGET_RING. -/
def SeqSt.ring (s : SeqSt) : Nat := getLe s.desc 1 1
/-- MODE PHASED. -/
def SeqSt.phased (s : SeqSt) : Bool := getLe s.desc 2 1 == 1
/-- REF. -/
def SeqSt.ref (s : SeqSt) : Nat := getLe s.desc 3 1
/-- STEP_ANGLE. -/
def SeqSt.angle (s : SeqSt) : Nat := getLe s.desc 4 4
/-- NEEDED. -/
def SeqSt.needed (s : SeqSt) : Nat := getLe s.desc 8 1 % 16
/-- CYCLE_STEPS. -/
def SeqSt.cycleSteps (s : SeqSt) : Nat := getLe s.desc 9 1
/-- SEQ_COUNT. -/
def SeqSt.count (s : SeqSt) : Nat := getLe s.desc 0xA 2
/-- STEP_BUDGET. -/
def SeqSt.budget (s : SeqSt) : Nat := getLe s.desc 0xC 2
/-- CHUNK. -/
def SeqSt.chunk (s : SeqSt) : Nat := getLe s.desc 0xE 2
/-- SPEC_ROWS. -/
def SeqSt.specRows (s : SeqSt) : Nat := getLe s.desc 0x10 2
/-- STEP_FENCE. -/
def SeqSt.fence (s : SeqSt) : Nat := getLe s.desc 0x12 2
/-- SCALE_COUNT. -/
def SeqSt.scales (s : SeqSt) : Nat := getLe s.desc 0x14 2
/-- DRAFT_SRC PONY. -/
def SeqSt.pony (s : SeqSt) : Bool := getLe s.desc 0x17 1 == 1
/-- A u64 address field. -/
def SeqSt.addr (s : SeqSt) (o : Nat) : Nat := getLe s.desc o 8
/-- LOGIT_STRIDE. -/
def SeqSt.stride (s : SeqSt) : Nat := getLe s.desc 0x2C 4
/-- SPEC_WORK_ADDR. -/
def SeqSt.work (s : SeqSt) : Nat := s.addr 0x38
/-- Model block `m`. -/
def SeqSt.model (s : SeqSt) (m : Nat) : List Byte := slice s.desc (0x70 + 0x40 * m) 64
/-- LAYERS of a model block. -/
def SeqSt.layers (s : SeqSt) (m : Nat) : Nat := getLe (s.model m) 0 2
/-- SHADOW_SEQS of a model block. -/
def SeqSt.shadowSeqs (s : SeqSt) (m : Nat) : Nat := getLe (s.model m) 6 2
/-- Element bytes of a model's keys and values. -/
def SeqSt.elem (s : SeqSt) (m : Nat) : Nat := getLe (s.model m) 4 1
/-- Bytes of a head at one slot. -/
def SeqSt.headBytes (s : SeqSt) (m : Nat) : Nat := getLe (s.model m) 3 1 * s.elem m
/-- Page size P (R205). -/
def SeqSt.pageSize (s : SeqSt) (m : Nat) : Nat := 2 * 64 * getLe (s.model m) 2 1 * s.headBytes m

/-- Whether a model block's fields lie in their ranges. -/
def modelOk (b : List Byte) : Bool :=
  inRange (getLe b 0 2) 1 256 && inRange (getLe b 2 1) 1 64 && (getLe b 3 1 == 64 || getLe b 3 1 == 128) &&
    inRange (getLe b 4 1) 1 2 && decide (getLe b 6 2 ≤ 512) && getLe b 6 2 % 8 == 0 && getLe b 8 8 % 1024 == 0

/-- Whether a descriptor's fields lie in their ranges and its addresses have their alignment (R203, R204). -/
def seqDescOk (s : SeqSt) : Bool :=
  let b := s.desc
  decide (s.ctx < 64) && decide (s.ring < 64) && decide (getLe b 2 1 ≤ 1) &&
    (!s.phased || (decide (s.ref ≤ 10) && inRange s.cycleSteps 1 16)) &&
    inRange s.count 1 512 && inRange s.budget 64 8192 && inRange s.chunk 1 2048 && decide (s.specRows ≤ 4096) &&
    decide (s.fence ≤ 4095) && decide (s.scales ≤ 1024) &&
    (getLe b 0x16 1 == 2 || inRange (getLe b 0x16 1) 5 7) && decide (getLe b 0x17 1 ≤ 1) &&
    s.addr 0x18 % 128 == 0 && s.addr 0x20 % 128 == 0 && inRange (getLe b 0x28 4) 1 65536 && s.stride % 32 == 0 &&
    s.addr 0x30 % 65536 == 0 && s.work % 65536 == 0 && inRange (getLe b 0x6C 4) 2 262144 &&
    modelOk (s.model 0) && (!s.pony || modelOk (s.model 1))

/-- The requester of an instance's accesses (R100). -/
def rqSeq (c : Cfg) (i : Nat) (s : SeqSt) : Rq := rqCmd c s.ctx 14 4 i

/-! ### Sequence table (R208, R209) -/

/-- Address of a table entry. -/
def SeqSt.entryAddr (s : SeqSt) (idx : Nat) : Nat := s.addr 0x18 + 128 * idx

/-- Page list of layer `l` of model `m` of a sequence. -/
def SeqSt.listAddr (s : SeqSt) (pagesAddr maxLen m l : Nat) : Nat :=
  pagesAddr + (m * s.layers 0 + l) * 8 * ceilDiv maxLen 64

/-- Write into a table entry. -/
def seqPut (c : Cfg) (rq : Rq) (s : SeqSt) (idx off : Nat) (b : List Byte) : Eng Unit :=
  eWrite c rq (s.entryAddr idx + off) (mark false b)

/-- The models a sequence uses: the drafter's too when it speculates with PONY. -/
def SeqSt.models (s : SeqSt) (entry : List Byte) : List Nat :=
  if s.pony && bit (getLe entry 1 1) 0 && decide (1 ≤ getLe entry 2 1) then [0, 1] else [0]

/-- Pages that a sequence has in a model. -/
def SeqRec.pages (r : SeqRec) (m : Nat) : Nat := if m = 0 then r.pages0 else r.pages1

/-- Address of a pool array of model `m` and quarter `q`. -/
def SeqSt.poolAddr (s : SeqSt) (m q : Nat) : Nat := getLe (s.model m) (0x10 + 8 * q) 8

/-- Push one page of a list back on its pool. -/
def pushPage (c : Cfg) (rq : Rq) (r : SeqRec) (m l j : Nat) (s : SeqSt) : Eng SeqSt := do
  let p ← eRead c rq (s.listAddr r.pagesAddr r.maxLen m l + 8 * j) 8
  let k := 4 * m + r.home
  let n := s.pools.getD k 0
  eWrite c rq (s.poolAddr m r.home + 8 * n) p
  pure { s with pools := s.pools.set k (n + 1) }

/-- Return a sequence's pages in reverse order of allocation (R212). -/
def returnPages (c : Cfg) (rq : Rq) (r : SeqRec) (s : SeqSt) : Eng SeqSt :=
  ((List.range (Nat.max r.pages0 r.pages1)).reverse).foldlM (fun s j =>
    [1, 0].foldlM (fun s m =>
      if j < r.pages m then ((List.range (s.layers m)).reverse).foldlM (fun s l => pushPage c rq r m l j s) s else pure s) s) s

/-- Pop one page for a list. -/
def popPage (c : Cfg) (rq : Rq) (r : SeqRec) (m l j : Nat) (s : SeqSt) : Eng SeqSt := do
  let k := 4 * m + r.home
  let n := s.pools.getD k 0 - 1
  let p ← eRead c rq (s.poolAddr m r.home + 8 * n) 8
  eWrite c rq (s.listAddr r.pagesAddr r.maxLen m l + 8 * j) p
  pure { s with pools := s.pools.set k n }

/-- Make a sequence's page lists cover `upto` positions: none when a pool cannot (R212). -/
def coverPages (c : Cfg) (rq : Rq) (r : SeqRec) (models : List Nat) (upto : Nat) (s : SeqSt) : Eng (Option SeqRec × SeqSt) := do
  let need := Nat.min (ceilDiv upto 64) (ceilDiv r.maxLen 64)
  let lack := models.any (fun m => decide (s.pools.getD (4 * m + r.home) 0 < (need - r.pages m) * s.layers m))
  if lack then pure (none, s)
  else
    let s ← (List.range need).foldlM (fun s j =>
      models.foldlM (fun s m =>
        if r.pages m ≤ j then (List.range (s.layers m)).foldlM (fun s l => popPage c rq r m l j s) s else pure s) s) s
    let r := { r with
      pages0 := Nat.max r.pages0 need
      pages1 := if models.contains 1 then Nat.max r.pages1 need else r.pages1 }
    pure (some r, s)

/-- Replace the record of a sequence. -/
def SeqSt.setRec (s : SeqSt) (r : SeqRec) : SeqSt := { s with recs := s.recs.map (fun x => if x.idx = r.idx then r else x) }

/-- A sequence leaves: STATE 4 DONE or 5 FAILED with its REASON; its pages return unless their memory is lost; its shadow index is
freed and its FENCE is signalled (R209, R224). -/
def seqLeave (c : Cfg) (rq : Rq) (idx fence st reason : Nat) (pages : Bool) (s : SeqSt) : Eng SeqSt := do
  let s ← (match s.recs.find? (fun r => r.idx == idx) with
    | some r => if pages then returnPages c rq r s else pure s
    | none => pure s)
  seqPut c rq s idx 0x62 (leBytes 2 0xFFFF)
  seqPut c rq s idx 3 (leBytes 1 reason)
  seqPut c rq s idx 0 (leBytes 1 st)
  pure { s with recs := s.recs.filter (fun r => r.idx != idx), signals := s.signals ++ [fence % 4096] }

/-- The record of a sequence that an earlier attachment left in PREFILL or DECODE. -/
def adoptRec (c : Cfg) (rq : Rq) (s : SeqSt) (idx : Nat) (e : List Byte) : Eng SeqRec := do
  let out := getLe e 0x5C 4
  let last ← (if getLe e 0 1 = 3 ∧ 0 < out then (do
      let b ← eBytes c rq (getLe e 0x18 8 + 4 * (out - 1)) 4
      pure (leNat b.1)) else pure 0 : Eng Nat)
  let n := ceilDiv (getLe e 0x58 4) 64
  pure ⟨idx, getLe e 0x60 1 % 4, getLe e 0x20 8, getLe e 0xC 4, n, if (s.models e).contains 1 then n else 0,
    if getLe e 0x62 2 = 0xFFFF then none else some (getLe e 0x62 2), none, last⟩

/-! ### Step program (R218 to R220) -/

/-- One entry of the step program. -/
structure ProgEnt where
  entry : List Byte
  payload : List Byte
  rep : Nat
  model : Nat
  quarter : Nat
  flags : Nat
  patches : List (Nat × Nat × Nat × Nat)
  poison : Bool
deriving DecidableEq, Repr, Inhabited

/-- Parse a program entry. -/
def parseProg (b : List Byte) (poison : Bool) : ProgEnt :=
  { entry := slice b 0 128, payload := slice b 128 128, rep := getLe b 0x100 1, model := getLe b 0x101 1 % 2
    quarter := getLe b 0x102 1, flags := getLe b 0x103 1
    patches := (List.range (Nat.min 7 (getLe b 0x104 1))).map (fun i =>
      (getLe b (0x108 + 8 * i) 2, getLe b (0x10A + 8 * i) 1, getLe b (0x10B + 8 * i) 1, getLe b (0x10C + 8 * i) 4))
    poison := poison }

/-- Every entry of an instance's program. -/
def readProgram (c : Cfg) (rq : Rq) (s : SeqSt) : Eng (List ProgEnt) :=
  (List.range (getLe s.desc 0x28 4)).mapM (fun k => do
    let b ← eBytes c rq (s.addr 0x20 + 320 * k) 320
    pure (parseProg b.1 b.2))

/-- Batch descriptor of step `n` (R213). -/
def SeqSt.buffer (s : SeqSt) (n : Nat) : Nat := s.addr 0x30 + (n % 2) * 262144

/-- What a patch reads: layer, the sequence's part, rows of the step, its descriptor, draft pass, row base and rows in a draft pass. -/
structure PatchEnv where
  layer : Nat
  part : Option SeqPart
  stepRows : Nat
  desc : Nat
  pass : Nat
  rowBase : Nat
  seqRows : Nat
  list : Nat
deriving Repr, Inhabited

/-- The shadow page of index `h` in a layer (R214). -/
def SeqSt.shadowPage (s : SeqSt) (m l h : Nat) : Nat :=
  getLe (s.model m) 8 8 + (l * (s.shadowSeqs m / 8) + h / 8) * s.pageSize m + (h % 8) * 8 * s.headBytes m

/-- Largest VIS_PAGE of a part. -/
def SeqPart.visMax (p : SeqPart) : Nat :=
  if p.group = 1 then p.length else p.length + p.rows

/-- The value of a patch source and whether it is added (R220); none for a reserved source. -/
def patchValue (s : SeqSt) (m : Nat) (v : PatchEnv) (src : Nat) : Option (Bool × Nat) :=
  let p := v.part.getD default
  let e := p.entry
  if src = 1 then some (true, v.layer)
  else if src = 2 then some (true, v.rowBase)
  else if src = 3 then some (false, v.stepRows)
  else if src = 4 then some (false, v.seqRows)
  else if src = 5 then some (false, if v.part.isSome then s.listAddr (getLe e 0x20 8) (getLe e 0xC 4) m v.layer else 0)
  else if src = 6 then some (false, v.list)
  else if src = 7 then some (false, v.desc + 0x28000 + 4 * p.rowBase)
  else if src = 8 then some (false, v.desc + 0x30000 + 4 * p.rowBase)
  else if src = 9 then some (false, 64 * ceilDiv p.visMax 64)
  else if src = 10 then some (false, v.desc)
  else if src = 11 then some (false, v.desc + 0x38000 + 4 * p.rowBase)
  else if src = 12 then some (true, v.pass)
  else none

/-- Replace bytes of a list. -/
def putBytes (l : List Byte) (o : Nat) (b : List Byte) : List Byte := l.take o ++ b ++ l.drop (o + b.length)

/-- Apply one patch to a ring entry and a payload. -/
def applyPatch (s : SeqSt) (m : Nat) (v : PatchEnv) (b : List Byte × List Byte) (p : Nat × Nat × Nat × Nat) : List Byte × List Byte :=
  let off := p.1 % 32768
  let size := p.2.1
  if (size ≠ 4 ∧ size ≠ 8) ∨ 128 < off + size then b else
  match patchValue s m v p.2.2.1 with
  | none => b
  | some (add, x) =>
    let put := fun (l : List Byte) =>
      putBytes l off (leBytes size (if add then getLe l off size + x * p.2.2.2 else x))
    if 32768 ≤ p.1 then (put b.1, b.2) else (b.1, put b.2)

/-- Address of shadow-list slot `k` of SPEC_WORK. -/
def SeqSt.listSlot (s : SeqSt) (k : Nat) : Nat := s.work + 0xC000 + 8 * k

/-- Build a command from a program entry; a KV entry's ROWS, FIRST_SLOT and LIST are SEQ's (R219). -/
def fromProgram (pe : ProgEnt) (v : PatchEnv) (kind : Nat) (s : SeqSt) : SeqOut × SeqSt :=
  let p := v.part.getD default
  let shadowKv := pe.rep == 5 && p.group == 1
  let wants := shadowKv || pe.patches.any (fun x => x.2.2.1 == 6)
  let slot := s.nextList % 2048
  let page := match p.shadow with
    | some h => s.shadowPage pe.model v.layer h
    | none => 0
  let v := if wants then { v with list := s.listSlot slot } else v
  let b := pe.patches.foldl (applyPatch s pe.model v) (pe.entry, pe.payload)
  let pay := if pe.rep = 5 then
      let l := if shadowKv then v.list else s.listAddr (getLe p.entry 0x20 8) (getLe p.entry 0xC 4) pe.model v.layer
      putBytes (putBytes (putBytes b.2 4 (leBytes 4 p.rows)) 8 (leBytes 4 (if shadowKv then 0 else p.length))) 0x28 (leBytes 8 l)
    else b.2
  let fl := getLe b.1 6 1
  let ent := if bit pe.flags 0 then putBytes b.1 6 (leBytes 1 (putBit fl 0 true)) else b.1
  let q := if pe.quarter = 0xFF then p.home else pe.quarter % 4
  (⟨ent, mark (pe.poison || s.poisoned) pay, q, if wants then [(slot, page)] else [], kind⟩,
    { s with nextList := if wants then s.nextList + 1 else s.nextList })

/-- Entries of one repeat code for a step, without the layers. -/
def emitOnce (prog : List ProgEnt) (rep : Nat) (v : PatchEnv) (acc : List SeqOut × SeqSt) : List SeqOut × SeqSt :=
  (prog.filter (fun p => p.rep == rep)).foldl (fun acc p =>
    let r := fromProgram p v 0 acc.2
    (acc.1 ++ [r.1], r.2)) acc

/-- Entries of codes 1 to 5 of one layer, in program order (R219). -/
def emitLayer (prog : List ProgEnt) (parts : List SeqPart) (v : PatchEnv) (l : Nat) (acc : List SeqOut × SeqSt) : List SeqOut × SeqSt :=
  (prog.filter (fun p => inRange p.rep 1 5)).foldl (fun acc p =>
    if p.rep = 1 then
      let r := fromProgram p { v with layer := l } 0 acc.2
      (acc.1 ++ [r.1], r.2)
    else
      let who := parts.filter (fun x =>
        if p.rep = 3 then x.group == 1 else if p.rep = 4 then x.group != 1 else true)
      who.foldl (fun acc x =>
        let r := fromProgram p { v with layer := l, part := some x, rowBase := x.rowBase, seqRows := x.rows } 0 acc.2
        (acc.1 ++ [r.1], r.2)) acc) acc

/-- A ring entry that SEQ forms itself. -/
def ownEntry (cls quarter mask op flags : Nat) (start : List Byte) : List Byte :=
  leBytes 1 cls ++ leBytes 1 quarter ++ leBytes 2 mask ++ leBytes 2 op ++ leBytes 1 flags ++ leBytes 81 0 ++ start ++ leBytes 24 0

/-- A mark of the cycle (R228). -/
def markOut (s : SeqSt) (kind cycle commands : Nat) : SeqOut :=
  let pay := leBytes 1 kind ++ leBytes 1 s.needed ++ leBytes 2 0 ++ leBytes 4 cycle ++ leBytes 4 commands ++
    leBytes 4 (getLe s.desc 0x68 4) ++ leBytes 8 (s.addr 0x60) ++ leBytes 104 0
  ⟨ownEntry 0 0 0 2 0 (leBytes 16 0), mark s.poisoned pay, 0, [], 4⟩

/-! ### Verify and draft commands of TOK (R221, R222) -/

/-- A TOK item (R193). -/
def tokItemBytes (op fmt drafts flags vocab : Nat) (sampling : List Byte) (pos stride key logits draftAddr histAddr result : Nat) : List Byte :=
  leBytes 1 op ++ leBytes 1 fmt ++ leBytes 1 drafts ++ leBytes 1 flags ++ leBytes 4 vocab ++ slice sampling 0 14 ++ leBytes 2 0 ++
    leBytes 4 pos ++ leBytes 4 stride ++ leBytes 8 key ++ leBytes 8 logits ++ leBytes 8 draftAddr ++ leBytes 8 0 ++
    leBytes 8 histAddr ++ leBytes 8 result ++ leBytes 48 0

/-- A TOK command over items. -/
def tokOut (s : SeqSt) (items : List (List Byte)) (kind : Nat) : SeqOut :=
  ⟨ownEntry 5 0 0 0 1 (leBytes 16 0), mark s.poisoned (leBytes 4 items.length ++ leBytes 124 0 ++ items.flatten), 0, [], kind⟩

/-- Whether a part has an item in the verify command. -/
def SeqPart.hasItem (p : SeqPart) : Bool :=
  decide (p.group ≤ 2) || p.length + p.rows == getLe p.entry 4 4

/-- Address of the drafts of a sequence in SPEC_WORK. -/
def SeqSt.draftAddr (s : SeqSt) (idx : Nat) : Nat := s.work + 0x8000 + 32 * idx

/-- The verify item of a part, at place `k` of the command (R221). -/
def verifyItem (s : SeqSt) (p : SeqPart) (k : Nat) : List Byte :=
  let e := p.entry
  let temp := getLe e 0x44 2
  let op := if p.group = 1 then (if temp = 0 then 2 else 3) else 1
  let row := if p.group ≤ 2 then p.rowBase else p.rowBase + p.rows - 1
  let pos := if p.group ≤ 2 then p.length + 1 else getLe e 4 4
  tokItemBytes op (getLe s.desc 0x16 1) (if p.group = 1 then p.drafts.length else 0) (if p.group = 1 then 1 else 0) (getLe s.desc 0x6C 4)
    (slice e 0x40 14) pos s.stride (getLe e 0x28 8) (s.addr 0x40 + row * s.stride) (s.draftAddr p.idx) (getLe e 0x50 8) (s.work + 64 * k)

/-- A greedy item over a draft row: place `k` of the command. -/
def draftItem (s : SeqSt) (h j k key pos : Nat) : List Byte :=
  tokItemBytes 1 (getLe s.desc 0x16 1) 0 0 (getLe s.desc 0x6C 4) (leBytes 14 0) pos s.stride key
    (s.addr 0x48 + (8 * h + j) * s.stride) 0 0 (s.work + 64 * k)

/-! ### Batch descriptor (R213) -/

/-- The row records of a part: token, position, kind, draft number; and VIS_PAGE, VIS_SHADOW for each row. -/
def partRows (c : Cfg) (rq : Rq) (s : SeqSt) (p : SeqPart) : Eng (List (List Byte × Nat × Nat × Nat)) := do
  let row := fun (tok pos kind dn vp vs : Nat) =>
    (leBytes 4 tok ++ leBytes 4 pos ++ leBytes 2 p.idx ++ leBytes 1 kind ++ leBytes 1 dn ++ leBytes 4 0, vp, vs, pos)
  if p.group ≤ 2 then
    let last := match s.recs.find? (fun r => r.idx == p.idx) with
      | some r => r.last
      | none => 0
    let spec := p.group == 1
    let first := row last p.length 1 0 (if spec then p.length else p.length + 1) (if spec then 1 else 0)
    pure (first :: p.drafts.zipIdx.map (fun (t, j) => row t (p.length + 1 + j) 2 j p.length (j + 2)))
  else
    let b ← eBytes c rq (getLe p.entry 0x10 8 + 4 * p.length) (4 * p.rows)
    pure ((List.range p.rows).map (fun i => row (getLe b.1 (4 * i) 4) (p.length + i) 0 0 (p.length + i + 1) 0))

/-- Write the batch descriptor of step `n`. -/
def writeBatchDesc (c : Cfg) (rq : Rq) (s : SeqSt) (n rows : Nat) (parts : List SeqPart) : Eng Unit := do
  let base := s.buffer n
  let spec := ((parts.filter (fun p => p.group == 1)).map (·.rows)).sum
  let put := fun (o : Nat) (b : List Byte) => if b = [] then pure () else eWrite c rq (base + o) (mark false b)
  put 0 (leBytes 8 n ++ leBytes 4 rows ++ leBytes 4 spec ++ leBytes 4 parts.length ++ leBytes 44 0)
  put 0x40 (parts.flatMap (fun p => leBytes 2 p.idx ++ leBytes 2 (p.shadow.getD 0xFFFF) ++ leBytes 4 p.rowBase ++ leBytes 4 p.rows ++
    leBytes 4 p.length ++ leBytes 1 p.home ++ leBytes 1 p.group ++ leBytes 14 0))
  let rs ← parts.mapM (partRows c rq s)
  let all := rs.flatten
  put 0x8000 (all.flatMap (·.1))
  put 0x28000 (all.flatMap (fun r => leBytes 4 r.2.1))
  put 0x30000 (all.flatMap (fun r => leBytes 4 r.2.2.1))
  put 0x38000 (all.flatMap (fun r => leBytes 4 r.2.2.2))

end Sys2Proof.Machine
end

