-- ==== Sys2Proof/Machine/SeqCmds.lean ====
section
/-! DEFINITION. The step sequencer's events: building a step (R209 to R213), writing its commands (R201, R218), commit, drafts and drop (R221 to
R226), attach and detach (R203, R206). -/

namespace Sys2Proof.Machine

/-! ### Building a step -/

/-- What a build gathers: the instance, its parts so far, rows given, sequences that wait for pages. -/
structure BuildAcc where
  s : SeqSt
  parts : List SeqPart
  rows : Nat
  waiting : List Nat

/-- Cut a list of rows at the first that does not fit: those that fit, and the rest. -/
def takeRows {α : Type} (rows : α → Nat) : Nat → List α → List α × List α
  | _, [] => ([], [])
  | room, x :: xs =>
    if rows x ≤ room then
      let r := takeRows rows (room - rows x) xs
      (x :: r.1, r.2)
    else ([], x :: xs)

/-- A sequence takes its rows when its pages can be covered; otherwise it sits out and is counted in POOL_WAIT (R212). -/
def takePart (c : Cfg) (rq : Rq) (r : SeqRec) (e : List Byte) (group rows : Nat) (a : BuildAcc) : Eng (Bool × BuildAcc) := do
  let len := if group = 4 then 0 else getLe e 0x58 4
  let g ← coverPages c rq r (a.s.models e) (len + rows) a.s
  match g.1 with
  | none => pure (false, { a with s := { g.2 with poolWait := g.2.poolWait + 1 }, waiting := a.waiting ++ [r.idx] })
  | some r' =>
    let p : SeqPart := ⟨r.idx, e, r.home, group, a.rows, rows, len, r.shadow, if group = 1 then r.drafts.getD [] else []⟩
    let recs := if g.2.recs.any (fun x => x.idx == r.idx) then (g.2.setRec r').recs else g.2.recs ++ [r']
    pure (true, { a with s := { g.2 with recs := recs }, parts := a.parts ++ [p], rows := a.rows + rows })

/-- The quarter of NEEDED whose pool of model 0 holds the most free pages; ties to the lowest (R209). -/
def joinHome (s : SeqSt) : Option Nat :=
  (onesBelow 4 s.needed).foldl (fun b q => match b with
    | some p => if s.pools.getD p 0 < s.pools.getD q 0 then some q else b
    | none => some q) none

/-- The table as the build reads it: entries with their poison. -/
def readTable (c : Cfg) (rq : Rq) (s : SeqSt) : Eng (List (Nat × List Byte × Bool)) :=
  (List.range s.count).mapM (fun i => do
    let b ← eBytes c rq (s.entryAddr i) 128
    pure (i, b.1, b.2))

/-- The state of an entry: reserved values are FREE (R209). -/
def tableState (e : List Byte) : Nat := if getLe e 0 1 ≤ 5 then getLe e 0 1 else 0

/-- Take up one entry at a build: adopt it, or let it leave (R209, R224, R432). Entries that stay are answered. -/
def screenEntry (c : Cfg) (rq : Rq) (a : SeqSt × List (Nat × List Byte)) (x : Nat × List Byte × Bool) :
    Eng (SeqSt × List (Nat × List Byte)) := do
  let st := tableState x.2.1
  let fence := getLe x.2.1 0x4E 2
  if st = 0 ∨ 3 < st then pure a
  else
    let known := a.1.recs.any (fun r => r.idx == x.1)
    let s ← (if st ≠ 1 ∧ known = false then (do
        let r ← adoptRec c rq a.1 x.1 x.2.1
        pure { a.1 with recs := a.1.recs ++ [r] }) else pure a.1 : Eng SeqSt)
    if x.2.2 then pure (← seqLeave c rq x.1 fence 5 7 true s, a.2)
    else
      let home := ((s.recs.find? (fun r => r.idx == x.1)).map (·.home)).getD 0
      if st ≠ 1 ∧ (sliceOf (← get) home).memLost = true then pure (← seqLeave c rq x.1 fence 5 6 false s, a.2)
      else if st ≠ 1 ∧ bit (getLe x.2.1 1 1) 1 = true then pure (← seqLeave c rq x.1 fence 4 4 true s, a.2)
      else pure (s, a.2 ++ [(x.1, x.2.1)])

/-- Whether a decode sequence speculates in this step (R210). -/
def speculates (s : SeqSt) (x : SeqRec × List Byte) : Bool :=
  bit (getLe x.2 1 1) 0 && decide (1 ≤ getLe x.2 2 1) && x.1.shadow.isSome &&
    (match x.1.drafts with
     | some l => l.length == getLe x.2 2 1
     | none => false) && decide (0 < s.specRows)

/-- Give every sequence its rows (R210, R211). -/
def assignRows (c : Cfg) (rq : Rq) (n : Nat) (s : SeqSt) (entries : List (Nat × List Byte)) : Eng BuildAcc := do
  let cnt := s.count
  let order := (List.range cnt).map (fun k => (n % cnt + k) % cnt)
  let find := fun (i : Nat) => match entries.find? (fun e => e.1 == i), s.recs.find? (fun r => r.idx == i) with
    | some e, some r => if tableState e.2 = 3 then some (r, e.2) else none
    | _, _ => none
  let dec := order.filterMap find
  let g1 := takeRows (fun x => 1 + getLe x.2 2 1) s.specRows (dec.filter (speculates s))
  let g2 := dec.filter (fun x => !(g1.1.any (fun y => y.1.idx == x.1.idx)))
  let both := takeRows (fun (x : Nat × SeqRec × List Byte) => if x.1 = 1 then 1 + getLe x.2.2 2 1 else 1) s.budget
    (g1.1.map (fun x => (1, x)) ++ g2.map (fun x => (2, x)))
  let a : BuildAcc := ⟨{ s with skipped := s.skipped + both.2.length }, [], 0, []⟩
  let a ← both.1.foldlM (fun a x => do
    let r ← takePart c rq x.2.1 x.2.2 x.1 (if x.1 = 1 then 1 + getLe x.2.2 2 1 else 1) a
    pure r.2) a
  let pre := s.recs.filterMap (fun r => match entries.find? (fun e => e.1 == r.idx) with
    | some e => if tableState e.2 = 2 then some (r, e.2) else none
    | none => none)
  let a ← pre.foldlM (fun a x => do
    let rows := Nat.min (Nat.min s.chunk (getLe x.2 4 4 - getLe x.2 0x58 4)) (s.budget - a.rows)
    if rows = 0 then pure a
    else
      let r ← takePart c rq x.1 x.2 3 rows a
      pure r.2) a
  (entries.filter (fun e => tableState e.2 == 1)).foldlM (fun a x => do
    let rows := Nat.min (Nat.min s.chunk (getLe x.2 4 4)) (s.budget - a.rows)
    match joinHome a.s with
    | none => pure a
    | some q =>
      if rows = 0 then pure a
      else
        let r ← takePart c rq ⟨x.1, q, getLe x.2 0x20 8, getLe x.2 0xC 4, 0, 0, none, none, 0⟩ x.2 4 rows a
        if r.1 then
          seqPut c rq s x.1 0x58 (leBytes 8 0 ++ leBytes 1 q ++ leBytes 1 0 ++ leBytes 2 0xFFFF ++ leBytes 8 0)
          seqPut c rq s x.1 3 (leBytes 1 0)
          seqPut c rq s x.1 0 (leBytes 1 2)
        pure r.2) a

/-- The sequence that joined last among those that wait; one that has not joined comes after every one that has. -/
def lastJoined (s : SeqSt) (waiting : List Nat) : Option Nat :=
  match waiting.filter (fun i => !(s.recs.any (fun r => r.idx == i))) with
  | [] => ((s.recs.map (·.idx)).filter (fun i => waiting.contains i)).getLast?
  | l => l.getLast?

/-- Set AFTER_ALL on the first command of a step (R222). -/
def afterAllFirst : List SeqOut → List SeqOut
  | [] => []
  | o :: l => { o with entry := putBytes o.entry 6 (leBytes 1 (putBit (getLe o.entry 6 1) 0 true)) } :: l

/-- Give the first command of a cycle its NEXT_ANGLE start specifier (R220). -/
def startFirst (s : SeqSt) : List SeqOut → List SeqOut
  | [] => []
  | o :: l => { o with entry := putBytes o.entry 0x58 (leBytes 1 2 ++ leBytes 1 s.ref ++ leBytes 6 0 ++ leBytes 8 s.angle) } :: l

/-- The commands of a step (R219, R220). -/
def stepCommands (d : Dev) (prog : List ProgEnt) (n rows : Nat) (parts : List SeqPart) (s : SeqSt) : List SeqOut × SeqSt :=
  let v : PatchEnv := ⟨0, none, rows, s.buffer n, 0, 0, rows, 0⟩
  let a := emitOnce prog 0 v ([], s)
  let a := (List.range (s.layers 0)).foldl (fun a l => emitLayer prog parts v l a) a
  let a := emitOnce prog 6 v a
  let items := (parts.filter (fun p => p.hasItem)).zipIdx.map (fun (p, k) => verifyItem s p k)
  let body := a.1 ++ (if items = [] then [] else [tokOut s items 1])
  let body := afterAllFirst body
  if s.phased then
    let first := s.cycleStep == 0
    let cycle := nextAngle s.angle (refStamp (refOf d s.ref)) / 2 ^ 32
    let body' := if first then markOut s 1 cycle (body.length * s.cycleSteps) :: startFirst s body else body
    let body' := if s.cycleStep + 1 = s.cycleSteps then body' ++ [markOut s 2 cycle 0] else body'
    (body', { a.2 with cycleStep := if s.cycleStep + 1 = s.cycleSteps then 0 else s.cycleStep + 1 })
  else (body, a.2)

/-- Build the next step of an instance. -/
def buildStep (c : Cfg) (i : Nat) (s : SeqSt) : Eng SeqSt := do
  let rq := rqSeq c i s
  let n := s.step + 1
  let table ← readTable c rq s
  let t ← table.foldlM (screenEntry c rq) (s, [])
  let a ← assignRows c rq n t.1 t.2
  if a.parts = [] then
    match lastJoined a.s a.waiting with
    | none => pure a.s
    | some idx =>
      let fence := ((t.2.find? (fun e => e.1 == idx)).map (fun e => getLe e.2 0x4E 2)).getD 0
      seqLeave c rq idx fence 5 5 true a.s
  else
    for p in a.parts do
      if p.drafts ≠ [] then eWrite c rq (s.draftAddr p.idx) (mark false (p.drafts.flatMap (leBytes 4)))
    writeBatchDesc c rq a.s n a.rows a.parts
    let prog ← readProgram c rq s
    let r := stepCommands (← get) prog n a.rows a.parts a.s
    pure { r.2 with phase := 1, parts := a.parts, todo := r.2.todo ++ r.1, failed := false, failedOther := false }

/-! ### Writing commands to the ring -/

/-- Whether any instance of a class in a quarter is in service (R29). -/
def quarterServes (c : Cfg) (d : Dev) (cls q : Nat) : Bool :=
  (List.range (instCount cls)).any (fun i => inService c d cls q i)

/-- The quarter a command goes to (R201), and where the turn goes on. -/
def commandQuarter (c : Cfg) (d : Dev) (cls q turn : Nat) : Nat × Nat :=
  if quarterClass cls = false ∨ quarterServes c d cls q = true then (q, turn)
  else
    match ((List.range 4).map (fun k => (turn + k) % 4)).find? (fun k => quarterServes c d cls k) with
    | some k => (k, (k + 1) % 4)
    | none => (q, turn)

/-- Payload slots of a command, and the first slot it takes: a command of several slots does not wrap. -/
def slotsFor (s : SeqSt) (o : SeqOut) : Nat × Nat :=
  let n := Nat.max 1 (ceilDiv o.payload.length 128)
  let k := s.nextSlot % 65536
  (if k + n ≤ 65536 then s.nextSlot else s.nextSlot + (65536 - k), n)

/-- Whether the next command can be written: ring room, free payload slots and shadow lists (R218). -/
def canWrite (d : Dev) (s : SeqSt) (o : SeqOut) : Bool :=
  let r := ringOf d s.ring
  let f := slotsFor s o
  let lo := f.1 % 65536
  r.bound && r.devWriter && decide ((r.wptr + 2 ^ 32 - r.rptr) % 2 ^ 32 < r.size) &&
    !(s.pend.any (fun p => decide (lo < p.slot + p.slots) && decide (p.slot < lo + f.2))) &&
    !(o.lists.any (fun l => s.pend.any (fun p => p.lists.contains l.1)))

/-- Write one command: shadow lists, payload, ring entry, write index. -/
def writeCommand (c : Cfg) (i : Nat) (s : SeqSt) (o : SeqOut) : Eng Unit := do
  let rq := rqSeq c i s
  for l in o.lists do eWrite c rq (s.listSlot l.1) (mark false (leBytes 8 l.2))
  let f := slotsFor s o
  let pa := s.work + 0x10000 + 128 * (f.1 % 65536)
  eWrite c rq pa o.payload
  let d ← get
  let r := ringOf d s.ring
  let q := commandQuarter c d (getLe o.entry 0 1) o.quarter s.turn
  let ent := putBytes (putBytes o.entry 1 (leBytes 1 q.1)) 0x10 (leBytes 8 pa)
  let w := physWrite c rq (r.base + (r.wptr % r.size) * 128) (mark false ent) [] d
  set w.2
  if w.1 ≠ 0 then throw (.fail w.1)
  liftDev (fun d => setRing d s.ring (fun r => { r with
    foreign := r.foreign.filter (· != r.wptr % r.size), wptr := (r.wptr + 1) % 2 ^ 32, effWptr := (r.wptr + 1) % 2 ^ 32, pending := true }))
  liftDev (fun d => setSeq d i (fun s => { s with
    todo := s.todo.drop 1, turn := q.2, nextSlot := f.1 + f.2
    pend := s.pend ++ [⟨r.wptr, f.1 % 65536, f.2, o.lists.map (·.1)⟩] }))

/-- Whether an instance may work: running, its context active, the device in RUN without a fault, no stalled request. -/
def seqRuns (c : Cfg) (i : Nat) (d : Dev) : Bool :=
  let s := seqOf d i
  s.attached && s.state == 1 && (ctxOf d s.ctx).state == 1 && !feStopped d && !unitStalled d (rqSeq c i s)

/-- Write what waits as far as ring and slots allow. -/
def seqPump (c : Cfg) (i : Nat) : Nat → Dev → Dev
  | 0, d => d
  | n + 1, d =>
    let s := seqOf d i
    match s.todo with
    | [] => d
    | o :: _ =>
      if seqRuns c i d && canWrite d s o then
        match runEng (writeCommand c i s o) d with
        | (.ok _, d) => seqPump c i n d
        | (.error (.fail st), d) => loseContext c s.ctx st [] d
        | (.error _, d) => d
      else d

/-- Write the status block (R207). -/
def statusBytes (s : SeqSt) : List Byte :=
  leBytes 8 s.step ++ leBytes 1 s.state ++ leBytes 3 0 ++ leBytes 4 s.dropped ++ leBytes 4 s.skipped ++ leBytes 4 s.poolWait ++
    leBytes 8 s.drafted ++ leBytes 8 s.accepted ++ leBytes 24 0

/-- A signal whose value the spec does not state, above the fence's value. -/
def signalDone (fence : Nat) (d : Dev) : Dev :=
  let r := drawFree d
  let v := (aget d.fe.fences fence).v
  if v + 1 < 2 ^ 64 then signal fence (v + 1 + r.1.toNat % (2 ^ 64 - 1 - v)) false r.2 else r.2

/-- Run sequencer work that answers the instance's new state: after a stall and its replay the same event goes on where it stopped (R389); a failed
check loses the context. -/
def seqWork (c : Cfg) (i : Nat) (f : SeqSt → Eng SeqSt) (d : Dev) : Dev :=
  let s := seqOf d i
  match runEng (resumable (instIdx 14 0 i) (f s)) d with
  | (.ok s', d) =>
    let d := s'.signals.foldl (fun d k => signalDone k d) d
    let d := setSeq d i (fun _ => { s' with signals := [] })
    seqPump c i (s'.todo.length + 1) d
  | (.error (.fail st), d) => loseContext c s.ctx st [] d
  | (.error _, d) => d

/-! ### Commit (R221 to R226) -/

/-- The outcome of a verify item: kept tokens, and whether a stop token ended them. -/
def keptTokens (e : List Byte) (rec : List Byte) : List Nat × Bool :=
  let toks := (List.range (Nat.min 8 (getLe rec 2 1))).map (fun k => getLe rec (8 + 4 * k) 4)
  let stops := ((List.range 4).map (fun k => getLe e (0x30 + 4 * k) 4)).filter (· != 0xFFFFFFFF)
  let cut := match findIdxOpt (fun t => stops.contains t) toks with
    | some k => toks.take (k + 1)
    | none => toks
  let kept := cut.take (getLe e 8 4 - getLe e 0x5C 4)
  (kept, match kept.getLast? with
    | some t => stops.contains t
    | none => false)

/-- The lowest free shadow index: of model 0, and of model 1 as well with PONY (R210). -/
def freeShadow (s : SeqSt) : Option Nat :=
  let lim := if s.pony then Nat.min (s.shadowSeqs 0) (s.shadowSeqs 1) else s.shadowSeqs 0
  (List.range lim).find? (fun h => !(s.recs.any (fun r => r.shadow == some h)))

/-- The KV_STOREs that copy committed shadow slots to pages (R222 step 4). -/
def commitStores (s : SeqSt) (p : SeqPart) (m rows : Nat) (acc : List SeqOut × SeqSt) : List SeqOut × SeqSt :=
  let rows := Nat.min rows (getLe p.entry 0xC 4 - p.length)
  if rows = 0 then acc else
  (List.range (s.layers m)).foldl (fun acc l =>
    let b := s.model m
    let page := s.shadowPage m l (p.shadow.getD 0)
    let pay := leBytes 1 (s.elem m) ++ leBytes 1 (getLe b 2 1) ++ leBytes 1 (getLe b 3 1) ++ leBytes 1 0 ++ leBytes 4 rows ++
      leBytes 4 p.length ++ leBytes 4 (s.headBytes m) ++ leBytes 4 (64 * s.headBytes m) ++ leBytes 4 0 ++ leBytes 8 page ++
      leBytes 8 (page + s.pageSize m / 2) ++ leBytes 8 (s.listAddr (getLe p.entry 0x20 8) (getLe p.entry 0xC 4) m l) ++ leBytes 80 0
    (acc.1 ++ [⟨ownEntry 3 0 0xF 4 1 (leBytes 16 0), mark s.poisoned pay, p.home, [], 2⟩], acc.2)) acc

/-- What a commit gathers: the instance, commands, sequences that will draft (index, last kept row, rows of pass 0), next result record. -/
structure CommitAcc where
  s : SeqSt
  out : List SeqOut
  drafters : List (Nat × Nat × Nat)
  item : Nat

/-- Commit one sequence (R209, R222, R224). -/
def commitPart (c : Cfg) (rq : Rq) (a : CommitAcc) (p : SeqPart) : Eng CommitAcc := do
  let e := p.entry
  let s := a.s
  match s.recs.find? (fun r => r.idx == p.idx) with
  | none => pure { a with item := if p.hasItem then a.item + 1 else a.item }
  | some r =>
    if p.hasItem = false then
      seqPut c rq s p.idx 0x58 (leBytes 4 (p.length + p.rows))
      pure a
    else
      let rb ← eBytes c rq (s.work + 64 * a.item) 64
      let a := { a with item := a.item + 1 }
      if rb.2 then pure { a with s := ← seqLeave c rq p.idx (getLe e 0x4E 2) 5 7 true s }
      else
        let e := if p.group = 4 then putBytes e 0x58 (leBytes 8 0) else e
        let k := keptTokens e rb.1
        let n := k.1.length
        if n = 0 then pure a
        else
          let out := getLe e 0x5C 4
          eWrite c rq (getLe e 0x18 8 + 4 * out) (mark false (k.1.flatMap (leBytes 4)))
          let len := if p.group ≤ 2 then p.length + n else getLe e 4 4
          let spec := p.group == 1
          seqPut c rq s p.idx 0x58 (leBytes 4 len ++ leBytes 4 (out + n))
          if spec then
            seqPut c rq s p.idx 0x64 (leBytes 4 (getLe e 0x64 4 + p.drafts.length) ++ leBytes 4 (getLe e 0x68 4 + (n - 1)))
          let s := if spec then
              { s with drafted := s.drafted + p.drafts.length, accepted := s.accepted + (n - 1) } else s
          let st := if spec then commitStores s p 0 n (a.out, s) else (a.out, s)
          let st := if spec && s.pony then commitStores s p 1 n st else st
          let a := { a with out := st.1, s := st.2 }
          let reason := if k.2 then 1 else if getLe e 8 4 ≤ out + n then 2 else if getLe e 0xC 4 ≤ len + 1 then 3 else 0
          if reason ≠ 0 then pure { a with s := ← seqLeave c rq p.idx (getLe e 0x4E 2) 4 reason true a.s }
          else
            let wants := bit (getLe e 1 1) 0
            let sh := if 3 ≤ p.group ∧ wants = true then freeShadow a.s else r.shadow
            if 3 ≤ p.group then
              seqPut c rq a.s p.idx 0x62 (leBytes 2 (sh.getD 0xFFFF))
              seqPut c rq a.s p.idx 0 (leBytes 1 3)
            let s := a.s.setRec { (a.s.recs.find? (fun x => x.idx == p.idx)).getD r with
              shadow := sh, drafts := none, last := k.1.getLastD 0 }
            let row := if p.group ≤ 2 then p.rowBase + n - 1 else p.rowBase + p.rows - 1
            let two := spec && s.pony && n == p.drafts.length + 1
            let drafters := if wants && sh.isSome && decide (1 ≤ getLe e 2 1) then
                a.drafters ++ [(p.idx, row, if two then 2 else 1)] else a.drafters
            let s := { s with parts := s.parts.map (fun x =>
              if x.idx = p.idx then { x with shadow := sh, entry := putBytes x.entry 0x58 (leBytes 4 len) } else x) }
            pure { a with s := s, drafters := drafters }

/-- Apply the scale list (R226). -/
def applyScales (c : Cfg) (rq : Rq) (s : SeqSt) : Eng Unit :=
  (List.range s.scales).foldlM (fun _ k => do
    let b ← eBytes c rq (s.addr 0x58 + 16 * k) 16
    if b.2 then pure ()
    else
      let old ← eBytes c rq (getLe b.1 0 8) 8
      match nextScale (emaxOf (getLe b.1 15 1)) (leNat old.1) with
      | some e => eWrite c rq (getLe b.1 8 7) [(BitVec.ofNat 8 e, old.2)]
      | none => pure ()
      eWrite c rq (getLe b.1 0 8) (mark false (leBytes 8 0))) ()

/-- The commands of draft pass `pass`: the DRAFT entries for each sequence that takes part, and its first TOK command (R222 steps 5 and 6). -/
def draftPass (prog : List ProgEnt) (pass : Nat) (s : SeqSt) : SeqSt :=
  let part := fun (idx : Nat) => s.parts.find? (fun p => p.idx == idx)
  let drafts := fun (idx : Nat) => ((part idx).map (fun p => getLe p.entry 2 1)).getD 0
  let who := s.draftSeqs.filter (fun x => !s.pony || decide (pass < drafts x.1))
  if (s.pony = false ∧ 0 < pass) ∨ who = [] then { s with draftSeqs := [], draftQueue := [], draftNow := [] }
  else
    let n := s.step
    let a := (prog.filter (fun p => p.rep == 7)).foldl (fun (a : List SeqOut × SeqSt) pe =>
      who.foldl (fun a x =>
        let rows := if s.pony then (if pass = 0 then x.2.2 else 1) else 1
        let v : PatchEnv := ⟨0, part x.1, ((s.parts.map (·.rows)).sum), s.buffer n, pass, x.2.1 + 1 - rows, rows, 0⟩
        let r := fromProgram pe v 2 a.2
        (a.1 ++ [r.1], r.2)) a) ([], s)
    let items := who.flatMap (fun x =>
      if s.pony then [(x.1, pass)] else (List.range (drafts x.1)).map (fun j => (x.1, j)))
    { a.2 with todo := a.2.todo ++ a.1, draftQueue := items, draftNow := [], pass := pass }

/-- Write the TOK command for the next draft items of the pass, at most 512. -/
def draftTok (s : SeqSt) : SeqSt :=
  let now := s.draftQueue.take 512
  if now = [] then s else
  let items := now.zipIdx.map (fun (x, k) =>
    let p := (s.parts.find? (fun p => p.idx == x.1)).getD default
    let h := ((s.recs.find? (fun r => r.idx == x.1)).bind (·.shadow)).getD 0
    draftItem s h x.2 k (getLe p.entry 0x28 8) (getLe p.entry 0x58 4 + 1 + x.2))
  { s with todo := s.todo ++ [tokOut s items 3], draftQueue := s.draftQueue.drop 512, draftNow := now }

/-- SEQ_COMMIT of a step whose commands have all completed OK (R222, R226). -/
def commitStep (c : Cfg) (i : Nat) (s : SeqSt) : Eng SeqSt := do
  let rq := rqSeq c i s
  let a ← s.parts.foldlM (commitPart c rq) ⟨s, [], [], 0⟩
  applyScales c rq s
  let s1 := { a.s with step := s.step + 1, phase := 2, drops := 0, draftSeqs := if s.detaching then [] else a.drafters
                       todo := a.s.todo ++ a.out }
  eWrite c rq (s.addr 0x50) (mark false (statusBytes s1))
  let prog ← readProgram c rq s
  pure (draftTok (draftPass prog 0 s1))

/-- After a pass's TOK command: its drafts are read, a poisoned record makes its sequence FAILED (R224), and the next items or the next pass follow; when none is left the next step may be built. -/
def collectDrafts (c : Cfg) (i : Nat) (s : SeqSt) : Eng SeqSt := do
  let rq := rqSeq c i s
  let s ← s.draftNow.zipIdx.foldlM (fun (s : SeqSt) (x, k) => do
    let b ← eBytes c rq (s.work + 64 * k) 64
    match s.recs.find? (fun r => r.idx == x.1) with
    | none => pure s
    | some r =>
      if b.2 then do
        let fence := getLe ((s.parts.find? (fun p => p.idx == x.1)).getD default).entry 0x4E 2
        let s ← seqLeave c rq x.1 fence 5 7 true s
        pure { s with draftSeqs := s.draftSeqs.filter (fun y => y.1 != x.1), draftQueue := s.draftQueue.filter (fun y => y.1 != x.1) }
      else if getLe b.1 2 1 = 0 then pure s
      else pure (s.setRec { r with drafts := some (r.drafts.getD [] ++ [getLe b.1 8 4]) })) s
  if s.draftQueue ≠ [] then pure (draftTok { s with draftNow := [] })
  else if s.draftSeqs = [] then pure { s with phase := 0, draftNow := [] }
  else
    let prog ← readProgram c rq s
    let s := draftTok (draftPass prog (s.pass + 1) { s with draftNow := [] })
    pure (if s.draftSeqs = [] then { s with phase := 0 } else s)

/-- Whether nothing of an instance is outstanding. -/
def SeqSt.quiet (s : SeqSt) : Bool := s.todo == [] && s.pend == []

/-- The trace packet of a step of instance `i` that has ended (R509). It is written when the step commits or is dropped, which its bit 2 tells
(DESIGN CHOICE, log 174). -/
def stepPacket (c : Cfg) (i : Nat) (dropped : Bool) (n : Nat) (d : Dev) : Dev :=
  obsEmit c 6 0x60 0 (srcWord 0xF3 0 i) (i % 4 + 4 * b2n dropped + 256 * (n % 2 ^ 24)) [] d

/-- SEQ_COMMIT: the step in flight commits, or the next draft pass follows its predecessor. -/
def seqCommit (c : Cfg) (i : Nat) (d : Dev) : Dev :=
  let s := seqOf d i
  if seqRuns c i d = false ∨ s.quiet = false ∨ s.failed = true then d
  else if s.phase = 1 then
    let d' := seqWork c i (commitStep c i) d
    if (seqOf d' i).step = s.step then d' else stepPacket c i false (s.step + 1) (signal s.fence (s.step + 1) false d')
  else if s.phase = 2 then seqWork c i (collectDrafts c i) d
  else d

/-- SEQ_STEP_BUILD (R209 to R213): after the previous step is committed or dropped and its drafts are ready. -/
def seqBuild (c : Cfg) (i : Nat) (d : Dev) : Dev :=
  let s := seqOf d i
  if seqRuns c i d = false ∨ s.detaching = true ∨ s.quiet = false ∨ s.failed = true then d
  else
    let d := if s.phase = 2 then seqWork c i (collectDrafts c i) d else d
    if (seqOf d i).phase = 0 ∧ (seqOf d i).quiet = true ∧ seqRuns c i d = true then seqWork c i (buildStep c i) d else d

/-- SEQ_STEP_DROP (R223, R225): once every command of a failed step has completed. -/
def seqDrop (c : Cfg) (i : Nat) (d : Dev) : Dev :=
  let s := seqOf d i
  if seqRuns c i d = false ∨ s.failed = false ∨ s.pend ≠ [] then d
  else
    let drops := if s.failedOther then s.drops + 1 else 0
    let halted := decide (2 ≤ drops)
    let d' := seqWork c i (fun s => do
      let s' := { s with
        todo := [], phase := 0, parts := [], failed := false, failedOther := false, step := s.step + 1, dropped := s.dropped + 1
        drops := drops, cycleStep := 0, draftSeqs := [], draftQueue := [], draftNow := [], state := if halted then 2 else 1 }
      eWrite c (rqSeq c i s) (s.addr 0x50) (mark false (statusBytes s'))
      pure s') d
    let d' := if (seqOf d' i).step = s.step then d' else stepPacket c i true (s.step + 1) d'
    if halted ∧ (seqOf d' i).state = 2 then raise (112 + i) d' else d'

/-! ### What other events tell SEQ -/

/-- A command that SEQ wrote has completed: its slots are free; a status other than OK fails the step (R223). -/
def seqDone (x : Cmd) (status : Nat) (i : Nat) (d : Dev) : Dev :=
  let s := seqOf d i
  if s.attached = false ∨ x.ring ≠ s.ring ∨ s.pend.all (fun p => p.index != x.index) then d else
  setSeq d i (fun s => { s with
    pend := s.pend.filter (fun p => p.index != x.index)
    todo := if status = 0 then s.todo else []
    failed := s.failed || status != 0
    failedOther := s.failedOther || (status != 0 && status != 0x16 && status != 0x17) })

/-- The instance's context is LOST: the status block is the last thing it writes (R225). -/
def seqLost (c : Cfg) (ctx i : Nat) (d : Dev) : Dev :=
  let s := seqOf d i
  if s.attached = false ∨ s.ctx ≠ ctx ∨ s.state = 3 then d else
  let s' := { s with state := 3, todo := [], pend := [] }
  let d := setSeq (setInst d (instIdx 14 0 i) (fun s => { s with log := [] })) i (fun _ => s')
  let t := translate c (rqSeq c i s) ctx (s.addr 0x50) true d
  let d := match t.1 with
    | .leaf e => (physWrite c (rqSeq c i s) (leafPa e (s.addr 0x50)) (mark false (statusBytes s')) [] t.2).2
    | .fault .. => t.2
  raise (112 + i) d

/-! ### Attach and detach (R203, R206) -/

/-- SEQ_ATTACH: INSTANCE u8 at 0x00 and the descriptor's physical address u64 at 0x08 of the management payload. -/
def seqAttach (c : Cfg) : Dev → Dev := mgmtRun c 7 (fun _ b d =>
  let i := getLe b 0 1
  if 4 ≤ i ∨ c.submit.mode = 0 ∨ (seqOf d i).attached then .done 0x10 d
  else
    let r := physRead c (rqZero 14) (getLe b 8 8 % 2 ^ 48) 256 [] d
    let s : SeqSt := { (default : SeqSt) with
      attached := true, desc := pdata r.2.1, descPa := getLe b 8 8 % 2 ^ 48, poisoned := ppoison r.2.1, state := 1 }
    let others := ((d.seq.filter (fun s => s.attached)).map (fun s => s.count)).sum
    if r.1 ≠ 0 ∨ seqDescOk s = false ∨ 512 < others + s.count then .done 0x10 r.2.2
    else
      let pools := (List.range 8).map (fun k => getLe (s.model (k / 4)) (0x30 + 4 * (k % 4)) 4)
      let d := setSeq r.2.2 i (fun _ => { s with pools := pools })
      .done 0 (setRing d s.ring (fun r => { r with devWriter := true })))

/-- The pool counts are written back into the descriptor. -/
def writeCounts (c : Cfg) (s : SeqSt) (d : Dev) : Dev :=
  (List.range 8).foldl (fun d k =>
    if k < 4 ∨ s.pony then
      (physWrite c (rqZero 14) (s.descPa + 0x70 + 0x40 * (k / 4) + 0x30 + 4 * (k % 4)) (mark false (leBytes 4 (s.pools.getD k 0))) [] d).2
    else d) d

/-- SEQ_DETACH: it completes once the step in flight has committed or been dropped (R206). -/
def seqDetach (c : Cfg) : Dev → Dev := mgmtRun c 8 (fun _ b d =>
  let i := getLe b 0 1
  let s := seqOf d i
  if 4 ≤ i then .done 0x10 d
  else if s.attached = false then .done 0 d
  else if s.state = 1 ∧ (s.phase = 1 ∨ s.quiet = false ∨ s.failed = true) then .wait (setSeq d i (fun s => { s with detaching := true }))
  else
    let d := setSeq (setInst (writeCounts c s d) (instIdx 14 0 i) (fun s => { s with log := [] })) i (fun _ => default)
    .done 0 (setRing d s.ring (fun r => { r with devWriter := d.seq.any (fun o => o.attached && o.ring == s.ring), foreign := [] })))

end Sys2Proof.Machine
end

