-- ==== Sys2Proof/Machine/Sc.lean ====
section
/-! DEFINITION. Shader cores: admission of blocks (R234 to R242), instruction words and their legality (R259 to R263), issue (R243), registers
(R235, R254, R275), faults (R256 to R258). -/

namespace Sys2Proof.Machine

/-- Change a core. -/
def setCore (k : Nat) (f : Core → Core) (d : Dev) : Dev := { d with cores := upd d.cores k f }

/-- The requester of a core for a command. -/
def rqCore (c : Cfg) (x : Cmd) (k : Nat) : Rq := { rqCmd c x.ctx 4 (k / 6) (k % 6) with serial := some x.serial }

/-! ### Admission -/

/-- The scheduler that takes the next group: fewest resident groups, ties to the lowest; none when it does not fit (R237). -/
def nextSched (used : List (Nat × Nat)) (regs : Nat) : Option Nat :=
  let best := (List.range 4).foldl (fun b s => if (used.getD s (0, 0)).1 < (used.getD b (0, 0)).1 then s else b) 0
  let u := used.getD best (0, 0)
  if u.1 < 12 ∧ u.2 + regs * 128 ≤ 65536 then some best else none

/-- Groups and register bytes in use on each scheduler. -/
def schedUse (k : Core) : List (Nat × Nat) :=
  (List.range 4).map (fun s =>
    let g := k.groups.filter (fun g => g.sched == s)
    (g.length, (g.map (fun g => g.regs * 128)).sum))

/-- Schedulers for `n` groups placed in turn. -/
def placeGroups (regs : Nat) : Nat → List (Nat × Nat) → Option (List Nat)
  | 0, _ => some []
  | n + 1, used =>
    match nextSched used regs with
    | none => none
    | some s =>
      (placeGroups regs n (used.modify s (fun u => (u.1 + 1, u.2 + regs * 128)))).map (fun l => s :: l)

/-- First-fit local memory (R237). -/
def firstFit (k : Core) (size : Nat) : Option Nat :=
  if size = 0 then some 0 else
  let used := k.blocks.filter (fun b => b.size != 0)
  let ok := fun (lo : Nat) => decide (lo + size ≤ 131072) && used.all (fun b => decide (lo + size ≤ b.lo) || decide (b.lo + b.size ≤ lo))
  let cand := 0 :: used.map (fun b => b.lo + b.size)
  (cand.filter ok).foldl (fun m lo => match m with
    | some x => some (Nat.min x lo)
    | none => some lo) none

/-- Whether a core may hold work of a context (R238). -/
def coreTakesCtx (k : Core) (ctx : Nat) : Bool := k.blocks.all (fun b => b.ctx == ctx)

/-- Where a block of `n` groups fits on a core: schedulers and local address. -/
def fits (k : Core) (ctx n regs size : Nat) (slot : Bool) : Option (List Nat × Nat) :=
  if coreTakesCtx k ctx && (!slot || decide ((k.blocks.filter (·.slot)).length < 16)) then
    match placeGroups regs n (schedUse k), firstFit k size with
    | some s, some lo => some (s, lo)
    | _, _ => none
  else none

/-- Words of open values, from the model's count. -/
def takeFree (n : Nat) (d : Dev) : Nat × Dev := (d.freeCount, { d with freeCount := d.freeCount + n })

/-- A group at its first instruction. -/
def newGrp (serial kind blk block no sched regs base pc : Nat) (v0 : List Nat) (uni : List (Nat × Bool)) (live : List Bool) (order : Nat) : Grp :=
  { (default : Grp) with
    serial := serial, kind := kind, blk := blk, block := block, no := no, sched := sched, regs := regs, base := base
    vregs := v0.zipIdx.map (fun (v, i) => (i, ⟨v % 2 ^ 32, false, true⟩))
    preds := List.replicate 8 0, predMarks := List.replicate 8 0
    uni := uni.zipIdx.foldl (fun a (v, i) => aset a i ⟨v.1 % 2 ^ 32, v.2, v.1 % 2 ^ 32 != 0 || v.2⟩) []
    pc := List.replicate 32 (pc % 2 ^ 48), st := live.map (fun b => if b then 0 else 1), bar := List.replicate 32 0
    lock := List.replicate 32 0, order := order }

/-- Before the first block of another context than its last one, and before its first block after start or power-up, a core zeroes its register files
and its local memory (R255). -/
def takeCore (k ctx : Nat) (d : Dev) : Dev :=
  if (coreOf d k).prevCtx = some ctx then d
  else chipWrite (k / 6) 4 (bufLoc (k % 6)) (2 ^ 56)
    (setCore k (fun s => { s with prevCtx := some ctx, mem := [], memPoison := [], left := [] }) d)

/-- Put a block and its groups on a core that is zeroed for its context; within a context nothing is cleared (R254). -/
def putBlock (b : CoreBlk) (gs : List Grp) (k : Core) : Core :=
  { k with
    blocks := k.blocks ++ [b], groups := k.groups ++ gs.map (fun g => { g with left := k.left }), nextId := k.nextId + 1 }

/-- Groups leave a core: what they wrote stays in its register files (R254). -/
def dropGroups (stay : Grp → Bool) (k : Core) : Core :=
  let gone := k.groups.filter (fun g => !stay g)
  { k with
    groups := k.groups.filter stay
    left := (gone.flatMap (fun g => g.vregs.map (·.2))).foldl (fun l v => if l.contains v then l else l ++ [v]) k.left }

/-- Note that a core works for a command. -/
def coreBusy (k : Nat) (x : Cmd) (d : Dev) : Dev :=
  setInst d (coreInst k) (fun s => if s.run.isSome then s else { s with run := some ⟨x.serial, x.ring, x.ctx, 0, d.phe.tb, none, false, 0, [], false, false⟩ })

/-- A core with nothing resident is idle. -/
def coreIdle (k : Nat) (d : Dev) : Dev :=
  if (coreOf d k).blocks = [] then
    let d := setInst d (coreInst k) (fun s => { s with run := none, lastCtx := (coreOf d k).prevCtx })
    { d with pwr := { d.pwr with lastBusy := d.pwr.lastBusy.set (k / 6) d.phe.tb } }
  else d

/-! ### Dispatches (R239 to R242) -/

/-- The fields of a dispatch descriptor that set its shape: REGS, LOCAL_BYTES, block and grid. -/
def dispRegs (b : List Byte) : Nat := getLe b 2 2
/-- LOCAL_BYTES. -/
def dispLocal (b : List Byte) : Nat := getLe b 4 4
/-- Threads of a block. -/
def dispThreads (b : List Byte) : Nat := getLe b 8 2 * getLe b 0xA 2 * getLe b 0xC 2

/-- Whether a REGS field is in range. -/
def regsOk (r : Nat) : Bool := inRange r 8 256 && r % 8 == 0

/-- The checks of R241. -/
def dispOk (b : List Byte) : Bool :=
  getLe b 0 1 == 1 && regsOk (dispRegs b) && decide (dispLocal b ≤ 131072) && dispLocal b % 256 == 0 &&
    inRange (getLe b 8 2) 1 1024 && inRange (getLe b 0xA 2) 1 1024 && inRange (getLe b 0xC 2) 1 64 &&
    inRange (getLe b 0x10 4) 1 2147483647 && inRange (getLe b 0x14 4) 1 65535 && inRange (getLe b 0x18 4) 1 65535 &&
    decide (getLe b 0x1C 4 ≤ 56) && getLe b 0x20 8 % 128 == 0 && (getLe b 0x1C 4 == 0 || getLe b 0x28 8 % 4 == 0) &&
    inRange (dispThreads b) 1 1024 &&
    (fits default 0 (ceilDiv (dispThreads b) 32) (dispRegs b) (dispLocal b) true).isSome

/-- The checked dispatch of a command. -/
def dispOf (d : Dev) (serial : Nat) : Option Disp := d.disp.find? (fun x => x.serial == serial)

/-- The core that takes a dispatch's next block: the lowest allowed that admits it (R240); for one not yet checked, the lowest allowed. -/
def takerSc (c : Cfg) (d : Dev) (x : Cmd) : Option Nat :=
  match dispOf d x.serial with
  | none => (allowedSet c d x).head?
  | some p =>
    if p.total ≤ p.next then none
    else (allowedSet c d x).find? (fun n =>
      (fits (coreOf d (coreIdx x.entry.quarter n)) x.ctx (ceilDiv (dispThreads p.desc) 32) (dispRegs p.desc) (dispLocal p.desc) true).isSome)

/-- A command of a queue ends without further units. -/
def finishUnits (x : Cmd) (status : Nat) (d : Dev) : Dev :=
  let d := setCmd d x.serial (fun x => { x with status := status, unitsLeft := [], unitsRunning := 0, units := some 0, phase := .finished })
  retireToken x d

/-- SC_DISPATCH: the dispatch that quarter `q`'s queue would take from next is read and checked. -/
def scDispatch (c : Cfg) (q : Nat) (d : Dev) : Dev :=
  let p := pickLane c (takerSc c) (16 + q) d
  match p.1.bind (laneHead p.2 (16 + q)) with
  | none => d
  | some x =>
    match (allowedSet c p.2 x).head? with
    | none => d
    | some n =>
      let rq := rqCore c x (coreIdx q n)
      if (dispOf d x.serial).isSome || unitStalled d rq || faulted d then d else
      match runEng (ePayload c rq x.entry.payload 128) p.2 with
      | (.ok b, d) =>
        if dispOk b then
          let total := getLe b 0x10 4 * getLe b 0x14 4 * getLe b 0x18 4
          setCmd { d with disp := d.disp ++ [⟨x.serial, b, 0, total⟩] } x.serial (fun x => { x with units := some total, unitsLeft := [0] })
        else finishUnits x 0x10 d
      | (.error .stall, d) => d
      | (.error (.fail st), d) => finishUnits x st d
      | (.error .invalid, d) => finishUnits x 0x10 d

/-- The uniform words at UNIFORM_ADDR, each with its mark. -/
def readUniforms (c : Cfg) (rq : Rq) (addr n : Nat) : Eng (List (Nat × Bool)) :=
  (List.range n).mapM (fun i => do
    let w ← eRead c rq (addr + 4 * i) 4
    pure (leNat (pdata w), ppoison w))

/-- V0 of a compute thread (R242). -/
def threadIndex (bx byy t : Nat) : Nat := t % bx + ((t / bx) % byy) * 1024 + (t / (bx * byy)) * 2 ^ 20

/-- The groups of a block of `n` threads. -/
def blockGroups (x : Cmd) (kind blk block n regs base pc : Nat) (scheds : List Nat) (v0 : Nat → Nat) (uni : Nat → List (Nat × Bool))
    (order : Nat) : List Grp :=
  scheds.zipIdx.map (fun (s, g) =>
    newGrp x.serial kind blk block g s regs (base + g * regs * 32) pc ((List.range 32).map (fun l => v0 (32 * g + l))) (uni g)
      ((List.range 32).map (fun l => decide (32 * g + l < n))) (order + g))

/-- BLOCK_ADMIT of quarter `q`: the lowest allowed core that can admits the next block of the dispatch at the chosen lane's head
(R237 to R242). -/
def blockAdmit (c : Cfg) (q : Nat) (d : Dev) : Dev :=
  let p := pickLane c (takerSc c) (16 + q) d
  match p.1.bind (laneHead p.2 (16 + q)) with
  | none => d
  | some x =>
    match dispOf p.2 x.serial, takerSc c p.2 x with
    | some ds, some n =>
      let k := coreIdx q n
      let rq := rqCore c x k
      if unitStalled d rq || faulted d then d else
      let b := ds.desc
      match runEng (readUniforms c rq (getLe b 0x28 8) (getLe b 0x1C 4)) p.2 with
      | (.error .stall, d) => d
      | (.error (.fail st), d) => finishUnits x st d
      | (.error .invalid, d) => finishUnits x 0x10 d
      | (.ok us, d) =>
        let core := coreOf d k
        match fits core x.ctx (ceilDiv (dispThreads b) 32) (dispRegs b) (dispLocal b) true with
        | none => d
        | some (scheds, lo) =>
          let f := takeFree (scheds.length * dispRegs b * 32) d
          let d := takeCore k x.ctx f.2
          let i := ds.next
          let gx := getLe b 0x10 4
          let gy := getLe b 0x14 4
          let arg := getLe b 0x30 8
          let uni := fun (g : Nat) =>
            ([i % gx, (i / gx) % gy, i / (gx * gy), g, arg % 2 ^ 32, arg / 2 ^ 32, i % 2 ^ 32, 0].map (fun v => (v, false))) ++ us
          let blk : CoreBlk := ⟨core.nextId, x.serial, x.ring, x.ctx, 0, i, lo, dispLocal b, true, d.phe.tb, 0⟩
          let gs := blockGroups x 0 core.nextId i (dispThreads b) (dispRegs b) f.1 (getLe b 0x20 8) scheds
            (threadIndex (getLe b 8 2) (getLe b 0xA 2)) uni core.nextId
          let d := obsCount 0x24 q n (some x.ctx) 1 (coreBusy k x (setCore k (putBlock blk gs) d))
          let last := ds.total ≤ i + 1
          let d := { d with disp := d.disp.map (fun e => if e.serial = x.serial then { e with next := i + 1 } else e) }
          let d := setCmd d x.serial (fun x => { x with
            unitsRunning := x.unitsRunning + 1, unitsLeft := if last then [] else [0], ran := true, instNo := 8 * q + n })
          if last then retireToken x d else d
    | _, _ => d

/-- After a change of a core's blocks, its instance names a command that it still holds, or is idle. -/
def coreSync (k : Nat) (d : Dev) : Dev :=
  match (coreOf d k).blocks with
  | [] => coreIdle k d
  | b :: rest =>
    let r := (instOf d (coreInst k)).run.getD ⟨b.serial, b.ring, b.ctx, 0, b.tb, none, false, 0, [], false, false⟩
    if r.stopTb.isSome || (b :: rest).any (fun x => x.serial == r.serial) then
      setInst d (coreInst k) (fun s => { s with run := some r })
    else setInst d (coreInst k) (fun s => { s with run := some { r with serial := b.serial, ring := b.ring, ctx := b.ctx, tb := b.tb } })

/-- Remove everything of a command from the cores. -/
def clearCores (serial : Nat) (d : Dev) : Dev :=
  let held := (List.range 24).filter (fun k => (coreOf d k).blocks.any (fun b => b.serial == serial))
  let d := { d with
    disp := d.disp.filter (fun e => e.serial != serial)
    cores := d.cores.map (fun k => dropGroups (fun g => g.serial != serial) { k with blocks := k.blocks.filter (fun b => b.serial != serial) }) }
  held.foldl (fun d k => coreSync k d) d

/-! ### Faults (R256, R258) -/

/-- Record a fault of a core. -/
def recordFault (k : Nat) (f : ScFault) (d : Dev) : Dev :=
  setCore k (fun s => { s with
    fault := if s.fault.valid then { s.fault with overflow := satInc 255 s.fault.overflow } else f }) d

/-- A group faults: it is recorded, every group of its command stops, and the command completes with the code. -/
def scFault (c : Cfg) (k : Nat) (g : Grp) (code pc mask addr : Nat) (d : Dev) : Dev :=
  match cmdOf d g.serial with
  | none => d
  | some x =>
    let a := if (3 ≤ code ∧ code ≤ 4) ∨ 7 ≤ code then addr else 0
    let d := recordFault k ⟨true, 0, x.ctx, code, pc, g.block % 2 ^ 32, g.no, mask, a⟩ d
    let d := obsEmit c 3 0x32 0 (srcWord 4 (k / 6) (k % 6)) (code + x.ctx * 256) [] d
    endCmd c x code (clearCores x.serial d)

/-- Program counter and mask of a group's issuing set; none when no thread is eligible. -/
def issuing (g : Grp) : Option (Nat × Nat) :=
  let el := (List.range 32).filter (fun l => g.st.getD l 1 == 0)
  match el with
  | [] => none
  | l0 :: _ =>
    let pc := el.foldl (fun m l => Nat.min m (g.pc.getD l 0)) (g.pc.getD l0 0)
    some (pc, maskOf (el.filter (fun l => g.pc.getD l 0 == pc)))

/-- The expired commands of a device. -/
def expiredOf (d : Dev) : List Cmd := (d.fe.rings.flatMap (fun p => p.2.cmds)).filter (·.expired)

/-- The records of the cores that hold a command of `d` which has expired or completed since in `r`: its lowest resident group there (R257, R258). -/
def timeoutRecords (was : List Cmd) (d r : Dev) : Dev :=
  was.foldl (fun r x =>
    (List.range 24).foldl (fun r k =>
      match (coreOf d k).groups.find? (fun g => g.serial == x.serial) with
      | none => r
      | some g =>
        let i := (issuing g).getD (0, 0)
        recordFault k ⟨true, 0, x.ctx, 0x0A, i.1, g.block % 2 ^ 32, g.no, i.2, 0⟩ r) r) r

/-- The commands of `d` that are dispatched and not expired there, and have expired in `r`: they still drain, or completed TIMEOUT. -/
def newlyExpired (d r : Dev) : List Cmd :=
  (d.fe.rings.flatMap (fun p => p.2.cmds)).filter (fun x =>
    x.phase == .dispatched && !x.expired &&
      ((expiredOf r).any (fun y => y.serial == x.serial) ||
        r.notes.any (fun n => match n with
          | .done y st => y.serial == x.serial && st == 0x0A
          | _ => false)))

/-- COMMAND_TIMEOUT with the records of the cores that hold the expired commands. -/
def commandTimeoutSc (c : Cfg) (ring index : Nat) (d : Dev) : Dev :=
  let r := commandTimeout c ring index d
  timeoutRecords (newlyExpired d r) d r

/-- WAIT_TIMEOUT with those of the command timeouts that are due in the same check. -/
def waitTimeoutSc (c : Cfg) (ring : Nat) (d : Dev) : Dev :=
  let r := waitTimeout c ring d
  timeoutRecords (newlyExpired d r) d r

/-- DRAIN_LIMIT_EXPIRY of a shader core also ends every block resident on it (R257). -/
def drainLimitSc (c : Cfg) (cls q i : Nat) (d : Dev) : Dev :=
  let d := drainLimit c cls q i d
  if cls = 4 ∧ (instOf d (instIdx 4 q i)).resetEnd.isSome = true then
    setCore (coreIdx q i) (fun s => dropGroups (fun _ => false) { s with blocks := [] }) d
  else d

/-- SC_FAULT_CLEAR (R258). -/
def scFaultClear (q n v : Nat) (d : Dev) : Dev :=
  if bit v 31 && (d.clk.domains.getD (domainOf 4 q n) 0 == 1) then setCore (coreIdx q n) (fun s => { s with fault := default }) d else d

/-! ### Instruction words (R259 to R263) -/

/-- The fields of an instruction word. -/
structure Ins where
  op : Nat
  imm : Bool
  ge : Bool
  gn : Bool
  gp : Nat
  md : Nat
  d : Nat
  a : Nat
  b : Nat
  c : Nat
  au : Bool
  bu : Bool
  cu : Bool
  rsv : Bool
  ps : Nat
  x : Nat
  iv : Nat
deriving DecidableEq, Repr, Inhabited

/-- Decode a word (R260). In format I the flags and B, C are absent; PS and X keep their places for XLANE. -/
def decodeIns (w : Nat) : Ins :=
  let i := bit w 55
  { op := bits w 63 56, imm := i, ge := bit w 54, gn := bit w 53, gp := bits w 52 50, md := bits w 49 48, d := bits w 47 40
    a := bits w 39 32, b := if i then 0 else bits w 31 24, c := if i then 0 else bits w 23 16
    au := !i && bit w 15, bu := !i && bit w 14, cu := !i && bit w 13, rsv := !i && bit w 12
    ps := bits w 11 9, x := bits w 8 0, iv := bits w 31 0 }

/-- Encode the fields of a word: the inverse of `decodeIns` (R260). -/
def encodeIns (i : Ins) : Nat :=
  i.op * 2 ^ 56 + b2n i.imm * 2 ^ 55 + b2n i.ge * 2 ^ 54 + b2n i.gn * 2 ^ 53 + i.gp * 2 ^ 50 + i.md * 2 ^ 48 + i.d * 2 ^ 40 + i.a * 2 ^ 32 +
    (if i.imm then i.iv
     else i.b * 2 ^ 24 + i.c * 2 ^ 16 + b2n i.au * 2 ^ 15 + b2n i.bu * 2 ^ 14 + b2n i.cu * 2 ^ 13 + b2n i.rsv * 2 ^ 12 + i.ps * 2 ^ 9 + i.x)

/-- Whether an opcode is assigned (R280 and the tables of 09). -/
def opAssigned (op : Nat) : Bool :=
  decide (op ≤ 0x15) || inRange op 0x20 0x2F || inRange op 0x30 0x33 || op == 0x38 || op == 0x39 || inRange op 0x40 0x46 ||
    inRange op 0x48 0x4C || inRange op 0x50 0x56 || inRange op 0x58 0x5C || op == 0x60 || op == 0x61 || op == 0x64 ||
    inRange op 0x70 0x73 || inRange op 0x78 0x7A || inRange op 0x7C 0x7E || inRange op 0x80 0x83

/-- What an opcode uses: destination registers (`dst` words, or a predicate), words of A, B and C, whether an immediate form is shown (0
none, 1 shown, 2 the only form), legal MOD values, PS, X codes, a guard. -/
structure Shape where
  dst : Nat
  pred : Bool
  a : Nat
  b : Nat
  c : Nat
  imm : Nat
  md : Nat → Bool
  ps : Bool
  x : Nat → Bool
  guard : Bool
  uni : Bool

/-- A source of `n` words in its range: vector registers up to V255, uniform registers up to U63. -/
def srcOk (n field : Nat) (u : Bool) : Bool :=
  if n = 0 then field == 0 && !u
  else if u then decide (field + n ≤ 64) else decide (field + n ≤ 256)

/-- The conditions of R263 that every opcode shares. -/
def shapeOk (s : Shape) (i : Ins) : Bool :=
  s.md i.md && (if i.imm then s.imm != 0 else s.imm != 2) && !i.rsv &&
    (s.guard || (!i.ge && !i.gn && i.gp == 0)) &&
    (if s.pred then decide (i.d < 8) else if s.dst = 0 then i.d == 0 else decide (i.d + s.dst ≤ 256)) &&
    srcOk s.a i.a i.au && (i.imm || (srcOk s.b i.b i.bu && srcOk s.c i.c i.cu && (s.ps || i.ps == 0) && s.x i.x)) &&
    (s.uni || (!i.au && !i.bu && !i.cu))

/-- The shape of an opcode with a destination of one word and no modifiers. -/
def plain (a b c imm : Nat) : Shape := ⟨1, false, a, b, c, imm, (· == 0), false, (· == 0), true, true⟩

/-! ### Registers (R235, R254, R275) -/

/-- A vector register's word and mark in a lane. One that its thread has not written holds zero or a word left by earlier work of the context: which
of them, no rule says (R254). -/
def rdV (g : Grp) (r lane : Nat) : Nat × Bool :=
  if g.regs ≤ r then (0, false)
  else
    let x := aget g.vregs (r * 32 + lane)
    if x.written then (x.val, x.marked)
    else match g.left with
      | [] => (0, false)
      | l =>
        let y := ((default : RegVal) :: l).getD ((Config.freeValue (g.base + r * 32 + lane)).toNat % (l.length + 1)) default
        (y.val, y.marked)

/-- Write a vector register's word; registers at or above REGS ignore it. -/
def wrV (r lane v : Nat) (m : Bool) (g : Grp) : Grp :=
  if g.regs ≤ r then g else { g with vregs := aset g.vregs (r * 32 + lane) ⟨v % 2 ^ 32, m, true⟩ }

/-- A uniform register. -/
def rdU (g : Grp) (r : Nat) : Nat × Bool := let x := aget g.uni r; (x.val, x.marked)

/-- Write a uniform register. -/
def wrU (r v : Nat) (m : Bool) (g : Grp) : Grp :=
  { g with uni := aset g.uni r (if v % 2 ^ 32 = 0 ∧ m = false then default else ⟨v % 2 ^ 32, m, true⟩) }

/-- A predicate in a lane, with its mark. -/
def rdP (g : Grp) (p lane : Nat) : Bool × Bool := (bit (g.preds.getD p 0) lane, bit (g.predMarks.getD p 0) lane)

/-- Write a predicate in a lane. -/
def wrP (p lane : Nat) (v m : Bool) (g : Grp) : Grp :=
  { g with preds := g.preds.modify p (fun x => putBit x lane v), predMarks := g.predMarks.modify p (fun x => putBit x lane m) }

/-- `n` words of a source from field `f`. -/
def rdSrc (g : Grp) (u : Bool) (f n lane : Nat) : List Nat × Bool :=
  let l := (List.range n).map (fun j => if u then rdU g (f + j) else rdV g (f + j) lane)
  (l.map (·.1), l.any (·.2))

/-- The B operand of `n` words: the immediate in format I. -/
def rdB (g : Grp) (i : Ins) (n lane : Nat) : List Nat × Bool :=
  if i.imm then ([i.iv], false) else rdSrc g i.bu i.b n lane

/-- Whether a lane's guard holds, and its mark (R261). -/
def guardOf (g : Grp) (i : Ins) (lane : Nat) : Bool × Bool :=
  if i.ge then
    let p := rdP g i.gp lane
    (p.1 != i.gn, p.2)
  else (true, false)

/-! ### Issue (R243) -/

/-- Lanes of a mask. -/
def lanes (m : Nat) : List Nat := onesBelow 32 m

/-- Move the program counter of the lanes of a mask. -/
def setPc (m : Nat) (f : Nat → Nat) (g : Grp) : Grp :=
  { g with pc := g.pc.zipIdx.map (fun (p, l) => if bit m l then f l % 2 ^ 48 else p) }

/-- Advance the issuing set. -/
def nextPc (pc m : Nat) (g : Grp) : Grp := setPc m (fun _ => pc + 8) g

/-- Replace a group of a core, found by block and number. -/
def setGrp (k : Nat) (g : Grp) (d : Dev) : Dev :=
  setCore k (fun s => { s with groups := s.groups.map (fun h => if h.blk = g.blk ∧ h.no = g.no ∧ h.order = g.order then g else h) }) d

/-- What an instruction does at an issue: the device after it, or a fault code with its address, or nothing yet. -/
inductive Issue where
  | ok (d : Dev)
  | fault (code addr : Nat) (d : Dev)
  | wait (d : Dev)

/-- What is known at an issue. -/
structure IssueCtx where
  k : Nat
  g : Grp
  x : Cmd
  rq : Rq
  i : Ins
  pc : Nat
  mask : Nat
deriving Inhabited

/-- The lanes that perform the instruction. -/
def IssueCtx.act (s : IssueCtx) : List Nat := (lanes s.mask).filter (fun l => (guardOf s.g s.i l).1)

/-- The word at a program counter, read as an instruction fetch (R390). -/
def fetchWord (c : Cfg) (rq : Rq) (pc : Nat) : Eng Nat := do
  let b ← partsDone (virtRead c rq (rq.ctx.getD 0) pc 8 8 (← get))
  pure (leNat (pdata b))

/-- Mark the words from word `w` on, `n` of them, in the register file that these groups fill in their order. -/
def markFile (w n : Nat) : List Grp → List Grp
  | [] => []
  | g :: rest =>
    let size := g.regs * 32
    if w < size then
      ((List.range n).foldl (fun g i =>
        if w + i < size then
          let v := rdV g ((w + i) / 32) ((w + i) % 32)
          { g with vregs := aset g.vregs (w + i) ⟨v.1, true, true⟩ }
        else g) g) :: rest
    else g :: markFile (w - size) n rest

/-- A core reads its register files and local memory as it issues: a byte in error is corrected and counted; an uncorrectable error marks the registers
or the local sector that it lies in (R275, R421). Array 4 of a core is its local memory, arrays 0 to 3 its schedulers' register files, which
their groups fill in order of admission (DESIGN CHOICE, log 168). -/
def coreErrors (k : Nat) (d : Dev) : Dev :=
  let r := chipRead (k / 6) 4 (bufLoc (k % 6)) (2 ^ 56) d
  r.1.foldl (fun d s =>
    let a := s * 32 / 2 ^ 48 % 256
    let o := s * 32 % 2 ^ 32
    if a = 4 then setCore k (fun m => { m with memPoison := aset m.memPoison (o / 32) true }) d
    else
      let mine := fun (g : Grp) => g.sched == a
      setCore k (fun m =>
        let marked := markFile (o / 4) 8 (m.groups.filter mine)
        { m with groups := m.groups.map (fun g =>
          if mine g then (marked.find? (fun h => h.blk == g.blk && h.no == g.no && h.order == g.order)).getD g else g) }) d) r.2

/-- Issue the instruction at a group's lowest program counter when it is one of `mine`: legality is checked whatever the guard (R263). A word
with a reserved opcode faults in every row. -/
def issue (c : Cfg) (q n gi : Nat) (mine : Ins → Bool) (legal : Ins → Bool) (body : IssueCtx → Dev → Issue) (d : Dev) : Dev :=
  let k := coreIdx q n
  let e := coreErrors k d
  match (coreOf e k).groups[gi]? with
  | none => d
  | some g =>
    match issuing g, cmdOf d g.serial with
    | some (pc, mask), some x =>
      let rq := rqCore c x k
      let held := g.rays.any (fun r => bit mask r.lane) || (lanes mask).any (fun l => g.lock.getD l 0 == 1)
      if held || unitStalled d rq || faulted d || x.expired || (ctxOf d x.ctx).state != 1 || !unitUp d 4 q n then d else
      match runEng (fetchWord c rq pc) e with
      | (.error .stall, d) => d
      | (.error (.fail st), d) => scFault c k g st pc mask pc d
      | (.error .invalid, d) => d
      | (.ok w, d1) =>
        let i := decodeIns w
        if opAssigned i.op = false then scFault c k g 5 pc mask 0 d1
        else if mine i = false then d
        else if legal i = false then scFault c k g 5 pc mask 0 d1
        else
          match body ⟨k, g, x, rq, i, pc, mask⟩ d1 with
          | .ok d => obsCount 0x20 q n (some x.ctx) 1 d
          | .wait d => d
          | .fault code addr d => scFault c k g code pc mask addr d
    | _, _ => d

/-! ### Operations of one lane -/

/-- What one lane gives an operation: words of A, B and C, the predicate operand, its lane. -/
structure LaneIn where
  a : List Nat
  b : List Nat
  c : List Nat
  ps : Bool
  lane : Nat
deriving Inhabited

/-- Perform a lane-by-lane operation: all operands are read before any result is written; marks follow R275. -/
def perform (s : Shape) (f : Ins → LaneIn → List Nat) (t : IssueCtx) (d : Dev) : Issue :=
  let i := t.i
  let out := t.act.map (fun l =>
    let a := rdSrc t.g i.au i.a s.a l
    let b := if s.b = 0 ∧ i.imm = false then ([], false) else rdB t.g i s.b l
    let c := if i.imm then ([], false) else rdSrc t.g i.cu i.c s.c l
    let p := if s.ps then rdP t.g i.ps l else (false, false)
    let used := s.ps && (i.op != 0x11 && i.op != 0x25 || bits i.x 5 4 != 0)
    (l, f i ⟨a.1, b.1, c.1, p.1, l⟩, a.2 || b.2 || c.2 || (used && p.2) || (guardOf t.g i l).2))
  let g := out.foldl (fun g (l, vs, m) =>
    if s.pred then wrP i.d l (vs.getD 0 0 != 0) m g
    else vs.zipIdx.foldl (fun g (v, j) => wrV (i.d + j) l v m g) g) t.g
  .ok (setGrp t.k (nextPc t.pc t.mask g) d)

/-- A lane-by-lane opcode as a row: issue, check, perform. -/
def laneOp (c : Cfg) (op q n gi : Nat) (s : Shape) (more : Ins → Bool) (f : Ins → LaneIn → List Nat) : Dev → Dev :=
  issue c q n gi (fun i => i.op == op) (fun i => shapeOk s i && more i) (perform s f)

end Sys2Proof.Machine
end

