-- ==== Sys2Proof/Machine/ScAlu.lean ====
section
/-! DEFINITION. Lane-by-lane instructions of the shader cores: integer (R265), floating point (R266 to R268), L16 (R269), conversions (R270,
R271). Each row names a quarter `q`, a core `n` and a group's place `gi` on the core; it issues that group's next instruction when that is
its own. -/

namespace Sys2Proof.Machine

/-! ### Integer operations on words (R265) -/

/-- Low 32 bits. -/
def w32 (x : Nat) : Nat := x % 2 ^ 32

/-- A + B by MOD. -/
def iadd (md a b : Nat) : Nat :=
  if md = 1 then
    let s := toSigned 32 a + toSigned 32 b
    ofSigned 32 (if s < -(2 ^ 31) then -(2 ^ 31) else if 2 ^ 31 - 1 < s then 2 ^ 31 - 1 else s)
  else if md = 2 then Nat.min (2 ^ 32 - 1) (a + b)
  else w32 (a + b)

/-- A − B by MOD. -/
def isub (md a b : Nat) : Nat :=
  if md = 1 then
    let s := toSigned 32 a - toSigned 32 b
    ofSigned 32 (if s < -(2 ^ 31) then -(2 ^ 31) else if 2 ^ 31 - 1 < s then 2 ^ 31 - 1 else s)
  else if md = 2 then a - b
  else w32 (a + 2 ^ 32 - b)

/-- Bits of A × B by MOD. -/
def imul (md a b : Nat) : Nat :=
  if md = 1 then ofSigned 32 ((toSigned 32 a * toSigned 32 b) / (2 ^ 32 : Int))
  else if md = 2 then a * b / 2 ^ 32
  else w32 (a * b)

/-- min or max by MOD. -/
def iminmax (max : Bool) (md a b : Nat) : Nat :=
  let lt := if md = 0 then decide (toSigned 32 a < toSigned 32 b) else decide (a < b)
  if lt != max then a else b

/-- A << B[7:0]. -/
def ishl (a b : Nat) : Nat := if 32 ≤ b % 256 then 0 else w32 (a * 2 ^ (b % 256))

/-- A >> B[7:0] by MOD. -/
def ishr (md a b : Nat) : Nat :=
  let n := b % 256
  if md = 0 then (if 32 ≤ n then 0 else a / 2 ^ n)
  else ofSigned 32 (toSigned 32 a / (2 ^ (Nat.min n 31) : Int))

/-- Leading zeros. -/
def iclz (a : Nat) : Nat := if a = 0 then 32 else 31 - Nat.log2 a

/-- Bits reversed. -/
def ibrev (a : Nat) : Nat := maskOf ((onesBelow 32 a).map (fun i => 31 - i))

/-- Length of a bit field: 0 stands for 32. -/
def fieldLen (b : Nat) : Nat := if bits b 12 8 = 0 then 32 else bits b 12 8

/-- BFE. -/
def ibfe (md a b : Nat) : Nat :=
  let v := (a / 2 ^ bits b 4 0) % 2 ^ fieldLen b
  if md = 1 then ofSigned 32 (toSigned (fieldLen b) v) else v

/-- BFI: bits of C outside the field are kept. -/
def ibfi (a b c : Nat) : Nat :=
  let inField := fun (i : Nat) => decide (bits b 4 0 ≤ i) && decide (i < bits b 4 0 + fieldLen b)
  maskOf ((List.range 32).filter (fun i => if inField i then bit a (i - bits b 4 0) else bit c i))

/-- A comparison code of ICMP on words. -/
def icmp (code : Nat) (unsigned : Bool) (a b : Nat) : Bool :=
  let lt := fun x y => if unsigned then decide (x < y) else decide (toSigned 32 x < toSigned 32 y)
  if code = 0 then a == b else if code = 1 then a != b else if code = 2 then lt a b else if code = 3 then !lt b a
  else if code = 4 then lt b a else !lt a b

/-- Combination with PS by X[5:4]. -/
def combine (k : Nat) (r ps : Bool) : Bool := if k = 1 then r && ps else if k = 2 then r || ps else r

/-- Word `i` of an operand. -/
def wd (l : List Nat) (i : Nat) : Nat := l.getD i 0

section rows
variable (c : Cfg) (q n gi : Nat)

/-- An integer opcode of two operands. -/
def intTwo (op : Nat) (md : Nat → Bool) (f : Nat → Nat → Nat → Nat) : Dev → Dev :=
  laneOp c op q n gi { plain 1 1 0 1 with md := md } (fun _ => true) (fun i t => [f i.md (wd t.a 0) (wd t.b 0)])

/-- An opcode of one operand. -/
def intOne (op : Nat) (f : Nat → Nat) : Dev → Dev :=
  laneOp c op q n gi (plain 1 0 0 0) (fun _ => true) (fun _ t => [f (wd t.a 0)])

/-- NOP. -/
def opNop : Dev → Dev := laneOp c 0x00 q n gi { plain 0 0 0 0 with dst := 0 } (fun _ => true) (fun _ _ => [])
/-- IADD. -/
def opIadd : Dev → Dev := intTwo c q n gi 0x01 (fun m => decide (m ≤ 2)) iadd
/-- ISUB. -/
def opIsub : Dev → Dev := intTwo c q n gi 0x02 (fun m => decide (m ≤ 2)) isub
/-- IMUL. -/
def opImul : Dev → Dev := intTwo c q n gi 0x03 (fun m => decide (m ≤ 2)) imul
/-- IMAD. -/
def opImad : Dev → Dev :=
  laneOp c 0x04 q n gi (plain 1 1 1 0) (fun _ => true) (fun _ t => [w32 (wd t.a 0 * wd t.b 0 + wd t.c 0)])
/-- IMIN. -/
def opImin : Dev → Dev := intTwo c q n gi 0x05 (fun m => decide (m ≤ 1)) (iminmax false)
/-- IMAX. -/
def opImax : Dev → Dev := intTwo c q n gi 0x06 (fun m => decide (m ≤ 1)) (iminmax true)
/-- AND. -/
def opAnd : Dev → Dev := intTwo c q n gi 0x07 (· == 0) (fun _ a b => a &&& b)
/-- OR. -/
def opOr : Dev → Dev := intTwo c q n gi 0x08 (· == 0) (fun _ a b => a ||| b)
/-- XOR. -/
def opXor : Dev → Dev := intTwo c q n gi 0x09 (· == 0) (fun _ a b => a ^^^ b)
/-- SHL. -/
def opShl : Dev → Dev := intTwo c q n gi 0x0A (· == 0) (fun _ a b => ishl a b)
/-- SHR. -/
def opShr : Dev → Dev := intTwo c q n gi 0x0B (fun m => decide (m ≤ 1)) ishr
/-- POPC. -/
def opPopc : Dev → Dev := intOne c q n gi 0x0C (popcount 32)
/-- CLZ. -/
def opClz : Dev → Dev := intOne c q n gi 0x0D iclz
/-- BREV. -/
def opBrev : Dev → Dev := intOne c q n gi 0x0E ibrev
/-- BFE. -/
def opBfe : Dev → Dev :=
  laneOp c 0x0F q n gi { plain 1 1 0 0 with md := fun m => decide (m ≤ 1) } (fun _ => true)
    (fun i t => [ibfe i.md (wd t.a 0) (wd t.b 0)])
/-- BFI. -/
def opBfi : Dev → Dev :=
  laneOp c 0x10 q n gi (plain 1 1 1 0) (fun _ => true) (fun _ t => [ibfi (wd t.a 0) (wd t.b 0) (wd t.c 0)])
/-- ICMP. -/
def opIcmp : Dev → Dev :=
  laneOp c 0x11 q n gi { plain 1 1 0 0 with pred := true, ps := true, x := fun x => decide (bits x 2 0 ≤ 5) && bits x 5 4 != 3 && bits x 8 6 == 0 }
    (fun _ => true)
    (fun i t => [b2n (combine (bits i.x 5 4) (icmp (bits i.x 2 0) (bit i.x 3) (wd t.a 0) (wd t.b 0)) t.ps)])
/-- SEL. -/
def opSel : Dev → Dev :=
  laneOp c 0x12 q n gi { plain 1 1 0 0 with ps := true } (fun _ => true) (fun _ t => [if t.ps then wd t.a 0 else wd t.b 0])
/-- MOV. -/
def opMov : Dev → Dev := laneOp c 0x13 q n gi (plain 0 1 0 1) (fun _ => true) (fun _ t => [wd t.b 0])

/-- UPUT: a uniform register takes A of the lowest thread of the issuing set, when a thread performs it. -/
def opUput : Dev → Dev :=
  issue c q n gi (fun i => i.op == 0x14) (fun i => shapeOk (plain 1 0 0 0) i && decide (i.d ≤ 63)) (fun t d =>
    let l := (lanes t.mask).headD 0
    let a := rdSrc t.g t.i.au t.i.a 1 l
    let m := a.2 || (lanes t.mask).any (fun l => (guardOf t.g t.i l).2)
    let g := if t.act = [] then t.g else wrU t.i.d (wd a.1 0) m t.g
    .ok (setGrp t.k (nextPc t.pc t.mask g) d))

/-- ACLK count of a core since it was powered up (R277). -/
def coreClock (d : Dev) (k : Nat) : Nat := (d.clk.aclk.getD (k / 6) 0 / 1000 - (coreOf d k).clk0) % 2 ^ 64

/-- RDSV. -/
def opRdsv : Dev → Dev :=
  issue c q n gi (fun i => i.op == 0x15)
    (fun i => shapeOk { plain 0 0 0 0 with x := fun x => decide (bits x 3 0 ≤ 4) && bits x 8 4 == 0 } i) (fun t d =>
    let v := fun (l : Nat) =>
      if t.i.x = 0 then l else if t.i.x = 1 then t.mask else if t.i.x = 2 then w32 (coreClock d t.k)
      else if t.i.x = 3 then coreClock d t.k / 2 ^ 32
      else t.k % 6 + t.k / 6 * 8 + t.g.sched * 32
    let g := t.act.foldl (fun g l => wrV t.i.d l (v l) (guardOf t.g t.i l).2 g) t.g
    .ok (setGrp t.k (nextPc t.pc t.mask g) d))

/-! ### Floating point (R266 to R268) -/

/-- The format of a MOD: FP32, FP16, BF16. -/
def fpFmt (md : Nat) : Nat := if md = 0 then 7 else if md = 1 then 5 else 6

/-- The elements of a register under MOD. -/
def fpEls (md w : Nat) : List Nat := if md = 0 then [w] else [w % 2 ^ 16, w / 2 ^ 16]

/-- A register of elements. -/
def fpPack (md : Nat) (l : List Nat) : Nat := if md = 0 then wd l 0 else wd l 0 + wd l 1 * 2 ^ 16

/-- An operand element with its modifiers: absolute value, then negation. -/
def fpIn (md code : Nat) (neg abs : Bool) : FVal :=
  let v := fDecode (fpFmt md) code
  let v := if abs then v.abs else v
  if neg then v.neg else v

/-- Operand elements A, B and C of an instruction, with the modifiers of format R. -/
def fpArgs (i : Ins) (t : LaneIn) : List (FVal × FVal × FVal) :=
  let x := if i.imm then 0 else i.x
  (fpEls i.md (wd t.a 0)).zipIdx.map (fun (a, j) =>
    (fpIn i.md a (bit x 0) (bit x 1), fpIn i.md (wd (fpEls i.md (wd t.b 0)) j) (bit x 2) (bit x 3),
      fpIn i.md (wd (fpEls i.md (wd t.c 0)) j) (bit x 4) false))

/-- An arithmetic opcode: the modifiers that its operands allow are the X bits of `xm`. -/
def fpOp (op b cc imm xm : Nat) (f : Nat → FVal → FVal → FVal → Nat) : Dev → Dev :=
  laneOp c op q n gi { plain 1 b cc imm with md := fun m => decide (m ≤ 2), x := fun x => x &&& (511 - xm) == 0 } (fun _ => true)
    (fun i t => [fpPack i.md ((fpArgs i t).map (fun (x, y, z) => f (fpFmt i.md) x y z))])

/-- FADD. -/
def opFadd : Dev → Dev := fpOp c q n gi 0x20 1 0 1 15 (fun f x y _ => fEncode f (x.add y))
/-- FMUL. -/
def opFmul : Dev → Dev := fpOp c q n gi 0x21 1 0 1 15 (fun f x y _ => fEncode f (x.mul y))
/-- FFMA: one rounding. -/
def opFfma : Dev → Dev := fpOp c q n gi 0x22 1 1 0 31 (fun f x y z => fEncode f ((x.mul y).add z))
/-- FMIN. -/
def opFmin : Dev → Dev := fpOp c q n gi 0x23 1 0 1 15 (fun f x y _ => fEncode f (x.min y))
/-- FMAX. -/
def opFmax : Dev → Dev := fpOp c q n gi 0x24 1 0 1 15 (fun f x y _ => fEncode f (x.max y))
/-- FCMP: in a pair form it holds when it holds for both elements; no source modifiers. -/
def opFcmp : Dev → Dev :=
  laneOp c 0x25 q n gi { plain 1 1 0 0 with
      md := fun m => decide (m ≤ 2), pred := true, ps := true
      x := fun x => decide (bits x 2 0 ≤ 5) && !bit x 3 && bits x 5 4 != 3 && bits x 8 6 == 0 }
    (fun _ => true)
    (fun i t =>
      let r := (fpArgs { i with x := 0 } t).all (fun (x, y, _) => FVal.cmp (bits i.x 2 0) x y)
      [b2n (combine (bits i.x 5 4) r t.ps)])
/-- FRCP. -/
def opFrcp : Dev → Dev := fpOp c q n gi 0x26 0 0 0 3 (fun f x _ _ => fpFunction 0 f x)
/-- FRSQ. -/
def opFrsq : Dev → Dev := fpOp c q n gi 0x27 0 0 0 3 (fun f x _ _ => fpFunction 1 f x)
/-- FSQRT. -/
def opFsqrt : Dev → Dev := fpOp c q n gi 0x28 0 0 0 3 (fun f x _ _ => fpFunction 2 f x)
/-- FEX2. -/
def opFex2 : Dev → Dev := fpOp c q n gi 0x29 0 0 0 3 (fun f x _ _ => fpFunction 3 f x)
/-- FLG2. -/
def opFlg2 : Dev → Dev := fpOp c q n gi 0x2A 0 0 0 3 (fun f x _ _ => fpFunction 4 f x)
/-- FSIN. -/
def opFsin : Dev → Dev := fpOp c q n gi 0x2B 0 0 0 3 (fun f x _ _ => fpFunction 5 f x)
/-- FCOS. -/
def opFcos : Dev → Dev := fpOp c q n gi 0x2C 0 0 0 3 (fun f x _ _ => fpFunction 6 f x)

/-- HDOT4's result: products rounded to FP32, pairwise sums, then C (R268). -/
def hdot4 (fmt : Nat) (a b : List Nat) (acc : Nat) : Nat :=
  let rne := fun (v : FVal) => fDecode 7 (fEncode 7 v)
  let p := (a.zip b).map (fun (x, y) => rne ((fDecode fmt x).mul (fDecode fmt y)))
  let s := rne ((rne ((p.getD 0 .nan).add (p.getD 1 .nan))).add (rne ((p.getD 2 .nan).add (p.getD 3 .nan))))
  fEncode 7 (s.add (fDecode 7 acc))

/-- HDOT4. -/
def opHdot4 : Dev → Dev :=
  laneOp c 0x2D q n gi { plain 2 2 1 0 with md := fun m => m == 1 || m == 2 } (fun _ => true)
    (fun i t => [hdot4 (fpFmt i.md) (t.a.flatMap (fpEls i.md)) (t.b.flatMap (fpEls i.md)) (wd t.c 0)])

/-- A compensated opcode: results in D, errors in D + 1. -/
def fpTwo (op : Nat) (f : Nat → Nat → Nat → Nat × Nat) : Dev → Dev :=
  laneOp c op q n gi { plain 1 1 0 0 with dst := 2, md := fun m => decide (m ≤ 2) } (fun _ => true)
    (fun i t =>
      let r := ((fpEls i.md (wd t.a 0)).zip (fpEls i.md (wd t.b 0))).map (fun (a, b) => f (fpFmt i.md) a b)
      [fpPack i.md (r.map (·.1)), fpPack i.md (r.map (·.2))])

/-- FTWOSUM. -/
def opFtwosum : Dev → Dev := fpTwo c q n gi 0x2E (fun f a b => twoSum f (fDecode f a) (fDecode f b))
/-- FTWOPROD. -/
def opFtwoprod : Dev → Dev := fpTwo c q n gi 0x2F (fun f a b => twoProd f a b (fDecode f a) (fDecode f b))

/-! ### L16 (R153, R269) -/

/-- LMUL of two codes: saturating above the range, +0 below it. -/
def l16mul (a b : Nat) : Nat :=
  match lMul (lDecode 2 a) (lDecode 2 b) with
  | .nar => lNar 2
  | .zero => 0
  | .num s l => if l < -16383 then 0 else lam16 s l

/-- LADD of two codes. -/
def l16add (a b : Nat) : Nat :=
  match (lDecode 2 a).value, (lDecode 2 b).value with
  | some x, some y => (roundL 2 (x.add y)).code
  | _, _ => lNar 2

/-- LNEG of a code. -/
def l16neg (a : Nat) : Nat := if a % 2 ^ 15 = 0 then a else a ^^^ 0x8000

/-- Operation on the two codes of a register. -/
def l16Pair (f : Nat → Nat → Nat) (a b : Nat) : Nat := f (a % 2 ^ 16) (b % 2 ^ 16) + f (a / 2 ^ 16) (b / 2 ^ 16) * 2 ^ 16

/-- An L16 opcode of two operands. -/
def l16Two (op : Nat) (f : Nat → Nat → Nat) : Dev → Dev :=
  laneOp c op q n gi (plain 1 1 0 0) (fun _ => true) (fun _ t => [l16Pair f (wd t.a 0) (wd t.b 0)])

/-- LMUL. -/
def opLmul : Dev → Dev := l16Two c q n gi 0x30 l16mul
/-- LADD. -/
def opLadd : Dev → Dev := l16Two c q n gi 0x31 l16add
/-- LSUB. -/
def opLsub : Dev → Dev := l16Two c q n gi 0x32 (fun a b => l16add a (l16neg b))
/-- LNEG. -/
def opLneg : Dev → Dev := intOne c q n gi 0x33 (fun a => l16Pair (fun x _ => l16neg x) a 0)

/-! ### Conversions (R270, R271) -/

/-- Whether a source is one of the 16-bit formats. -/
def cvt16 (f : Nat) : Bool := inRange f 3 5

/-- The X codes of CVT. -/
def cvtX (x : Nat) : Bool := decide (bits x 3 0 ≤ 8) && decide (bits x 7 4 ≤ 8) && (!bit x 8 || cvt16 (bits x 3 0))

/-- The X codes of CVT2. -/
def cvt2X (x : Nat) : Bool := bits x 3 0 == 0 && cvt16 (bits x 7 4) && !bit x 8

/-- CVT. -/
def opCvt : Dev → Dev :=
  laneOp c 0x38 q n gi { plain 1 0 0 0 with md := fun _ => true, x := cvtX }
    (fun i => i.md == 0 || !inRange (bits i.x 7 4) 5 6)
    (fun i t =>
      let f := bits i.x 3 0
      let w := wd t.a 0
      let e := if f ≤ 2 then w else if f ≤ 5 then (if bit i.x 8 then w / 2 ^ 16 else w % 2 ^ 16) else w % 2 ^ 8
      [cvtDest (bits i.x 7 4) i.md (cvtSource f e)])

/-- CVT2. -/
def opCvt2 : Dev → Dev :=
  laneOp c 0x39 q n gi { plain 1 1 0 0 with md := fun _ => true, x := cvt2X }
    (fun i => i.md == 0 || bits i.x 7 4 != 5)
    (fun i t =>
      let f := bits i.x 7 4
      [cvtDest f i.md (cvtSource 2 (wd t.a 0)) + cvtDest f i.md (cvtSource 2 (wd t.b 0)) * 2 ^ 16])

end rows

end Sys2Proof.Machine
end

