-- ==== Sys2Proof/Machine/ScMem.lean ====
section
/-! DEFINITION. Memory instructions of the shader cores (R253, R272 to R275). The lanes of an instruction whose access is made while others stall are
noted in the group, so that a replay repeats nothing. -/

namespace Sys2Proof.Machine

/-- Bytes of a size code of loads (R272). -/
def loadSize (k : Nat) : Nat := if k ≤ 1 then 1 else if k ≤ 3 then 2 else if k = 4 then 4 else if k = 5 then 8 else 16
/-- Bytes of a size code of stores. -/
def storeSize (k : Nat) : Nat := 2 ^ k
/-- Registers of a size. -/
def sizeWords (n : Nat) : Nat := Nat.max 1 (n / 4)

/-- The words that a load of a size code writes: sub-word loads are zero- or sign-extended. -/
def loadWords (k : Nat) (b : List Byte) : List Nat :=
  if k = 1 then [ofSigned 32 (toSigned 8 (leNat b))]
  else if k = 3 then [ofSigned 32 (toSigned 16 (leNat b))]
  else (List.range (sizeWords b.length)).map (fun j => getLe b (4 * j) 4)

/-- The bytes that a store takes from registers. -/
def storeBytes (size : Nat) (ws : List Nat) : List Byte := (ws.flatMap (leBytes 4)).take size

/-- One lane's access: its address, and whether an operand of the address is marked. -/
structure LaneVa where
  lane : Nat
  va : Nat
  marked : Bool

/-- A translated access. -/
structure LanePa where
  lane : Nat
  va : Nat
  pa : Nat
  noalloc : Bool

/-- The virtual address of a lane: the pair A and the sign-extended B or IMM when `off`, modulo 2^48 (R272, R274). -/
def laneVa (t : IssueCtx) (off : Bool) (l : Nat) : LaneVa :=
  let a := rdSrc t.g t.i.au t.i.a 2 l
  let b := if off then rdB t.g t.i 1 l else ([0], false)
  ⟨l, ofSigned 48 (((wd a.1 0 + wd a.1 1 * 2 ^ 32 : Nat) : Int) + toSigned 32 (wd b.1 0)), a.2 || b.2⟩

/-- The first lane whose access faults before it is translated: a marked address, then misalignment. -/
def vaFault (size : Nat) (l : List LaneVa) : Option (Nat × Nat) :=
  l.findSome? (fun a => if a.marked then some (6, 0) else if a.va % size ≠ 0 then some (4, a.va) else none)

/-- Translate every lane: the accesses, and whether one stalled. -/
def translateLanes (c : Cfg) (rq : Rq) (ctx access : Nat) (l : List LaneVa) (d : Dev) : List LanePa × Bool × Dev :=
  l.foldl (fun (acc, st, d) a =>
    let t := translate c rq ctx a.va (decide (2 ≤ access)) d
    match t.1 with
    | .leaf e => (acc ++ [⟨a.lane, a.va, leafPa e a.va, e.noalloc⟩], st, t.2)
    | .fault k lv v p => (acc, true, addFault c rq ctx a.va access k lv v p t.2)) ([], false, d)

/-- The first access whose physical address fails its check. -/
def paFault (c : Cfg) (rq : Rq) (size : Nat) (d : Dev) (bus : LanePa → Option Nat) (l : List LanePa) : Option (Nat × Nat) :=
  l.findSome? (fun a => match place c d rq a.pa size with
    | .bad st _ => some (st, a.va)
    | .bus _ => (bus a).map (fun st => (st, if st = 6 then 0 else a.va))
    | _ => none)

/-- A store-path instruction: lanes behind a FENCE wait; every lane is checked and translated; `k` performs those that translate, on the group's
registers and the device. Where a lane stalls, the others are performed at once, and the instruction issues again for the rest (R395). -/
def storePath (c : Cfg) (t : IssueCtx) (size access : Nat) (off : Bool) (bus : LanePa → Option Nat)
    (k : List LanePa → Grp × Dev → Grp × Dev) (d : Dev) : Issue :=
  if t.act.any (fun l => bit t.g.fenced l) then .wait d else
  let done := aget t.g.part t.pc
  let l := (t.act.filter (fun l => !bit done l)).map (laneVa t off)
  match vaFault size l with
  | some (code, a) => .fault code a d
  | none =>
    let r := translateLanes c t.rq t.x.ctx access l d
    match paFault c t.rq size r.2.2 bus r.1 with
    | some (code, a) => .fault code a r.2.2
    | none =>
      let e := k r.1 (t.g, r.2.2)
      if r.2.1 then .wait (setGrp t.k { e.1 with part := aset e.1.part t.pc (done ||| maskOf (r.1.map (·.lane))) } e.2)
      else .ok (setGrp t.k (nextPc t.pc t.mask { e.1 with part := aset e.1.part t.pc 0 }) e.2)

/-- The requester of an access: MOD 1 and a leaf may ask for no allocation. -/
def accRq (t : IssueCtx) (p : LanePa) : Rq := { t.rq with noalloc := t.rq.noalloc || p.noalloc || t.i.md == 1 }

/-- A physical read of a lane; in region 0xF it reaches the device's registers (R380). -/
def laneRead (c : Cfg) (rq : Rq) (pa size : Nat) (d : Dev) : List PByte × Dev := (physRead c rq pa size [] d).2

/-- Write the words of a load. -/
def putLoad (t : IssueCtx) (l : Nat) (ws : List Nat) (m : Bool) (g : Grp) : Grp :=
  ws.zipIdx.foldl (fun g (v, j) => wrV (t.i.d + j) l v (m || (guardOf t.g t.i l).2) g) g

section rows
variable (c : Cfg) (q n gi : Nat)

/-- CLD: U8, S8, U16, S16, B32, B64, B128. -/
def opCld : Dev → Dev :=
  issue c q n gi (fun i => inRange i.op 0x40 0x46)
    (fun i => shapeOk { plain 2 1 0 1 with dst := sizeWords (loadSize (i.op - 0x40)), md := fun m => decide (m ≤ 1) } i) (fun t d =>
    let k := t.i.op - 0x40
    storePath c t (loadSize k) 1 true (fun _ => none) (fun ps e =>
      ps.foldl (fun (g, d) p =>
        let b := laneRead c (accRq t p) p.pa (loadSize k) d
        (putLoad t p.lane (loadWords k (pdata b.1)) (ppoison b.1) g, b.2)) e) d)

/-- List a byte at its address in place of one listed there before. -/
def putByte {α : Type} (a : Nat) (b : α) (l : Arr α) : Arr α := ainsert a b (l.filter (fun p => p.1 != a))

/-- The bytes of a CST by address: of several threads the highest-numbered remains (R273). -/
def mergeStores {α : Type} (l : List (Nat × List α)) : Arr α :=
  l.foldl (fun a (pa, bs) => bs.zipIdx.foldl (fun a (b, j) => putByte (pa + j) b a) a) []

/-- The runs of neighbouring bytes within a line. -/
def byteRuns : Arr PByte → List (Nat × List PByte)
  | [] => []
  | (a, b) :: rest =>
    match byteRuns rest with
    | (a2, bs) :: more => if a2 = a + 1 ∧ a2 % 128 ≠ 0 then (a, b :: bs) :: more else (a, [b]) :: (a2, bs) :: more
    | [] => [(a, [b])]

/-- The data of a store in a lane, with its mark. -/
def storeData (t : IssueCtx) (size l : Nat) : List PByte :=
  let s := rdSrc t.g false t.i.d (sizeWords size) l
  mark (s.2 || (guardOf t.g t.i l).2) (storeBytes size s.1)

/-- Write the bytes of a store instruction: of each byte the value of its highest-numbered thread, under the allocation that this thread's leaf asks
for. -/
def putStores (c : Cfg) (t : IssueCtx) (size : Nat) (ps : List LanePa) (d : Dev) : Dev :=
  let isReg := fun (p : LanePa) => decide (p.pa / 2 ^ 40 = 15)
  let all := mergeStores ((ps.filter (fun p => !isReg p)).map (fun p => (p.pa, (storeData t size p.lane).map (fun b => (b, p.noalloc)))))
  let part := fun (na : Bool) => byteRuns ((all.filter (fun e => e.2.2 == na)).map (fun e => (e.1, e.2.1)))
  let d := (part false).foldl (fun d (pa, bs) => (physWrite c (accRq t ⟨0, 0, 0, false⟩) pa bs [] d).2) d
  let d := (part true).foldl (fun d (pa, bs) => (physWrite c (accRq t ⟨0, 0, 0, true⟩) pa bs [] d).2) d
  (ps.filter isReg).foldl (fun d p => (physWrite c (accRq t p) p.pa (storeData t size p.lane) [] d).2) d

/-- CST: B8, B16, B32, B64, B128. Marked data bound for nodes 1 to 8 faults. -/
def opCst : Dev → Dev :=
  issue c q n gi (fun i => inRange i.op 0x48 0x4C)
    (fun i => shapeOk { plain 2 1 0 1 with dst := sizeWords (storeSize (i.op - 0x48)), md := fun m => decide (m ≤ 1) } i) (fun t d =>
    let size := storeSize (t.i.op - 0x48)
    storePath c t size 2 true (fun p => if ppoison (storeData t size p.lane) then some 6 else none) (fun ps e =>
      (e.1, putStores c t size ps e.2)) d)

/-! ### Atomic operations (R274) -/

/-- The new value of an atomic operation on `w` bits. -/
def atomOp (op w old b cc : Nat) : Nat :=
  if op = 0 then (old + b) % 2 ^ w
  else if op = 1 then (if toSigned w b < toSigned w old then b else old)
  else if op = 2 then (if toSigned w old < toSigned w b then b else old)
  else if op = 3 then Nat.min old b
  else if op = 4 then Nat.max old b
  else if op = 5 then old &&& b
  else if op = 6 then old ||| b
  else if op = 7 then old ^^^ b
  else if op = 8 then b
  else if old = cc then b else old

/-- Whether an operation writes: CAS writes only where the old value equals C. -/
def atomWrites (op old cc : Nat) : Bool := op != 9 || old == cc

/-- The shape of CATOM (`aw` = 2) and LATOM (`aw` = 1). -/
def atomShape (aw : Nat) (i : Ins) : Shape :=
  let w := if bit i.x 4 then 2 else 1
  { plain aw w w 0 with dst := w, x := fun x => decide (bits x 3 0 ≤ 9) && bits x 8 5 == 0 }

/-- B and C of an atomic in a lane, with the mark of the operands that its code uses. -/
def atomArgs (t : IssueCtx) (l : Nat) : Nat × Nat × Bool :=
  let w := if bit t.i.x 4 then 2 else 1
  let b := rdSrc t.g t.i.bu t.i.b w l
  let cc := rdSrc t.g t.i.cu t.i.c w l
  (wd b.1 0 + wd b.1 1 * 2 ^ 32, wd cc.1 0 + wd cc.1 1 * 2 ^ 32,
    b.2 || (bits t.i.x 3 0 == 9 && cc.2) || (guardOf t.g t.i l).2)

/-- CATOM: indivisible in the line's home slice; lanes in ascending order. Nodes 1 to 8 fault PA_RANGE (R381). -/
def opCatom : Dev → Dev :=
  issue c q n gi (fun i => i.op == 0x60) (fun i => shapeOk (atomShape 2 i) i) (fun t d =>
    let size := if bit t.i.x 4 then 8 else 4
    let op := bits t.i.x 3 0
    storePath c t size 4 false (fun p => some (if (atomArgs t p.lane).2.2 then 6 else 7)) (fun ps e =>
      ps.foldl (fun (g, d) p =>
        let o := laneRead c (accRq t p) p.pa size d
        let a := atomArgs t p.lane
        let old := leNat (pdata o.1)
        let m := ppoison o.1 || a.2.2
        let g := putLoad t p.lane ((List.range (size / 4)).map (fun j => old / 2 ^ (32 * j) % 2 ^ 32)) (ppoison o.1) g
        let d := if atomWrites op old a.2.1 then
            (physWrite c (accRq t p) p.pa (mark m (leBytes size (atomOp op (8 * size) old a.1 a.2.1))) [] o.2).2
          else o.2
        (g, d)) e) d)

/-! ### Local memory (R253) -/

/-- The block of a group. -/
def blkOf (d : Dev) (k : Nat) (g : Grp) : CoreBlk := ((coreOf d k).blocks.find? (fun b => b.id == g.blk)).getD default

/-- A byte of local memory: what was last written at its address since the core zeroed it (R254, R255). -/
def rdLocal (core : Core) (b : CoreBlk) (a : Nat) : PByte := (aget core.mem (b.lo + a), aget core.memPoison ((b.lo + a) / 32))

/-- Write bytes of local memory at once: a sector's mark is set by a marked byte and cleared only when all of it is written. -/
def putLocal (b : CoreBlk) (l : Arr PByte) (core : Core) : Core :=
  let secs := (l.map (fun p => (b.lo + p.1) / 32)).foldl (fun a s => if a.contains s then a else a ++ [s]) []
  let mem := l.foldl (fun m p => aset m (b.lo + p.1) p.2.1) core.mem
  let pz := secs.foldl (fun m s =>
    let mine := l.filter (fun p => (b.lo + p.1) / 32 == s)
    aset m s (mine.any (·.2.2) || (aget m s && decide (mine.length < 32)))) core.memPoison
  { core with mem := mem, memPoison := pz }

/-- The local address of a lane: A plus B or IMM when `off`, as 32 bits. -/
def laneLocal (t : IssueCtx) (off : Bool) (l : Nat) : LaneVa :=
  let a := rdSrc t.g t.i.au t.i.a 1 l
  let b := if off then rdB t.g t.i 1 l else ([0], false)
  ⟨l, w32 (wd a.1 0 + wd b.1 0), a.2 || b.2⟩

/-- The first lane whose local access faults: a marked address, the range, then misalignment. `base` is the first address of the range. -/
def localFault (base : Nat) (b : CoreBlk) (size : Nat) (l : List LaneVa) : Option (Nat × Nat) :=
  l.findSome? (fun a => if a.marked then some (6, 0) else if a.va < base ∨ base + b.size < a.va + size then some (3, a.va)
    else if a.va % size ≠ 0 then some (4, a.va) else none)

/-- A local-memory instruction. A block's range starts at address 0; a fragment group's tile has the addresses of the core's memory (R292). -/
def localPath (t : IssueCtx) (size : Nat) (off : Bool) (k : CoreBlk → List LaneVa → Issue) (d : Dev) : Issue :=
  let b := blkOf d t.k t.g
  let base := if t.g.kind = 2 then b.lo else 0
  let l := t.act.map (laneLocal t off)
  match localFault base b size l with
  | some (code, a) => .fault code a d
  | none => k b (l.map (fun a => { a with va := a.va - base }))

/-- Bytes of local memory from an address. -/
def localBytes (core : Core) (b : CoreBlk) (a n : Nat) : List PByte := (List.range n).map (fun j => rdLocal core b (a + j))

/-- LLD. -/
def opLld : Dev → Dev :=
  issue c q n gi (fun i => inRange i.op 0x50 0x56)
    (fun i => shapeOk { plain 1 1 0 1 with dst := sizeWords (loadSize (i.op - 0x50)) } i) (fun t d =>
    let k := t.i.op - 0x50
    localPath t (loadSize k) true (fun b l =>
      let g := l.foldl (fun g a =>
        let bs := localBytes (coreOf d t.k) b a.va (loadSize k)
        putLoad t a.lane (loadWords k (pdata bs)) (ppoison bs) g) t.g
      .ok (setGrp t.k (nextPc t.pc t.mask g) d)) d)

/-- LST. -/
def opLst : Dev → Dev :=
  issue c q n gi (fun i => inRange i.op 0x58 0x5C)
    (fun i => shapeOk { plain 1 1 0 1 with dst := sizeWords (storeSize (i.op - 0x58)) } i) (fun t d =>
    let size := storeSize (t.i.op - 0x58)
    localPath t size true (fun b l =>
      let bytes := mergeStores (l.map (fun a => (a.va, storeData t size a.lane)))
      .ok (setGrp t.k (nextPc t.pc t.mask t.g) (setCore t.k (putLocal b bytes) d))) d)

/-- LATOM: lanes in ascending order. -/
def opLatom : Dev → Dev :=
  issue c q n gi (fun i => i.op == 0x61) (fun i => shapeOk (atomShape 1 i) i) (fun t d =>
    let size := if bit t.i.x 4 then 8 else 4
    let op := bits t.i.x 3 0
    localPath t size false (fun b l =>
      let r := l.foldl (fun (g, core) a =>
        let o := localBytes core b a.va size
        let x := atomArgs t a.lane
        let old := leNat (pdata o)
        let m := ppoison o || x.2.2
        let g := putLoad t a.lane ((List.range (size / 4)).map (fun j => old / 2 ^ (32 * j) % 2 ^ 32)) (ppoison o) g
        let core := if atomWrites op old x.2.1 then
            putLocal b (mergeStores [(a.va, mark m (leBytes size (atomOp op (8 * size) old x.1 x.2.1)))]) core
          else core
        (g, core)) (t.g, coreOf d t.k)
      .ok (setGrp t.k (nextPc t.pc t.mask r.1) (setCore t.k (fun _ => r.2) d))) d)

/-! ### FENCE (R273) -/

/-- FENCE: the lanes that perform it wait with their later store accesses. -/
def opFence : Dev → Dev :=
  issue c q n gi (fun i => i.op == 0x64) (fun i => shapeOk { plain 0 0 0 0 with dst := 0 } i) (fun t d =>
    .ok (setGrp t.k (nextPc t.pc t.mask { t.g with fenced := t.g.fenced ||| maskOf t.act }) d))

/-- FENCE_RELEASE: every earlier store access of the group's fenced threads has been accepted. -/
def fenceRelease (q n gi : Nat) (d : Dev) : Dev :=
  match (coreOf d (coreIdx q n)).groups[gi]? with
  | none => d
  | some g => setGrp (coreIdx q n) { g with fenced := 0 } d

end rows

end Sys2Proof.Machine
end

