-- ==== Sys2Proof/Machine/ScCtl.lean ====
section
/-! DEFINITION. Group operations, barriers, matrix instructions, pixel locks and control flow of the shader cores (R246 to R252, R276, R278 to
R280, R296, R297), and the end of threads, groups and blocks (R240, R285). -/

namespace Sys2Proof.Machine

/-! ### Ends of groups and blocks -/

/-- A compute block has ended: its time is charged, and a dispatch whose last block has ended is finished (R240). -/
def unitDone (b : CoreBlk) (q : Nat) (d : Dev) : Dev :=
  let d := chargeUnit (16 + q) ⟨b.serial, b.ring, b.ctx, 0, b.tb, none, false, 0, [], false, false⟩ d
  match cmdOf d b.serial with
  | none => d
  | some x =>
    let fin := x.unitsLeft.isEmpty && decide (x.unitsRunning ≤ 1)
    let d := setCmd d b.serial (fun x => { x with unitsRunning := x.unitsRunning - 1, phase := if fin then .finished else x.phase })
    if fin then { d with disp := d.disp.filter (fun e => e.serial != b.serial) } else d

/-- Groups whose threads have all exited leave the core with their slot and registers; a block without groups ends. -/
def reapGroups (k : Nat) (d : Dev) : Dev :=
  let live := fun (g : Grp) => g.st.any (· != 1)
  let d := setCore k (dropGroups live) d
  let s := coreOf d k
  let ended := fun (b : CoreBlk) => b.slot && !s.groups.any (fun g => g.blk == b.id)
  let gone := s.blocks.filter ended
  let d := setCore k (fun s => { s with blocks := s.blocks.filter (fun b => !ended b) }) d
  let d := gone.foldl (fun d b => if b.kind = 0 then unitDone b (k / 6) d else d) d
  if gone = [] then d else coreSync k d

/-! ### Barriers (R246, R247) -/

/-- The groups that share a group's block barriers: a fragment group is its own block (R292). -/
def sameBlock (g h : Grp) : Bool := h.blk == g.blk && (g.kind != 2 || h.order == g.order)

/-- Release a group's barrier when every thread that has not exited waits at one address. -/
def releaseGroup (g : Grp) : Grp :=
  let live := (List.range 32).filter (fun l => g.st.getD l 1 != 1)
  match live with
  | [] => g
  | l0 :: _ =>
    if live.all (fun l => g.st.getD l 1 == 2 && g.bar.getD l 0 == g.bar.getD l0 0) then { g with st := g.st.map (fun s => if s = 2 then 0 else s) } else g

/-- Release the barriers of a group's block that can be released. -/
def releaseBarriers (g : Grp) (core : Core) : Core :=
  let core := { core with groups := core.groups.map (fun h => if sameBlock g h then releaseGroup h else h) }
  (List.range 4).foldl (fun core i =>
    let mine := core.groups.filter (sameBlock g)
    let ok := mine.any (fun h => h.st.any (· == 3 + i)) && mine.all (fun h => h.st.all (fun s => s == 1 || s == 3 + i))
    if ok then { core with groups := core.groups.map (fun h =>
        if sameBlock g h then { h with st := h.st.map (fun s => if s = 3 + i then 0 else s) } else h) }
    else core) core

/-- After a barrier was issued or threads exited: release what can be released, and fault a block that can never go on (R247). -/
def barriers (c : Cfg) (k : Nat) (g : Grp) (d : Dev) : Dev :=
  let d := setCore k (releaseBarriers g) d
  let mine := (coreOf d k).groups.filter (sameBlock g)
  let waits := mine.any (fun h => h.st.any (fun s => decide (2 ≤ s)))
  if waits && mine.all (fun h => h.st.all (· != 0)) then
    let b := blkOf d k g
    let no := if g.kind = 2 then g.no else b.barNo
    match mine.find? (fun h => h.no == no) with
    | some h => scFault c k h 1 h.barPc (maskOf ((List.range 32).filter (fun l => decide (2 ≤ h.st.getD l 1)))) 0 d
    | none => scFault c k g 1 g.barPc 0 0 d
  else d

/-- A thread of each lane of a mask waits in a barrier state. -/
def waitAt (m st pc : Nat) (g : Grp) : Grp :=
  { g with st := g.st.zipIdx.map (fun (s, l) => if bit m l then st else s), bar := g.bar.zipIdx.map (fun (b, l) => if bit m l then pc else b) }

section rows
variable (c : Cfg) (q n gi : Nat)

/-- A barrier instruction: the issuing set waits. -/
def syncBody (st : Ins → Nat) (t : IssueCtx) (d : Dev) : Issue :=
  let g := { waitAt t.mask (st t.i) t.pc (nextPc t.pc t.mask t.g) with barPc := t.pc }
  let d := setGrp t.k g d
  let d := setCore t.k (fun s => { s with blocks := s.blocks.map (fun b => if b.id = g.blk then { b with barNo := g.no } else b) }) d
  .ok (barriers c t.k g d)

/-- SYNC.G. MOD 2 and 3 of SYNC are reserved and fault here. -/
def opSyncG : Dev → Dev :=
  issue c q n gi (fun i => i.op == 0x73 && i.md != 1) (shapeOk { plain 0 0 0 0 with dst := 0, guard := false }) (syncBody c (fun _ => 2))

/-- SYNC.B. -/
def opSyncB : Dev → Dev :=
  issue c q n gi (fun i => i.op == 0x73 && i.md == 1)
    (shapeOk { plain 0 0 0 0 with dst := 0, guard := false, md := (· == 1), x := fun x => decide (x < 4) }) (syncBody c (fun i => 3 + bits i.x 1 0))

/-! ### Group operations (R249) -/

/-- The source lane of an exchange for lane `l` with width `w`; none when it lies outside the segment. -/
def xlaneSrc (md w l v : Nat) : Option Nat :=
  let seg := l - l % w
  if md = 0 then some (seg + v % w)
  else if md = 1 then (if v ≤ l % w then some (l - v) else none)
  else if md = 2 then (if l % w + v < w then some (l + v) else none)
  else some (seg + ((l % w) ^^^ (v % w)))

/-- XLANE. -/
def opXlane : Dev → Dev :=
  issue c q n gi (fun i => i.op == 0x70)
    (fun i => shapeOk { plain 1 1 0 1 with guard := false, ps := true, md := fun _ => true, x := fun _ => true } i &&
      inRange (bits i.x 2 0) 1 5 && bits i.x 8 3 == 0 && (!i.imm || bits i.iv 31 17 == 0)) (fun t d =>
    let w := 2 ^ bits t.i.x 2 0
    let g := (lanes t.mask).foldl (fun g l =>
      let b := if t.i.imm then ([bits t.i.iv 16 12], false) else rdSrc t.g t.i.bu t.i.b 1 l
      let src := (xlaneSrc t.i.md w l (wd b.1 0)).filter (fun s => bit t.mask s)
      let a := rdSrc t.g t.i.au t.i.a 1 (src.getD l)
      wrP t.i.ps l src.isSome b.2 (wrV t.i.d l (wd a.1 0) (a.2 || b.2) g)) t.g
    .ok (setGrp t.k (nextPc t.pc t.mask g) d))

/-- PVOTE. -/
def opPvote : Dev → Dev :=
  issue c q n gi (fun i => i.op == 0x71)
    (fun i => shapeOk { plain 0 0 0 0 with guard := false, ps := true, pred := i.md != 2, md := fun m => decide (m ≤ 2), x := fun x => decide (x < 2) } i)
    (fun t d =>
    let votes := (lanes t.mask).map (fun l => (l, (rdP t.g t.i.ps l).1 != bit t.i.x 0))
    let m := (lanes t.mask).any (fun l => (rdP t.g t.i.ps l).2)
    let holds := maskOf ((votes.filter (·.2)).map (·.1))
    let g := (lanes t.mask).foldl (fun g l =>
      if t.i.md = 2 then wrV t.i.d l holds m g
      else wrP t.i.d l (if t.i.md = 0 then votes.all (·.2) else votes.any (·.2)) m g) t.g
    .ok (setGrp t.k (nextPc t.pc t.mask g) d))

/-- EQMASK. -/
def opEqmask : Dev → Dev :=
  issue c q n gi (fun i => i.op == 0x72) (shapeOk { plain 1 0 0 0 with guard := false }) (fun t d =>
    let v := fun (l : Nat) => rdSrc t.g t.i.au t.i.a 1 l
    let m := (lanes t.mask).any (fun l => (v l).2)
    let g := (lanes t.mask).foldl (fun g l =>
      wrV t.i.d l (maskOf ((lanes t.mask).filter (fun j => wd (v j).1 0 == wd (v l).1 0))) m g) t.g
    .ok (setGrp t.k (nextPc t.pc t.mask g) d))

/-! ### Matrix instructions (R250 to R252) -/

/-- Elements of `w` bits of a fragment: sixteen, packed ascending in consecutive registers. -/
def fragEls (w : Nat) (regs : List Nat) : List Nat :=
  regs.flatMap (fun r => (List.range (32 / w)).map (fun j => r / 2 ^ (w * j) % 2 ^ w))

/-- One element of D: C plus the block's exact value, rounded once. -/
def mmaElement (fa fb : Nat) (a b : List Nat) (ea eb cc : Nat) : Nat :=
  let ps := (a.zip b).map (fun (x, y) => lMul (lDecode fa x) (lDecode fb y))
  if ea = 0xFF ∨ eb = 0xFF ∨ ps.any (· == .nar) = true then fNan 7 else
  let v := match blockSum ps with
    | none => Ex.zero
    | some (s, N) => (Ex.ofInt s).scale (N - 43 + (ea : Int) + (eb : Int) - 254)
  match fDecode 7 cc with
  | .nan => fNan 7
  | .inf _ => cc
  | .zero _ => (fRoundSat 7 v).code
  | .fin x => (fRoundSat 7 (x.add v)).code

/-- A group-wide matrix instruction: formats of A and B, and their registers. -/
def mma (op fa fb ra rb : Nat) : Dev → Dev :=
  let apart := fun (d lo k : Nat) => decide (d + 8 ≤ lo) || decide (lo + k ≤ d)
  issue c q n gi (fun i => i.op == op)
    (fun i => shapeOk { plain ra rb 8 0 with dst := 8, guard := false, uni := false, x := fun x => decide (x < 256) } i &&
      apart i.d i.a ra && apart i.d i.b rb && apart i.d i.x 1) (fun t d =>
    if t.mask ≠ 2 ^ 32 - 1 then .fault 2 0 d else
    let rd := fun (f k l : Nat) => rdSrc t.g false f k l
    let half := fun (w f k i : Nat) => fragEls w (rd f k i).1 ++ fragEls w (rd f k (i + 16)).1
    let rows := (List.range 16).map (half (fmtBits fa) t.i.a ra)
    let cols := (List.range 16).map (half (fmtBits fb) t.i.b rb)
    let scale := fun (l : Nat) => rd t.i.x 1 l
    let rmark := fun (r : Nat) => (rd t.i.a ra r).2 || (rd t.i.a ra (r + 16)).2 || (scale r).2
    let cmark := fun (r : Nat) => (rd t.i.b rb r).2 || (rd t.i.b rb (r + 16)).2 || (scale r).2
    let g := (List.range 32).foldl (fun g l =>
      (List.range 8).foldl (fun g j =>
        let r := l % 16
        let k := 8 * (l / 16) + j
        let cv := rd (t.i.c + j) 1 l
        let v := mmaElement fa fb (rows.getD r []) (cols.getD k []) (wd (scale r).1 0 % 256) (wd (scale k).1 0 / 256 % 256) (wd cv.1 0)
        wrV (t.i.d + j) l v (rmark r || cmark k || cv.2) g) g) t.g
    .ok (setGrp t.k (nextPc t.pc t.mask g) d))

/-- MMA.L8. -/
def opMmaL8 : Dev → Dev := mma c q n gi 0x78 1 1 4 4
/-- MMA.L4L8. -/
def opMmaL4l8 : Dev → Dev := mma c q n gi 0x79 0 1 2 4
/-- MMA.L16. -/
def opMmaL16 : Dev → Dev := mma c q n gi 0x7A 2 2 8 8

/-! ### Pixel interlock (R296, R297) -/

/-- Whether the pass has INTERLOCK set. -/
def interlock (d : Dev) : Bool :=
  match d.til with
  | some p => bit (getLe p.desc 2 1) 0
  | none => false

/-- Whether every fragment of an earlier primitive at a lane's pixel in the same tile has unlocked or exited. -/
def pixelFree (core : Core) (g : Grp) (l : Nat) : Bool :=
  core.groups.all (fun h =>
    !(h.kind == 2 && h.blk == g.blk && h.tile == g.tile && h.pixel == g.pixel && decide (h.prim < g.prim)) ||
      h.st.getD l 1 == 1 || h.lock.getD l 0 == 3)

/-- PXLOCK. -/
def opPxlock : Dev → Dev :=
  issue c q n gi (fun i => i.op == 0x7C) (shapeOk { plain 0 0 0 0 with dst := 0 }) (fun t d =>
    if t.g.kind ≠ 2 then .fault 5 0 d else
    let g := nextPc t.pc t.mask t.g
    let core := coreOf d t.k
    let lock := g.lock.zipIdx.map (fun (s, l) =>
      if t.act.contains l && s == 0 then (if pixelFree core g l then 2 else 1) else s)
    .ok (setGrp t.k (if interlock d then { g with lock := lock } else g) d))

/-- PXLOCK_GRANT: a waiting lane continues once the pixel is free. -/
def pxlockGrant (q n gi lane : Nat) (d : Dev) : Dev :=
  let k := coreIdx q n
  match (coreOf d k).groups[gi]? with
  | none => d
  | some g =>
    if g.lock.getD lane 0 = 1 ∧ pixelFree (coreOf d k) g lane = true then
      setGrp k { g with lock := g.lock.set lane 2 } d
    else d

/-- PXUNLOCK. -/
def opPxunlock : Dev → Dev :=
  issue c q n gi (fun i => i.op == 0x7D) (shapeOk { plain 0 0 0 0 with dst := 0 }) (fun t d =>
    if t.g.kind ≠ 2 then .fault 5 0 d else
    let g := nextPc t.pc t.mask t.g
    let lock := g.lock.zipIdx.map (fun (s, l) => if t.act.contains l && s == 2 then 3 else s)
    .ok (setGrp t.k (if interlock d then { g with lock := lock } else g) d))

/-! ### Control flow (R280) -/

/-- Whether a guard of the issuing set is marked, which a branch consumes (R275). -/
def guardMarked (t : IssueCtx) : Bool := (lanes t.mask).any (fun l => (guardOf t.g t.i l).2)

/-- The target of a relative branch. -/
def branchTo (pc iv : Nat) : Nat := ofSigned 48 ((pc : Int) + 8 + toSigned 32 iv * 8)

/-- BRA. -/
def opBra : Dev → Dev :=
  issue c q n gi (fun i => i.op == 0x80) (shapeOk { plain 0 0 0 2 with dst := 0 }) (fun t d =>
    if guardMarked t then .fault 6 0 d else
    .ok (setGrp t.k (setPc (maskOf t.act) (fun _ => branchTo t.pc t.i.iv) (nextPc t.pc t.mask t.g)) d))

/-- JMPR. -/
def opJmpr : Dev → Dev :=
  issue c q n gi (fun i => i.op == 0x81) (shapeOk { plain 2 0 0 0 with dst := 0 }) (fun t d =>
    if guardMarked t then .fault 6 0 d else
    let target := fun (l : Nat) =>
      let a := rdSrc t.g t.i.au t.i.a 2 l
      ((wd a.1 0 + wd a.1 1 * 2 ^ 32) % 2 ^ 48, a.2)
    let bad := t.act.findSome? (fun l =>
      if (target l).2 then some (6, 0) else if (target l).1 % 8 ≠ 0 then some (4, (target l).1) else none)
    match bad with
    | some (code, a) => .fault code a d
    | none => .ok (setGrp t.k (setPc (maskOf t.act) (fun l => (target l).1) (nextPc t.pc t.mask t.g)) d))

/-- CALL. -/
def opCall : Dev → Dev :=
  issue c q n gi (fun i => i.op == 0x82) (shapeOk { plain 0 0 0 2 with dst := 2 }) (fun t d =>
    if guardMarked t then .fault 6 0 d else
    let ret := (t.pc + 8) % 2 ^ 48
    let g := t.act.foldl (fun g l => wrV (t.i.d + 1) l (ret / 2 ^ 32) false (wrV t.i.d l (ret % 2 ^ 32) false g)) t.g
    .ok (setGrp t.k (setPc (maskOf t.act) (fun _ => branchTo t.pc t.i.iv) (nextPc t.pc t.mask g)) d))

/-- What the exiting threads of a vertex group leave for the tiler: V1 to V4 + VARYINGS (R285). -/
def vertexExits (g : Grp) (ls : List Nat) (d : Dev) : Dev :=
  match d.til with
  | none => d
  | some p =>
    let vars := getLe (p.draws.getD g.prim []) 3 1
    let outs := ls.map (fun l =>
      let w := rdSrc g false 1 (4 + vars) l
      ({ draw := g.prim, elem := g.block * 128 + g.no * 32 + l, words := w.1, marked := w.2 } : VtxOut))
    { d with til := some { p with exited := p.exited ++ outs } }

/-- EXIT. -/
def opExit : Dev → Dev :=
  issue c q n gi (fun i => i.op == 0x83) (shapeOk { plain 0 0 0 0 with dst := 0 }) (fun t d =>
    let m := maskOf t.act
    let g := nextPc t.pc t.mask t.g
    let g := { g with st := g.st.zipIdx.map (fun (s, l) => if bit m l then 1 else s) }
    let d := setGrp t.k g d
    let d := if g.kind = 1 then vertexExits g t.act d else d
    .ok (reapGroups t.k (barriers c t.k g d)))

end rows

end Sys2Proof.Machine
end

