-- ==== Sys2Proof/Machine/Ray.lean ====
section
/-! DEFINITION. Ray traversal: TRACE and its answer (R300 to R303). Whether a ray meets a box or a triangle is decided exactly on the FP32
inputs, which is watertight. DESIGN CHOICE (log 83): the spec does not state how a distance is rounded into FP32; the model takes the proposal of
`Config.freeRay` where it lies within one unit in the last place of the exact distance, and the nearest value otherwise. -/

namespace Sys2Proof.Machine

/-- A number beyond every FP32 value: what an infinite bound counts as. -/
def beyond : Ex := Ex.ofInt (2 ^ 1000)

/-- A value with infinities replaced; none for NaN. -/
def exOf : FVal → Option Ex
  | .nan => none
  | .inf s => some (if s then beyond.neg else beyond)
  | .zero _ => some Ex.zero
  | .fin v => some v

/-- A finite value. -/
def finEx (code : Nat) : Option Ex := finOf 7 code

/-- The FP32 word of a distance. -/
def rtuValue (kind : Nat) (words : List Nat) (exact : Ex) : Nat :=
  let p := (Config.freeRay kind (words.map (BitVec.ofNat 32))).toNat
  match finOf 7 p with
  | some v => if ((v.sub exact).abs).le (ulp32 exact) then p else fRound 7 false exact
  | none => fRound 7 false exact

/-- A ray with finite components: origin, direction, range, its words. -/
structure RayIn where
  o : List Ex
  d : List Ex
  tmin : Ex
  tmax : Ex
  words : List Nat
deriving Inhabited

/-- The ray of eight words; none when it misses without any node being read (R303). DESIGN CHOICE (log 84): so does one with an infinite origin
or direction. -/
def rayOf (w : List Nat) : Option RayIn :=
  match (w.take 3).mapM finEx, ((w.drop 3).take 3).mapM finEx, exOf (fDecode 7 (wd w 6)), exOf (fDecode 7 (wd w 7)) with
  | some o, some d, some lo, some hi => if d.all Ex.isZero || hi.lt lo then none else some ⟨o, d, lo, hi, w⟩
  | _, _, _, _ => none

/-- Component `i` of a vector. -/
def vc (v : List Ex) (i : Nat) : Ex := v.getD i Ex.zero
/-- Difference of vectors. -/
def vsub (a b : List Ex) : List Ex := (List.range 3).map (fun i => (vc a i).sub (vc b i))
/-- Scalar product. -/
def vdot (a b : List Ex) : Ex := Ex.sum ((List.range 3).map (fun i => (vc a i).mul (vc b i)))
/-- Vector product. -/
def vcross (a b : List Ex) : List Ex :=
  (List.range 3).map (fun i => ((vc a ((i + 1) % 3)).mul (vc b ((i + 2) % 3))).sub ((vc a ((i + 2) % 3)).mul (vc b ((i + 1) % 3))))

/-- A bound of a child box: ORIGIN + q s, rounded downwards for the lower bound and upwards for the upper (R300). -/
def boxBound (origin e q : Nat) (up : Bool) : Option Ex :=
  match fDecode 7 origin with
  | .nan => none
  | .inf s => some (if s then beyond.neg else beyond)
  | v =>
    let x := ((exOf v).getD Ex.zero).add ((Ex.ofInt (q : Int)).scale ((e : Int) - 127))
    if x.isZero then some Ex.zero
    else exOf (fDecode 7 (cvtDest 2 (if up then 2 else 3) (.fin x)))

/-- Entry and exit of a ray through the slab of one axis; none when it misses. -/
def slab (o d lo hi : Ex) (acc : Option (Ex × Ex)) : Option (Ex × Ex) :=
  match acc with
  | none => none
  | some (a, b) =>
    if d.isZero then (if lo.le o && o.le hi then some (a, b) else none)
    else
      let t0 := (lo.sub o).div d
      let t1 := (hi.sub o).div d
      let n := if t0.le t1 then t0 else t1
      let f := if t0.le t1 then t1 else t0
      some (if a.lt n then n else a, if f.lt b then f else b)

/-- Entry and exit distance of child box `i` of a node, when the ray meets it within its range. -/
def childHit (r : RayIn) (node : List Byte) (i : Nat) : Option (Ex × Ex) :=
  let far := Ex.ofInt (2 ^ 4000)
  let res := (List.range 3).foldl (fun acc a =>
    let og := getLe node (4 * a) 4
    let e := getLe node (12 + a) 1
    match boxBound og e (getLe node (0x20 + 6 * i + a) 1) false, boxBound og e (getLe node (0x23 + 6 * i + a) 1 + 1) true with
    | some lo, some hi => slab (vc r.o a) (vc r.d a) lo hi acc
    | _, _ => none) (some (far.neg, far))
  res.filter (fun (n, f) => n.le f && r.tmin.le f && n.le r.tmax)

/-- A hit: distance and its word, PRIM_ID, GEOM, kind 1 triangle or 2 custom, FRONT, the last word. -/
structure RayHit where
  t : Ex
  tw : Nat
  prim : Nat
  geom : Nat
  kind : Nat
  front : Bool
  last : Nat
deriving Inhabited

/-- Whether a hit is answered in place of another (R302). -/
def RayHit.before (a b : RayHit) : Bool :=
  a.t.lt b.t || (a.t.eq b.t && (decide (a.kind < b.kind) || (a.kind == b.kind && decide (a.prim < b.prim))))

/-- The better of a hit and what was found. -/
def keepHit (h : RayHit) (best : Option RayHit) : Option RayHit :=
  match best with
  | none => some h
  | some b => if h.before b then some h else some b

/-- The unsigned 16-bit fraction nearest to a barycentric. -/
def bary16 (u : Ex) : Nat := Nat.min 65535 ((u.scale 16).roundHalfUp.toNat)

/-- The hit of a triangle leaf, if any. -/
def triHit (r : RayIn) (leaf : List Byte) : Option RayHit :=
  let ws := (List.range 9).map (fun j => getLe leaf (4 * j) 4)
  match ws.mapM finEx with
  | none => none
  | some f =>
    let v0 := f.take 3
    let e1 := vsub ((f.drop 3).take 3) v0
    let e2 := vsub (f.drop 6) v0
    let p := vcross r.d e2
    let det := vdot e1 p
    if det.isZero then none else
    let s := vsub r.o v0
    let q := vcross s e1
    let u := (vdot s p).div det
    let v := (vdot r.d q).div det
    let t := (vdot e2 q).div det
    if u.isNeg || v.isNeg || (Ex.ofInt 1).lt (u.add v) then none else
    let tw := rtuValue 0 (r.words ++ ws) t
    let tv := (finOf 7 tw).getD beyond
    if tv.lt r.tmin || r.tmax.lt tv then none
    else some ⟨tv, tw, getLe leaf 36 4, getLe leaf 40 4 % 2 ^ 24, 1, !det.isNeg, bary16 u + bary16 v * 2 ^ 16⟩

/-- The candidate of a custom child: its box's entry distance clamped to tmin. -/
def customHit (r : RayIn) (rec : List Byte) (words : List Nat) (entry exit : Ex) : Option RayHit :=
  let tw := if entry.le r.tmin then wd r.words 6 else rtuValue 1 words entry
  let tv := if entry.le r.tmin then r.tmin else (finOf 7 tw).getD beyond
  let tw := if tv.lt r.tmin then wd r.words 6 else tw
  let tv := if tv.lt r.tmin then r.tmin else tv
  if r.tmax.lt tv then none
  else some ⟨tv, tw, getLe rec 0 4, getLe rec 4 4 % 2 ^ 24, 2, false,
    if beyond.le exit then fInf 7 else rtuValue 2 words exit⟩

/-- What traversal has still to visit. -/
inductive RayWork where
  | node (addr depth : Nat) (entry : Ex)
  | tris (addr count : Nat) (entry : Ex)
  | custom (addr : Nat) (words : List Nat) (entry exit : Ex)

/-- Entry distance of a piece of work. -/
def RayWork.entry : RayWork → Ex
  | .node _ _ e => e
  | .tris _ _ e => e
  | .custom _ _ e _ => e

/-- Insert in ascending entry distance, after equals. -/
def insertWork (w : RayWork) : List RayWork → List RayWork
  | [] => [w]
  | x :: rest => if w.entry.lt x.entry then w :: x :: rest else x :: insertWork w rest

/-- Whether a node is BAD_NODE (R303). -/
def badNode (addr : Nat) (b : List Byte) : Bool :=
  addr % 64 != 0 || (List.range 3).any (fun a => getLe b (12 + a) 1 == 0xFF) || getLe b 0xF 1 != 0 || getLe b 0x3C 4 != 0

/-- The children of a node that the ray meets, nearest first. -/
def childrenOf (r : RayIn) (root depth : Nat) (any : Bool) (b : List Byte) : List RayWork :=
  (List.range 4).foldl (fun acc i =>
    let kd := getLe b (0x38 + i) 1
    let addr := (root + 16 * getLe b (0x10 + 4 * i) 4) % 2 ^ 48
    match childHit r b i with
    | none => acc
    | some (n, f) =>
      let words := r.words ++ (List.range 16).map (fun j => getLe b (4 * j) 4) ++ [i]
      if kd % 4 = 1 then insertWork (.node addr (depth + 1) n) acc
      else if kd % 4 = 2 then insertWork (.tris addr (kd / 4 + 1) n) acc
      else if kd % 4 = 3 ∧ any = false then insertWork (.custom addr words n f) acc
      else acc) []

/-- What a traversal found: a hit, a failure kind, poison. -/
structure RayRes where
  best : Option RayHit
  fail : Nat
  marked : Bool
deriving Inhabited

/-- Traversal: depth first, children nearest first. A child whose box begins well behind the nearest hit is passed over. -/
def rayLoop (c : Cfg) (rq : Rq) (r : RayIn) (root : Nat) (any : Bool) : Nat → List RayWork → Nat → RayRes → Eng RayRes
  | 0, _, _, res => pure res
  | _, [], _, res => pure res
  | fuel + 1, w :: rest, visits, res => do
    let skip := match res.best with
      | some h => any || (h.t.add ((ulp32 h.t).scale 1)).lt w.entry
      | none => false
    if skip then (if any then pure res else rayLoop c rq r root any fuel rest visits res)
    else match w with
    | .node addr depth _ =>
      if 64 < depth then pure { res with best := none, fail := 3 }
      else if 65536 ≤ visits then pure { res with best := none, fail := 4 }
      else if addr % 64 ≠ 0 then pure { res with best := none, fail := 5 }
      else do
        let b ← eRead c rq addr 64
        let res := { res with marked := res.marked || ppoison b }
        let kids := ((List.range 4).filter (fun i => getLe (pdata b) (0x38 + i) 1 % 4 != 0)).length
        liftDev (obsCount 0x25 rq.quarter rq.inst rq.ctx kids)
        if badNode addr (pdata b) then pure { res with best := none, fail := 5 }
        else rayLoop c rq r root any fuel (childrenOf r root depth any (pdata b) ++ rest) (visits + 1) res
    | .tris addr count e => do
      let b ← eRead c rq addr 48
      let res := { res with marked := res.marked || ppoison b }
      liftDev (obsCount 0x26 rq.quarter rq.inst rq.ctx 1)
      let best := match triHit r (pdata b) with
        | some h => if any then some h else keepHit h res.best
        | none => res.best
      let more := if count ≤ 1 then rest else .tris ((addr + 48) % 2 ^ 48) (count - 1) e :: rest
      rayLoop c rq r root any fuel more visits { res with best := best }
    | .custom addr words e f => do
      let b ← eRead c rq addr 16
      let res := { res with marked := res.marked || ppoison b }
      let best := match customHit r (pdata b) words e f with
        | some h => keepHit h res.best
        | none => res.best
      rayLoop c rq r root any fuel rest visits { res with best := best }

/-- The four words of an answer (R303). -/
def rayAnswer (res : RayRes) : List Nat :=
  match res.best with
  | some h => [h.tw, h.prim, h.geom + h.kind * 2 ^ 24 + b2n h.front * 2 ^ 27, h.last]
  | none => [fInf 7, 2 ^ 32 - 1, res.fail * 2 ^ 24, 0]

/-- Run a query. -/
def rayQuery (c : Cfg) (rq : Rq) (ray : List Nat) (root : Nat) (any : Bool) : Eng RayRes :=
  match rayOf ray with
  | none => pure ⟨none, 0, false⟩
  | some r => rayLoop c rq r root any (65536 * 300) [.node root 1 r.tmin] 0 ⟨none, 0, false⟩

section rows
variable (c : Cfg) (q n gi : Nat)

/-- TRACE: the threads wait for the RTU. -/
def opTrace : Dev → Dev :=
  issue c q n gi (fun i => i.op == 0x7E)
    (fun i => shapeOk { plain 8 2 0 0 with dst := 4, md := fun m => decide (m ≤ 1) } i && i.bu) (fun t d =>
    let root := rdSrc t.g true t.i.b 2 0
    if root.2 && t.act != [] then .fault 6 0 d else
    let reqs := t.act.map (fun l =>
      let a := rdSrc t.g t.i.au t.i.a 8 l
      ({ lane := l, ray := a.1, marked := a.2 || (guardOf t.g t.i l).2, root := (wd root.1 0 + wd root.1 1 * 2 ^ 32) % 2 ^ 48
         query := t.i.md, dst := t.i.d, pc := t.pc } : RayReq))
    .ok (setGrp t.k (nextPc t.pc t.mask { t.g with rays := t.g.rays ++ reqs }) d))

/-- TRACE_ANSWER: the RTU ends the traversal of a lane's ray and its answer is written. -/
def traceAnswer (lane : Nat) (d : Dev) : Dev :=
  let k := coreIdx q n
  match (coreOf d k).groups[gi]? with
  | none => d
  | some g =>
    match g.rays.find? (fun r => r.lane == lane), cmdOf d g.serial with
    | some r, some x =>
      let rq := rqCore c x k
      if unitStalled d rq || faulted d || x.expired || (ctxOf d x.ctx).state != 1 || !unitUp d 4 q n then d else
      match runEng (rayQuery c rq r.ray r.root (r.query == 1)) d with
      | (.error .stall, d) => d
      | (.error (.fail st), d) => scFault c k g st r.pc (2 ^ lane) r.root d
      | (.error .invalid, d) => d
      | (.ok res, d) =>
        let g := (rayAnswer res).zipIdx.foldl (fun g (v, j) => wrV (r.dst + j) lane v (r.marked || res.marked) g) g
        setGrp k { g with rays := g.rays.filter (fun r => r.lane != lane) } d
    | _, _ => d

end rows

end Sys2Proof.Machine
end

