-- ==== Sys2Proof/Machine/Preload.lean ====
section
/-! DEFINITION. What a queue knows of a token before it is taken: the units of its command, and the preload of its first operands (R180, R368). -/

namespace Sys2Proof.Machine

/-- The Mule operation of an OP. -/
def muleOpOf (c : Cfg) (op : Nat) : Option MuleOp :=
  if op = 1 then some (copyOp c) else if op = 2 then some (fillOp c) else if op = 3 then some (maintOp c)
  else if op = 4 then some (kvStoreOp c) else if op = 5 then some (prefetchOp c) else none

/-- Memory as a queue or a preload sees it: the bytes, where every page translates. -/
def peekBytes (c : Cfg) (rq : Rq) (va len : Nat) (d : Dev) : Option (List PByte) := (peekRead c rq (rq.ctx.getD 0) va len d).1

/-- The index or count array of an ME command, as `loadAux` reads it. -/
def peekAux (c : Cfg) (rq : Rq) (m : MeDesc) (d : Dev) : Option (List PByte) :=
  let n := if m.op = 3 then m.m else if m.attn then 4 * m.m else 0
  if n = 0 then some [] else peekBytes c rq m.rowAux n d

/-- How many units the payload of an ME or Mule command gives it (R171, R363): one for a payload that makes the command invalid, which its first unit
finds; none known while the payload does not translate. The queue learns it with the payload that the FE has prefetched
(DEDUCED, log 173). -/
def unitsPeek (c : Cfg) (d : Dev) (x : Cmd) : Option Nat :=
  let rq := rqUnit c x x.entry.cls x.entry.quarter 0
  let len := if x.entry.cls = 1 then 128 else ((muleOpOf c x.entry.op).map (·.len)).getD 0
  if x.entry.payload % 128 ≠ 0 ∨ len = 0 then some 1
  else match peekBytes c rq x.entry.payload len d with
  | none => none
  | some l =>
    let b := pdata l
    if ppoison l then some 1
    else if x.entry.cls = 1 then
      let m := parseMe b
      if meOk m = false then some 1
      else match peekAux c rq m d with
      | some aux => some (meUnits m (pdata aux)).length
      | none => none
    else
      match muleOpOf c x.entry.op with
      | some m => some (if m.ok b then Nat.max 1 (m.spans b) else 1)
      | none => some 1

/-- Units that a hand-out finds for a command: whole commands but for ME and Mule (R171, R363). -/
def unitCount (c : Cfg) (d : Dev) (x : Cmd) : Option Nat :=
  if x.entry.cls = 1 ∨ x.entry.cls = 3 then unitsPeek c d x else some 1

/-! ### Preload (R180, R368) -/

/-- Virtual ranges of the first weight tile of a unit with its scales and expansion parameters. -/
def firstWeights (c : Cfg) (rq : Rq) (m : MeDesc) (u : MeUnit) (d : Dev) : List (Nat × Nat) :=
  if m.attn then
    let e := if m.wFmt = 1 then 1 else 2
    let part := if m.op = 5 then m.n * 64 * m.k * e else 0
    let pages := if m.op = 4 then [2 * u.nb, 2 * u.nb + 1] else [2 * (u.s * m.kc), 2 * (u.s * m.kc) + 1]
    pages.flatMap (fun p => match peekBytes c rq (m.wAddr + 8 * p) 8 d with
      | some l => if p * 64 < m.batch then [(getLe (pdata l) 0 8 + part + u.g * (64 * m.k * e), 64 * m.k * e)] else []
      | none => [])
  else
    let b : Option (Nat × Nat × Bool) := match (runEng (weightBase c rq m u) d).1 with
      | .ok w => some w
      | .error _ => none
    match b with
    | none => []
    | some (w, aux, _) =>
      let t := u.nb * m.kb + u.s * m.kc
      let g := if m.expG = 8 then m.k else 32 * 2 ^ m.expG
      let size := if m.wFmt = 8 then 32 else 4
      let cols := (List.range (Nat.min 128 (m.n - u.nb * 128))).map (· + u.nb * 128)
      (w + t * (2048 * fmtBits m.wFmt), 2048 * fmtBits m.wFmt) ::
        (if m.wE8 then [(aux + t * 512, 512)]
         else if m.wFmt < 8 then []
         else if m.expG = 8 then [(aux, size)]
         else cols.map (fun n => (aux + (n * ceilDiv m.k g + u.s * m.kc * 128 / g) * size, ceilDiv 128 g * size)))

/-- Virtual ranges of the first activation block of a unit: the rows' first k-block with its scales. -/
def firstRows (m : MeDesc) (aux : List Byte) (u : MeUnit) : List (Nat × Nat) :=
  let item := if m.op = 2 then u.g * m.m else 0
  let p0 := u.s * m.kc * 128
  let n := Nat.min 128 (m.red - p0)
  (unitRows m aux u).flatMap (fun p =>
    (m.aAddr + (item + p.1) * m.aStride + p0 * fmtBits m.aFmt / 8, ceilDiv (n * fmtBits m.aFmt) 8) ::
      (if m.aE8 then [(m.aScale + (item + p.1) * ceilDiv m.red 32 + p0 / 32, ceilDiv n 32)] else []))

/-- What an ME preloads for a token: the first operands of its next unit. -/
def preloadRanges (c : Cfg) (rq : Rq) (x : Cmd) (d : Dev) : List (Nat × Nat) :=
  if x.entry.payload % 128 ≠ 0 then [] else
  match peekBytes c rq x.entry.payload 128 d with
  | none => []
  | some l =>
    let m := parseMe (pdata l)
    if ppoison l || !meOk m then [] else
    match peekAux c rq m d with
    | none => []
    | some aux =>
      match (meUnits m (pdata aux))[x.unitsLeft.headD 0]? with
      | some u => firstWeights c rq m u d ++ firstRows m (pdata aux) u
      | none => []

/-- Whether an instance runs the last unit of its command that is left to hand out. -/
def runsLast (d : Dev) (cls q i : Nat) : Bool :=
  match runOf d cls q i with
  | some (_, x) => x.units.isSome && x.unitsLeft.isEmpty
  | none => false

/-- The preload of ME `i` of quarter `q` for a lane's head: prefetches into the side buffers, once for each token, and never a fault (R180, R389). -/
def preloadFor (c : Cfg) (q i : Nat) (x : Cmd) (d : Dev) : Dev :=
  if x.preloaded.contains i || !runsLast d 1 q i || !(allowedSet c d x).contains i then d
  else
    let rq := rqUnit c x 1 q i
    let d := setCmd d x.serial (fun x => { x with preloaded := x.preloaded ++ [i] })
    (preloadRanges c rq x d).foldl (fun d p => prefetchVirt c rq p.1 p.2 d) d

/-- Every ME that runs its last unit preloads for the tokens at the heads of its queue's lanes. -/
def preloads (c : Cfg) (d : Dev) : Dev :=
  if faulted d then d else
  (d.sched.lanes.filter (fun l => decide (256 ≤ l.1) && decide (l.1 < 512))).foldl (fun d l =>
    let q := (l.1 / 64) % 4
    (List.range 8).foldl (fun d i =>
      match laneHead d (l.1 / 64) (l.1 % 64) with
      | some x => preloadFor c q i x d
      | none => d) d) d

end Sys2Proof.Machine
end

