-- ==== Sys2Proof/Machine/Crc.lean ====
section
/-! DEFINITION. Cyclic redundancy checks in the parameter model of R414, and the presets of R415. -/

namespace Sys2Proof.Machine

/-- The parameters of a CRC. -/
structure CrcParam where
  width : Nat
  poly : Nat
  init : Nat
  refin : Bool
  refout : Bool
  xorout : Nat
deriving DecidableEq, Repr, Inhabited

/-- The low `w` bits of a word reversed. -/
def reverseBits (w x : Nat) : Nat := (List.range w).foldl (fun a i => 2 * a + b2n (bit x i)) 0

/-- One bit of the direct algorithm (R414). -/
def crcBit (p : CrcParam) (crc : Nat) (b : Bool) : Nat :=
  let top := bit crc (p.width - 1) != b
  let next := (2 * crc) % 2 ^ p.width
  if top then next ^^^ p.poly else next

/-- One byte, from its bit 7 down. -/
def crcByte (p : CrcParam) (crc : Nat) (b : Byte) : Nat :=
  let v := if p.refin then reverseBits 8 b.toNat else b.toNat
  (List.range 8).foldl (fun c i => crcBit p c (bit v (7 - i))) crc

/-- The running value over bytes. -/
def crcRun (p : CrcParam) (crc : Nat) (l : List Byte) : Nat := l.foldl (crcByte p) crc

/-- The check value of a running value. -/
def crcCheck (p : CrcParam) (crc : Nat) : Nat := (if p.refout then reverseBits p.width crc else crc) ^^^ p.xorout

/-- The presets of R415, 1 to 9. -/
def crcPreset (n : Nat) : CrcParam :=
  match n with
  | 1 => ⟨32, 0x1EDC6F41, 0xFFFFFFFF, true, true, 0xFFFFFFFF⟩
  | 2 => ⟨32, 0x04C11DB7, 0xFFFFFFFF, true, true, 0xFFFFFFFF⟩
  | 3 => ⟨32, 0x04C11DB7, 0xFFFFFFFF, false, false, 0⟩
  | 4 => ⟨16, 0x1021, 0xFFFF, false, false, 0⟩
  | 5 => ⟨16, 0x8005, 0, true, true, 0⟩
  | 6 => ⟨8, 0x07, 0, false, false, 0⟩
  | 7 => ⟨24, 0x864CFB, 0xB704CE, false, false, 0⟩
  | 8 => ⟨64, 0x42F0E1EBA9EA3693, 2 ^ 64 - 1, true, true, 2 ^ 64 - 1⟩
  | _ => ⟨64, 0x42F0E1EBA9EA3693, 0, false, false, 0⟩

/-- CRC-32C of bytes, as configuration records, images and signatures use it. -/
def crc32c (l : List Byte) : Nat := crcCheck (crcPreset 1) (crcRun (crcPreset 1) (crcPreset 1).init l)

end Sys2Proof.Machine
end

