-- ==== Sys2Proof/Machine/Comp.lean ====
section
/-! DEFINITION. Composition and display outputs (R306 to R325). -/

namespace Sys2Proof.Machine

/-- Change a pipe. -/
def setPipe (p : Nat) (f : Pipe → Pipe) (d : Dev) : Dev := { d with comp := { d.comp with pipes := upd d.comp.pipes p f } }

/-! ### The PRESENT payload (R308 to R311) -/

/-- Layer entry `i`. -/
def layerEntry (b : List Byte) (i : Nat) : List Byte := slice b (0x20 + 48 * i) 48
/-- Bytes of a pixel. -/
def pixelBytes (fmt : Nat) : Nat := if fmt ≤ 2 then 4 else if fmt = 3 then 2 else 1
/-- Enabled layers, ascending. -/
def enabledLayers (b : List Byte) : List Nat := onesBelow 8 (getLe b 3 1)
/-- A signed 16-bit field. -/
def getS16 (b : List Byte) (o : Nat) : Int := toSigned 16 (getLe b o 2)
/-- Layers in the order in which they are composed, bottom first (R309). -/
def layerOrder (b : List Byte) : List Nat :=
  if bit (getLe b 2 1) 1 then (List.range (enabledLayers b).length).map (fun k => getLe b 0x10 4 / 16 ^ k % 16) else enabledLayers b

/-- Whether an integer lies in a range. -/
def intIn (x lo hi : Int) : Bool := decide (lo ≤ x) && decide (x ≤ hi)

/-- The checks on an enabled layer. -/
def layerOk (e : List Byte) : Bool :=
  let fmt := getLe e 0 1
  let w := getLe e 8 2
  inRange fmt 1 5 && !(bit (getLe e 1 1) 0 && fmt != 1) && intIn (getS16 e 4) (-8192) 8191 && intIn (getS16 e 6) (-8192) 8191 &&
    inRange w 1 4096 && inRange (getLe e 0xA 2) 1 4096 && getLe e 0xC 4 % 32 == 0 && decide (w * pixelBytes fmt ≤ getLe e 0xC 4) &&
    getLe e 0x10 8 % 128 == 0

/-- The checks of R308 and R311. -/
def presentOk (c : Cfg) (d : Dev) (b : List Byte) : Bool :=
  let en := enabledLayers b
  let order := layerOrder b
  getLe b 0 1 == 1 && pipeOn c d (getLe b 1 1) && inRange en.length 2 8 && decide (getLe b 4 2 ≤ 4095) &&
    order.all (fun i => en.contains i) && en.all (fun i => order.contains i) && en.all (fun i => layerOk (layerEntry b i)) &&
    (List.range 8).all (fun i => intIn (getS16 (layerEntry b i) 0x20) (-1024) 1023 && intIn (getS16 (layerEntry b i) 0x22) (-1024) 1023) &&
    decide ((en.map (fun i => 2 * getLe (layerEntry b i) 8 2 * pixelBytes (getLe (layerEntry b i) 0 1))).sum ≤ 65536)

/-- COMP_PRESENT: COMP takes the command's token; a valid set becomes the pending set, and an older one completes SKIPPED (R312). -/
def compPresent (c : Cfg) (d : Dev) : Dev :=
  match runOf d 7 0 0 with
  | none => d
  | some (r, x) =>
    let rq := rqUnit c x 7 0 0
    if r.stopTb.isSome || unitStalled d rq || faulted d || !unitUp d 7 0 0 then d else
    match runEng (ePayload c rq x.entry.payload 416) d with
    | (.error .stall, d) => d
    | (.error (.fail st), d) => unitEnd 7 0 0 st false d
    | (.error .invalid, d) => unitEnd 7 0 0 0x10 false d
    | (.ok b, d) =>
      if presentOk c d b = false then unitEnd 7 0 0 0x10 false d else
      let p := getLe b 1 1
      let d := chargeUnit 28 r d
      let d := setInst d (instIdx 7 0 0) (fun s => { s with run := none, lastCtx := some r.ctx })
      let d := retireToken x (setCmd d x.serial (fun x => { x with units := some 1, unitsLeft := [], unitsRunning := 0 }))
      let d := match (pipeOf d p).pending with
        | some old => match cmdOf d old.serial with
          | some y => finishUnits y 0x16 d
          | none => d
        | none => d
      setPipe p (fun s => { s with pending := some ⟨x.serial, x.ctx, b⟩, taken := false }) d

/-! ### Decision and latch (R306, R313, R315, R321, R322) -/

/-- The last stamp up to `stamp` at which an angle stood; none in a turn 0 that has not reached it. -/
def lastAngle (angle stamp : Nat) : Option Nat :=
  let t := stamp / 2 ^ 32 * 2 ^ 32 + angle % 2 ^ 32
  if t ≤ stamp then some t else if stamp < 2 ^ 32 then none else some (t - 2 ^ 32)

/-- The stamp of an angle's next event, when the last one was at `last`: an angle that the stamp has passed meanwhile, as at a jump, is due at once
(R71, R78, R307). -/
def nextEvent (angle : Nat) (last : Option Nat) (stamp : Nat) : Nat :=
  let t := nextAngle angle stamp
  let next := if last = some t then (t + 2 ^ 32) % 2 ^ 64 else t
  match last, lastAngle angle stamp with
  | some l, some u => if stampAfter u l then u else next
  | _, _ => next

/-- REPROJ_DECISION of a pipe: at REPROJ_ANGLE it decides which set the next frame shows. -/
def reprojDecision (c : Cfg) (p : Nat) (d : Dev) : Dev :=
  if pipeOn c d p = false ∨ refValid (refOf d (8 + p)) = false then d else
  let t := nextEvent (c.disp p).reprojAngle (pipeOf d p).decision (refStamp (refOf d (8 + p)))
  let d := setPipe p (fun s => { s with decision := some t }) (advance c (ticksToStamp c (8 + p) t d) d)
  match (pipeOf d p).pending with
  | none => setPipe p (fun s => { s with taken := false, shift := none }) d
  | some s =>
    let f := aget d.fe.fences (getLe s.desc 4 2)
    if bit (getLe s.desc 2 1) 0 = false ∨ (f.e = false ∧ getLe s.desc 8 8 ≤ f.v) then
      setPipe p (fun s => { s with taken := true, shift := none }) d
    else if f.e = true ∧ getLe s.desc 8 8 ≤ f.v then
      let d := setPipe p (fun s => { s with pending := none, taken := false, shift := none }) d
      match cmdOf d s.serial with
      | some y => finishUnits y 0x14 d
      | none => d
    else
      let sh := (List.range 8).map (fun i =>
        if bit (getLe s.desc 6 1) i then (getS16 (layerEntry s.desc i) 0x20, getS16 (layerEntry s.desc i) 0x22) else (0, 0))
      setPipe p (fun s => { s with taken := false, shift := some sh, late := satInc 255 s.late }) d

/-- The registers of the regions of a pipe as its next frame uses them. -/
def latchRegions (s : CompSt) (p : Nat) : List (Nat × Nat × Nat × Nat) :=
  (List.range 16).map (fun n =>
    let ctl := s.sigCtrl.getD n 0
    (if b2n (bit ctl 2) = p then ctl else 0, s.sigRect0.getD n 0, s.sigRect1.getD n 0, s.sigExpect.getD n 0))

/-- LAYER_LATCH of a pipe: at A_latch the next frame's set and mode are fixed. -/
def layerLatch (c : Cfg) (p : Nat) (d : Dev) : Dev :=
  if pipeOn c d p = false ∨ refValid (refOf d (8 + p)) = false then d else
  let t := nextEvent (latchAngle c p) (pipeOf d p).latched (refStamp (refOf d (8 + p)))
  let d := setPipe p (fun s => { s with latched := some t }) (advance c (ticksToStamp c (8 + p) t d) d)
  let s := pipeOf d p
  let d := match s.taken, s.pending with
    | true, some set =>
      let d := match cmdOf d set.serial with
        | some y => finishUnits y 0 d
        | none => d
      setPipe p (fun s => { s with inForce := some set, pending := none, taken := false
                                   ctxLost := s.ctxLost && (ctxOf d set.ctx).state != 1 }) d
    | _, _ => d
  let s := pipeOf d p
  let sig := s.safeSig && !s.exitReq
  let safe := sig || decide (4 ≤ d.pwr.stage)
  let fr : Frame := ⟨s.inForce, s.shift.getD (List.replicate 8 (0, 0)), if safe then 2 else 1, s.shift.isSome, s.ctxLost, false, latchRegions d.comp p⟩
  setPipe p (fun s => { s with
    frame := some fr, shift := none, safeSig := sig, exitReq := false, nextLine := 0, compared := 0, sums := List.replicate 16 0xFFFFFFFF }) d

/-- What a context's loss does to the pipes (R315): a set in force of it is no longer shown from the next frame. -/
def compCtxLost (ctx : Nat) (d : Dev) : Dev :=
  { d with comp := { d.comp with pipes := d.comp.pipes.map (fun s => { s with
    ctxLost := s.ctxLost || (match s.inForce with
      | some x => x.ctx == ctx
      | none => false) }) } }

/-- A PRESENT that has completed is no longer pending. -/
def compDone (serial : Nat) (d : Dev) : Dev :=
  { d with comp := { d.comp with pipes := d.comp.pipes.map (fun s =>
    match s.pending with
    | some x => if x.serial = serial then { s with pending := none, taken := false } else s
    | none => s) } }

/-! ### Scan-out (R310, R316 to R318) -/

/-- A byte of a source row as it was fetched: value, and whether it cannot be used. -/
abbrev SrcByte := Byte × Bool

/-- Fetch a part of a source row on COMP's own account in a set's context: bytes, translation faults, poisoned sectors. -/
def fetchRow (c : Cfg) (ctx va len : Nat) (d : Dev) : List SrcByte × Nat × Nat × Dev :=
  let rq := rqOwn c 7 4 0
  (pageParts va len).foldl (fun (acc, faults, pz, d) part =>
    let t := translate c rq ctx part.1 false d
    match t.1 with
    | .fault .. => (acc ++ List.replicate part.2 (0, true), faults + 1, pz, t.2)
    | .leaf e =>
      let r := physRead c { rq with noalloc := rq.noalloc || e.noalloc } (leafPa e part.1) part.2 [] t.2
      if r.1 ≠ 0 then (acc ++ List.replicate part.2 (0, true), faults, pz, r.2.2)
      else
        let secs := (sectorsOf part.1 part.2).filter (fun s => ppoison (inSector part.1 r.2.1 s))
        (acc ++ r.2.1, faults, pz + secs.length, r.2.2)) ([], 0, 0, d)

/-- The channels of a colour word: r, g, b. -/
def rgbOf (w : Nat) : List Nat := [bits w 23 16, bits w 15 8, bits w 7 0]

/-- Alpha of an L8 code (R316). -/
def l8Alpha (code : Nat) : Nat :=
  match lDecode 1 code with
  | .num false lam => Nat.min 255 (((lamValue lam).mul (Ex.ofInt 255)).roundHalfUp.toNat)
  | _ => 0

/-- Colour and alpha of a source pixel. -/
def pixelOf (e : List Byte) (v : Nat) : List Nat × Nat :=
  let fmt := getLe e 0 1
  if fmt = 1 then (rgbOf v, bits v 31 24)
  else if fmt = 2 then (rgbOf v, 255)
  else if fmt = 3 then
    let r := bits v 15 11
    let g := bits v 10 5
    let b := bits v 4 0
    ([(r <<< 3) ||| (r >>> 2), (g <<< 2) ||| (g >>> 4), (b <<< 3) ||| (b >>> 2)], 255)
  else if fmt = 4 then (rgbOf (getLe e 0x18 4), v % 256)
  else (rgbOf (getLe e 0x18 4), l8Alpha (v % 256))

/-- One channel composed over the destination (R317). -/
def blend (premult : Bool) (galpha a c d : Nat) : Nat :=
  let a2 := (a * galpha + 127) / 255
  if premult then Nat.min 255 ((c * galpha + 127) / 255 + (d * (255 - a2) + 127) / 255)
  else (c * a2 + d * (255 - a2) + 127) / 255

/-- A fetched row of layer `i` as the fetch buffer gives it: the sector that holds a byte damaged beyond correction counts as read with a poison
mark (R30, R318). -/
def hurtRow (hurt : Option (Nat × Nat)) (i va : Nat) (r : List SrcByte × Nat × Nat × Dev) : List SrcByte × Nat × Nat × Dev :=
  match hurt with
  | none => r
  | some (l, o) =>
    if l ≠ i ∨ r.1.length ≤ o then r else
    let sec := (va + o) / 32
    (r.1.zipIdx.map (fun (b, k) => if (va + k) / 32 = sec then (b.1, true) else b), r.2.1, r.2.2.1 + 1, r.2.2.2)

/-- Compose a layer over the pixels of a line. -/
def layerLine (c : Cfg) (hurt : Option (Nat × Nat)) (f : Frame) (set : LayerSet) (y : Nat) (i : Nat) (acc : List (List Nat) × Nat × Nat × Dev) :
    List (List Nat) × Nat × Nat × Dev :=
  let e := layerEntry set.desc i
  let sh := f.shift.getD i (0, 0)
  let x0 := getS16 e 4 + sh.1
  let row := (y : Int) - (getS16 e 6 + sh.2)
  let w := getLe e 8 2
  if row < 0 ∨ (getLe e 0xA 2 : Int) ≤ row then acc else
  let width := acc.1.length
  let first := if x0 < 0 then (-x0).toNat else 0
  let last := if x0 + w ≤ 0 then 0 else Nat.min w (((width : Int) - x0).toNat)
  if last ≤ first then acc else
  let bpp := pixelBytes (getLe e 0 1)
  let va := (getLe e 0x10 8 + row.toNat * getLe e 0xC 4 + first * bpp) % 2 ^ 48
  let r := hurtRow hurt i va (fetchRow c set.ctx va ((last - first) * bpp) acc.2.2.2)
  let premult := bit (getLe e 1 1) 0
  let px := acc.1.zipIdx.map (fun (d, x) =>
    let j := (x : Int) - x0
    if j < (first : Int) ∨ (last : Int) ≤ j then d else
    let bs := (r.1.drop ((j.toNat - first) * bpp)).take bpp
    let s := if bs.any (·.2) then (rgbOf (getLe e 0x1C 4), 255) else pixelOf e (leNat (bs.map (·.1)))
    (s.1.zip d).map (fun (cc, dd) => blend premult (getLe e 2 1) s.2 cc dd))
  (px, acc.2.1 + r.2.1, acc.2.2.1 + r.2.2.1, r.2.2.2)

/-- The pixels of a line of a frame, with faults and poisoned sectors: black while blanked or without a set, BACKGROUND alone after the
loss of the set's context, only the safe set in safe mode. -/
def composeLine (c : Cfg) (p y : Nat) (f : Frame) (d : Dev) : List Nat × Nat × Nat × Dev :=
  let width := (c.disp p).hActive
  match f.set with
  | none => (List.replicate width 0, 0, 0, d)
  | some set =>
    let bg := List.replicate width (rgbOf (getLe set.desc 0x14 4))
    let layers := if f.lost then [] else
      (layerOrder set.desc).filter (fun i => f.mode != 2 || bit (getLe set.desc 7 1) i)
    let r := layers.foldl (fun acc i => layerLine c (pipeOf d p).hurt f set y i acc) (bg, 0, 0, d)
    (r.1.map (fun q => q.getD 0 0 * 65536 + q.getD 1 0 * 256 + q.getD 2 0), r.2.1, r.2.2.1, r.2.2.2)

/-- Whether a region compares in a frame (R319, R322): in none of which a line was blanked (DEDUCED, log 171). -/
def regionCompares (c : Cfg) (d : Dev) (p : Nat) (f : Frame) (n : Nat) : Bool :=
  let r := f.regions.getD n (0, 0, 0, 0)
  let mode := if pipeBlank d p || f.blanked then 3 else f.mode
  let x0 := r.2.1 % 65536
  let y0 := r.2.1 / 65536
  let x1 := r.2.2.1 % 65536
  let y1 := r.2.2.1 / 65536
  ((bit r.1 0 && mode == 1) || (bit r.1 1 && mode == 2)) && !(bit r.1 4 && f.reproj) && decide (x0 < x1) && decide (y0 < y1) &&
    decide (x1 ≤ (c.disp p).hActive) && decide (y1 ≤ (c.disp p).vActive)

/-- The CRC registers of the regions after a line. -/
def sumLine (c : Cfg) (d : Dev) (p y : Nat) (f : Frame) (px : List Nat) (sums : List Nat) : List Nat :=
  sums.zipIdx.map (fun (v, n) =>
    let r := f.regions.getD n (0, 0, 0, 0)
    let x0 := r.2.1 % 65536
    let x1 := r.2.2.1 % 65536
    if regionCompares c d p f n && decide (r.2.1 / 65536 ≤ y) && decide (y < r.2.2.1 / 65536) then
      crcRun (crcPreset 1) v (((px.drop x0).take (x1 - x0)).flatMap (fun q => leBytes 4 (q % 2 ^ 24)))
    else v)

/-- SCANOUT_LINE of a pipe: the next line of the frame; `got` pixels of it were fetched in time, and the others show BACKGROUND. -/
def scanoutLine (c : Cfg) (p got : Nat) (d : Dev) : Dev :=
  let s := pipeOf d p
  match s.frame with
  | none => d
  | some f =>
    if pipeOn c d p = false ∨ (c.disp p).vActive ≤ s.nextLine then d else
    let width := (c.disp p).hActive
    let y := s.nextLine
    let r := if pipeBlank d p then (List.replicate width 0, 0, 0, d) else composeLine c p y f d
    let bg := match f.set with
      | some set => getLe set.desc 0x14 4 % 2 ^ 24
      | none => 0
    let missing := decide (got < width) && !pipeBlank d p && f.set.isSome
    let px := if missing then r.1.take got ++ List.replicate (width - got) bg else r.1
    let sums := sumLine c d p y f px s.sums
    setPipe p (fun s => { s with
      frame := some { f with blanked := f.blanked || pipeBlank d p }, nextLine := y + 1, hurt := none, out := px, sums := sums, fault := satAdd 255 s.fault r.2.1, poison := satAdd 255 s.poison r.2.2.1
      underrun := if missing then satInc 255 s.underrun else s.underrun }) r.2.2.2

/-! ### Signatures (R319, R320) -/

/-- SIGNATURE_COMPARE of a region, once its last line has been composed. -/
def signatureCompare (c : Cfg) (n : Nat) (d : Dev) : Dev :=
  let due := (List.range 2).find? (fun p =>
    let s := pipeOf d p
    match s.frame with
    | none => false
    | some f => pipeOn c d p && regionCompares c d p f n && !bit s.compared n && decide ((f.regions.getD n (0, 0, 0, 0)).2.2.1 / 65536 ≤ s.nextLine))
  match due with
  | none => d
  | some p =>
    let s := pipeOf d p
    let r := match s.frame with
      | some f => f.regions.getD n (0, 0, 0, 0)
      | none => (0, 0, 0, 0)
    let v := crcCheck (crcPreset 1) (s.sums.getD n 0)
    let d := setPipe p (fun s => { s with compared := putBit s.compared n true }) d
    let d := { d with comp := { d.comp with sigActual := upd d.comp.sigActual n (fun _ => v) } }
    if v = r.2.2.2 then d else
    let d := raise 26 { d with comp := { d.comp with sigStatus := putBit d.comp.sigStatus n true } }
    if bit r.1 3 then setPipe p (fun s => { s with safeSig := true, exitReq := false }) d else d

/-- COMP_SAFE_EXIT: a write of COMP_PIPE_p_CTRL. -/
def compSafeExit (p v : Nat) (d : Dev) : Dev := if bit v 0 then setPipe p (fun s => { s with exitReq := true }) d else d

/-- COMP_PIPE_CLEAR: a write of COMP_PIPE_p_CLEAR. -/
def compPipeClear (p v : Nat) (d : Dev) : Dev :=
  if bit v 0 then setPipe p (fun s => { s with late := 0, underrun := 0, poison := 0, fault := 0 }) d else d

/-! ### Links (R324, R523) -/

/-- COMP_DSI_CMD: a write of the register. -/
def compDsiCmd (v : Nat) (d : Dev) : Dev :=
  let s := d.comp
  if bit v 31 && s.dsiBusy then d else
  let s := { s with dsiType := bits v 15 8, dsiLen := bits v 7 0 }
  let ok := bit v 31 && (s.dsiType == 0x05 || s.dsiType == 0x15 || s.dsiType == 0x39) && inRange s.dsiLen 1 64
  { d with comp := { s with dsiBusy := s.dsiBusy || ok } }

/-- DSI_PACKET_SENT: the packet goes out in the vertical blanking of pipe 0, and BUSY clears. -/
def dsiPacketSent (c : Cfg) (d : Dev) : Dev :=
  if d.comp.dsiBusy = false ∨ pipeOn c d 0 = false ∨ refValid (refOf d 8) = false then d else
  let stamp := refStamp (refOf d 8)
  let d := if stamp % 2 ^ 32 < latchAngle c 0 then advance c (ticksToStamp c 8 (nextAngle (latchAngle c 0) stamp) d) d else d
  let s := d.comp
  let data := (s.dsiData.flatMap (leBytes 4)).take s.dsiLen
  { d with comp := { s with dsiBusy := false, dsiSent := leBytes 1 s.dsiType ++ data } }

/-- LINK_RETRAIN of a pipe whose link is down: 100 ms after the last training; `up` is its outcome. -/
def linkRetrain (c : Cfg) (p : Nat) (up : Bool) (d : Dev) : Dev :=
  if pipeOn c d p = false ∨ (pipeOf d p).link = true then d else
  let d := advanceTo c ((pipeOf d p).linkTb + 50000000) d
  setPipe p (fun s => { s with link := up, linkTb := d.phe.tb }) d

/-- EDP_HPD: a filtered plug (0), unplug (1) or interrupt pulse (2). DESIGN CHOICE (log 96): hot-plug handling trains the link of pipe 1 again, with the
outcome `up`. -/
def edpHpd (c : Cfg) (kind : Nat) (up : Bool) (d : Dev) : Dev :=
  if kind = 0 then
    let d := { d with comp := { d.comp with hpd := true } }
    if pipeOn c d 1 then setPipe 1 (fun s => { s with link := up, linkTb := d.phe.tb }) d else d
  else if kind = 1 then setPipe 1 (fun s => { s with link := false, linkTb := d.phe.tb }) { d with comp := { d.comp with hpd := false } }
  else if d.comp.hpd && pipeOn c d 1 then setPipe 1 (fun s => { s with link := up, linkTb := d.phe.tb }) d else d

end Sys2Proof.Machine
end

