-- ==== Sys2Proof/Machine/MmuCmds.lean ====
section
/-! DEFINITION. Events of translation (R389 to R393, R399), of reads that left the device (R381), and of the central store
taken stage by stage (R104 to R119). -/

namespace Sys2Proof.Machine

/-! ### Translation -/

/-- The requester of a unit named by class, quarter and number in a context. -/
def rqNamed (c : Cfg) (ctx cls q i : Nat) : Rq := rqUnit c { (default : Cmd) with ctx := ctx } cls q i

/-- PTW_WALK: a request of a unit is translated, or faults and stalls (R385, R391). Access as in R390. -/
def ptwWalk (c : Cfg) (cls q i ctx va access : Nat) (d : Dev) : Dev :=
  let rq := rqNamed c ctx cls q i
  if (ctxOf d ctx).state ≠ 1 then d else
  let t := translate c rq ctx va (bit access 1 || bit access 2) d
  match t.1 with
  | .leaf _ => t.2
  | .fault k l v a => addFault c rq ctx va (access % 16) k l v a t.2

/-- FAULT_BATCH_HOLDOFF: HOLDOFF_US after its first record, the open batch closes (R391). -/
def batchHoldoff (c : Cfg) (d : Dev) : Dev :=
  if d.mmu.openRecs = [] then d
  else closeBatch c (advanceTo c (d.mmu.openTb + d.mmu.holdoffUs * 500) d)

/-- FAULT_BATCH_WRITE: a batch that waits is written once the ring has room (R393). -/
def batchWrite (c : Cfg) (d : Dev) : Dev := drainBatches c 1 d

/-- A stalled request walks again; it is resolved, or faults into the open batch (R392). -/
def rewalk (c : Cfg) (s : Stall) (d : Dev) : Dev :=
  let rq := { rqNamed c s.ctx s.cls (s.quarter % 4) s.inst with quarter := s.quarter, serial := s.serial }
  let d := { d with mmu := { d.mmu with stalled := d.mmu.stalled.erase s } }
  let t := translate c rq s.ctx s.va (bit s.access 1 || bit s.access 2) d
  match t.1 with
  | .leaf _ => t.2
  | .fault k l v a => addFault c rq s.ctx s.va s.access k l v a t.2

/-- Instances stopped at an expiry whose requests have completed become idle (R372). -/
def releaseDrained (c : Cfg) (d : Dev) : Dev :=
  let d := d.sched.insts.foldl (fun d p =>
    match p.2.run with
    | some r =>
      if r.stopTb.isSome && !instStalled d p.1 then
        setInst d p.1 (fun s => { s with run := none, lastCtx := some r.ctx })
      else d
    | none => d) d
  finishExpired c d

/-- MMU_REPLAY of batch `b` (R392). -/
def mmuReplay (c : Cfg) (b : Nat) (d : Dev) : Dev :=
  let b := b % 2 ^ 32
  if b ≤ d.mmu.closed ∧ d.mmu.replayed < b then
    let old := d.mmu.stalled.filter (fun s => decide (s.batch ≤ b))
    releaseDrained c (old.foldl (fun d s => rewalk c s d) { d with mmu := { d.mmu with replayed := b } })
  else { d with mmu := { d.mmu with replayIgnored := satInc 255 d.mmu.replayIgnored } }

/-- MMU_FAULT_RPTR_WRITE (R393). -/
def faultRptr (v : Nat) (d : Dev) : Dev :=
  let v := v % 2 ^ 32
  if idxLe d.mmu.wptr v 1024 && idxLe v d.mmu.rptr 1024 then { d with mmu := { d.mmu with rptr := v } }
  else { d with mmu := { d.mmu with rptrIgnored := satInc 255 d.mmu.rptrIgnored } }

/-- MMU_FAULT_ENABLE: a write of MMU_FAULT_CTRL; 1 sets both ring indices to 0 and releases the waiting batches (R393, R399). -/
def faultEnable (c : Cfg) (v : Nat) (d : Dev) : Dev :=
  if bit v 0 then
    drainBatches c d.mmu.waitq.length { d with mmu := { d.mmu with enable := true, wptr := 0, rptr := 0 } }
  else { d with mmu := { d.mmu with enable := false } }

/-- MMU_BATCH_CFG_WRITE: fields out of range are left; a COUNT at or below the open batch's size closes it (R391, R399). -/
def batchCfg (c : Cfg) (v : Nat) (d : Dev) : Dev :=
  let h := bits v 25 16
  let n := bits v 10 0
  let d := { d with mmu := { d.mmu with
    holdoffUs := if h = 0 then d.mmu.holdoffUs else h
    countCfg := if n = 0 ∨ 1024 < n then d.mmu.countCfg else n } }
  if d.mmu.countCfg ≤ d.mmu.openRecs.length then closeBatch c d else d

/-- MMU_COUNT_CLEAR (R399). -/
def mmuCountClear (v : Nat) (d : Dev) : Dev :=
  if bit v 0 then { d with mmu := { d.mmu with replayIgnored := 0, ringFull := 0, rptrIgnored := 0, hostCplErr := 0 } } else d

/-! ### The store, stage by stage -/

/-- Perform a request that fits in one line, with what its DRAM reads find. Bytes that a write's mask does not name are left (R104); a write to
region 0xF whose mask names other than one run has no effect (R380). -/
def performLine (c : Cfg) (f : Fill) (errs : List SectorErr) (d : Dev) : Dev :=
  match fillLine c d f with
  | some (q, l, o) => serveLine c q l o f errs d
  | none =>
    match f.wdata with
    | some w =>
      match maskRuns 0 w with
      | [r] => let p := physWrite c f.rq (f.pa + r.1) r.2 errs d; answer [] (p.1 == 0) p.2
      | rs =>
        match place c d f.rq f.pa f.len with
        | .regs _ => answer [] true d
        | _ => answer [] true (rs.foldl (fun d r => (physWrite c f.rq (f.pa + r.1) r.2 errs d).2) d)
    | none =>
      let r := physRead c f.rq f.pa f.len errs d
      answer r.2.1 (r.1 == 0) r.2.2

/-- Whether quarter `q`'s memory serves now: it is not retraining and its rate is not switching (R85, R477). -/
def memServes (d : Dev) (q : Nat) : Bool :=
  !(match d.phe.retraining with
    | some (r, _) => r == q
    | none => false) &&
  !(match d.clk.rateSwitch with
    | some w => w.quarter == q
    | none => false)

/-- Whether quarter `q`'s slice serves nothing because its clock switches (R469). -/
def sliceHeld (d : Dev) (q : Nat) : Bool := d.clk.switches.any (fun w => w.quarter == q)

/-- The sectors that a request needs to have at hand: those that a write covers only in part, or those that a read touches (R104). -/
def neededOf (o : Nat) (f : Fill) : Nat :=
  match f.wdata with
  | some w => partialRuns (maskRuns o w)
  | none => touched o f.len

/-- Whether a request that misses keeps no line: by its hint, or because it goes on a stream of 64 or more lines (R106). -/
def passesBy (d : Dev) (q l : Nat) (f : Fill) : Bool :=
  f.rq.noalloc || (f.wdata.isSome && (match streamOf d q l f.rq with
    | some t => decide (64 ≤ t.count)
    | none => false))

/-- The stage at which a request must wait: none when it is performed at once (R104, R106, R107, R110). -/
def stageOf (c : Cfg) (d : Dev) (f : Fill) : Option Nat :=
  match fillLine c d f with
  | none => none
  | some (q, l, o) =>
    if (sliceOf d q).memLost then none else
    let needed := neededOf o f
    let fill := if f.wdata.isSome ∧ needed = 0 then none else some 1
    match findWay d q l with
    | some w => if maskAndNot 4 needed (lineAt d q (storeSet l) w).valid = 0 then none else some 1
    | none =>
      if (sliceOf d q).side.any (fun e => e.l == l && e.ctx == f.rq.ctx) then none
      else if f.wdata.isNone && (stagedAt d q l).any (fun y => maskAndNot 4 needed y.valid == 0) then none
      else if passesBy d q l f then fill
      else
        match victim d q (storeSet l) (allocMask c d q f.rq) with
        | some w => if (lineAt d q (storeSet l) w).dirty ≠ 0 then some 0 else fill
        | none => fill

/-- The slice in which a request waits: that of its line or scratch window, or for nodes 1 to 8 the requester's own, slice 0 for spine units (R381). -/
def homeOf (c : Cfg) (d : Dev) (f : Fill) : Nat :=
  match place c d f.rq f.pa f.len with
  | .dram q _ => q
  | .scratch q _ _ => q
  | _ => if f.rq.quarter < 4 then f.rq.quarter else 0

/-- The line buffers of slice `q` that are taken: lines whose fill is in transit, and staged writes (R107). -/
def lineBuffers (c : Cfg) (d : Dev) (q : Nat) : Nat :=
  let ls := ((sliceOf d q).waiting.filter (fun f => decide (f.stage ≤ 1))).filterMap (fun f => (fillLine c d f).map (fun p => p.2.1))
  ls.eraseDups.length + (sliceOf d q).staged.length

/-- A request waits in slice `q` at a stage. -/
def waitIn (q stage : Nat) (f : Fill) (d : Dev) : Dev :=
  setSlice d q (fun s => { s with waiting := s.waiting ++ [{ f with stage := stage }] })

/-- A read of nodes 1 to 8 leaves the device: consecutive lines of one requester are merged into reads of up to 512 bytes; while 256 reads are
outstanding, it waits in staging (R381). That a read goes on growing until its completion is the model's choice (log 164). -/
def busRequest (c : Cfg) (a : Nat) (f : Fill) (d : Dev) : Dev :=
  let h := d.host
  match h.outReads.getLast? with
  | some r =>
    if r.rq = f.rq ∧ r.bus + r.len = a ∧ r.len + f.len ≤ 512 ∧ r.inv = false then
      { d with host := { h with outReads := h.outReads.dropLast ++ [{ r with len := r.len + f.len }] } }
    else if 256 ≤ h.outReads.length then waitIn (homeOf c d f) 4 f d
    else { d with host := { h with outReads := h.outReads ++ [⟨f.rq, a, f.len, false⟩] } }
  | none => { d with host := { h with outReads := [⟨f.rq, a, f.len, false⟩] } }

/-- LOC of the first byte of a request in the memory that holds it: cache way, side buffer or staging. -/
def chipLoc (d : Dev) (q l o : Nat) (f : Fill) : Option Nat :=
  match findWay d q l with
  | some w => some (slotLoc (storeSet l) w + o)
  | none =>
    if (sliceOf d q).side.any (fun e => e.l == l && e.ctx == f.rq.ctx) then some (bufferLoc 17 l + o)
    else if (stagedAt d q l).isSome then some (bufferLoc 16 l + o) else none

/-- An error of the byte at `loc` of slice `q`'s memories, which its next read finds (R421). -/
def plantUpset (q : Nat) (loc : Option Nat) (e : Option (Bool × Nat)) (d : Dev) : Dev :=
  match loc, e with
  | some a, some (double, syn) => { d with err := { d.err with upsets := d.err.upsets ++ [⟨q, 1, a, double, syn % 32⟩] } }
  | _, _ => d

/-- A request reaches its home slice: it is checked, and served, or waits in staging; a failed check of a context's request loses
the context, any other is dropped and counted (R94, R97). `onchip` is an error of the first byte that the access finds (R421). -/
def storeRequest (c : Cfg) (f : Fill) (onchip : Option (Bool × Nat)) (d : Dev) : Dev :=
  if 128 < f.pa % 128 + f.len then d else
  match place c d f.rq f.pa f.len with
  | .bad st sl =>
    match f.rq.ctx with
    | some x => loseContext c x st [] (answer [] false d)
    | none => countDropped f.rq st sl (answer (List.replicate f.len (0, false)) false d)
  | .bus a =>
    match f.wdata with
    | some _ => performLine c f [] d
    | none => busRequest c a f d
  | .regs _ => performLine c f [] d
  | .scratch q way o =>
    if sliceHeld d q then waitIn q 3 f d
    else if bit (sliceOf d q).zeroing way then waitIn q 2 f d
    else performLine c f [] (plantUpset q (some (scratchLoc way o)) onchip d)
  | .dram q off =>
    let l := off / 128
    if sliceHeld d q then waitIn q 3 f d
    else if waitersOf c d q l ≠ [] then waitIn q 5 f d
    else
      match stageOf c d f with
      | some n => waitIn q (if 64 ≤ lineBuffers c d q then 4 else n) f d
      | none => performLine c f [] (plantUpset q (chipLoc d q l (off % 128) f) onchip d)

/-- Requests that waited for a line buffer, or behind an earlier request to their line, reach their slice again in their order (R105, R107). -/
def retryWaiting (c : Cfg) (q : Nat) (d : Dev) : Dev :=
  let w := (sliceOf d q).waiting.filter (fun f => decide (4 ≤ f.stage))
  let d := setSlice d q (fun s => { s with waiting := s.waiting.filter (fun f => !decide (4 ≤ f.stage)) })
  w.foldl (fun d f => storeRequest c { f with stage := 0 } none d) d

/-- STORE_REQUEST made by an engine executing a command of a context (class, quarter, instance), or with no context on a
class's own account. -/
def storeRequestOf (c : Cfg) (ctx : Option Nat) (cls q i pa len : Nat) (wdata : Option (List (Option PByte))) (noalloc : Bool)
    (onchip : Option (Bool × Nat)) (d : Dev) : Dev :=
  let rq := match ctx with
    | some x => rqNamed c x cls q i
    | none => rqOwn c cls (if quarterClass cls then q else 4) i
  let n := match wdata with
    | some w => w.length
    | none => len
  if n = 0 then d else storeRequest c ⟨{ rq with noalloc := noalloc }, pa, n, wdata, 0, false⟩ onchip d

/-- Requests that a clock switch held reach their slice again (R469). -/
def releaseHeld (c : Cfg) (q : Nat) (d : Dev) : Dev :=
  let w := (sliceOf d q).waiting.filter (fun f => f.stage == 3)
  let d := setSlice d q (fun s => { s with waiting := s.waiting.filter (fun f => f.stage != 3) })
  w.foldl (fun d f => storeRequest c { f with stage := 0 } none d) d

/-- EVICTION_ACCEPTED in slice `q`: the controller accepts the first waiting victim's write, and the fill proceeds (R110); where no victim waits,
it accepts the oldest staged write (R107). -/
def evictionAccepted (c : Cfg) (q : Nat) (d : Dev) : Dev :=
  if sliceHeld d q ∨ memServes d q = false then d else
  match (sliceOf d q).waiting.find? (fun f => f.stage == 0) with
  | none =>
    match (sliceOf d q).staged with
    | x :: _ => retryWaiting c q (acceptLine q x d)
    | [] => d
  | some f =>
    let pop := fun (d : Dev) => setSlice d q (fun s => { s with waiting := s.waiting.erase f })
    match fillLine c d f with
    | none => pop d
    | some (_, l, _) =>
      let d := (allocate c q l f.rq d).2
      match stageOf c d f with
      | some _ => setSlice d q (fun s => { s with waiting := s.waiting.map (fun g => if g = f then { g with stage := 1 } else g) })
      | none => retryWaiting c q (performLine c f [] (pop d))

/-- DRAM_FILL_COMPLETE in slice `q`: the first waiting fill returns with what its sectors' reads found; its request is performed, and those
behind it follow in their order (R104, R105, R424). -/
def dramFillComplete (c : Cfg) (q : Nat) (errs : List SectorErr) (d : Dev) : Dev :=
  if sliceHeld d q ∨ memServes d q = false then d else
  match (sliceOf d q).waiting.find? (fun f => f.stage == 1) with
  | none => d
  | some f =>
    retryWaiting c q (performLine c f errs (setSlice d q (fun s => { s with waiting := s.waiting.erase f })))

/-- WRITE_DRAIN_EXIT: the queue is down to 64 lines and write drain ends; the controller accepts what staging holds (R107, R110). -/
def writeDrainExit (c : Cfg) (q : Nat) (d : Dev) : Dev :=
  if (sliceOf d q).drain then
    let d := setSlice d q (fun s => { s with wq := 64, drain := false })
    retryWaiting c q ((sliceOf d q).staged.foldl (fun d x => acceptLine q x d) d)
  else d

/-! ### Reads that left the device (R381) -/

/-- HOST_READ_COMPLETION of the oldest outstanding read: data, and whether the completion is poisoned or carries UR or CA. A read that waited
for one of the 256 places leaves. -/
def hostReadCompletion (c : Cfg) (data : List Byte) (bad : Bool) (d : Dev) : Dev :=
  match d.host.outReads with
  | [] => d
  | r :: rest =>
    (List.range 4).foldl (fun d q => retryWaiting c q d) { d with
      host := { d.host with outReads := rest, storeRead := ⟨slice data 0 r.len, bad, true⟩ }
      mmu := if bad then { d.mmu with hostCplErr := satInc 255 d.mmu.hostCplErr } else d.mmu }

/-- COMPLETION_TIMEOUT of the oldest outstanding read: poison is delivered and HOST_CPL_ERR incremented. -/
def completionTimeout (c : Cfg) (d : Dev) : Dev :=
  match d.host.outReads with
  | [] => d
  | r :: _ => hostReadCompletion c (List.replicate r.len 0) true d

/-! ### Streams, prefetch, maintenance -/

/-- STREAM_TRACKER_TIMEOUT: 1 us without a write miss from a stream returns its tracker to allocation (R106). -/
def trackerTimeout (c : Cfg) (q : Nat) (d : Dev) : Dev :=
  match (sliceOf d q).trackers.getLast? with
  | none => d
  | some t =>
    let d := advanceTo c (t.tb + 500) d
    setSlice d q (fun s => { s with trackers := s.trackers.filter (fun t => decide (d.phe.tb < t.tb + 500)) })

/-- PREFETCH_REQUEST of a line by a unit in a context (R108); a failed check loses the context (R94, R97). -/
def prefetchRequest (c : Cfg) (ctx cls q i pa : Nat) (errs : List SectorErr) (d : Dev) : Dev :=
  let r := prefetchLine c (rqNamed c ctx cls q i) pa errs d
  if r.1 = 0 then r.2 else loseContext c ctx r.1 [] r.2

/-- SCRATCH_ZERO_DONE in slice `q`: zeroing ends, and the requests that waited for those ways proceed (R98). -/
def scratchZeroDone (c : Cfg) (q : Nat) (d : Dev) : Dev :=
  let w := (sliceOf d q).waiting.filter (fun f => f.stage == 2)
  let d := setSlice d q (fun s => { s with zeroing := 0, waiting := s.waiting.filter (fun f => f.stage != 2) })
  w.foldl (fun d f => performLine c f [] d) d

/-- CS_MAINT with GO in quarter `q`'s block (R116): ignored, with REJECTED set, while BUSY; an OP of 0 does nothing but write the field. -/
def csMaint (q op : Nat) (d : Dev) : Dev :=
  setSlice d q (fun s =>
    if s.maintBusy then { s with maintRejected := true }
    else if op % 4 = 0 then { s with maintOp := 0 }
    else { s with maintOp := op % 4, maintRun := (op % 4, s.maintPa, s.maintLen), maintBusy := true })

/-- CS_MAINT_COMPLETE: every line of the range has been treated; BUSY clears, DONE is set and the source raised (R114, R116). -/
def csMaintComplete (c : Cfg) (q : Nat) (d : Dev) : Dev :=
  let s := sliceOf d q
  if s.maintBusy = false then d else
  let d := maintRange c s.maintRun.1 s.maintRun.2.1 s.maintRun.2.2 d
  raise (28 + q) (setSlice d q (fun s => { s with maintBusy := false, maintDone := true }))

/-- CS_SW: an Ox core treats one way of one set (R117, R121). -/
def csSw (c : Cfg) (q op set way : Nat) (d : Dev) : Dev :=
  if 24576 ≤ set ∨ 16 ≤ way ∨ bit (cacheWays c q) way = false then d else maintLine op true q (set * 16 + way) d

/-- CS_WAY_OFF_WRITE: newly set bits start cleaning, cleared bits power the way up empty; scratch and trace ways are ignored (R119). A bit cleared
while its way is still cleaning ends the cleaning, and the way keeps its lines: R119 is silent (DESIGN CHOICE, log 158). -/
def csWayOff (c : Cfg) (q v : Nat) (d : Dev) : Dev :=
  let v := v % 2 ^ 16
  setSlice d q (fun s =>
    let cache := cacheWays c q
    { s with wayOff := v, cleaning := (s.cleaning ||| maskAndNot 16 (v &&& cache) s.off) &&& v, off := s.off &&& v })

/-- WAY_CLEAN_DONE: a way's cleaning ends, it is powered down, and OFF is set for it (R119). -/
def wayCleanDone (q way : Nat) (d : Dev) : Dev :=
  if bit (sliceOf d q).cleaning way = false then d else
  let d := cleanWays q (2 ^ way) d
  setSlice d q (fun s => { s with cleaning := putBit s.cleaning way false, off := putBit s.off way true })

/-- CS_ERR_CLEAR (R121). -/
def csErrClear (q v : Nat) (d : Dev) : Dev :=
  if bit v 0 then
    setSlice d q (fun s => { s with errViol := 0, errScratchRange := 0, errPaRange := 0, errLostWrite := 0 })
  else d

/-- QUARTER_MEMORY_LOST (R29, R112): dirty lines are discarded, and the other units are told (QUARTER_OUT, sequences homed there). -/
def quarterMemoryLost (q : Nat) (d : Dev) : Dev :=
  if 4 ≤ q ∨ (sliceOf d q).memLost then d else
  let d := loseMemory q d
  { d with notes := d.notes ++ [.quarterOut q] }

end Sys2Proof.Machine
end

