-- ==== Sys2Proof/Machine/Save.lean ====
section
/-! DEFINITION. The AO save memory (R420, R467): the registers that it holds while their domain is off, and what a damaged byte of it costs. The
values themselves stay in the registers' fields: only the losses are recorded. -/

namespace Sys2Proof.Machine

/-- A register of R467's table: the number of its domain (R459), and its return to the reset value. -/
abbrev Saved := Nat × (Dev → Dev)

/-- Registers of the front end, the kernel queue and the contexts. -/
def savedFe : List Saved :=
  let fe := fun (f : FeSt → FeSt) => ((1, fun d => { d with fe := f d.fe }) : Saved)
  [fe (fun f => { f with kqEnable := false }), fe (fun f => { f with kqBase := f.kqBase / 2 ^ 32 * 2 ^ 32 })
  , fe (fun f => { f with kqBase := f.kqBase % 2 ^ 32 }), fe (fun f => { f with kqSize := 0 }), fe (fun f => { f with kqRptr := 0 })
  , fe (fun f => { f with kqWptr := 0 }), fe (fun f => { f with kqCqBase := f.kqCqBase / 2 ^ 32 * 2 ^ 32 })
  , fe (fun f => { f with kqCqBase := f.kqCqBase % 2 ^ 32 }), fe (fun f => { f with kqCqSize := 0 }), fe (fun f => { f with kqCqWptr := 0 })
  , fe (fun f => { f with kqCqRptr := 0 }), fe (fun f => { f with bar2Base := 0 }), fe (fun f => { f with refSel := 0 })
  , fe (fun f => { f with sigSel := 0 })
  , fe (fun f => { f with fenceRegress := 0, dbIgnored := 0, refUnderflow := 0, refFromZero := 0 })
  , fe (fun f => { f with refSat := 0, cqFull := 0 })] ++
  (List.range 64).map (fun r => ((1, fun d => { d with sched := { d.sched with counts := aset d.sched.counts r default } }) : Saved)) ++
  (List.range 64).map (fun x => fe (fun f => { f with ctxs := amod f.ctxs x (fun t => { t with root := 0 }) }))

/-- Registers of the phase engine and the deadline monitors. -/
def savedPhase : List Saved :=
  let phe := fun (f : PheSt → PheSt) => ((1, fun d => { d with phe := f d.phe }) : Saved)
  let ref := fun (n : Nat) (f : RefSt → RefSt) => phe (fun p => { p with refs := upd p.refs n f })
  [phe (fun p => { p with irqEn := PheSt.init.irqEn }), phe (fun p => { p with maintRef := PheSt.init.maintRef })
  , phe (fun p => { p with maintStart := PheSt.init.maintStart, pendStart := none })
  , phe (fun p => { p with maintLen := PheSt.init.maintLen, pendLen := none })] ++
  (List.range 11).flatMap (fun n =>
    [ref n (fun r => { r with glitch := 0, periodViolation := 0, pulseCount := 0, timeout := 0 }), ref n (fun r => { r with loss := 0 })
    , ref n (fun r => { r with epoch := 0 })]) ++
  (List.range 8).map (fun r => ((1, fun d => { d with
    dlm := upd d.dlm r (fun s => { s with fallbacks := 0, latePrimary := 0, missing := 0, none_ := 0 }) }) : Saved))

/-- Registers of the interrupt controller. -/
def savedIcu : List Saved :=
  let icu := fun (f : IcuSt → IcuSt) => ((1, fun d => { d with icu := f d.icu }) : Saved)
  [icu (fun s => { s with globalHold := false }), icu (fun s => { s with stackFaults := 0 })
  , icu (fun s => { s with woke := false, wokeSource := 0 })] ++
  (List.range 32).flatMap (fun g =>
    [icu (fun s => { s with en := s.en.set g 0 }), icu (fun s => { s with last := s.last.set g 69 })]) ++
  (List.range 512).map (fun s => icu (fun i => { i with count := aset i.count s 0 })) ++
  (List.range 70).map (fun t => icu (fun i => { i with stack := aset i.stack t [], fault := putBit i.fault t false }))

/-- Registers of the MMU. -/
def savedMmu : List Saved :=
  let mmu := fun (f : MmuSt → MmuSt) => ((1, fun d => { d with mmu := f d.mmu }) : Saved)
  [mmu (fun m => { m with enable := false }), mmu (fun m => { m with base := m.base / 2 ^ 32 * 2 ^ 32 })
  , mmu (fun m => { m with base := m.base % 2 ^ 32 }), mmu (fun m => { m with wptr := 0 }), mmu (fun m => { m with rptr := 0 })
  , mmu (fun m => { m with holdoffUs := MmuSt.init.holdoffUs, countCfg := MmuSt.init.countCfg }), mmu (fun m => { m with closed := 0 })
  , mmu (fun m => { m with replayed := 0 })
  , mmu (fun m => { m with replayIgnored := 0, ringFull := 0, rptrIgnored := 0, hostCplErr := 0 })] ++
  ([1, 2, 3, 4, 5, 6, 7]).flatMap (fun n =>
    [mmu (fun m => { m with peerBase := amod m.peerBase n (fun v => v / 2 ^ 32 * 2 ^ 32) })
    , mmu (fun m => { m with peerBase := amod m.peerBase n (fun v => v % 2 ^ 32) }), mmu (fun m => { m with peerSize := aset m.peerSize n 0 })])

/-- Registers of an error table. -/
def savedErr (dom k : Nat) : List Saved :=
  let tab := fun (f : ErrTab → ErrTab) => ((dom, fun d => { d with err := { d.err with tabs := upd d.err.tabs k f } }) : Saved)
  [tab (fun t => { t with ceThreshold := ErrTab.init.ceThreshold, scrubEn := ErrTab.init.scrubEn })
  , tab (fun t => { t with dramCe := 0, onchipCe := 0 }), tab (fun t => { t with dramUe := 0, onchipUe := 0 })
  , tab (fun t => { t with poisonRead := 0 }), tab (fun t => { t with overflow := false }), tab (fun t => { t with passes := 0, scrubPos := 0 })] ++
  (List.range 16).map (fun e => tab (fun t => { t with log := t.log.set e none }))

/-- Registers of GLB and of power control. -/
def savedGlb : List Saved :=
  let boot := fun (f : BootSt → BootSt) => ((1, fun d => { d with boot := f d.boot }) : Saved)
  let pwr := fun (f : PwrSt → PwrSt) => ((1, fun d => { d with pwr := f d.pwr }) : Saved)
  [boot (fun b => { b with bootStatus := 0 }), boot (fun b => { b with cfgStatus := 0 }), boot (fun b => { b with cfgFaulted := 0 })
  , boot (fun b => { b with katFail0 := 0 }), boot (fun b => { b with katFail1 := 0 }), boot (fun b => { b with bootSlots := 0 })
  , boot (fun b => { b with bootTime := 0 })
  , ((1, fun d => { d with err := { d.err with voteFix := 0, cwsPasses := 0 } }) : Saved)
  , pwr (fun p => { p with keepLo := 0 }), pwr (fun p => { p with keepBase := 0 })
  , pwr (fun p => { p with dips := 0, floorOverride := 0, avsFaults := 0, throttles := 0 })] ++
  (List.range 4).map (fun q => ((1, fun d => { d with clk := { d.clk with floor := d.clk.floor.set q (ClkSt.init.floor.getD q 0) } }) : Saved))

/-- Registers of the PCIe function and of BAR 4. -/
def savedPcie : List Saved :=
  let host := fun (f : HostSt → HostSt) => ((2, fun d => { d with host := f d.host }) : Saved)
  [host (fun h => { h with busMaster := false }), host (fun h => { h with msixEnable := false, funcMask := false })
  , host (fun h => { h with bar2Log := 28 }), host (fun h => { h with d3hot := false })
  , ((2, fun d => { d with err := { d.err with aerInternal := false } }) : Saved)] ++
  (List.range 64).map (fun v => host (fun h => { h with msix := aset h.msix v default }))

/-- Registers of the compositor and of observation. -/
def savedFront : List Saved :=
  let comp := fun (f : CompSt → CompSt) => ((3, fun d => { d with comp := f d.comp }) : Saved)
  let obs := fun (f : ObsSt → ObsSt) => ((6, fun d => { d with obs := f d.obs }) : Saved)
  (List.range 16).flatMap (fun n =>
    [comp (fun s => { s with sigCtrl := s.sigCtrl.set n 0 }), comp (fun s => { s with sigRect0 := s.sigRect0.set n 0 })
    , comp (fun s => { s with sigRect1 := s.sigRect1.set n 0 }), comp (fun s => { s with sigExpect := s.sigExpect.set n 0 })
    , comp (fun s => { s with dsiData := s.dsiData.set n 0 })]) ++
  (List.range 2).map (fun p => comp (fun s => { s with
    pipes := upd s.pipes p (fun x => { x with late := 0, underrun := 0, poison := 0, fault := 0 }) })) ++
  [comp (fun s => { s with dsiType := 0, dsiLen := 0 })
  , obs (fun s => { s with cntEn := false }), obs (fun s => { s with traceRef := ObsSt.init.traceRef })
  , obs (fun s => { s with classMask := ObsSt.init.classMask }), obs (fun s => { s with capEn := false })
  , obs (fun s => { s with capBase := s.capBase / 2 ^ 32 * 2 ^ 32 }), obs (fun s => { s with capBase := s.capBase % 2 ^ 32 })
  , obs (fun s => { s with capLen := 0 }), obs (fun s => { s with drainBase := s.drainBase / 2 ^ 32 * 2 ^ 32 })
  , obs (fun s => { s with drainBase := s.drainBase % 2 ^ 32 }), obs (fun s => { s with drainSize := 0 })
  , obs (fun s => { s with drainR := 0 }), obs (fun s => { s with threshold := ObsSt.init.threshold })] ++
  (List.range 256).map (fun n => obs (fun s => { s with sel := aset s.sel n default }))

/-- Registers of quarter `q`: slice, shader cores, memory. -/
def savedQuarter (q : Nat) : List Saved :=
  let cs := fun (f : SliceSt → SliceSt) => ((7 + 5 * q, fun d => setSlice d q f) : Saved)
  let sc := fun (k : Nat) (f : ScFault → ScFault) =>
    ((8 + 5 * q + k / 3, fun d => { d with cores := upd d.cores (6 * q + k) (fun s => { s with fault := f s.fault }) }) : Saved)
  [cs (fun s => { s with off := maskAndNot 16 s.off s.wayOff, wayOff := 0 }), cs (fun s => { s with maintPa := s.maintPa / 2 ^ 32 * 2 ^ 32 })
  , cs (fun s => { s with maintPa := s.maintPa % 2 ^ 32 }), cs (fun s => { s with maintLen := s.maintLen / 2 ^ 32 * 2 ^ 32 })
  , cs (fun s => { s with maintLen := s.maintLen % 2 ^ 32 }), cs (fun s => { s with maintOp := 0 })
  , cs (fun s => { s with errViol := 0, errScratchRange := 0, errPaRange := 0, errLostWrite := 0 })] ++
  (List.range 6).flatMap (fun k =>
    [sc k (fun f => { f with valid := false, overflow := 0, ctx := 0, code := 0 }), sc k (fun f => { f with pc := f.pc / 2 ^ 32 * 2 ^ 32 })
    , sc k (fun f => { f with pc := f.pc % 2 ^ 32 }), sc k (fun f => { f with block := 0 }), sc k (fun f => { f with group := 0 })
    , sc k (fun f => { f with mask := 0 }), sc k (fun f => { f with addr := f.addr / 2 ^ 32 * 2 ^ 32 })
    , sc k (fun f => { f with addr := f.addr % 2 ^ 32 })]) ++
  savedErr (11 + 5 * q) q

/-- Every register of R467's table. -/
def savedRegs : List Saved :=
  savedFe ++ savedPhase ++ savedIcu ++ savedMmu ++ savedErr 1 4 ++ savedGlb ++ savedPcie ++ savedFront ++ (List.range 4).flatMap savedQuarter

/-- The register whose saved value the byte at `addr` of the save memory holds a part of. The spec gives no layout of that memory: a free choice of the
device (log 169). -/
def savedReg (addr : Nat) : Saved := savedRegs.getD (Config.savedAt addr % savedRegs.length) (0, id)

/-- A byte of the save memory is damaged beyond correction. Where its register's domain is not off, nothing will be restored from it. -/
def saveDamage (addr : Nat) (d : Dev) : Dev :=
  let dom := (savedReg addr).1
  if d.clk.domains.getD dom 0 ≠ 0 ∨ d.pwr.saveLost.contains addr then d else
  { d with pwr := { d.pwr with saveLost := d.pwr.saveLost ++ [addr] } }

/-- The registers of the domains `doms` are restored: single errors are corrected and counted, and a register with a damaged byte returns to its
reset value (R30, R421, R467). -/
def restoreSaved (doms : List Nat) (d : Dev) : Dev :=
  let back := fun (a : Nat) => doms.contains (savedReg a).1
  let hits := d.err.upsets.filter (fun u => u.table == 4 && u.source == 7 && back u.loc)
  let d := { d with err := { d.err with upsets := d.err.upsets.filter (fun u => !(u.table == 4 && u.source == 7 && back u.loc)) } }
  let lost := d.pwr.saveLost.filter back ++ (hits.filter (·.double)).map (·.loc)
  let d := lost.foldl (fun d a => (savedReg a).2 d) { d with pwr := { d.pwr with saveLost := d.pwr.saveLost.filter (fun a => !back a) } }
  hits.foldl (fun d u => (logError 4 u.double 7 u.loc u.syndrome d)) d

end Sys2Proof.Machine
end

