-- ==== Sys2Proof/Machine/Integrity.lean ====
section
/-! DEFINITION. Integrity events: the patrol scrub (R426), the control word store (R434), parity and spine
errors (R435, R437), the error logs' registers (R427, R442). -/

namespace Sys2Proof.Machine

/-- SCRUB_SECTOR of quarter `q` (R426): the next sector is read with what the read finds; a correctable error is
written back, an uncorrectable one sets the poison field (R424). A completed pass increments PASSES. -/
def scrubSector (q : Nat) (e : SectorErr) (d : Dev) : Dev :=
  let t := d.err.tabs.getD q ErrTab.init
  if 4 ≤ q ∨ t.scrubEn = false ∨ (sliceOf d q).memLost ∨ d.clk.domains.getD (11 + 5 * q) 0 ≠ 1 then d else
  let sec := t.scrubPos / 32
  let e := if e = noErr then aget (sliceOf d q).latent sec else e
  let field := aget (sliceOf d q).dramPoison sec ^^^ (e.flips % 64)
  let r := dramSector q sec e d
  let d := if popcount 6 field < 4 ∧ e.code ≠ 2 ∧ (field ≠ 0 ∨ e.code ≠ 0) then dramPut q sec r.1.1 false r.2 else r.2
  let pos := t.scrubPos + 32
  let wrap := decide (dramBytes ≤ pos)
  { d with err := { d.err with tabs := upd d.err.tabs q (fun t => { t with
    scrubPos := if wrap then 0 else pos, passes := if wrap then satInc 65535 t.passes else t.passes }) } }

/-- CWS_SCRUB: every control word is voted (R434). `fixes` words had one differing copy; `split` tells that some word's
three copies all differed. -/
def cwsScrub (c : Cfg) (fixes : Nat) (split : Bool) (d : Dev) : Dev :=
  if d.boot.phase ≠ 2 ∨ d.clk.domains.getD 1 0 ≠ 1 then d else
  let e := d.err
  let d := { d with err := { e with voteFix := satAdd 65535 e.voteFix fixes, cwsPasses := satInc 65535 e.cwsPasses } }
  if split then enterDevFault c 1 d else d

/-- TOKEN_PARITY_ERROR (R435). -/
def tokenParity (c : Cfg) (d : Dev) : Dev := if d.boot.phase ≠ 2 then d else enterDevFault c 2 d

/-- CREDIT_PARITY_ERROR (R435). -/
def creditParity (c : Cfg) (d : Dev) : Dev := if d.boot.phase ≠ 2 then d else enterDevFault c 3 d

/-- SPINE_UE (R30, R437): an uncorrectable error of a spine memory, logged in the spine table. `kind` 0 is control state and
enters the fault state; 1 is the walk cache, whose entry is discarded; 2 is a data memory of class `cls`, instance `i`:
the outputs of the command running there carry the mark, as do the pixels of one sector that pipe `i` of the compositor shows in its next line;
3 is a byte of the AO save memory (DESIGN CHOICE, log 169: the array bits of `loc` name the layer, the byte address the place in its fetched row). -/
def spineUe (c : Cfg) (kind cls i loc syn : Nat) (d : Dev) : Dev :=
  if d.boot.phase ≠ 2 ∨ d.clk.domains.getD 1 0 ≠ 1 then d else
  let d := logError 4 true (if kind = 3 then 7 else 6) loc (syn % 32) d
  if kind = 0 then enterDevFault c 4 d
  else if kind = 1 then
    { d with mmu := { d.mmu with wc := d.mmu.wc.eraseIdx (loc % 1024) } }
  else if kind = 2 then
    if cls = 7 then setPipe (i % 2) (fun s => { s with hurt := some (loc / 2 ^ 48 % 8, loc % 2 ^ 32) }) d else
    match (instOf d (instIdx cls 0 i)).run with
    | some r =>
      setInst (setCmd d r.serial (fun x => { x with poisoned := true })) (instIdx cls 0 i) (fun s => { s with run := some { r with taint := true } })
    | none => d
  else saveDamage loc d

/-- The block of error table `k` answers: the spine's always, a quarter's while its memory domain is on (R442). -/
def errBlockOn (k : Nat) (d : Dev) : Bool :=
  if k = 4 then true else decide (k < 4) && d.clk.domains.getD (11 + 5 * k) 0 == 1 && d.pwr.state != 3

/-- ERR_LOG_FREE: a write of 1 to VALID of entry `e` in table `k` zeroes the entry (R427). -/
def errLogFree (k e v : Nat) (d : Dev) : Dev :=
  if errBlockOn k d = false ∨ bit v 31 = false ∨ d.boot.phase = 0 then d else
  { d with err := { d.err with tabs := upd d.err.tabs k (fun t => { t with log := t.log.set e none }) } }

/-- ERR_CLEAR of table `k` (R442). -/
def errClear (k v : Nat) (d : Dev) : Dev :=
  if errBlockOn k d = false ∨ bit v 0 = false ∨ d.boot.phase = 0 then d else
  { d with err := { d.err with tabs := upd d.err.tabs k (fun t => { t with
    dramCe := 0, onchipCe := 0, dramUe := 0, onchipUe := 0, poisonRead := 0 }) } }

end Sys2Proof.Machine
end

