-- ==== Sys2Proof/Machine/ObsCmds.lean ====
section
/-! DEFINITION. Observation commands: snapshot and clears (R504, R505), the drain ring's read index (R513). -/

namespace Sys2Proof.Machine

/-- A write of OBS_CTRL (R515): CNT_EN is set, SNAP copies every counter, then CNT_CLEAR zeroes them. -/
def obsCtrl (v : Nat) (d : Dev) : Dev :=
  if obsOn d = false then d else
  let o := { d.obs with cntEn := bit v 0 }
  let o := if bit v 2 then { o with snap := o.cnt } else o
  { d with obs := if bit v 1 then { o with cnt := [] } else o }

/-- OBS_SNAP: a write of OBS_CTRL with SNAP set. -/
def obsSnap (v : Nat) (d : Dev) : Dev := obsCtrl (putBit (v % 2 ^ 32) 2 true) d

/-- OBS_CNT_CLEAR: a write of OBS_CTRL with CNT_CLEAR set. -/
def obsCntClear (v : Nat) (d : Dev) : Dev := obsCtrl (putBit (v % 2 ^ 32) 1 true) d

/-- OBS_DROP_CLEAR (R515). -/
def obsDropClear (v : Nat) (d : Dev) : Dev :=
  if obsOn d && bit v 0 then { d with obs := { d.obs with bufDropped := 0, portDropped := 0 } } else d

/-- OBS_DRAIN_RPTR_WRITE: accepted under the conditions of R338 with the size of the drain ring (R513); the buffer then drains
as far as there is room. -/
def obsDrainRptr (v : Nat) (d : Dev) : Dev :=
  let o := d.obs
  let size := obsDrainSize o
  let v := v % 2 ^ 32
  if obsOn d && idxLe o.drainW v size && idxLe v o.drainR size then
    obsDrain { d with obs := { o with drainR := v } }
  else d

end Sys2Proof.Machine
end

