-- ==== Sys2Proof/Machine/Pack.lean ====
section
/-! DEFINITION. Pack engines and check-value units (R400 to R419). -/

namespace Sys2Proof.Machine

/-! ### Element types (R400, R403) -/

/-- Element size. -/
def pkSize (ty : Nat) : Nat := if ty = 0 then 1 else if ty = 3 then 4 else 2
/-- Channels. -/
def pkChans (ty : Nat) : Nat := if ty = 3 then 4 else 1
/-- Channel width. -/
def pkWidth (ty : Nat) : Nat := if ty = 0 ∨ ty = 3 then 8 else 16
/-- Bytes of an output block. -/
def pkBlock (ratio : Nat) : Nat := if ratio = 1 then 128 else 64
/-- Symbol width of QUANT. -/
def pkK (ty ratio : Nat) : Nat := if ty = 0 ∨ ty = 3 then (if ratio = 1 then 3 else 1) else (if ratio = 1 then 7 else 3)
/-- Largest useful q. -/
def pkQmax (ty ratio : Nat) : Nat := if ty = 0 ∨ ty = 3 then (if ratio = 1 then 7 else 9) else (if ratio = 1 then 11 else 15)

/-- The ends of a channel's domain. -/
def pkLo (ty : Nat) : Int := if ty = 0 then -127 else if ty = 1 then -32767 else if ty = 2 then -0x7F80 else 0
/-- The upper end. -/
def pkHi (ty : Nat) : Int := if ty = 0 then 127 else if ty = 1 then 32767 else if ty = 2 then 0x7F80 else 255

/-- Whether a channel code is one of R409: NaR, NaN, BF16 minus zero. -/
def pkSpecial (ty v : Nat) : Bool :=
  if ty = 0 then v == 0x80 else if ty = 1 then v == 0x8000
  else if ty = 2 then decide (0x7F80 < v % 0x8000) || v == 0x8000 else false

/-- The domain value of a channel code. -/
def pkDomain (ty v : Nat) : Int :=
  if pkSpecial ty v then 0
  else if ty = 3 then (v : Int)
  else
    let m := v % 2 ^ (pkWidth ty - 1)
    if bit v (pkWidth ty - 1) then -(m : Int) else (m : Int)

/-- The channel code of a domain value; 0 gives +0. -/
def pkCode (ty : Nat) (r : Int) : Nat :=
  if ty = 3 then r.toNat
  else if r < 0 then r.natAbs + 2 ^ (pkWidth ty - 1) else r.toNat

/-- The channel codes of a block's bytes, elements in order. -/
def pkCodes (ty : Nat) (b : List Byte) : List Nat :=
  let w := pkWidth ty / 8
  (List.range (b.length / w)).map (fun i => getLe b (w * i) w)

/-- The bytes of channel codes. -/
def pkBytes (ty : Nat) (l : List Nat) : List Byte := l.flatMap (leBytes (pkWidth ty / 8))

/-- Bit fields of `k` bits, the first in the lowest bits. -/
def packBits (k : Nat) (l : List Nat) : Nat := l.zipIdx.foldl (fun a (v, i) => a + v % 2 ^ k * 2 ^ (k * i)) 0

/-! ### Coding (R407 to R409) -/

/-- A decoded block of the history: content and whether it is poisoned. -/
structure PkHist where
  data : List Byte
  poison : Bool
deriving Inhabited

/-- Runs of equal elements: element and count. -/
def pkRuns : List (List Byte) → List (List Byte × Nat)
  | [] => []
  | x :: rest =>
    match pkRuns rest with
    | (y, k) :: more => if x = y then (y, k + 1) :: more else (x, 1) :: (y, k) :: more
    | [] => [(x, 1)]

/-- The elements of a block. -/
def pkElems (ty : Nat) (b : List Byte) : List (List Byte) :=
  (List.range (b.length / pkSize ty)).map (fun i => (b.drop (i * pkSize ty)).take (pkSize ty))

/-- The level of a symbol. -/
def pkLevel (k q : Nat) (j : Nat) : Int := (2 * (j : Int) - (2 ^ k - 1)) * (2 ^ q : Int) / 2

/-- The symbol nearest to a residual, ties to the lower level. -/
def pkSymbol (k q : Nat) (e : Int) : Nat :=
  (List.range (2 ^ k)).foldl (fun b j =>
    if (e - pkLevel k q j).natAbs < (e - pkLevel k q b).natAbs then j else b) 0

/-- A value limited to the domain. -/
def pkLimit (ty : Nat) (v : Int) : Int := if v < pkLo ty then pkLo ty else if pkHi ty < v then pkHi ty else v

/-- QUANT of a block's domain values: symbols, decoded values, and whether every residual fits. Values come channel by channel in order; `prev`
holds the last decoded value of each channel. -/
def pkQuantRun (ty k q : Nat) : List Int → List Int → List Nat × List Int × Bool
  | _, [] => ([], [], true)
  | prev, x :: rest =>
    let p := prev.headD 0
    let e := x - p
    let j := pkSymbol k q e
    let r := pkLimit ty (p + pkLevel k q j)
    let t := pkQuantRun ty k q (prev.drop 1 ++ [r]) rest
    (j :: t.1, r :: t.2.1, decide (e.natAbs ≤ 2 ^ (k - 1) * 2 ^ q) && t.2.2)

/-- A coded block: mode, parameter, content from byte 2, decoded bytes, special elements. -/
structure PkCoded where
  mode : Nat
  param : Nat
  content : List Byte
  decoded : List Byte
  special : Nat
deriving Inhabited

/-- Code a block (R407): the first mode that codes it exactly and fits, with its smallest parameter. -/
def pkEncode (ty ratio : Nat) (noRepeat : Bool) (hist : List PkHist) (b : List Byte) : PkCoded :=
  let room := pkBlock ratio - 2
  let els := pkElems ty b
  let e := pkSize ty
  let c := pkChans ty
  let w := pkWidth ty
  let n := els.length
  let first := els.headD []
  let rep := if noRepeat then none else
    (List.range (Nat.min 64 hist.length)).find? (fun d => let h := hist.getD d default; decide (b.length ≤ h.data.length) && h.data.take b.length == b)
  let runs := pkRuns els
  let codes := pkCodes ty b
  let deltas := (codes.drop c).zip codes |>.map (fun (x, p) => toSigned w ((x + 2 ^ w - p) % 2 ^ w))
  let dk := (List.range (Nat.min 15 w)).find? (fun i =>
    decide (8 * e + (n - 1) * c * (i + 1) ≤ 8 * room) && deltas.all (fun d => decide (-(2 ^ i : Int) ≤ d) && decide (d < (2 ^ i : Int))))
  if els.all (· == first) then ⟨0, 0, first, b, 0⟩
  else match rep with
  | some d => ⟨2, 0, leBytes 1 (d + 1), b, 0⟩
  | none =>
    if 1 + (runs.length - 1) * (e + 1) + e ≤ room then
      let body := (runs.take (runs.length - 1)).flatMap (fun (x, k) => x ++ leBytes 1 (k - 1)) ++ (runs.getD (runs.length - 1) default).1
      ⟨1, 0, leBytes 1 (runs.length - 1) ++ body, b, 0⟩
    else match dk with
    | some i => ⟨3, i + 1, first ++ leBytes (room - e) (packBits (i + 1) (deltas.map (ofSigned (i + 1)))), b, 0⟩
    | none =>
      let k := pkK ty ratio
      let xs := codes.map (pkDomain ty)
      let x0 := xs.take c
      let q := ((List.range (pkQmax ty ratio)).find? (fun q => (pkQuantRun ty k (q + 1) x0 (xs.drop c)).2.2)).getD (pkQmax ty ratio - 1) + 1
      let r := pkQuantRun ty k q x0 (xs.drop c)
      ⟨4, q, pkBytes ty (x0.map (pkCode ty)) ++ leBytes (room - e) (packBits k r.1), pkBytes ty ((x0 ++ r.2.1).map (pkCode ty)),
        (codes.filter (pkSpecial ty)).length⟩

/-- The bytes of an output block. -/
def pkOutput (ratio vlen : Nat) (x : PkCoded) : List Byte :=
  let b := leBytes 1 (x.mode + 16 * x.param) ++ leBytes 1 (vlen - 1) ++ x.content
  (b ++ List.replicate 128 0).take (pkBlock ratio)

/-! ### Decoding (R401 to R404, R410) -/

/-- Decode the runs of a RUN block: elements left, runs left, bytes; none when a count overruns. -/
def pkUnrun (e : Nat) : Nat → Nat → List Byte → Option (List Byte)
  | 0, left, bs => if left = 0 ∨ bs.length < e then none else some ((List.replicate left (bs.take e)).flatten)
  | m + 1, left, bs =>
    if bs.length < e + 1 then none else
    let k := getLe bs e 1 + 1
    if left < k then none
    else (pkUnrun e m (left - k) (bs.drop (e + 1))).map (fun t => (List.replicate k (bs.take e)).flatten ++ t)

/-- What a block decodes to: mode, bytes, poison copied by a REPEAT; or an error code of R411. -/
def pkDecode (ty ratio idx : Nat) (hist : List PkHist) (b : List Byte) : Nat × Except Nat (List Byte × Bool) :=
  let mode := getLe b 0 1 % 16
  let par := getLe b 0 1 / 16
  let vlen := getLe b 1 1 + 1
  let e := pkSize ty
  let c := pkChans ty
  let w := pkWidth ty
  let n := vlen / e
  let s := pkBlock ratio
  let k := if mode = 3 then par else pkK ty ratio
  let bad := decide (5 ≤ mode) || vlen % e != 0 || (decide (mode ≤ 2) && par != 0) || (mode == 3 && (par == 0 || decide (w < par))) ||
    (mode == 4 && par == 0) || (decide (3 ≤ mode) && decide (8 * (s - 2) < 8 * e + (n - 1) * c * k))
  if bad then (mode, .error 1)
  else if mode = 0 then (mode, .ok ((List.replicate n (slice b 2 e)).flatten, false))
  else if mode = 1 then
    match pkUnrun e (getLe b 2 1) n (b.drop 3) with
    | some o => (mode, .ok (o, false))
    | none => (mode, .error 3)
  else if mode = 2 then
    let d := getLe b 2 1
    if d = 0 ∨ 64 < d ∨ idx < d then (mode, .error 2)
    else
      let h := hist.getD (d - 1) default
      if h.data.length < vlen then (mode, .error 3) else (mode, .ok (h.data.take vlen, h.poison))
  else
    let first := slice b 2 e
    let word := leNat (slice b (2 + e) (s - 2 - e))
    let syms := (List.range ((n - 1) * c)).map (fun i => word / 2 ^ (k * i) % 2 ^ k)
    if mode = 3 then
      let out := syms.foldl (fun (acc : List Nat × List Nat) d =>
        let v := (acc.1.headD 0 + ofSigned w (toSigned k d)) % 2 ^ w
        (acc.1.drop 1 ++ [v], v :: acc.2)) (pkCodes ty first, [])
      (mode, .ok (first ++ pkBytes ty out.2.reverse, false))
    else
      let out := syms.foldl (fun (acc : List Int × List Int) j =>
        let v := pkLimit ty (acc.1.headD 0 + pkLevel k par j)
        (acc.1.drop 1 ++ [v], v :: acc.2)) ((pkCodes ty first).map (pkDomain ty), [])
      (mode, .ok (first ++ pkBytes ty (out.2.reverse.map (pkCode ty)), false))

/-! ### Commands (R405, R411, R412) -/

/-- What a PACK command has done so far. -/
structure PkAcc where
  hist : List PkHist
  modes : List Nat
  maxQ : Nat
  err : Nat
  errs : List Nat
  errBlock : Nat
  special : Nat
  bytes : Nat
deriving Inhabited

/-- Nothing done. -/
def PkAcc.init : PkAcc := ⟨[], [0, 0, 0, 0, 0], 0, 0, [0, 0, 0], 0, 0, 0⟩

/-- Count a block of a mode. -/
def PkAcc.count (a : PkAcc) (mode q special bytes : Nat) (h : PkHist) : PkAcc :=
  { a with
    hist := (h :: a.hist).take 64, modes := a.modes.modify mode (· + 1), maxQ := if mode = 4 then Nat.max a.maxQ q else a.maxQ
    special := a.special + special, bytes := a.bytes + bytes }

/-- The checks of R405. -/
def packOk (b : List Byte) : Bool :=
  let op := getLe b 0 1
  let len := getLe b 8 8
  let s := pkBlock (getLe b 2 1)
  (op == 1 || op == 2) && decide (getLe b 1 1 ≤ 3) && inRange (getLe b 2 1) 1 2 && getLe b 0x20 8 % 64 == 0 &&
    (if op = 1 then inRange len 1 (2 ^ 40) && len % pkSize (getLe b 1 1) == 0 && getLe b 0x10 8 % 128 == 0 && getLe b 0x18 8 % s == 0
     else inRange len 1 (2 ^ 32) && getLe b 0x10 8 % s == 0 && getLe b 0x18 8 % 128 == 0)

/-- Data to write: open bytes in place of them where the ranges overlap (R405). -/
def openWhen (o : Bool) (l : List PByte) : Eng (List PByte) := do
  if o then
    let r := freeBytes l.length (← get)
    set r.2
    pure (mark (ppoison l) r.1)
  else pure l

/-- The status record (R411). -/
def packStatus (a : PkAcc) (blocks : Nat) : List Byte :=
  leBytes 4 blocks ++ a.modes.flatMap (leBytes 4) ++ leBytes 1 a.maxQ ++ leBytes 1 a.err ++ leBytes 2 0 ++ leBytes 4 a.errs.sum ++
    leBytes 4 a.errBlock ++ leBytes 4 a.special ++ leBytes 8 a.bytes ++ leBytes 16 0

/-- The end of a PACK command: its status record. -/
def packFinish (c : Cfg) (rq : Rq) (addr blocks : Nat) (a : PkAcc) : Eng Unit :=
  if addr ≠ 0 then eWrite c rq addr (mark false (packStatus a blocks)) else pure ()

/-- Count a block of an engine with error `e` (1 to 3), or with 0 the command's first QUANT block (R419). -/
def packCount (i e : Nat) (d : Dev) : Dev :=
  { d with pack := upd d.pack i (fun p =>
    if e = 0 then { p with quantCmds := satInc 255 p.quantCmds }
    else if e = 1 then { p with illegal := satInc 255 p.illegal }
    else if e = 2 then { p with distance := satInc 255 p.distance }
    else { p with overrun := satInc 255 p.overrun }) }

/-- Note poison of the command's outputs. -/
def notePoison (k : Nat) (p : Bool) : Eng Unit := liftDev (setRun k (fun r => { r with poison := r.poison || p }))

/-- COMPRESS of block `j`. -/
def compressBlock (c : Cfg) (rq : Rq) (k : Nat) (b : List Byte) (meets : Bool) (a : PkAcc) (j : Nat) : Eng PkAcc := do
  let n := Nat.min 256 (getLe b 8 8 - 256 * j)
  let ratio := getLe b 2 1
  let src ← eRead c rq (getLe b 0x10 8 + 256 * j) n
  let x := pkEncode (getLe b 1 1) ratio (bit (getLe b 3 1) 0) a.hist (pdata src)
  let out ← openWhen meets (mark (ppoison src) (pkOutput ratio n x))
  eWrite c rq (getLe b 0x18 8 + pkBlock ratio * j) out
  notePoison k (ppoison src)
  onceDo k (fun d =>
    let d := if x.mode = 4 ∧ a.modes.getD 4 0 = 0 then packCount rq.inst 0 d else d
    obsCount 0xA0 4 rq.inst rq.ctx 1 d)
  pure (a.count x.mode x.param x.special (pkBlock ratio) ⟨x.decoded, ppoison src⟩)

/-- DECOMPRESS of block `j`. -/
def decompressBlock (c : Cfg) (rq : Rq) (k : Nat) (b : List Byte) (meets : Bool) (a : PkAcc) (j : Nat) : Eng PkAcc := do
  let ratio := getLe b 2 1
  let s := pkBlock ratio
  let src ← eRead c rq (getLe b 0x10 8 + s * j) s
  let bad := ppoison src
  let vlen := getLe (pdata src) 1 1 + 1
  let r := pkDecode (getLe b 1 1) ratio j a.hist (pdata src)
  let data := match r.2 with
    | .ok (o, p) => mark (p || bad) o
    | .error _ => mark true (List.replicate vlen 0)
  let out ← openWhen meets data
  eWrite c rq (getLe b 0x18 8 + 256 * j) out
  notePoison k (ppoison data)
  onceDo k (fun d =>
    let d := match r.2 with
      | .ok _ => if r.1 = 4 ∧ a.modes.getD 4 0 = 0 then packCount rq.inst 0 d else d
      | .error e => if bad then d else packCount rq.inst e d
    obsCount 0xA0 4 rq.inst rq.ctx 1 d)
  let h : PkHist := ⟨pdata data, ppoison data⟩
  match r.2 with
  | .ok _ => pure (a.count r.1 (getLe (pdata src) 0 1 / 16) 0 vlen h)
  | .error e =>
    if bad then pure { a with hist := (h :: a.hist).take 64, bytes := a.bytes + vlen }
    else pure { a with
      hist := (h :: a.hist).take 64, bytes := a.bytes + vlen, err := if a.err = 0 then e else a.err
      errBlock := if a.err = 0 then j else a.errBlock, errs := a.errs.modify (e - 1) (· + 1) }

/-- Blocks `0` to `n - 1` of a command in order. -/
def packLoop (f : PkAcc → Nat → Eng PkAcc) : Nat → Nat → PkAcc → Eng PkAcc
  | 0, _, a => pure a
  | n + 1, j, a => do
    let a ← f a j
    packLoop f n (j + 1) a

/-- An engine has taken a command: its status names the context from then on (R419). -/
def packTaken (i : Nat) (d : Dev) : Dev :=
  match runOf d 8 0 i with
  | some (r, _) => { d with pack := upd d.pack i (fun p => { p with ctx := r.ctx }) }
  | none => d

/-- A pack engine's command of an operation. -/
def packCmd (c : Cfg) (i op : Nat) (d : Dev) : Dev :=
  payloadUnit c 8 0 i 128 (fun _ b => packOk b) (fun _ b => getLe b 0 1 == op) (fun _ _ rq b => resumable (instIdx 8 0 i) do
    let k := instIdx 8 0 i
    let len := getLe b 8 8
    let s := pkBlock (getLe b 2 1)
    let blocks := if op = 1 then ceilDiv len 256 else len
    let meets := if op = 1 then vaMeet (getLe b 0x10 8) len (getLe b 0x18 8) (s * blocks)
      else vaMeet (getLe b 0x10 8) (s * blocks) (getLe b 0x18 8) (256 * blocks)
    let a ← packLoop (if op = 1 then compressBlock c rq k b meets else decompressBlock c rq k b meets) blocks 0 PkAcc.init
    packFinish c rq (getLe b 0x20 8) blocks a) (packTaken i d)

/-- PACK_COMPRESS. -/
def packCompress (c : Cfg) (i : Nat) : Dev → Dev := packCmd c i 1
/-- PACK_DECOMPRESS. -/
def packDecompress (c : Cfg) (i : Nat) : Dev → Dev := packCmd c i 2

/-- PACK_CLEAR. -/
def packClear (v : Nat) (d : Dev) : Dev :=
  if bit v 0 then { d with pack := d.pack.map (fun p => { p with illegal := 0, distance := 0, overrun := 0, quantCmds := 0 }) } else d

/-! ### Check values (R416 to R418) -/

/-- The parameters of a CVU command. -/
def cvuParam (b : List Byte) : CrcParam :=
  if getLe b 1 1 = 0 then
    ⟨getLe b 3 1, getLe b 8 8, getLe b 0x10 8, bit (getLe b 2 1) 0, bit (getLe b 2 1) 1, getLe b 0x18 8⟩
  else crcPreset (getLe b 1 1)

/-- The checks of R416. -/
def cvuOk (b : List Byte) : Bool :=
  let p := cvuParam b
  getLe b 0 1 == 1 && decide (getLe b 1 1 ≤ 9) && inRange p.width 1 64 && decide (p.poly < 2 ^ p.width) && decide (p.init < 2 ^ p.width) &&
    decide (p.xorout < 2 ^ p.width) && decide (getLe b 0x28 8 ≤ 2 ^ 40) && getLe b 0x30 8 % 8 == 0 && getLe b 0x38 8 % 8 == 0

/-- Scan a range in pieces of 4 KiB: running value and poison. -/
def cvuLoop (c : Cfg) (rq : Rq) (p : CrcParam) : Nat → Nat → Nat → Nat × Bool → Eng (Nat × Bool)
  | 0, _, _, a => pure a
  | k + 1, va, left, a => do
    let n := Nat.min 4096 left
    let d ← eRead c rq va n
    onceDo (instIdx 9 0 rq.inst) (obsCount 0xA1 4 rq.inst rq.ctx (sectorsOf va n).length)
    cvuLoop c rq p k (va + n) (left - n) (crcRun p a.1 (pdata d), a.2 || ppoison d)

/-- A unit has taken a command: its status names the context, and the preset once the payload has come (R419). -/
def cvuTaken (c : Cfg) (i : Nat) (d : Dev) : Dev :=
  match runOf d 9 0 i with
  | none => d
  | some (r, x) =>
    let d := { d with cvu := upd d.cvu i (fun s => { s with ctx := r.ctx }) }
    match (runEng (ePayload c (rqUnit c x 9 0 i) x.entry.payload 64) d).1 with
    | .ok b => { d with cvu := upd d.cvu i (fun s => { s with preset := getLe b 1 1 }) }
    | .error _ => d

/-- CVU_SCAN on unit `i`. -/
def cvuScan (c : Cfg) (i : Nat) (d : Dev) : Dev :=
  payloadUnit c 9 0 i 64 (fun _ b => cvuOk b) (fun _ _ => true) (fun _ _ rq b => resumable (instIdx 9 0 i) do
    let k := instIdx 9 0 i
    let p := cvuParam b
    let start ← if bit (getLe b 2 1) 2 then do
        let w ← eRead c rq (getLe b 0x30 8) 8
        pure (leNat (pdata w) % 2 ^ p.width, ppoison w)
      else pure (p.init, false)
    let len := getLe b 0x28 8
    let v ← cvuLoop c rq p (ceilDiv len 4096) (getLe b 0x20 8) len start
    eWrite c rq (getLe b 0x30 8) (mark v.2 (leBytes 8 v.1))
    if getLe b 0x38 8 ≠ 0 then eWrite c rq (getLe b 0x38 8) (mark v.2 (leBytes 8 (crcCheck p v.1)))
    notePoison k v.2
    liftDev (fun d => { d with cvu := upd d.cvu i (fun s => { s with value := v.1 }) })) (cvuTaken c i d)

end Sys2Proof.Machine
end

