-- ==== Sys2Proof/Machine/Hash.lean ====
section
/-! DEFINITION. The hash functions that the spec names by standard (R45, R497): SHA-384 and SHA-512 (FIPS 180-4), HKDF with SHA-384 (RFC 5869), and the
SHAKE functions (FIPS 202) on which ML-DSA-65 rests. The standards are taken from outside the spec (PRESUMED, log 135). -/

namespace Sys2Proof.Machine

/-! ### Big-endian numbers -/

/-- The number that bytes spell, the first the most significant. -/
def beNat (l : List Byte) : Nat := l.foldl (fun a b => 256 * a + b.toNat) 0

/-- `n` bytes of a number, the most significant first. -/
def beBytes (n v : Nat) : List Byte := (leBytes n v).reverse

/-- The first `n` pieces of `size` bytes, the last filled with zeros. -/
def pieces (size n : Nat) (l : List Byte) : List (List Byte) := (List.range n).map (fun i => slice l (size * i) size)

/-- Exclusive or of two byte strings. -/
def xorBytes (a b : List Byte) : List Byte := List.zipWith (fun x y => x ^^^ y) a b

/-! ### SHA-384 and SHA-512 -/

/-- Round constants of FIPS 180-4: the fractional parts of the cube roots of the first 80 primes. -/
def shaKeys : List Nat :=
  [0x428A2F98D728AE22, 0x7137449123EF65CD, 0xB5C0FBCFEC4D3B2F, 0xE9B5DBA58189DBBC] ++
  [0x3956C25BF348B538, 0x59F111F1B605D019, 0x923F82A4AF194F9B, 0xAB1C5ED5DA6D8118] ++
  [0xD807AA98A3030242, 0x12835B0145706FBE, 0x243185BE4EE4B28C, 0x550C7DC3D5FFB4E2] ++
  [0x72BE5D74F27B896F, 0x80DEB1FE3B1696B1, 0x9BDC06A725C71235, 0xC19BF174CF692694] ++
  [0xE49B69C19EF14AD2, 0xEFBE4786384F25E3, 0x0FC19DC68B8CD5B5, 0x240CA1CC77AC9C65] ++
  [0x2DE92C6F592B0275, 0x4A7484AA6EA6E483, 0x5CB0A9DCBD41FBD4, 0x76F988DA831153B5] ++
  [0x983E5152EE66DFAB, 0xA831C66D2DB43210, 0xB00327C898FB213F, 0xBF597FC7BEEF0EE4] ++
  [0xC6E00BF33DA88FC2, 0xD5A79147930AA725, 0x06CA6351E003826F, 0x142929670A0E6E70] ++
  [0x27B70A8546D22FFC, 0x2E1B21385C26C926, 0x4D2C6DFC5AC42AED, 0x53380D139D95B3DF] ++
  [0x650A73548BAF63DE, 0x766A0ABB3C77B2A8, 0x81C2C92E47EDAEE6, 0x92722C851482353B] ++
  [0xA2BFE8A14CF10364, 0xA81A664BBC423001, 0xC24B8B70D0F89791, 0xC76C51A30654BE30] ++
  [0xD192E819D6EF5218, 0xD69906245565A910, 0xF40E35855771202A, 0x106AA07032BBD1B8] ++
  [0x19A4C116B8D2D0C8, 0x1E376C085141AB53, 0x2748774CDF8EEB99, 0x34B0BCB5E19B48A8] ++
  [0x391C0CB3C5C95A63, 0x4ED8AA4AE3418ACB, 0x5B9CCA4F7763E373, 0x682E6FF3D6B2B8A3] ++
  [0x748F82EE5DEFB2FC, 0x78A5636F43172F60, 0x84C87814A1F0AB72, 0x8CC702081A6439EC] ++
  [0x90BEFFFA23631E28, 0xA4506CEBDE82BDE9, 0xBEF9A3F7B2C67915, 0xC67178F2E372532B] ++
  [0xCA273ECEEA26619C, 0xD186B8C721C0C207, 0xEADA7DD6CDE0EB1E, 0xF57D4F7FEE6ED178] ++
  [0x06F067AA72176FBA, 0x0A637DC5A2C898A6, 0x113F9804BEF90DAE, 0x1B710B35131C471B] ++
  [0x28DB77F523047D84, 0x32CAAB7B40C72493, 0x3C9EBE0A15C9BEBC, 0x431D67C49C100D4C] ++
  [0x4CC5D4BECB3E42B6, 0x597F299CFC657E2A, 0x5FCB6FAB3AD6FAEC, 0x6C44198C4A475817]

/-- The first hash value of SHA-512. -/
def sha512Start : List Nat :=
  [0x6A09E667F3BCC908, 0xBB67AE8584CAA73B, 0x3C6EF372FE94F82B, 0xA54FF53A5F1D36F1] ++
  [0x510E527FADE682D1, 0x9B05688C2B3E6C1F, 0x1F83D9ABFB41BD6B, 0x5BE0CD19137E2179]

/-- The first hash value of SHA-384. -/
def sha384Start : List Nat :=
  [0xCBBB9D5DC1059ED8, 0x629A292A367CD507, 0x9159015A3070DD17, 0x152FECD8F70E5939] ++
  [0x67332667FFC00B31, 0x8EB44A8768581511, 0xDB0C2E0D64F98FA7, 0x47B5481DBEFA4FA4]

/-- A 64-bit word rotated right. -/
def rotRight (n x : Nat) : Nat := ((x >>> n) ||| (x <<< (64 - n))) % 2 ^ 64

/-- Word `i` of a number that holds 64-bit words, the first the least significant. -/
def word64 (i x : Nat) : Nat := x / 2 ^ (64 * i) % 2 ^ 64

/-- One round: the eight working variables, and the next sixteen words of the message schedule. -/
def shaRound (s : List Nat × Nat) (k : Nat) : List Nat × Nat :=
  match s.1 with
  | [a, b, c, d, e, f, g, h] =>
    let t1 := h + (rotRight 14 e ^^^ rotRight 18 e ^^^ rotRight 41 e) + ((e &&& f) ^^^ ((2 ^ 64 - 1 - e) &&& g)) + k + word64 0 s.2
    let t2 := (rotRight 28 a ^^^ rotRight 34 a ^^^ rotRight 39 a) + ((a &&& b) ^^^ (a &&& c) ^^^ (b &&& c))
    let w1 := word64 1 s.2
    let w14 := word64 14 s.2
    let s0 := rotRight 1 w1 ^^^ rotRight 8 w1 ^^^ (w1 >>> 7)
    let s1 := rotRight 19 w14 ^^^ rotRight 61 w14 ^^^ (w14 >>> 6)
    ([(t1 + t2) % 2 ^ 64, a, b, c, (d + t1) % 2 ^ 64, e, f, g],
      s.2 / 2 ^ 64 + 2 ^ 960 * ((s1 + word64 9 s.2 + s0 + word64 0 s.2) % 2 ^ 64))
  | _ => s

/-- One block of 128 bytes. -/
def shaBlock (h : List Nat) (b : List Byte) : List Nat :=
  let w := leNat ((pieces 8 16 b).flatMap List.reverse)
  List.zipWith (fun x y => (x + y) % 2 ^ 64) h (shaKeys.foldl shaRound (h, w)).1

/-- The message with its padding and its length in bits. -/
def shaPad (m : List Byte) : List Byte :=
  m ++ [0x80] ++ List.replicate ((239 - m.length % 128) % 128) 0 ++ beBytes 16 (8 * m.length)

/-- The 64 bytes of the last hash value. -/
def shaRun (start : List Nat) (m : List Byte) : List Byte :=
  let p := shaPad m
  ((pieces 128 (p.length / 128) p).foldl shaBlock start).flatMap (beBytes 8)

/-- SHA-512. -/
def sha512 (m : List Byte) : List Byte := shaRun sha512Start m

/-- SHA-384, 48 bytes (R45). -/
@[irreducible] def sha384 (m : List Byte) : List Byte := (shaRun sha384Start m).take 48

/-! ### HKDF-SHA-384 (R497) -/

/-- HMAC-SHA-384 under a key of at most 128 bytes. -/
def hmac384 (key m : List Byte) : List Byte :=
  let k := slice key 0 128
  sha384 (k.map (fun b => b ^^^ 0x5C) ++ sha384 (k.map (fun b => b ^^^ 0x36) ++ m))

/-- The expansion's blocks T(i), T(i+1) and so on, `n` of them, after the block `t`. -/
def hkdfBlocks (prk info : List Byte) : Nat → Nat → List Byte → List Byte
  | 0, _, _ => []
  | n + 1, i, t =>
    let u := hmac384 prk (t ++ info ++ leBytes 1 i)
    u ++ hkdfBlocks prk info n (i + 1) u

/-- HKDF-SHA-384 with no salt: `len` bytes of a secret under an info string. -/
@[irreducible] def hkdf384 (secret info : List Byte) (len : Nat) : List Byte :=
  (hkdfBlocks (hmac384 (List.replicate 48 0) secret) info ((len + 47) / 48) 1 []).take len

/-! ### SHAKE -/

/-- Round constants of the Keccak permutation. -/
def keccakRounds : List Nat :=
  [0x0000000000000001, 0x0000000000008082, 0x800000000000808A, 0x8000000080008000] ++
  [0x000000000000808B, 0x0000000080000001, 0x8000000080008081, 0x8000000000008009] ++
  [0x000000000000008A, 0x0000000000000088, 0x0000000080008009, 0x000000008000000A] ++
  [0x000000008000808B, 0x800000000000008B, 0x8000000000008089, 0x8000000000008003] ++
  [0x8000000000008002, 0x8000000000000080, 0x000000000000800A, 0x800000008000000A] ++
  [0x8000000080008081, 0x8000000000008080, 0x0000000080000001, 0x8000000080008008]

/-- Rotation of lane x + 5 y. -/
def keccakOffsets : List Nat :=
  [0, 1, 62, 28, 27] ++
  [36, 44, 6, 55, 20] ++
  [3, 10, 43, 25, 39] ++
  [41, 45, 15, 21, 8] ++
  [18, 2, 61, 56, 14]

/-- A 64-bit lane rotated left. -/
def rotLeft (n x : Nat) : Nat := ((x <<< n) ||| (x >>> (64 - n))) % 2 ^ 64

/-- The same lane in each of the five rows of a state: a number with bit 0 of lane 5 y set for every y. -/
def keccakRows : Nat := 1 + 2 ^ 320 + 2 ^ 640 + 2 ^ 960 + 2 ^ 1280

/-- In each row every lane takes the place of the one before it, and the first lane that of the last. -/
def keccakNext (s : Nat) : Nat :=
  ((s >>> 64) &&& (keccakRows * (2 ^ 256 - 1))) ||| ((s &&& (keccakRows * (2 ^ 64 - 1))) <<< 256)

/-- One round of the Keccak permutation on a state of 1,600 bits: lane x + 5 y is word x + 5 y. -/
def keccakRound (s rc : Nat) : Nat :=
  let c := (s ^^^ (s >>> 320) ^^^ (s >>> 640) ^^^ (s >>> 960) ^^^ (s >>> 1280)) % 2 ^ 320
  let turned := (List.range 5).foldl (fun a x => a + rotLeft 1 (word64 x c) * 2 ^ (64 * x)) 0
  let before := c * 2 ^ 64 % 2 ^ 320 + c / 2 ^ 256
  let s := s ^^^ (keccakRows * (before ^^^ (keccakNext turned)))
  let b := (List.range 25).foldl (fun a j =>
    let i := (j % 5 + 3 * (j / 5)) % 5 + 5 * (j % 5)
    a + rotLeft (keccakOffsets.getD i 0) (word64 i s) * 2 ^ (64 * j)) 0
  let next := keccakNext b
  b ^^^ (((2 ^ 1600 - 1) ^^^ next) &&& keccakNext next) ^^^ rc

/-- The Keccak permutation. -/
def keccak (s : Nat) : Nat := keccakRounds.foldl keccakRound s

/-- Take in one block of the rate's length. -/
def keccakAbsorb (s : Nat) (b : List Byte) : Nat := keccak (s ^^^ leNat b)

/-- `n` blocks of output. -/
def keccakSqueeze (rate : Nat) : Nat → Nat → List Byte
  | 0, _ => []
  | n + 1, s => leBytes rate s ++ keccakSqueeze rate n (keccak s)

/-- The message with SHAKE's suffix and padding, in blocks of `rate` bytes. -/
def shakePad (rate : Nat) (m : List Byte) : List Byte :=
  let z := rate - 1 - m.length % rate
  m ++ (if z = 0 then [0x9F] else [0x1F] ++ List.replicate (z - 1) 0 ++ [0x80])

/-- `len` bytes of a SHAKE function of the given rate. -/
def shake (rate : Nat) (m : List Byte) (len : Nat) : List Byte :=
  let p := shakePad rate m
  (keccakSqueeze rate ((len + rate - 1) / rate) ((pieces rate (p.length / rate) p).foldl keccakAbsorb 0)).take len

/-- SHAKE128. -/
def shake128 (m : List Byte) (len : Nat) : List Byte := shake 168 m len

/-- SHAKE256. -/
def shake256 (m : List Byte) (len : Nat) : List Byte := shake 136 m len

end Sys2Proof.Machine
end

