-- ==== Sys2Proof/Machine/Cipher.lean ====
section
/-! DEFINITION. The ciphers that the spec names by standard: AES-256 (FIPS 197), its GCM mode (SP 800-38D), under which image bodies are encrypted
(R44 to R46), and AES key wrap (RFC 3394), under which the image key lies in the key area (R497, R498). The standards are taken from outside the
spec (PRESUMED, log 135). -/

namespace Sys2Proof.Machine

/-! ### AES-256 -/

/-- The substitution table of FIPS 197, from the substitute of 0 on, as one number of 256 bytes. -/
def sbox : Nat := leNat (
  [0x63, 0x7C, 0x77, 0x7B, 0xF2, 0x6B, 0x6F, 0xC5, 0x30, 0x01, 0x67, 0x2B, 0xFE, 0xD7, 0xAB, 0x76] ++
  [0xCA, 0x82, 0xC9, 0x7D, 0xFA, 0x59, 0x47, 0xF0, 0xAD, 0xD4, 0xA2, 0xAF, 0x9C, 0xA4, 0x72, 0xC0] ++
  [0xB7, 0xFD, 0x93, 0x26, 0x36, 0x3F, 0xF7, 0xCC, 0x34, 0xA5, 0xE5, 0xF1, 0x71, 0xD8, 0x31, 0x15] ++
  [0x04, 0xC7, 0x23, 0xC3, 0x18, 0x96, 0x05, 0x9A, 0x07, 0x12, 0x80, 0xE2, 0xEB, 0x27, 0xB2, 0x75] ++
  [0x09, 0x83, 0x2C, 0x1A, 0x1B, 0x6E, 0x5A, 0xA0, 0x52, 0x3B, 0xD6, 0xB3, 0x29, 0xE3, 0x2F, 0x84] ++
  [0x53, 0xD1, 0x00, 0xED, 0x20, 0xFC, 0xB1, 0x5B, 0x6A, 0xCB, 0xBE, 0x39, 0x4A, 0x4C, 0x58, 0xCF] ++
  [0xD0, 0xEF, 0xAA, 0xFB, 0x43, 0x4D, 0x33, 0x85, 0x45, 0xF9, 0x02, 0x7F, 0x50, 0x3C, 0x9F, 0xA8] ++
  [0x51, 0xA3, 0x40, 0x8F, 0x92, 0x9D, 0x38, 0xF5, 0xBC, 0xB6, 0xDA, 0x21, 0x10, 0xFF, 0xF3, 0xD2] ++
  [0xCD, 0x0C, 0x13, 0xEC, 0x5F, 0x97, 0x44, 0x17, 0xC4, 0xA7, 0x7E, 0x3D, 0x64, 0x5D, 0x19, 0x73] ++
  [0x60, 0x81, 0x4F, 0xDC, 0x22, 0x2A, 0x90, 0x88, 0x46, 0xEE, 0xB8, 0x14, 0xDE, 0x5E, 0x0B, 0xDB] ++
  [0xE0, 0x32, 0x3A, 0x0A, 0x49, 0x06, 0x24, 0x5C, 0xC2, 0xD3, 0xAC, 0x62, 0x91, 0x95, 0xE4, 0x79] ++
  [0xE7, 0xC8, 0x37, 0x6D, 0x8D, 0xD5, 0x4E, 0xA9, 0x6C, 0x56, 0xF4, 0xEA, 0x65, 0x7A, 0xAE, 0x08] ++
  [0xBA, 0x78, 0x25, 0x2E, 0x1C, 0xA6, 0xB4, 0xC6, 0xE8, 0xDD, 0x74, 0x1F, 0x4B, 0xBD, 0x8B, 0x8A] ++
  [0x70, 0x3E, 0xB5, 0x66, 0x48, 0x03, 0xF6, 0x0E, 0x61, 0x35, 0x57, 0xB9, 0x86, 0xC1, 0x1D, 0x9E] ++
  [0xE1, 0xF8, 0x98, 0x11, 0x69, 0xD9, 0x8E, 0x94, 0x9B, 0x1E, 0x87, 0xE9, 0xCE, 0x55, 0x28, 0xDF] ++
  [0x8C, 0xA1, 0x89, 0x0D, 0xBF, 0xE6, 0x42, 0x68, 0x41, 0x99, 0x2D, 0x0F, 0xB0, 0x54, 0xBB, 0x16])

/-- Its inverse, likewise. -/
def invSbox : Nat := leNat (
  [0x52, 0x09, 0x6A, 0xD5, 0x30, 0x36, 0xA5, 0x38, 0xBF, 0x40, 0xA3, 0x9E, 0x81, 0xF3, 0xD7, 0xFB] ++
  [0x7C, 0xE3, 0x39, 0x82, 0x9B, 0x2F, 0xFF, 0x87, 0x34, 0x8E, 0x43, 0x44, 0xC4, 0xDE, 0xE9, 0xCB] ++
  [0x54, 0x7B, 0x94, 0x32, 0xA6, 0xC2, 0x23, 0x3D, 0xEE, 0x4C, 0x95, 0x0B, 0x42, 0xFA, 0xC3, 0x4E] ++
  [0x08, 0x2E, 0xA1, 0x66, 0x28, 0xD9, 0x24, 0xB2, 0x76, 0x5B, 0xA2, 0x49, 0x6D, 0x8B, 0xD1, 0x25] ++
  [0x72, 0xF8, 0xF6, 0x64, 0x86, 0x68, 0x98, 0x16, 0xD4, 0xA4, 0x5C, 0xCC, 0x5D, 0x65, 0xB6, 0x92] ++
  [0x6C, 0x70, 0x48, 0x50, 0xFD, 0xED, 0xB9, 0xDA, 0x5E, 0x15, 0x46, 0x57, 0xA7, 0x8D, 0x9D, 0x84] ++
  [0x90, 0xD8, 0xAB, 0x00, 0x8C, 0xBC, 0xD3, 0x0A, 0xF7, 0xE4, 0x58, 0x05, 0xB8, 0xB3, 0x45, 0x06] ++
  [0xD0, 0x2C, 0x1E, 0x8F, 0xCA, 0x3F, 0x0F, 0x02, 0xC1, 0xAF, 0xBD, 0x03, 0x01, 0x13, 0x8A, 0x6B] ++
  [0x3A, 0x91, 0x11, 0x41, 0x4F, 0x67, 0xDC, 0xEA, 0x97, 0xF2, 0xCF, 0xCE, 0xF0, 0xB4, 0xE6, 0x73] ++
  [0x96, 0xAC, 0x74, 0x22, 0xE7, 0xAD, 0x35, 0x85, 0xE2, 0xF9, 0x37, 0xE8, 0x1C, 0x75, 0xDF, 0x6E] ++
  [0x47, 0xF1, 0x1A, 0x71, 0x1D, 0x29, 0xC5, 0x89, 0x6F, 0xB7, 0x62, 0x0E, 0xAA, 0x18, 0xBE, 0x1B] ++
  [0xFC, 0x56, 0x3E, 0x4B, 0xC6, 0xD2, 0x79, 0x20, 0x9A, 0xDB, 0xC0, 0xFE, 0x78, 0xCD, 0x5A, 0xF4] ++
  [0x1F, 0xDD, 0xA8, 0x33, 0x88, 0x07, 0xC7, 0x31, 0xB1, 0x12, 0x10, 0x59, 0x27, 0x80, 0xEC, 0x5F] ++
  [0x60, 0x51, 0x7F, 0xA9, 0x19, 0xB5, 0x4A, 0x0D, 0x2D, 0xE5, 0x7A, 0x9F, 0x93, 0xC9, 0x9C, 0xEF] ++
  [0xA0, 0xE0, 0x3B, 0x4D, 0xAE, 0x2A, 0xF5, 0xB0, 0xC8, 0xEB, 0xBB, 0x3C, 0x83, 0x53, 0x99, 0x61] ++
  [0x17, 0x2B, 0x04, 0x7E, 0xBA, 0x77, 0xD6, 0x26, 0xE1, 0x69, 0x14, 0x63, 0x55, 0x21, 0x0C, 0x7D])

/-- Byte `i` of a number. -/
def byteOf (i x : Nat) : Nat := x / 2 ^ (8 * i) % 256

/-- A number of `n` bytes, byte `i` of which is `f i`. -/
def bytesFrom (n : Nat) (f : Nat → Nat) : Nat := (List.range n).foldl (fun a i => a + f i * 2 ^ (8 * i)) 0

/-- A block of 16 bytes, or a round key, as a number: byte r + 4 c is row r of column c. `ones` has bit 0 of every byte set. -/
def aesOnes : Nat := bytesFrom 16 (fun _ => 1)

/-- Every byte times x in the field of AES. -/
def xtime (s : Nat) : Nat := ((s &&& (127 * aesOnes)) * 2) ^^^ (((s >>> 7) &&& aesOnes) * 0x1B)

/-- Every column turned up by `n` rows. -/
def turnColumns (n s : Nat) : Nat := bytesFrom 16 (fun i => byteOf ((i + n) % 4 + 4 * (i / 4)) s)

/-- The four columns times the matrix of FIPS 197. -/
def mixColumns (s : Nat) : Nat :=
  let t := turnColumns 1 s
  xtime (s ^^^ t) ^^^ t ^^^ turnColumns 2 (s ^^^ t)

/-- The four columns times its inverse. -/
def unmixColumns (s : Nat) : Nat :=
  let u := xtime (xtime (s ^^^ turnColumns 2 s))
  mixColumns (s ^^^ u)

/-- Substitute every byte by a table, after row r is turned by r * n columns. -/
def shiftSub (table n s : Nat) : Nat :=
  bytesFrom 16 (fun i => byteOf (byteOf (i % 4 + 4 * ((i / 4 + n * (i % 4)) % 4)) s) table)

/-- The next word of the key schedule goes in front of the earlier ones; `i` is its index. -/
def keyWord (ws : List Nat) (i : Nat) : List Nat :=
  let w := ws.getD 0 0
  let sub := fun (x : Nat) => bytesFrom 4 (fun j => byteOf (byteOf j x) sbox)
  let t :=
    if i % 8 = 0 then sub (w / 256 + w % 256 * 2 ^ 24) ^^^ 2 ^ (i / 8 - 1)
    else if i % 8 = 4 then sub w
    else w
  (ws.getD 7 0 ^^^ t) :: ws

/-- The fifteen round keys of a 32-byte key. -/
def roundKeys (key : List Byte) : List Nat :=
  let ws := ((List.range 52).foldl (fun ws i => keyWord ws (i + 8)) ((pieces 4 8 key).map leNat).reverse).reverse
  (List.range 15).map (fun i => (List.range 4).foldl (fun a j => a + ws.getD (4 * i + j) 0 * 2 ^ (32 * j)) 0)

/-- AES-256 of one block of 16 bytes. -/
def aesEncrypt (keys : List Nat) (b : List Byte) : List Byte :=
  let s := ((keys.drop 1).take 13).foldl (fun s k => mixColumns (shiftSub sbox 1 s) ^^^ k) (leNat b ^^^ keys.getD 0 0)
  leBytes 16 (shiftSub sbox 1 s ^^^ keys.getD 14 0)

/-- The inverse of AES-256 on one block. -/
def aesDecrypt (keys : List Nat) (b : List Byte) : List Byte :=
  let s := ((keys.drop 1).take 13).reverse.foldl (fun s k => unmixColumns (shiftSub invSbox 3 s ^^^ k)) (leNat b ^^^ keys.getD 14 0)
  leBytes 16 (shiftSub invSbox 3 s ^^^ keys.getD 0 0)

/-! ### GCM (R46) -/

/-- The product of GHASH's field: `n` bits of `x` are left, from bit `n - 1` down, and `v` is the other factor so far. -/
def ghashTimes (x : Nat) : Nat → Nat → Nat → Nat
  | 0, _, z => z
  | n + 1, v, z =>
    ghashTimes x n (if v % 2 = 1 then (v >>> 1) ^^^ (0xE1 <<< 120) else v >>> 1) (if x.testBit n then z ^^^ v else z)

/-- Blocks of 16 bytes, the last filled with zeros. -/
def blocks16 (l : List Byte) : List (List Byte) := pieces 16 ((l.length + 15) / 16) l

/-- GHASH under the hash key `h`. -/
def ghash (h : Nat) (aad cipher : List Byte) : Nat :=
  (blocks16 aad ++ blocks16 cipher ++ [beBytes 8 (8 * aad.length) ++ beBytes 8 (8 * cipher.length)]).foldl
    (fun y b => ghashTimes (y ^^^ beNat b) 128 h 0) 0

/-- AES-256-GCM with a 12-byte nonce: key, nonce, associated data, ciphertext, tag; none where the tag fails. -/
@[irreducible] def gcmDecrypt (key nonce aad cipher tag : List Byte) : Option (List Byte) :=
  let keys := roundKeys key
  let counter := fun (i : Nat) => aesEncrypt keys (nonce ++ beBytes 4 i)
  let h := beNat (aesEncrypt keys (List.replicate 16 0))
  if xorBytes (beBytes 16 (ghash h aad cipher)) (counter 1) = tag then
    some ((((blocks16 cipher).zipIdx).flatMap (fun (b, i) => xorBytes b (counter (i + 2)))).take cipher.length)
  else none

/-! ### Key wrap (R497, R498) -/

/-- One step of the unwrapping: the check register, the registers R[1] and on, and the step's number t. -/
def unwrapStep (keys : List Nat) (n : Nat) (s : List Byte × List (List Byte)) (t : Nat) : List Byte × List (List Byte) :=
  let i := (t - 1) % n
  let b := aesDecrypt keys (xorBytes s.1 (beBytes 8 t) ++ s.2.getD i [])
  (b.take 8, s.2.set i (b.drop 8))

/-- Unwrap a key; none where its check value is not that of RFC 3394. -/
@[irreducible] def keyUnwrap (kek wrapped : List Byte) : Option (List Byte) :=
  let n := wrapped.length / 8 - 1
  let r := (List.range (6 * n)).reverse.foldl (fun s t => unwrapStep (roundKeys kek) n s (t + 1)) (wrapped.take 8, pieces 8 n (wrapped.drop 8))
  if r.1 = List.replicate 8 0xA6 then some r.2.flatten else none

end Sys2Proof.Machine
end

