-- ==== Sys2Proof/Machine/Ed25519.lean ====
section
/-! DEFINITION. Ed25519 (RFC 8032), one of the two signature schemes that the spec names (R45, R46, R497, R500). The standard is taken from outside
the spec (PRESUMED, log 135). -/

namespace Sys2Proof.Machine

/-! ### The field and the curve -/

/-- The field's prime. -/
def edP : Nat := 2 ^ 255 - 19

/-- The order of the base point. -/
def edL : Nat := 2 ^ 252 + 27742317777372353535851937790883648493

/-- A power modulo `m`, with `n` bits of the exponent left. -/
def powMod (m : Nat) : Nat → Nat → Nat → Nat
  | 0, _, _ => 1
  | n + 1, b, e => (if e % 2 = 1 then b else 1) * powMod m n (b * b % m) (e / 2) % m

/-- The inverse in the field. -/
def edInv (x : Nat) : Nat := powMod edP 255 x (edP - 2)

/-- The curve's constant d. -/
def edD : Nat := (edP - 121665) * edInv 121666 % edP

/-- A point in extended coordinates. -/
structure EdPoint where
  x : Nat
  y : Nat
  z : Nat
  t : Nat
deriving DecidableEq, Repr

/-- The neutral point. -/
def edZero : EdPoint := ⟨0, 1, 1, 0⟩

/-- The sum of two points. -/
def edAdd (p q : EdPoint) : EdPoint :=
  let a := (p.y + (edP - p.x)) * (q.y + (edP - q.x)) % edP
  let b := (p.y + p.x) * (q.y + q.x) % edP
  let c := 2 * p.t * q.t * edD % edP
  let d := 2 * p.z * q.z % edP
  let e := b + (edP - a)
  let f := d + (edP - c)
  let g := d + c
  let h := b + a
  ⟨e * f % edP, g * h % edP, f * g % edP, e * h % edP⟩

/-- `k` times a point, with `n` bits of `k` left, added to `acc`. -/
def edTimes : Nat → Nat → EdPoint → EdPoint → EdPoint
  | 0, _, _, acc => acc
  | n + 1, k, p, acc => edTimes n (k / 2) (edAdd p p) (if k % 2 = 1 then edAdd acc p else acc)

/-- Two points are the same. -/
def edSame (p q : EdPoint) : Bool := p.x * q.z % edP == q.x * p.z % edP && p.y * q.z % edP == q.y * p.z % edP

/-- The x coordinate that belongs to y, with this lowest bit; none where there is none. -/
def edRecover (y sign : Nat) : Option Nat :=
  if edP ≤ y then none else
  let u := (y * y + (edP - 1)) % edP
  let v := (edD * (y * y % edP) + 1) % edP
  let v3 := v * v % edP * v % edP
  let x := u * v3 % edP * powMod edP 255 (u * v3 % edP * v3 % edP * v % edP) ((edP - 5) / 8) % edP
  let root := if v * x % edP * x % edP = u then some x
    else if v * x % edP * x % edP = (edP - u) % edP then some (x * powMod edP 255 2 ((edP - 1) / 4) % edP)
    else none
  root.bind (fun x => if x = 0 ∧ sign = 1 then none else some (if x % 2 = sign then x else edP - x))

/-- The base point. -/
def edBase : EdPoint :=
  let y := 4 * edInv 5 % edP
  let x := (edRecover y 0).getD 0
  ⟨x, y, 1, x * y % edP⟩

/-- The 32 bytes of a point. -/
def edEncode (p : EdPoint) : List Byte :=
  let i := edInv p.z
  leBytes 32 (p.y * i % edP + 2 ^ 255 * (p.x * i % edP % 2))

/-- The point of 32 bytes. -/
def edDecode (b : List Byte) : Option EdPoint :=
  let v := leNat b
  let y := v % 2 ^ 255
  (edRecover y (v / 2 ^ 255)).map (fun x => ⟨x, y, 1, x * y % edP⟩)

/-! ### Signatures -/

/-- The secret scalar and the prefix of a seed. -/
def edSecret (seed : List Byte) : Nat × List Byte :=
  let h := sha512 seed
  let a := leNat (h.take 32)
  (a % 2 ^ 254 / 8 * 8 + 2 ^ 254, h.drop 32)

/-- The public key of a seed (R497). -/
@[irreducible] def edPublic (seed : List Byte) : List Byte := edEncode (edTimes 256 (edSecret seed).1 edBase edZero)

/-- The signature of a message under a seed (R500). -/
@[irreducible] def edSign (seed m : List Byte) : List Byte :=
  let s := edSecret seed
  let r := leNat (sha512 (s.2 ++ m)) % edL
  let rb := edEncode (edTimes 256 r edBase edZero)
  let k := leNat (sha512 (rb ++ edPublic seed ++ m)) % edL
  rb ++ leBytes 32 ((r + k * s.1) % edL)

/-- A signature over a message verifies under a public key: [8][S]B = [8]R + [8][k]A (R46). -/
@[irreducible] def edVerify (pub m sig : List Byte) : Bool :=
  let s := leNat (slice sig 32 32)
  match edDecode pub, edDecode (slice sig 0 32) with
  | some a, some r =>
    let k := leNat (sha512 (slice sig 0 32 ++ pub ++ m)) % edL
    decide (s < edL) && edSame (edTimes 4 8 (edTimes 256 s edBase edZero) edZero)
      (edTimes 4 8 (edAdd r (edTimes 256 k a edZero)) edZero)
  | _, _ => false

end Sys2Proof.Machine
end

