-- ==== Sys2Proof/Machine/MlDsa.lean ====
section
/-! DEFINITION. ML-DSA-65 (FIPS 204), one of the two signature schemes that the spec names (R45, R46, R497, R500), in its pure form with an empty
context string. The standard is taken from outside the spec (PRESUMED, log 135). Its rejection samplers draw at most the bytes that a fixed number
of blocks gives, more than the limits of the standard's Appendix C. -/

namespace Sys2Proof.Machine

/-! ### The ring -/

/-- The modulus. -/
def mlQ : Nat := 8380417

/-- A polynomial: 256 coefficients modulo q, in the ring or in the domain of the transform. -/
abbrev MlPoly := List Nat

/-- The zero polynomial. -/
def mlZero : MlPoly := List.replicate 256 0

/-- 1753 to the power of `k` with its eight bits reversed, and the inverse of that power. -/
def mlZeta (k : Nat) (inverse : Bool) : Nat :=
  let r := (List.range 8).foldl (fun a i => 2 * a + k / 2 ^ i % 2) 0
  (List.range (if inverse then 512 - r else r)).foldl (fun a _ => a * 1753 % mlQ) 1

/-- The transform below node `k` of its tree, `n` levels deep. -/
def mlNttAt : Nat → Nat → MlPoly → MlPoly
  | 0, _, p => p
  | n + 1, k, p =>
    let z := mlZeta k false
    let a := p.take (2 ^ n)
    let b := (p.drop (2 ^ n)).map (fun x => z * x % mlQ)
    mlNttAt n (2 * k) (List.zipWith (fun x y => (x + y) % mlQ) a b) ++
      mlNttAt n (2 * k + 1) (List.zipWith (fun x y => (x + (mlQ - y)) % mlQ) a b)

/-- The inverse transform below node `k`, but for the factor 2 of each level. -/
def mlInvAt : Nat → Nat → MlPoly → MlPoly
  | 0, _, p => p
  | n + 1, k, p =>
    let z := mlZeta k true
    let a := mlInvAt n (2 * k) (p.take (2 ^ n))
    let b := mlInvAt n (2 * k + 1) (p.drop (2 ^ n))
    List.zipWith (fun x y => (x + y) % mlQ) a b ++ List.zipWith (fun x y => z * (x + (mlQ - y)) % mlQ) a b

/-- The number-theoretic transform. -/
def mlNtt (p : MlPoly) : MlPoly := mlNttAt 8 1 p

/-- Its inverse. -/
def mlInv (p : MlPoly) : MlPoly := (mlInvAt 8 1 p).map (fun x => 8347681 * x % mlQ)

/-- Sum. -/
def mlAdd (a b : MlPoly) : MlPoly := List.zipWith (fun x y => (x + y) % mlQ) a b

/-- Difference. -/
def mlSub (a b : MlPoly) : MlPoly := List.zipWith (fun x y => (x + (mlQ - y)) % mlQ) a b

/-- Product in the domain of the transform; the second factor sets the length. -/
def mlMul (a b : MlPoly) : MlPoly := b.zipIdx.map (fun (y, i) => a.getD i 0 * y % mlQ)

/-- A row of the matrix times a vector, in the domain of the transform. -/
def mlDot (row v : List MlPoly) : MlPoly := (List.zipWith mlMul row v).foldl mlAdd mlZero

/-- The size of a coefficient taken as a number of least magnitude. -/
def mlSize (x : Nat) : Nat := Nat.min x (mlQ - x)

/-- Every coefficient of every polynomial is smaller than a bound. -/
def mlBelow (bound : Nat) (v : List MlPoly) : Bool := v.all (fun p => p.all (fun x => decide (mlSize x < bound)))

/-! ### Sampling -/

/-- The first 256 of the numbers drawn. -/
def mlTake (l : List Nat) : MlPoly := (l ++ mlZero).take 256

/-- A polynomial in the domain of the transform, uniform modulo q. -/
def mlUniform (seed : List Byte) : MlPoly :=
  mlTake (((pieces 3 392 (shake128 seed 1176)).map (fun b => leNat b % 2 ^ 23)).filter (fun z => decide (z < mlQ)))

/-- A polynomial with coefficients of at most 4. -/
def mlBounded (seed : List Byte) : MlPoly :=
  mlTake ((((shake256 seed 544).flatMap (fun b => [b.toNat % 16, b.toNat / 16])).filter (fun h => decide (h < 9))).map
    (fun h => (4 + (mlQ - h)) % mlQ))

/-- The matrix, 6 rows of 5. -/
def mlMatrix (rho : List Byte) : List (List MlPoly) :=
  (List.range 6).map (fun r => (List.range 5).map (fun s => mlUniform (rho ++ leBytes 1 s ++ leBytes 1 r)))

/-- One place of the challenge: the position drawn for `i` takes the sign, and its old value goes to `i`. The bytes that are left go along. -/
def mlPlace (signs : Nat) (s : MlPoly × List Byte) (i : Nat) : MlPoly × List Byte :=
  let l := s.2.dropWhile (fun b => decide (i < b.toNat))
  let j := (l.headD 0).toNat
  ((s.1.set i (s.1.getD j 0)).set j (if signs.testBit (i - 207) then mlQ - 1 else 1), l.drop 1)

/-- The challenge polynomial, 49 coefficients of 1 or -1. -/
def mlChallenge (seed : List Byte) : MlPoly :=
  let h := shake256 seed 272
  (((List.range 49).map (· + 207)).foldl (mlPlace (leNat (h.take 8))) (mlZero, h.drop 8)).1

/-! ### Rounding -/

/-- The high part of a coefficient. -/
def mlHigh (x : Nat) : Nat :=
  let r0 := x % 523776
  let d := if r0 ≤ 261888 then x - r0 else x - r0 + 523776
  if d = mlQ - 1 then 0 else d / 523776

/-- The low part, modulo q. -/
def mlLow (x : Nat) : Nat := (x + (mlQ - mlHigh x * 523776 % mlQ)) % mlQ

/-- The high part that a hint corrects. -/
def mlUseHint (h x : Nat) : Nat :=
  let up := decide (0 < mlLow x) && decide (mlLow x < mlQ / 2)
  if h = 0 then mlHigh x else if up then (mlHigh x + 1) % 16 else (mlHigh x + 15) % 16

/-- The upper part of a coefficient of the public key. -/
def mlTop (x : Nat) : Nat := (x + 4095) / 8192

/-! ### Encodings -/

/-- Pack coefficients of `w` bits. -/
def mlPack (w : Nat) (p : List Nat) : List Byte := leBytes (32 * w) (p.foldr (fun x a => x + 2 ^ w * a) 0)

/-- Coefficients of `w` bits. -/
def mlUnpack (w : Nat) (b : List Byte) : MlPoly :=
  let v := leNat b
  (List.range 256).map (fun i => v / 2 ^ (w * i) % 2 ^ w)

/-- The bytes of the high parts that are hashed. -/
def mlHighBytes (w : List MlPoly) : List Byte := w.flatMap (mlPack 4)

/-- A response's bytes: 2^19 less each coefficient, in 20 bits. -/
def mlPackZ (p : MlPoly) : List Byte := mlPack 20 (p.map (fun x => (2 ^ 19 + (mlQ - x)) % mlQ))

/-- The response of its bytes. -/
def mlUnpackZ (b : List Byte) : MlPoly := (mlUnpack 20 b).map (fun x => (2 ^ 19 + (mlQ - x)) % mlQ)

/-- The 61 bytes of the hints: their positions, filled up to 55, and where each polynomial's positions end. -/
def mlPackHints (h : List (List Nat)) : List Byte :=
  let at' := h.map (fun p => (List.range 256).filter (fun i => p.getD i 0 == 1))
  let all := at'.flatten
  (all ++ List.replicate (55 - all.length) 0 ++ (List.range 6).map (fun i => ((at'.take (i + 1)).flatten).length)).map (BitVec.ofNat 8)

/-- Numbers that rise strictly. -/
def mlRising : List Nat → Bool
  | a :: b :: l => decide (a < b) && mlRising (b :: l)
  | _ => true

/-- The hints of 61 bytes; none where they are not encoded as they must be. -/
def mlUnpackHints (b : List Byte) : Option (List (List Nat)) :=
  let y := b.map (·.toNat)
  let ends := y.drop 55
  let part := fun (i : Nat) =>
    let lo := if i = 0 then 0 else ends.getD (i - 1) 0
    (y.take (ends.getD i 0)).drop lo
  let last := ends.getD 5 0
  if ends.all (fun e => decide (e ≤ 55)) && (List.range 5).all (fun i => decide (ends.getD i 0 ≤ ends.getD (i + 1) 0)) &&
      (List.range 6).all (fun i => mlRising (part i)) && ((y.take 55).drop last).all (· == 0) then
    some ((List.range 6).map (fun i => (List.range 256).map (fun j => b2n ((part i).contains j))))
  else none

/-! ### Keys and signatures -/

/-- A private key, expanded: rho, K, tr, and s1, s2 and t0 in the domain of the transform. -/
structure MlKey where
  rho : List Byte
  noise : List Byte
  tr : List Byte
  s1 : List MlPoly
  s2 : List MlPoly
  t0 : List MlPoly
deriving DecidableEq, Repr

/-- Public and private key of a 32-byte seed (R497). -/
def mlKeys (seed : List Byte) : List Byte × MlKey :=
  let h := shake256 (seed ++ [6, 5]) 128
  let rho := h.take 32
  let s := (List.range 11).map (fun i => mlBounded (slice h 32 64 ++ leBytes 2 i))
  let s1 := (s.take 5).map mlNtt
  let t := List.zipWith (fun row e => mlAdd (mlInv (mlDot row s1)) e) (mlMatrix rho) (s.drop 5)
  let pub := rho ++ t.flatMap (fun p => mlPack 10 (p.map mlTop))
  (pub, ⟨rho, h.drop 96, shake256 pub 64, s1, (s.drop 5).map mlNtt, t.map (fun p => mlNtt (p.map (fun x => (x + (mlQ - 8192 * mlTop x % mlQ)) % mlQ)))⟩)

/-- The public key of a seed (R497). -/
@[irreducible] def mlPublic (seed : List Byte) : List Byte := (mlKeys seed).1

/-- The hash of a message with an empty context, after the hash of the public key. -/
def mlMessage (tr m : List Byte) : List Byte := shake256 (tr ++ [0, 0] ++ m) 64

/-- Attempts to sign: `n` are left, and `kappa` counts up. After the last, which no signer reaches, zeros. -/
def mlAttempt (key : MlKey) (mu rho : List Byte) : Nat → Nat → List Byte
  | 0, _ => List.replicate 3309 0
  | n + 1, kappa =>
    let y := (List.range 5).map (fun r => mlUnpackZ (shake256 (rho ++ leBytes 2 (kappa + r)) 640))
    let yt := y.map mlNtt
    let w := (mlMatrix key.rho).map (fun row => mlInv (mlDot row yt))
    let seed := shake256 (mu ++ mlHighBytes (w.map (fun p => p.map mlHigh))) 48
    let c := mlNtt (mlChallenge seed)
    let times := fun (p : MlPoly) => mlInv (mlMul c p)
    let z := List.zipWith (fun p s => mlAdd p (times s)) y key.s1
    let r := List.zipWith (fun p s => mlSub p (times s)) w key.s2
    let ct0 := key.t0.map times
    let hints := List.zipWith (fun p e => List.zipWith (fun x u => b2n (mlHigh x != mlHigh ((x + u) % mlQ))) p e) r ct0
    if mlBelow (524288 - 196) z && mlBelow (261888 - 196) (r.map (fun p => p.map mlLow)) && mlBelow 261888 ct0 &&
        decide ((hints.flatten).sum ≤ 55) then seed ++ z.flatMap mlPackZ ++ mlPackHints hints
    else mlAttempt key mu rho n (kappa + 5)

/-- The signature of a message under a seed, with 32 bytes of the signer's own randomness (R500). -/
@[irreducible] def mlSign (seed noise m : List Byte) : List Byte :=
  let key := (mlKeys seed).2
  let mu := mlMessage key.tr m
  mlAttempt key mu (shake256 (key.noise ++ noise ++ mu) 64) 814 0

/-- A signature over a message verifies under a public key (R46). -/
@[irreducible] def mlVerify (pub m sig : List Byte) : Bool :=
  let z := (pieces 640 5 (sig.drop 48)).map mlUnpackZ
  match mlUnpackHints (slice sig 3248 61) with
  | none => false
  | some hints =>
    let c := mlNtt (mlChallenge (sig.take 48))
    let zt := z.map mlNtt
    let t1 := (pieces 320 6 (pub.drop 32)).map (fun b => mlNtt ((mlUnpack 10 b).map (fun x => 8192 * x % mlQ)))
    let w := List.zipWith (fun row t => mlInv (mlSub (mlDot row zt) (mlMul c t))) (mlMatrix (pub.take 32)) t1
    let high := List.zipWith (fun h p => List.zipWith mlUseHint h p) hints w
    mlBelow (524288 - 196) z && shake256 (mlMessage (shake256 pub 64) m ++ mlHighBytes high) 48 == sig.take 48

end Sys2Proof.Machine
end

