-- ==== Sys2Proof/Machine/Records.lean ====
section
/-! DEFINITION. Configuration and calibration records: how they are parsed (R47, R48), which are accepted, rejected, skipped or ignored (R50, R52,
R66, R95, R307, R323, R532), and the values they set (R49). -/

namespace Sys2Proof.Machine

/-- A parsed record: its header fields, the kind and slot of its image, its bytes (header and payload), whether its CRC matches. -/
structure RawRec where
  type : Nat
  inst : Nat
  format : Nat
  kind : Nat
  slot : Nat
  bytes : List Byte
  crcOk : Bool
deriving DecidableEq, Repr, Inhabited

/-- Payload of a record. -/
def RawRec.payload (r : RawRec) : List Byte := r.bytes.drop 16

/-- The body header of a configuration image or calibration set is valid (R47). -/
def bodyOk (kind : Nat) (b : List Byte) : Bool :=
  getLe b 0 4 == 0x43394E56 && bit (getLe b 4 1) 0 == (kind == 7) && getLe b 0x3C 4 == crc32c (slice b 0 60)

/-- The records of a body in order, and whether parsing stopped early (R48, R50). -/
def parseRecs (kind slot : Nat) : Nat → Nat → List Byte → List RawRec × Bool
  | 0, _, _ => ([], true)
  | fuel + 1, left, b =>
    let len := getLe b 4 4
    if left < 16 ∨ left < 16 + len then ([], true) else
    let r : RawRec := ⟨getLe b 0 2, getLe b 2 1, getLe b 3 1, kind, slot, b.take (16 + len),
      getLe b 12 4 == crc32c (b.take 12 ++ slice b 16 len)⟩
    if r.type = 0xFFFF ∧ r.crcOk = true then ([r], false) else
    let step := ceilDiv (16 + len) 8 * 8
    let rest := parseRecs kind slot fuel (left - step) (b.drop step)
    (r :: rest.1, rest.2)

/-- The records of an image's body; TOTAL_LEN is taken as at most the body's length (R47). -/
def bodyRecs (kind slot : Nat) (b : List Byte) : List RawRec × Bool :=
  let total := getLe b 8 4
  let r := parseRecs kind slot (b.length / 16 + 1) (Nat.min total b.length - 64) (b.drop 64)
  (r.1, r.2 || decide (b.length < total))

/-! ### Ranges -/

/-- Number of instances of a record type; 0 for a type that is reserved. -/
def recInsts (t : Nat) : Nat :=
  if t = 3 ∨ t = 6 ∨ t = 7 then 8 else if t = 4 ∨ t = 0xB then 4 else if t = 0xA then 2
  else if 1 ≤ t ∧ t ≤ 14 then 1 else 0

/-- Whether a type belongs to an image kind. -/
def recKind (t kind : Nat) : Bool := (t == 0xB || t == 0xC) == (kind == 7)

/-- The payload's length is the one that format 1 defines. -/
def recLen (t n : Nat) : Bool :=
  if t = 0xB then inRange n 4 65536 && n % 4 == 0
  else n == [0, 16, 16, 24, 64, 1024, 16, 24, 8, 1088, 32, 0, 256, 128, 16].getD t 0

/-- CLOCKS. -/
def clocksOk (p : List Byte) : Bool :=
  getLe p 0 4 == 38400000 && (List.range 5).all (fun i => inRange (getLe p (4 + 2 * i) 2) 275 1100) && allZero p 14 2

/-- POWER. Bits of a byte that R49 gives to no field must be zero, as reserved bytes must: rail bits [6:4] and IDLEQ_EN bits [7:4] (DESIGN CHOICE, log 150). -/
def powerOk (p : List Byte) : Bool :=
  inRange (getLe p 0 2) 30 100 && [8533, 7500, 6400, 4266].contains (getLe p 2 2) &&
    (List.range 5).all (fun i => bits (getLe p (4 + i) 1) 6 4 == 0) && decide (getLe p 9 1 ≤ 15) && allZero p 10 6

/-- PHASE_INPUT of instance `n` (R66); a record with MODE 0 is checked for its reserved bytes only. -/
def phaseInputOk (n : Nat) (p : List Byte) : Bool :=
  let mode := getLe p 0 1
  let pulses := getLe p 2 2
  allZero p 7 1 && allZero p 0x12 6 && decide (mode ≤ 3) &&
    (mode == 0 ||
      ((mode != 2 || n % 2 == 0) && (mode != 3 || n == 0 || n == 4) && decide (getLe p 1 1 ≤ 1) &&
        (if mode = 1 then pulses == 1 else decide (2 ≤ pulses)) && inRange (getLe p 4 2) 20 10000 && decide (1 ≤ getLe p 6 1) &&
        decide (getLe p 8 4 < getLe p 12 4)))

/-- STORE_WAYS (R95). -/
def storeWaysOk (p : List Byte) : Bool :=
  let scratch := getLe p 0 2
  let trace := getLe p 2 2
  scratch &&& trace == 0 && (List.range 8).all (fun i => getLe p (4 + 2 * i) 2 &&& (scratch ||| trace) == 0) &&
    (List.range 16).all (fun w => !bit scratch w || decide (getLe p (0x14 + w) 1 ≤ 7) || getLe p (0x14 + w) 1 == 0xFF) && allZero p 0x24 28

/-- RINGS. -/
def ringsOk (p : List Byte) : Bool :=
  (List.range 64).all (fun r =>
    let e := slice p (16 * r) 16
    decide (getLe e 4 1 ≤ 1) && decide (getLe e 5 1 ≤ 10) && decide (1 ≤ getLe e 6 2) && decide (1 ≤ getLe e 8 4) && allZero e 12 4)

/-- RT_SHARE, on its own. Bits [7:6] of SC_MASK, which R49 gives to no field, must be zero (DESIGN CHOICE, log 150). -/
def rtShareOk (p : List Byte) : Bool :=
  (List.range 4).all (fun q => decide (getLe p (4 + q) 1 < 64)) && decide (getLe p 8 1 ≤ 100) && decide (getLe p 9 1 ≤ 100) && allZero p 10 6

/-- DEADLINE_MON of ring `n`, on its own; a record with ENABLE 0 is checked for its reserved bytes only (R532). -/
def deadlineOk (n : Nat) (p : List Byte) : Bool :=
  let en := getLe p 0 1
  decide (en ≤ 1) && allZero p 0x12 6 &&
    (en == 0 || (decide (getLe p 1 1 ≤ 10) && decide (getLe p 2 1 ≤ 63) && getLe p 2 1 != n && decide (getLe p 3 1 ≤ 1) &&
      decide (getLe p 0x10 1 ≤ 63) && decide (getLe p 0x11 1 ≤ 63)))

/-- SUBMIT. -/
def submitOk (p : List Byte) : Bool :=
  decide (getLe p 0 1 ≤ 1) && inRange (getLe p 1 1) 1 64 && decide (getLe p 2 2 ≤ 10) && allZero p 4 4

/-- IRQ_ROUTE. Bits [7:4] of a priority and bits [7:6] of OX_TARGETS, which R49 gives to no field, must be zero (DESIGN CHOICE, log 150). -/
def irqRouteOk (p : List Byte) : Bool :=
  (List.range 512).all (fun s => decide (getLe p s 1 < 16)) &&
    (List.range 32).all (fun g =>
      let e := slice p (0x200 + 16 * g) 16
      decide (getLe e 8 1 < 64) && allZero e 9 1 && decide (getLe e 10 2 ≤ 1023) && allZero e 12 4) &&
    (List.range 32).all (fun i => decide (getLe p (0x400 + 2 * i) 2 ≤ 511) || getLe p (0x400 + 2 * i) 2 == 0xFFFF)

/-- The fields of a DISPLAY payload. -/
def displayRec (p : List Byte) : DisplayRec :=
  let h := fun (i : Nat) => getLe p (4 + 2 * i) 2
  ⟨getLe p 0 1, getLe p 1 1, getLe p 2 2, h 0, h 1, h 2, h 3, h 4, h 5, h 6, h 7, getLe p 0x14 4, getLe p 0x18 4⟩

/-- DISPLAY of pipe `n` (R307, R323); a record with ENABLE 0 is checked for its reserved bytes only. -/
def displayOk (n : Nat) (p : List Byte) : Bool :=
  let r := displayRec p
  let ht := r.hActive + r.hFront + r.hSync + r.hBack
  let vt := r.vActive + r.vFront + r.vSync + r.vBack
  let c := { Cfg.absent with display := Cfg.absent.display.set n r }
  let mbps := if n = 0 then inRange r.laneMbps 80 2500
    else [1620, 2160, 2430, 2700, 3240, 4320, 5400, 8100].contains r.laneMbps
  let link := if n = 0 then decide (r.pixelKhz * 26 ≤ r.lanes * r.laneMbps * 1000) else decide (r.pixelKhz * 24 ≤ r.lanes * r.laneMbps * 800)
  decide (r.enable ≤ 1) && allZero p 0x1C 4 &&
    (r.enable == 0 ||
      ((r.lanes == 1 || r.lanes == 2 || r.lanes == 4) && mbps && inRange r.hActive 64 (if n = 0 then 2560 else 3840) &&
        inRange r.vActive 64 (if n = 0 then 1600 else 2160) && decide (r.pixelKhz ≤ (if n = 0 then 300000 else 600000)) && link &&
        decide (20 * (ht * vt) ≤ r.pixelKhz * 1000) && decide (r.pixelKhz * 1000 ≤ 120 * (ht * vt)) &&
        decide (r.reprojAngle < latchAngle c n)))

/-- ISOLATION. -/
def isolationOk (p : List Byte) : Bool :=
  (List.range 64).all (fun i => decide (getLe p i 1 ≤ 7)) && (List.range 9).all (fun i => decide (getLe p (0x40 + i) 1 ≤ 7)) &&
    allZero p 0x49 7 && decide (getLe p 0x50 1 ≤ 1) && allZero p 0x51 47

/-- TRACE, where ISOLATION allows capture or not. -/
def traceOk (allowed : Bool) (p : List Byte) : Bool :=
  decide (getLe p 0 1 ≤ 3) && (getLe p 1 1 == 0 || (allowed && getLe p 1 1 == 1)) && allZero p 2 2 && allZero p 12 4

/-- A record's own ranges (R50). -/
def recOk (t n : Nat) (p : List Byte) : Bool :=
  recLen t p.length && decide (n < recInsts t) &&
    (match t with
     | 1 => clocksOk p
     | 2 => powerOk p
     | 3 => phaseInputOk n p
     | 4 => storeWaysOk p
     | 5 => ringsOk p
     | 6 => rtShareOk p
     | 7 => deadlineOk n p
     | 8 => submitOk p
     | 9 => irqRouteOk p
     | 10 => displayOk n p
     | 13 => isolationOk p
     | 14 => traceOk true p
     | _ => true)

/-! ### Acceptance -/

/-- An accepted record: type, instance, place in the list of records, payload. -/
structure Accepted where
  type : Nat
  inst : Nat
  idx : Nat
  payload : List Byte
deriving DecidableEq, Repr, Inhabited

/-- The accepted records of a type. -/
def acceptedOf (acc : List Accepted) (t : Nat) : List Accepted := acc.filter (fun a => a.type == t)

/-- Pins that an accepted PHASE_INPUT record takes (R66). -/
def pinsOf (a : Accepted) : List Nat :=
  let mode := getLe a.payload 0 1
  if mode = 0 then [] else (List.range (if mode = 1 then 1 else if mode = 2 then 2 else 3)).map (· + a.inst)

/-- A record stands beside those accepted before it (R52, R66, R532, and CAPTURE_DEFAULT of R49). -/
def recFits (acc : List Accepted) (t n : Nat) (p : List Byte) : Bool :=
  match t with
  | 3 => getLe p 0 1 == 0 || !((acceptedOf acc 3).flatMap pinsOf).contains n
  | 6 =>
    let others := acceptedOf acc 6
    others.all (fun a => (List.range 8).all (fun i => getLe a.payload i 1 &&& getLe p i 1 == 0)) &&
      decide ((others.map (fun a => getLe a.payload 8 1)).sum + getLe p 8 1 ≤ 100) &&
      decide ((others.map (fun a => getLe a.payload 9 1)).sum + getLe p 9 1 ≤ 100)
  | 7 =>
    let others := (acceptedOf acc 7).filter (fun a => getLe a.payload 0 1 == 1)
    getLe p 0 1 == 0 || others.all (fun a =>
      getLe a.payload 2 1 != getLe p 2 1 && a.inst != getLe p 2 1 && getLe a.payload 2 1 != n)
  | 14 => traceOk ((acceptedOf acc 13).any (fun a => getLe a.payload 0x50 1 == 1)) p
  | _ => true

/-- A record that acceptance considers: format 1, a known type in its kind of image, CRC matching. -/
def isCandidate (r : RawRec) : Bool := r.crcOk && r.format == 1 && recInsts r.type != 0 && recKind r.type r.kind

/-- Types and instances in the order in which they are settled: ISOLATION before TRACE, instances ascending. -/
def recSlots : List (Nat × Nat) :=
  ([13, 1, 2, 3, 4, 5, 6, 7, 8, 9, 10, 11, 12, 14]).flatMap (fun t => (List.range (recInsts t)).map (fun n => (t, n)))

/-- The accepted records: for each type and instance the first that is in range and fits. -/
def acceptRecs (rs : List RawRec) : List Accepted :=
  recSlots.foldl (fun acc s =>
    match (rs.zipIdx).find? (fun (r, _) =>
      isCandidate r && r.type == s.1 && r.inst == s.2 && recOk s.1 s.2 r.payload && recFits acc s.1 s.2 r.payload) with
    | some (r, i) => acc ++ [⟨s.1, s.2, i, r.payload⟩]
    | none => acc) []

/-- A record is in range beside what ISOLATION says of capture (R49). -/
def recInRange (acc : List Accepted) (r : RawRec) : Bool :=
  recOk r.type r.inst r.payload &&
    (r.type != 14 || traceOk ((acceptedOf acc 13).any (fun a => getLe a.payload 0x50 1 == 1)) r.payload)

/-- The outcome of record `i` under R50: 0 applied, 1 skipped, 2 rejected, 3 ignored. A later record of an accepted one's type, instance and format
meets two rows where it is out of range too: REJECT wins. Where it would conflict only with other records (R52, R532), DUP wins (DESIGN CHOICE, log 151). -/
def recOutcome (acc : List Accepted) (i : Nat) (r : RawRec) : Nat :=
  if r.crcOk = false then 1
  else if r.type = 0xFFFF then (if r.bytes.length = 16 then 0 else 2)
  else if recInsts r.type = 0 ∨ recKind r.type r.kind = false then 1
  else if r.format ≠ 1 then 3
  else if acc.any (fun a => a.idx == i) then 0
  else if recInRange acc r = true ∧ acc.any (fun a => a.type == r.type && a.inst == r.inst && decide (a.idx < i)) = true then 3
  else 2

/-- The counters of GLB_CFG_STATUS and GLB_CFG_FAULTED (R60). -/
structure CfgCount where
  crcFail : Nat
  reject : Nat
  unknown : Nat
  dup : Nat
  faulted : Nat
deriving DecidableEq, Repr, Inhabited

/-- Count one record. -/
def countRec (acc : List Accepted) (k : CfgCount) (i : Nat) (r : RawRec) : CfgCount :=
  let mark := fun (k : CfgCount) => if 1 ≤ r.type ∧ r.type ≤ 14 then { k with faulted := putBit k.faulted r.type true } else k
  let out := recOutcome acc i r
  if r.crcOk = false then mark { k with crcFail := satInc 255 k.crcFail }
  else if r.type = 0xFFFF then (if out = 2 then { k with reject := satInc 255 k.reject } else k)
  else if out = 1 then { k with unknown := satInc 255 k.unknown }
  else if out = 2 then mark { k with reject := satInc 255 k.reject }
  else if r.format ≠ 1 then (if acc.any (fun a => a.type == r.type && a.inst == r.inst) then k else mark k)
  else if out = 3 then { k with dup := satInc 127 k.dup }
  else k

/-- Count every record. -/
def countRecs (acc : List Accepted) (rs : List RawRec) : CfgCount :=
  rs.zipIdx.foldl (fun k (r, i) => countRec acc k i r) default

/-! ### Values (R49) -/

/-- Put an accepted record into force. -/
def applyRec (c : Cfg) (a : Accepted) : Cfg :=
  let p := a.payload
  let u16s := fun (o n : Nat) => (List.range n).map (fun i => getLe p (o + 2 * i) 2)
  let u8s := fun (o n : Nat) => (List.range n).map (fun i => getLe p (o + i) 1)
  match a.type with
  | 1 => { c with clocks := ⟨u16s 4 4, getLe p 12 2⟩ }
  | 2 => { c with power := ⟨getLe p 0 2, getLe p 2 2, u8s 4 4, getLe p 8 1, getLe p 9 1⟩ }
  | 3 =>
    let r : PhaseInputRec := if getLe p 0 1 = 0 then phaseInputAbsent
      else ⟨getLe p 0 1, getLe p 1 1, getLe p 2 2, getLe p 4 2, getLe p 6 1, getLe p 8 4, getLe p 12 4, getLe p 16 2⟩
    { c with phaseInput := c.phaseInput.set a.inst r }
  | 4 => { c with storeWays := c.storeWays.set a.inst ⟨getLe p 0 2, getLe p 2 2, u16s 4 8, u8s 0x14 16⟩ }
  | 5 => { c with rings := (List.range 64).map (fun r =>
      let o := 16 * r
      let t := getLe p o 4
      ⟨if t = 0 then 20000 else t, if t = 0 then 0 else getLe p (o + 4) 1, getLe p (o + 5) 1, getLe p (o + 6) 2, getLe p (o + 8) 4⟩) }
  | 6 => { c with rtShare := c.rtShare.set a.inst (some ⟨u8s 0 4, u8s 4 4, getLe p 8 1, getLe p 9 1⟩) }
  | 7 => { c with deadlineMon := c.deadlineMon.set a.inst (some
      ⟨getLe p 0 1, getLe p 1 1, getLe p 2 1, getLe p 3 1, getLe p 4 4, getLe p 8 4, getLe p 12 4, getLe p 16 1, getLe p 17 1⟩) }
  | 8 => { c with submit := ⟨getLe p 0 1, getLe p 1 1, getLe p 2 2⟩ }
  | 9 =>
    let prio := (List.range 512).foldl (fun m s => aset m s (getLe p s 1)) []
    let groups := (List.range 32).map (fun g => (⟨getLe p (0x200 + 16 * g) 8, getLe p (0x208 + 16 * g) 1, getLe p (0x20A + 16 * g) 2⟩ : IrqGroupRec))
    { c with irq := ⟨prio, groups, u16s 0x400 32⟩ }
  | 10 => { c with display := c.display.set a.inst (if getLe p 0 1 = 0 then displayAbsent else displayRec p) }
  | 11 => { c with dramCal := c.dramCal.set a.inst (some p) }
  | 12 => { c with trims := some p }
  | 13 => { c with isolation := ⟨u8s 0 64, u8s 0x40 9, getLe p 0x50 1⟩ }
  | 14 => { c with trace := ⟨getLe p 0 1, getLe p 1 1, getLe p 4 4, getLe p 8 4⟩ }
  | _ => c

/-- The configuration that a list of records gives: every absent record takes its value of R49. -/
def cfgOf (rs : List RawRec) : Cfg := (acceptRecs rs).foldl applyRec Cfg.absent

end Sys2Proof.Machine
end

