-- ==== Sys2Proof/Machine/Nvm.lean ====
section
/-! DEFINITION. The boot NVM (R41, R42), image envelopes and their authentication (R44 to R46, R497, R498), set entries (R481 to R483), interface
levels (R484), the measurement log (R499). -/

namespace Sys2Proof.Machine

/-! ### Bytes -/

/-- Read `n` bytes of the NVM at `a`; State holds their complements. -/
def nvmRead (m : Mem) (a n : Nat) : List Byte := (memRead m a n).map (fun b => ~~~b)

/-- Program bytes at `a`. -/
def nvmWrite (m : Mem) (a : Nat) (l : List Byte) : Mem := memWrite m a (l.map (fun b => ~~~b))

/-- Erase addresses `lo` to `hi - 1`. -/
def nvmErase (m : Mem) (lo hi : Nat) : Mem := memZero m lo hi

/-- A header copy is valid (R42). -/
def headerOk (h : List Byte) : Bool :=
  getLe h 0 4 == 0x4E394E56 && getLe h 4 2 == 1 && decide (getLe h 0xC 1 ≤ 4) && getLe h 0xFC 4 == crc32c (h.take 252)

/-- Neither header copy is valid (R43). -/
def headersBad (m : Mem) : Bool := !headerOk (nvmRead m 0 256) && !headerOk (nvmRead m 0x10000 256)

/-- The header copy that is used: of two valid copies the one with the higher SEQUENCE, copy 0 on equal values (R42). -/
def headerUsed (m : Mem) : Option (List Byte) :=
  let h0 := nvmRead m 0 256
  let h1 := nvmRead m 0x10000 256
  if headerOk h0 && headerOk h1 then some (if getLe h0 8 4 < getLe h1 8 4 then h1 else h0)
  else if headerOk h0 then some h0
  else if headerOk h1 then some h1
  else none

/-- How a start reads the NVM: opcode, dummy cycles, octal-enable commands; without a valid header the 1S read 0x13 (R42, R43). -/
def readMode (m : Mem) : Nat × Nat × List (List Byte) :=
  match headerUsed m with
  | some h => (getLe h 0xD 1, getLe h 0xE 1, (List.range (getLe h 0xC 1)).map (fun i => slice h (0x10 + 8 * i) 8))
  | none => (0x13, 0, [])

/-- Address of an image's slot, 0 A or 1 B, and its size (R41). -/
def slotOf (kind slot : Nat) : Nat × Nat :=
  let p : Nat × Nat × Nat := match kind with
    | 1 => (0x1680000, 0x1E80000, 0x800000)
    | 2 => (0x2680000, 0x2E80000, 0x800000)
    | 3 => (0xA80000, 0xC80000, 0x200000)
    | 4 => (0xE80000, 0x1280000, 0x400000)
    | 5 => (0x680000, 0x880000, 0x200000)
    | 6 => (0x80000, 0x280000, 0x200000)
    | _ => (0x480000, 0x580000, 0x100000)
  (if slot = 0 then p.1 else p.2.1, p.2.2)

/-- The kind and slot in which the 4 KiB block at `a` lies whole. -/
def slotAt (a : Nat) : Option (Nat × Nat) :=
  (([1, 2, 3, 4, 5, 6, 7]).flatMap (fun k => [(k, 0), (k, 1)])).find? (fun s =>
    decide ((slotOf s.1 s.2).1 ≤ a) && decide (a + 4096 ≤ (slotOf s.1 s.2).1 + (slotOf s.1 s.2).2))

/-- The slot, 0 or 1, that a SLOTS byte names for a kind. -/
def slotBit (slots kind : Nat) : Nat := b2n (bit slots (kind - 1))

/-! ### Keys and images -/

/-- A label of R497 in ASCII. -/
def keyLabel (tail : List Nat) : List Byte := ([0x56, 0x4E, 0x39, 0x20] ++ tail).map (BitVec.ofNat 8)

/-- The image key that a PUF secret unwraps from the key area (R497, R498). -/
def imageKeyOf (m : Mem) (secret : List Byte) : Option (List Byte) :=
  keyUnwrap (hkdf384 secret (keyLabel [0x77, 0x72, 0x61, 0x70]) 32) (nvmRead m 0x40010 40)

/-- Seed of the device's Ed25519 key. -/
def edSeed (secret : List Byte) : List Byte := hkdf384 secret (keyLabel [0x65, 0x64, 0x32, 0x35, 0x35, 0x31, 0x39]) 32

/-- Seed of the device's ML-DSA-65 key. -/
def mlSeed (secret : List Byte) : List Byte := hkdf384 secret (keyLabel [0x6D, 0x6C, 0x64, 0x73, 0x61, 0x36, 0x35]) 32

/-- An image that authenticates and decrypts; none counts as an empty slot (R44 to R47). -/
def readImage (m : Mem) (key : List Byte) (kind slot : Nat) : Option Image :=
  let s := slotOf kind slot
  let h := nvmRead m s.1 4096
  let len := getLe h 0x10 4
  if getLe h 0 4 ≠ 0x49394E56 ∨ getLe h 4 1 ≠ kind ∨ len % 16 ≠ 0 ∨ s.2 < len + 4096 then none else
  let body := nvmRead m (s.1 + 4096) len
  let digest := sha384 (h.take 64 ++ body)
  if !edVerify (nvmRead m 0x40040 32) digest (slice h 0x40 64) ||
      !mlVerify (nvmRead m 0x40060 1952) digest (slice h 0x80 3309) then none else
  match gcmDecrypt key (slice h 0x14 12) (h.take 20) body (slice h 0x20 16) with
  | none => none
  | some plain =>
    if (kind = 6 ∨ kind = 7) ∧ bodyOk kind plain = false then none
    else some ⟨kind, slot, getLe h 8 4, getLe h 0xC 2, getLe h 0xE 2, digest, plain⟩

/-- LEVEL_MIN and LEVEL_MAX as an envelope has them, unauthenticated (R490). -/
def envelopeLevels (m : Mem) (kind slot : Nat) : Nat × Nat :=
  let h := nvmRead m ((slotOf kind slot).1 + 0xC) 4
  (getLe h 0 2, getLe h 2 2)

/-! ### Levels (R484) -/

/-- L_low of a set given as LEVEL_MIN and LEVEL_MAX pairs; 0 of the empty set. -/
def lowLevel : List (Nat × Nat) → Nat
  | [] => 0
  | p :: l => l.foldl (fun a x => Nat.min a x.2) p.2

/-- A consistent set. -/
def levelsOk (l : List (Nat × Nat)) : Bool := l.all (fun p => decide (p.1 ≤ lowLevel l) && decide (p.1 ≤ p.2))

/-! ### Set entries (R481 to R483) -/

/-- A valid set entry: KIND, SEQUENCE, SLOTS, TRIES, its address. -/
structure SetEnt where
  kind : Nat
  seq : Nat
  slots : Nat
  tries : List Byte
  addr : Nat
deriving DecidableEq, Repr, Inhabited

/-- Address of a set sector. -/
def sectorAddr (s : Nat) : Nat := 0x20000 + 0x10000 * s

/-- Parse an entry. -/
def parseSet (addr : Nat) (b : List Byte) : Option SetEnt :=
  let kind := getLe b 4 1
  if getLe b 0 4 = 0x53394E56 ∧ (kind = 1 ∨ kind = 2) ∧ getLe b 0xFC 4 = crc32c (b.take 16 ++ slice b 0x18 228) then
    some ⟨kind, getLe b 8 4, getLe b 0xC 1 % 128, slice b 0x10 8, addr⟩
  else none

/-- The index of the first free entry of a sector; 256 when it is full. -/
def freeEntry (m : Mem) (s : Nat) : Nat :=
  ((List.range 256).find? (fun i => nvmRead m (sectorAddr s + 256 * i) 1 == [0xFF])).getD 256

/-- The valid entries of a sector, up to the end of its log. -/
def sectorEntries (m : Mem) (s : Nat) : List SetEnt :=
  (List.range (freeEntry m s)).filterMap (fun i => parseSet (sectorAddr s + 256 * i) (nvmRead m (sectorAddr s + 256 * i) 256))

/-- Every valid entry. -/
def setEntries (m : Mem) : List SetEnt := sectorEntries m 0 ++ sectorEntries m 1

/-- The entry of the highest SEQUENCE. -/
def newestEnt : List SetEnt → Option SetEnt
  | [] => none
  | e :: l => some (l.foldl (fun a b => if a.seq < b.seq then b else a) e)

/-- The confirmed entry (R482). -/
def confirmedEnt (m : Mem) : Option SetEnt := newestEnt ((setEntries m).filter (fun e => e.kind == 1))

/-- The trial in force (R482). -/
def trialEnt (m : Mem) : Option SetEnt :=
  match newestEnt ((setEntries m).filter (fun e => e.kind == 2)) with
  | none => none
  | some t =>
    let newer := match confirmedEnt m with
      | some e => decide (e.seq < t.seq)
      | none => true
    if newer && t.tries.any (· == 0xFF) then some t else none

/-- SLOTS of the confirmed entry; all A where there is none (R485). -/
def confirmedSlots (m : Mem) : Nat := match confirmedEnt m with
  | some e => e.slots
  | none => 0

/-- SLOTS of the trial in force, else the confirmed ones. -/
def currentSlots (m : Mem) : Nat := match trialEnt m with
  | some t => t.slots
  | none => confirmedSlots m

/-- Bytes of a set entry. -/
def setBytes (kind seq slots : Nat) (tries : List Byte) : List Byte :=
  let head := leBytes 4 0x53394E56 ++ leBytes 1 kind ++ leBytes 3 0 ++ leBytes 4 seq ++ leBytes 1 slots ++ leBytes 3 0
  let tail := leBytes 228 0
  head ++ tries ++ tail ++ leBytes 4 (crc32c (head ++ tail))

/-- Append an entry with the next SEQUENCE; a full sector is compacted into the other one first (R483). The sector appended to is answered
with the NVM. -/
def appendSet (m : Mem) (last kind slots : Nat) (tries : List Byte) : Mem × Nat :=
  let top := match newestEnt (setEntries m) with
    | some e => e.seq
    | none => 0
  let i := freeEntry m last
  if i < 256 then (nvmWrite m (sectorAddr last + 256 * i) (setBytes kind (top + 1) slots tries), last)
  else
    let other := 1 - last
    let keep := (match confirmedEnt m with
      | some e => [e]
      | none => []) ++ (match trialEnt m with
      | some t => [t]
      | none => [])
    let m := nvmErase m (sectorAddr other) (sectorAddr other + 0x10000)
    let all := keep.map (fun e => (e.kind, e.slots, e.tries)) ++ [(kind, slots, tries)]
    ((all.zipIdx).foldl (fun m (e, j) => nvmWrite m (sectorAddr other + 256 * j) (setBytes e.1 (top + 1 + j) e.2.1 e.2.2)) m, other)

/-- The sector last appended to, as the log shows it after a reset: that of the newest entry. -/
def lastSectorOf (m : Mem) : Nat := match newestEnt (setEntries m) with
  | some e => if e.addr < 0x30000 then 0 else 1
  | none => 0

/-! ### Parts and the measurement log (R491, R499) -/

/-- The kinds that a part runs: 0 the spine, 1 to 4 the quarters. -/
def partKinds (p : Nat) : List Nat := if p = 0 then [1, 3, 4, 5] else [2, 4, 6, 7]

/-- Add an image entry; a full log drops its oldest retired entry. -/
def logImage (x : MeasImg) (u : UpdSt) : UpdSt :=
  if u.images.length < 32 then { u with images := u.images ++ [x] }
  else
    match findIdxOpt (fun e => e.state == 2) u.images with
    | some i => { u with images := u.images.eraseIdx i ++ [x], overflow := true }
    | none => { u with overflow := true }

/-- Add a record entry. -/
def logRec (x : MeasRec) (u : UpdSt) : UpdSt :=
  if u.recs.length < 512 then { u with recs := u.recs ++ [x] } else { u with overflow := true }

/-- The record entries of parsed records. -/
def logRecs (acc : List Accepted) (rs : List RawRec) (u : UpdSt) : UpdSt :=
  rs.zipIdx.foldl (fun u (r, i) => logRec ⟨r.type, r.inst, r.format, r.kind, r.slot, recOutcome acc i r, sha384 r.bytes⟩ u) u

/-- Levels of the images in use. -/
def runningLevels (u : UpdSt) : List (Nat × Nat) := (u.images.filter (fun e => e.state == 1)).map (fun e => (e.lmin, e.lmax))

/-- The records of the configuration image and calibration set among some images, and whether parsing of one stopped early. -/
def imageRecs (l : List Image) : List RawRec × Bool :=
  (l.filter (fun x => x.kind == 6) ++ l.filter (fun x => x.kind == 7)).foldl (fun a x =>
    let r := bodyRecs x.kind x.slot x.body
    (a.1 ++ r.1, a.2 || r.2)) ([], false)

end Sys2Proof.Machine
end

