-- ==== Sys2Proof/Machine/Icu.lean ====
section
/-! DEFINITION. The interrupt controller (R444 to R458): pending and deliverable sources, delivery,
hold-off, completion, target reset, the MSI-X table and its pending-bit array, Goose's wake record. -/

namespace Sys2Proof.Machine

/-- Enabled by its bit in IC_SRC_EN (R446). -/
def sourceEnabled (d : Dev) (s : Nat) : Bool := bit (d.icu.en.getD (s / 16) 0) (s % 16)

/-- Deliverable (R448). -/
def deliverable (d : Dev) (s : Nat) : Bool :=
  sourcePending d s && sourceEnabled d s && !holding d (s / 16) && !d.icu.globalHold

/-- Whether a group names a target (R447). -/
def groupNames (c : Cfg) (g t : Nat) : Bool :=
  if t < 64 then bit (groupOf c g).msix t else bit (groupOf c g).ox (t - 64)

/-- A target can accept a source: an empty stack, or a priority strictly above the top's (R448). -/
def canAccept (c : Cfg) (d : Dev) (t s : Nat) : Bool := match stackOf d t with
  | [] => true
  | e :: _ => decide (e.prio < sourcePrio c s)

/-- The target a group chooses for a source: enabled targets in ascending order after LAST, wrapping from 69 (R448). -/
def chooseTarget (c : Cfg) (d : Dev) (s : Nat) : Option Nat :=
  let g := s / 16
  let last := d.icu.last.getD g 69
  ((List.range 70).map (fun i => (last + 1 + i) % 70)).find?
    (fun t => groupNames c g t && targetEnabled d t && canAccept c d t s)

/-- Sources that can be pending: the levels, and the event sources with a count. -/
def sourceList (d : Dev) : List Nat := [0, 1, 2, 3, 4, 5] ++ (d.icu.count.map (·.1)).filter (fun s => decide (6 ≤ s))

/-- The first deliverable source that is not marked: highest priority, then lowest number (R448). -/
def bestSource (c : Cfg) (d : Dev) : Option Nat :=
  ((sourceList d).filter (fun s => deliverable d s && !d.icu.marks.contains s)).foldl
    (fun b s => match b with
      | none => some s
      | some k => if sourcePrio c k < sourcePrio c s then some s else b) none

/-- One delivery (R449): the entry is pushed, the count taken, LAST and the hold-off set, the message sent. -/
def deliverTo (c : Cfg) (s t : Nat) (d : Dev) : Dev :=
  let g := s / 16
  let n := if s ≤ 5 then 1 else aget d.icu.count s
  let us := (groupOf c g).holdoffUs
  let i := d.icu
  let hold := if us = 0 then none else some (d.phe.tb + us * 500)
  let d := { d with icu := { i with
    stack := amod i.stack t (fun l => ⟨s, sourcePrio c s, n⟩ :: l)
    count := if s ≤ 5 then i.count else aset i.count s 0
    last := i.last.set g t
    holdEnd := i.holdEnd.set g hold
    marks := [] } }
  let d := obsCount 0x60 4 0xF none 1 d
  if t < 64 then
    let m := aget d.host.msix t
    { d with host := { d.host with msgs := d.host.msgs ++ [(m.addr, m.data)] } }
  else d

/-- Consider sources in order: a source that no target accepts is passed over and marked, until one is delivered. -/
def deliverLoop (c : Cfg) : Nat → Dev → Dev
  | 0, d => d
  | n + 1, d => match bestSource c d with
    | none => d
    | some s => match chooseTarget c d s with
      | some t => deliverTo c s t d
      | none => deliverLoop c n { d with icu := { d.icu with marks := d.icu.marks ++ [s] } }

/-- ICU_DELIVERY: in RUN the ICU delivers the first source that a target accepts (R448, R456). -/
def icuDelivery (c : Cfg) (d : Dev) : Dev :=
  if d.pwr.state ≠ 0 ∨ d.boot.phase ≠ 2 then d else deliverLoop c 513 d

/-- HOLDOFF_EXPIRY of a group (R452): time passes until its hold-off has run out. -/
def holdoffExpiry (c : Cfg) (g : Nat) (d : Dev) : Dev :=
  match d.icu.holdEnd.getD g none with
  | none => d
  | some t =>
    let d := advanceTo c t d
    { d with icu := { d.icu with holdEnd := d.icu.holdEnd.set g none } }

/-- A mismatched completion: FAULT, STACK_FAULTS and PRI_STACK_FAULT (R450). -/
def stackFault (t : Nat) (d : Dev) : Dev :=
  let i := d.icu
  raise 10 { d with icu := { i with fault := putBit i.fault t true, stackFaults := satInc 255 i.stackFaults, marks := [] } }

/-- ICU_EOI of target `t` naming source `s`: through BAR 0 it is ignored for the Ox targets (R450). -/
def icuEoi (t s : Nat) (ox : Bool) (d : Dev) : Dev :=
  if 70 ≤ t ∨ (ox = false ∧ 64 ≤ t) then d else
  match stackOf d t with
  | e :: rest =>
    if e.source = s % 512 then
      { d with icu := { d.icu with stack := aset d.icu.stack t rest, marks := [] } }
    else stackFault t d
  | [] => stackFault t d

/-- Empty a target's stack: counts return to their sources, FAULT is cleared (R451). -/
def resetTarget (t : Nat) (d : Dev) : Dev :=
  let i := d.icu
  let count := (stackOf d t).foldl (fun a e =>
    if e.source ≤ 5 then a else amod a e.source (fun n => satAdd 255 n e.count)) i.count
  { d with icu := { i with
    stack := aset i.stack t [], count := count, fault := putBit i.fault t false, marks := [] } }

/-- ICU_TARGET_RESET: a write of 1 to RESET; through BAR 0 it is ignored for the Ox targets (R450, R451). -/
def icuTargetReset (t v : Nat) (ox : Bool) (d : Dev) : Dev :=
  if 70 ≤ t ∨ (ox = false ∧ 64 ≤ t) ∨ bit v 0 = false then d else resetTarget t d

/-- IC_SW_RAISE (R457). -/
def icSwRaise (v : Nat) (d : Dev) : Dev :=
  let s := v % 512
  if 480 ≤ s then raise s d else d

/-- IC_STATUS_CLEAR (R458). -/
def icStatusClear (v : Nat) (d : Dev) : Dev :=
  if bit v 0 then { d with icu := { d.icu with stackFaults := 0 } } else d

/-- The MSI-X pending-bit array (R455): vector `v` is masked, by its own bit or the function's (log 102), and a group that names it has a deliverable source that
finds no enabled target. -/
def msixPending (c : Cfg) (d : Dev) (v : Nat) : Bool :=
  (d.host.funcMask || !(aget d.host.msix v).unmasked) &&
    (sourceList d).any (fun s => groupNames c (s / 16) v && deliverable d s &&
      !(List.range 70).any (fun t => groupNames c (s / 16) t && targetEnabled d t))

/-- MSIX_TABLE_WRITE: a 32-bit write at an offset of BAR 4 (R327, R447); entries of 16 bytes hold address,
data and the vector control word, whose bit 0 is Mask. -/
def msixTableWrite (off v : Nat) (d : Dev) : Dev :=
  if 1024 ≤ off ∨ off % 4 ≠ 0 ∨ d.clk.domains.getD 2 0 ≠ 1 then d else
  let n := off / 16
  let v := v % 2 ^ 32
  let h := d.host
  let m := aget h.msix n
  let m := match off % 16 / 4 with
    | 0 => { m with addr := putBits m.addr 31 0 (v - v % 4) }
    | 1 => { m with addr := putBits m.addr 63 32 v }
    | 2 => { m with data := v }
    | _ => { m with unmasked := !bit v 0 }
  clearMarks { d with host := { h with msix := aset h.msix n m } }

/-- Goose starts a wake for a watched source (R456). -/
def gooseWake (s : Nat) (d : Dev) : Dev := { d with icu := { d.icu with woke := true, wokeSource := s } }

/-- A source is watched by Goose. -/
def watched (c : Cfg) (s : Nat) : Bool := c.irq.goose.contains s

/-- An Ox core that stops or becomes standby has its stack emptied (R447). -/
def oxStopped (i : Nat) (d : Dev) : Dev := resetTarget (64 + i) d

end Sys2Proof.Machine
end

