-- ==== Sys2Proof/Machine/Power.lean ====
section
/-! DEFINITION. Clocks, rails and the governor (R468 to R474), shed stages (R476 to R479), device states and power domains (R459 to R467). -/

namespace Sys2Proof.Machine

/-! ### Voltage and frequency -/

/-- Vmin of step `n` in mV: 550 mV at n = 10 and 10 mV more for each step (R468). -/
def vmin (n : Nat) : Nat := 450 + 10 * n

/-- The highest step whose Vmin does not exceed `mv`, within 10 to 40. -/
def stepAt (mv : Nat) : Nat := Nat.max 10 (Nat.min 40 ((mv - 450) / 10))

/-- The step of a quarter's ACLK_MAX_MHZ. -/
def aclkTop (c : Cfg) (q : Nat) : Nat := Nat.min 40 (c.clocks.aclkMax.getD q 550 * 2 / 55)

/-- The step that a quarter may be raised to: the lowest of ACLK_MAX_MHZ, the thermal limit and the AVS limit (R473). -/
def stepTop (c : Cfg) (d : Dev) (q : Nat) : Nat :=
  Nat.min (aclkTop c q) (Nat.min (d.clk.thermLimit.getD q 40) (d.clk.avsLimit.getD q 40))

/-- The spine rail: 0.75 V in RUN, 0.60 V in REST (R468). -/
def spineMv (d : Dev) : Nat := if d.pwr.state = 1 then 600 else 750

/-- Where a quarter's rail must stand at step `n` (R471). -/
def railTarget (d : Dev) (q n : Nat) : Nat :=
  let others := ((List.range 4).filter (fun r => r != q && quarterOn d r)).map (fun r => d.clk.rail.getD r 0 - 150)
  (vmin n :: (spineMv d - 150) :: others).foldl Nat.max 0

/-- Whether a rail has a request outstanding. -/
def avsBusy (d : Dev) (rail : Nat) : Bool := d.clk.avs.any (fun r => r.rail == rail)

/-- Begin a voltage request on a rail that has none (R470). -/
def avsRequest (rail mv : Nat) (step : Option Nat) (d : Dev) : Dev :=
  if avsBusy d rail then d else { d with clk := { d.clk with avs := d.clk.avs ++ [⟨rail, mv, d.phe.tb, 0, step⟩] } }

/-- Begin a quarter's 2 us clock switch; it never falls on a retraining of the same quarter (R469). -/
def startSwitch (q n : Nat) (d : Dev) : Dev :=
  let tb := match d.phe.retraining with
    | some (r, t) => if r = q then Nat.max d.phe.tb (t + 750) else d.phe.tb
    | none => d.phe.tb
  { d with clk := { d.clk with switches := d.clk.switches.filter (fun w => w.quarter != q) ++ [⟨q, n, tb⟩] } }

/-- Whether a quarter's frequency is being changed. -/
def changing (d : Dev) (q : Nat) : Bool := avsBusy d q || d.clk.switches.any (fun w => w.quarter == q)

/-- Change a quarter's step: a raise asks for its voltage first, a lowering switches at once (R469). -/
def changeClock (q n : Nat) (d : Dev) : Dev :=
  let s := d.clk.step.getD q 0
  if changing d q ∨ n = s ∨ quarterOn d q = false then d
  else if n < s then startSwitch q n d
  else
    let mv := railTarget d q n
    if mv ≤ d.clk.rail.getD q 0 then startSwitch q n d else avsRequest q mv (some n) d

/-- Ask for every rail that does not stand where R471 wants it. -/
def railFix (d : Dev) : Dev :=
  (List.range 4).foldl (fun d q =>
    let t := railTarget d q (d.clk.step.getD q 0)
    if quarterOn d q && !changing d q && t != d.clk.rail.getD q 0 then avsRequest q t none d else d) d

/-- CLOCK_SWITCH_DONE: the quarter's engines and slice go on at the new step, and a rail that may now be lower is lowered (R469). -/
def clockSwitchDone (c : Cfg) (q : Nat) (d : Dev) : Dev :=
  match d.clk.switches.find? (fun w => w.quarter == q) with
  | none => d
  | some w =>
    let d := advanceTo c (w.tb + 1000) d
    let d := { d with clk := { d.clk with switches := d.clk.switches.filter (fun w => w.quarter != q), step := d.clk.step.set q w.step } }
    let d := obsEmit c 5 0x50 0 (srcWord 0xF1 q 0) (d.pwr.state + 16 * q + 256 * w.step) [] d
    releaseHeld c q (railFix d)

/-- AVS_REQUEST_DONE: write, acknowledgement and status poll of a rail's request completed within its 50 us (R470). -/
def avsRequestDone (rail : Nat) (d : Dev) : Dev :=
  match d.clk.avs.find? (fun r => r.rail == rail) with
  | none => d
  | some r =>
    if r.tb + 25000 < d.phe.tb then d else
    let d := { d with clk := { d.clk with avs := d.clk.avs.erase r, rail := d.clk.rail.set rail r.mv } }
    match r.step with
    | some n => railFix (startSwitch rail n d)
    | none => railFix d

/-- A rail's request has failed for good (R470): counted, raised, and after a failed raise the quarter holds at what its rail supports. -/
def avsFail (r : AvsReq) (readback : Option Nat) (d : Dev) : Dev :=
  let d := raise 11 { d with
    clk := { d.clk with avs := d.clk.avs.erase r }
    pwr := { d.pwr with avsFault := putBit d.pwr.avsFault r.rail true, avsFaults := satInc 255 d.pwr.avsFaults } }
  if r.mv ≤ d.clk.rail.getD r.rail 0 ∨ 4 ≤ r.rail then d else
  let lim := match readback with
    | some mv => stepAt mv
    | none => 10
  let d := { d with clk := { d.clk with avsLimit := d.clk.avsLimit.set r.rail lim } }
  if lim < d.clk.step.getD r.rail 0 then changeClock r.rail lim d else d

/-- AVS_RETRY: a request that has not completed 50 us after it began is retried; after the third retry it becomes a fault. `readback` is the
last voltage read back, if a read succeeded. -/
def avsRetry (c : Cfg) (rail : Nat) (readback : Option Nat) (d : Dev) : Dev :=
  match d.clk.avs.find? (fun r => r.rail == rail) with
  | none => d
  | some r =>
    let d := advanceTo c (r.tb + 25000) d
    if r.tries < 3 then
      let avs := d.clk.avs.map (fun x => if x = r then { r with tries := r.tries + 1, tb := d.phe.tb } else x)
      { d with clk := { d.clk with avs := avs } }
    else avsFail r readback d

/-- Work waits in some lane. -/
def workWaits (d : Dev) : Bool := d.sched.lanes.any (fun p => p.2 != [])

/-- GOVERNOR_STEP: at the next multiple of 100 us the governor takes an estimate, in units of 0.1 W, and steps the quarters (R473). -/
def governorStep (c : Cfg) (estimate : Nat) (d : Dev) : Dev :=
  if d.boot.phase ≠ 2 ∨ d.pwr.state ≠ 0 ∨ d.clk.domains.getD 1 0 ≠ 1 then d else
  let d := advanceTo c ((d.phe.tb / 50000 + 1) * 50000) d
  let cap := c.power.capW * 10
  let energy := d.pwr.energy + estimate
  let d := obsCount 0x73 4 0xF none (energy / 100 - d.pwr.energy / 100) d
  let d := { d with pwr := { d.pwr with energy := energy, estimate := estimate % 65536, ignoreFloors := d.pwr.ignoreFloors && decide (cap ≤ estimate) } }
  let qs := (List.range 4).filter (quarterOn d)
  let floor := fun (d : Dev) (q : Nat) => if d.pwr.ignoreFloors then 10 else d.clk.floor.getD q 10
  if cap < estimate then
    let d :=
      if d.pwr.ignoreFloors || qs.any (fun q => decide (d.clk.floor.getD q 10 < d.clk.step.getD q 0)) then { d with pwr := { d.pwr with overTb := none } }
      else
        let t := d.pwr.overTb.getD d.phe.tb
        if t + 5000000 ≤ d.phe.tb then
          { d with pwr := { d.pwr with overTb := none, ignoreFloors := true, floorOverride := satInc 255 d.pwr.floorOverride } }
        else { d with pwr := { d.pwr with overTb := some t } }
    qs.foldl (fun d q =>
      let s := d.clk.step.getD q 0
      if floor d q < s ∧ changing d q = false then
        obsCount 0x71 q 0xF none 1 (changeClock q (s - 1) { d with clk := { d.clk with capLimited := putBit d.clk.capLimited q true } })
      else d) d
  else
    let d := { d with pwr := { d.pwr with overTb := none } }
    if estimate * 100 < cap * 95 ∧ workWaits d = true then
      qs.foldl (fun d q =>
        let s := d.clk.step.getD q 0
        let top := stepTop c d q
        let d := if top ≤ s + 1 then { d with clk := { d.clk with capLimited := putBit d.clk.capLimited q false } } else d
        if s < top ∧ changing d q = false then obsCount 0x72 q 0xF none 1 (changeClock q (s + 1) d) else d) d
    else d

/-! ### Thermal limits (R471, R474) -/

/-- A limit in units of 0.25 degree, 8 degrees lower on an untrimmed part (R51). -/
def thermLimit (c : Cfg) (deg : Int) : Int := if c.trims.isSome then 4 * deg else 4 * (deg - 8)

/-- The sensors are read: the hottest of each quarter and of the spine. -/
def readSensors (temps : List Int) (d : Dev) : Dev :=
  { d with clk := { d.clk with temp := (List.range 4).map (fun q => temps.getD q 0), spineTemp := temps.getD 4 0 } }

/-- Quarter `q` is more than `deg` degrees hotter than a powered neighbour. -/
def hotterBy (d : Dev) (q : Nat) (deg : Int) : Bool :=
  let t := d.clk.temp.getD q 0
  decide (d.clk.spineTemp + 4 * deg < t) ||
    (List.range 4).any (fun r => r != q && quarterOn d r && decide (d.clk.temp.getD r 0 + 4 * deg < t))

/-- THROTTLE_DOWN: a quarter that is too hot, or too much hotter than a neighbour, lowers its clock by one step each 100 us. -/
def throttleDown (c : Cfg) (q : Nat) (temps : List Int) (d : Dev) : Dev :=
  let d1 := readSensors temps d
  let hot := decide (thermLimit c 100 ≤ d1.clk.temp.getD q 0) || decide (thermLimit c 100 ≤ d1.clk.spineTemp)
  let near := hotterBy d1 q 35 || (bit d.clk.neighbour q && hotterBy d1 q 30)
  if 4 ≤ q ∨ quarterOn d q = false ∨ d.clk.domains.getD 1 0 ≠ 1 ∨ (hot = false ∧ near = false) then d else
  let was := bit d.clk.throttling q || bit d.clk.neighbour q
  let d := if was then advanceTo c (d1.clk.thermTb.getD q 0 + 50000) d1 else d1
  let n := Nat.max 10 (Nat.min (d.clk.step.getD q 0) (d.clk.thermLimit.getD q 40) - 1)
  let d := { d with
    clk := { d.clk with
      throttling := putBit d.clk.throttling q (hot || bit d.clk.throttling q), neighbour := putBit d.clk.neighbour q near
      thermLimit := d.clk.thermLimit.set q n, thermTb := d.clk.thermTb.set q d.phe.tb }
    pwr := { d.pwr with throttles := if was then d.pwr.throttles else satInc 255 d.pwr.throttles } }
  changeClock q n d

/-- THROTTLE_UP: a quarter that has cooled below 97 degrees, and to within 30 degrees of its neighbours, raises its clock by one step each ms;
its throttling ends when it is back at its maximum. -/
def throttleUp (c : Cfg) (q : Nat) (temps : List Int) (d : Dev) : Dev :=
  let d1 := readSensors temps d
  let cool := decide (d1.clk.temp.getD q 0 < thermLimit c 97) && decide (d1.clk.spineTemp < thermLimit c 97) && !hotterBy d1 q 30
  if 4 ≤ q ∨ (bit d.clk.throttling q || bit d.clk.neighbour q) = false ∨ cool = false ∨ d.clk.domains.getD 1 0 ≠ 1 then d else
  let d := advanceTo c (d1.clk.thermTb.getD q 0 + 500000) d1
  let old := d.clk.thermLimit.getD q 40
  let fin := decide (aclkTop c q ≤ old + 1)
  let d := { d with clk := { d.clk with
    thermLimit := d.clk.thermLimit.set q (if fin then 40 else old + 1), thermTb := d.clk.thermTb.set q d.phe.tb
    throttling := if fin then putBit d.clk.throttling q false else d.clk.throttling
    neighbour := if fin then putBit d.clk.neighbour q false else d.clk.neighbour } }
  if d.clk.step.getD q 0 = old ∧ old < stepTop c d q then changeClock q (old + 1) d else d

/-! ### IDLE-Q (R460) -/

/-- A start comparator armed for a queue of the quarter waits to fire. -/
def armedFor (d : Dev) (q : Nat) : Bool :=
  d.fe.rings.any (fun p => p.2.cmds.any (fun x => x.phase == .armed && quarterClass x.entry.cls && x.entry.quarter == q))

/-- Some engine of the quarter holds a unit. -/
def quarterBusy (d : Dev) (q : Nat) : Bool :=
  (List.range 4).any (fun k => (List.range (instCount (k + 1))).any (fun i => (instOf d (instIdx (k + 1) q i)).run.isSome))

/-- IDLEQ_ENTRY: a quarter idle for 10 us stops its engine clocks. -/
def idleqEntry (c : Cfg) (q : Nat) (d : Dev) : Dev :=
  if 4 ≤ q ∨ bit c.power.idleqEn q = false ∨ d.boot.phase ≠ 2 ∨ d.pwr.state ≠ 0 ∨ quarterOn d q = false ∨
      quarterBusy d q ∨ armedFor d q ∨ bit d.pwr.idleq q then d else
  let d := advanceTo c (d.pwr.lastBusy.getD q 0 + 5000) d
  { d with pwr := { d.pwr with idleq := putBit d.pwr.idleq q true } }

/-! ### Supply sag (R476 to R479) -/

/-- A stage is entered or left: counted, raised, traced. -/
def stageMoved (c : Cfg) (k : Nat) (left : Bool) (d : Dev) : Dev :=
  obsEmit c 4 0x40 0 0xF1 (k + (if left then 8 else 0)) [] (raise 12 d)

/-- Begin the next quarter's DRAM rate switch, when none runs (R477). -/
def nextRate (mts : Nat) (d : Dev) : Dev :=
  match d.clk.rateSwitch, d.clk.rateQueue with
  | none, q :: rest =>
    let tb := match d.phe.retraining with
      | some (r, t) => if r = q then Nat.max d.phe.tb (t + 750) else d.phe.tb
      | none => d.phe.tb
    { d with clk := { d.clk with rateQueue := rest, rateSwitch := some ⟨q, mts, tb⟩ } }
  | _, _ => d

/-- Switch the DRAM of every powered quarter to a rate, one after the other; a quarter at that rate is passed over. -/
def setRates (mts : Nat) (d : Dev) : Dev :=
  let qs := (List.range 4).filter (fun q => d.clk.domains.getD (11 + 5 * q) 0 == 1 && d.clk.dramRate.getD q 0 != mts)
  nextRate mts { d with clk := { d.clk with rateQueue := qs } }

/-- DRAM_RATE_SWITCH_DONE: the quarter's memory serves again at its new rate, and the next quarter begins. -/
def dramRateDone (c : Cfg) (q : Nat) (d : Dev) : Dev :=
  match d.clk.rateSwitch with
  | none => d
  | some w =>
    if w.quarter ≠ q then d else
    let d := advanceTo c (w.tb + 2000) d
    nextRate w.rate { d with clk := { d.clk with rateSwitch := none, dramRate := d.clk.dramRate.set q w.rate } }

/-- What a slice loses with its supply: everything but its saved registers and the memory behind it (R467). -/
def sliceOff (c : Cfg) (q : Nat) (d : Dev) : Dev :=
  setSlice (chipWrite q 1 0 (2 ^ 64) d) q (fun s => { SliceSt.init with
    wayOff := s.wayOff, off := s.wayOff &&& cacheWays c q, maintPa := s.maintPa, maintLen := s.maintLen, maintOp := s.maintOp
    errViol := s.errViol, errScratchRange := s.errScratchRange, errPaRange := s.errPaRange, errLostWrite := s.errLostWrite
    dram := s.dram, dramPoison := s.dramPoison, latent := s.latent, memLost := s.memLost })

/-- Set the domains of quarter `q`: slice, shader groups, matrix group, memory. -/
def setQuarter (q slice engines memory : Nat) (d : Dev) : Dev :=
  let l := ((((d.clk.domains.set (7 + 5 * q) slice).set (8 + 5 * q) engines).set (9 + 5 * q) engines).set (10 + 5 * q) engines).set (11 + 5 * q) memory
  { d with clk := { d.clk with domains := l } }

/-- SHED_S2_ENTRY to SHED_S4_ENTRY: the time of stage `k` is reached with the warning active and stage `k - 1` in force. -/
def stageDue (c : Cfg) (k us : Nat) (d : Dev) : Option Dev :=
  let due := d.pwr.warnTb + us * 500
  let held := d.pwr.pinLow || (match d.pwr.droopTb with
    | some t => decide (due ≤ t + 50000)
    | none => false)
  if d.boot.phase = 2 ∧ warnActive d ∧ held = true ∧ d.pwr.stage + 1 = k then
    let d := advanceTo c due d
    some { d with pwr := { d.pwr with stage := k } }
  else none

/-- SHED_S2_ENTRY. -/
def shedS2 (c : Cfg) (d : Dev) : Dev := match stageDue c 2 200 d with
  | some d => stageMoved c 2 false d
  | none => d

/-- SHED_S3_ENTRY: the DRAM of each quarter in turn moves to 4266 MT/s. -/
def shedS3 (c : Cfg) (d : Dev) : Dev := match stageDue c 3 1000 d with
  | some d => stageMoved c 3 false (setRates 4266 d)
  | none => d

/-- The trace ways of quarter `q` lose what they hold of the store buffer: it reads zero (R98, R119). The buffer fills the trace ways of the slices in
order and wraps, at the place that its free-running index gives (DESIGN CHOICE, log 170). -/
def traceLost (c : Cfg) (q : Nat) (d : Dev) : Dev :=
  let ways := fun (k : Nat) => ((List.range k).map (fun p => popcount 16 (c.ways p).trace * 3145728)).sum
  let size := Nat.max 1 (obsSizeKib c * 1024)
  let lost := fun (i : Nat) =>
    let a := (d.obs.drainW + i) % size
    decide (ways q ≤ a) && decide (a < ways (q + 1))
  { d with obs := { d.obs with buf := d.obs.buf.zipIdx.map (fun (b, i) => if lost i then 0 else b) } }

/-- Quarter `q` is on, or stands by in REST, HOLD or a wake: the stages act in any state (R461). -/
def quarterStands (d : Dev) (q : Nat) : Bool := quarterOn d q || (d.pwr.state != 0 && bit d.boot.oxqRunning q)

/-- S4 takes quarter `q` off: its ways are cleaned, its domains switched off with its DRAM in self-refresh, its memory counts as lost. -/
def shedQuarter (c : Cfg) (q : Nat) (d : Dev) : Dev :=
  if quarterStands d q = false then d else
  let d := oxStopped (2 + q) (setQuarter q 0 0 0 (traceLost c q (sliceOff c q (cleanWays q (cacheWays c q) d))))
  let d := { d with clk := { d.clk with
    avs := d.clk.avs.filter (fun r => r.rail != q), switches := d.clk.switches.filter (fun w => w.quarter != q) } }
  if (sliceOf d q).memLost then d
  else
    let d := setSlice d q (fun s => { s with memLost := true })
    { d with pwr := { d.pwr with shedLost := putBit d.pwr.shedLost q true }, notes := d.notes ++ [.quarterOut q] }

/-- SHED_S4_ENTRY: Q1 to Q3 are cleaned and switched off; a hand-over of one of them ends ABORTED (R496). -/
def shedS4 (c : Cfg) (d : Dev) : Dev := match stageDue c 4 5000 d with
  | some d =>
    let d := match d.upd.hand with
      | some h => if 2 ≤ h.part then
          { d with upd := { d.upd with hand := none, busy := false, result := 12 } }
        else d
      | none => d
    let d := { d with sched := { d.sched with insts := amapAll d.sched.insts (fun k s =>
      if quarterClass (k / 32) && decide (1 ≤ k % 32 / 8) && s.window then { s with window := false } else s) } }
    stageMoved c 4 false (shedQuarter c 3 (shedQuarter c 2 (shedQuarter c 1 { d with clk := { d.clk with rateQueue := [] } })))
  | none => d

/-- The warning becomes active: w starts, DIPS counts, S1 is entered when no stage is in force (R476, R479). -/
def warnStarts (c : Cfg) (d : Dev) : Dev :=
  let d := { d with pwr := { d.pwr with warnTb := d.phe.tb, dips := satInc 255 d.pwr.dips, leftStages := 0 } }
  if d.pwr.stage = 0 then stageMoved c 1 false { d with pwr := { d.pwr with stage := 1 } } else d

/-- A change of the warning's causes, with what follows when the warning itself changes. PWR_WARN_N is ignored until READY (R523). -/
def warnChange (c : Cfg) (f : PwrSt → PwrSt) (d : Dev) : Dev :=
  if d.boot.phase ≠ 2 then d else
  let e := { d with pwr := f d.pwr }
  if warnActive d = false ∧ warnActive e then warnStarts c e
  else if warnActive d ∧ warnActive e = false then { e with pwr := { e.pwr with calmTb := d.phe.tb, leftStages := 0 } }
  else e

/-- PWR_WARN_N_CHANGE: the level that the pin's filter has accepted. -/
def warnPin (c : Cfg) (level : Bool) : Dev → Dev := warnChange c (fun p => { p with pinLow := !level })

/-- DROOP_DETECT: a detector fires, and the warning holds for 100 us from now. -/
def droopDetect (c : Cfg) (d : Dev) : Dev := warnChange c (fun p => { p with droopTb := some d.phe.tb }) d

/-- DROOP_HOLD_EXPIRY: 100 us after the last firing that cause ends. -/
def droopExpiry (c : Cfg) (d : Dev) : Dev :=
  match d.pwr.droopTb with
  | none => d
  | some t => warnChange c (fun p => { p with droopTb := none }) (advanceTo c (t + 50000) d)

/-- A quarter may be on: it started, and S4 does not hold it off. -/
def quarterMayRun (d : Dev) (q : Nat) : Bool := bit d.boot.oxqRunning q && !(decide (4 ≤ d.pwr.stage) && q != 0)

/-- The first buffers of the units of a quarter are zeroed again after a power-up (R160, R254). -/
def freshUnits (p : Nat → Bool) (d : Dev) : Dev :=
  { d with sched := { d.sched with insts := amapAll d.sched.insts (fun k s => if p k then { s with lastCtx := none } else s) } }

/-- A shader core after its supply returned: only its fault record is restored. -/
def coreFresh (clock : Nat) (s : Core) : Core := { (default : Core) with fault := s.fault, clk0 := clock }

/-- The memory that S4 took from quarter `q` rejoins with its contents (R477). -/
def memoryBack (q : Nat) (d : Dev) : Dev :=
  if bit d.pwr.shedLost q then
    setSlice { d with pwr := { d.pwr with shedLost := putBit d.pwr.shedLost q false } } q (fun s => { s with memLost := false })
  else d

/-- Quarter `q` comes back with its memory. The clock counts of its cores start again (R277). -/
def quarterBack (q : Nat) (d : Dev) : Dev :=
  let d := setQuarter q 1 1 1 d
  let d := { d with cores := d.cores.zipIdx.map (fun (s, k) => if k / 6 = q then coreFresh (d.clk.aclk.getD q 0 / 1000) s else s) }
  let d := restoreSaved [7 + 5 * q, 8 + 5 * q, 9 + 5 * q, 11 + 5 * q] d
  let d := freshUnits (fun k => quarterClass (k / 32) && k % 32 / 8 == q) d
  clearMarks (memoryBack q { d with phe := { d.phe with lastRetrain := d.phe.lastRetrain.set q d.phe.tb } })

/-- What leaving S4 does for quarter `q`: in RUN it wakes; otherwise it comes back with the wake of the device, in REST with its slice retained. -/
def shedBack (d : Dev) (q : Nat) : Dev :=
  if bit d.boot.oxqRunning q = false ∨ quarterOn d q then d
  else if d.pwr.state = 0 then quarterBack q d
  else memoryBack q (if d.clk.domains.getD 7 0 = 2 then setQuarter q 2 0 0 d else d)

/-- SHED_RECOVERY: after 10 ms, and then each 2 ms, of inactive warning the highest stage is left and its actions are undone (R478). -/
def shedRecovery (c : Cfg) (d : Dev) : Dev :=
  if d.boot.phase ≠ 2 ∨ warnActive d ∨ d.pwr.stage = 0 then d else
  let d := advanceTo c (d.pwr.calmTb + 5000000 + 1000000 * d.pwr.leftStages) d
  let k := d.pwr.stage
  let d := { d with pwr := { d.pwr with stage := k - 1, leftStages := d.pwr.leftStages + 1 } }
  let d :=
    if k = 4 then ([1, 2, 3]).foldl shedBack d
    else if k = 3 then setRates c.power.dramMts d
    else d
  stageMoved c k true (railFix d)

/-! ### Domains (R459, R467) -/

/-- The compositor and display domain goes off: the pipes are off, their references ABSENT (R63); counters, region settings and the DSI
fields of R467 are saved. -/
def displayOff (c : Cfg) (d : Dev) : Dev :=
  let k := d.comp
  let pipes := k.pipes.map (fun p => { Pipe.init with late := p.late, underrun := p.underrun, poison := p.poison, fault := p.fault })
  let comp := { CompSt.init with
    pipes := pipes, sigCtrl := k.sigCtrl, sigRect0 := k.sigRect0, sigRect1 := k.sigRect1, sigExpect := k.sigExpect
    dsiType := k.dsiType, dsiLen := k.dsiLen, dsiData := k.dsiData, hpd := k.hpd }
  ([8, 9]).foldl (fun d n => if (refOf d n).state = 0 then d else refTrace c n false (setRef d n (fun r => { r with state := 0 })))
    { d with comp := comp, clk := { d.clk with domains := d.clk.domains.set 3 0 } }

/-- The observation domain goes off: its RW registers are saved. -/
def obsOff (d : Dev) : Dev :=
  let o := d.obs
  { d with
    obs := { ObsSt.init with
      cntEn := o.cntEn, traceRef := o.traceRef, classMask := o.classMask, capEn := o.capEn, capBase := o.capBase, capLen := o.capLen
      drainBase := o.drainBase, drainSize := o.drainSize, drainR := o.drainR, threshold := o.threshold, sel := o.sel }
    clk := { d.clk with domains := d.clk.domains.set 6 0 } }

/-- The domains that REST and HOLD both switch off: 3 to 6 and every quarter's shader, matrix and memory domains. -/
def restOff (c : Cfg) (d : Dev) : Dev :=
  let d := obsOff (displayOff c d)
  let d := { d with
    til := none, pack := d.pack.map (fun _ => default), cvu := d.cvu.map (fun _ => default), me := []
    cores := d.cores.map (coreFresh 0)
    clk := { d.clk with domains := (d.clk.domains.set 4 0).set 5 0 } }
  (List.range 4).foldl (fun d q => oxStopped (2 + q) (setQuarter q (if d.clk.domains.getD (7 + 5 * q) 0 = 1 then 2 else 0) 0 0 d)) d

/-- What the spine loses in HOLD: registers that R467 does not save. -/
def spineOff (d : Dev) : Dev :=
  let d := { d with
    pwr := { d.pwr with reqResult := 0, avsFault := 0, thermLast := false, estimate := 0, ignoreFloors := false, overTb := none }
    clk := { d.clk with avsLimit := [40, 40, 40, 40], domains := (d.clk.domains.set 1 0).set 2 0 }
    phe := { d.phe with
      maintForced := 0
      refs := d.phe.refs.zipIdx.map (fun (r, n) =>
        if n = 10 then { r with state := 0 }
        else { r with state := 0, turn := 0, acc := 0, edgeTb := 0, period := 0, coastLeft := 0, dirBack := false, lastTurnBack := false }) }
    icu := { d.icu with holdEnd := IcuSt.init.holdEnd, marks := [] }
    dlm := d.dlm.map (fun s => { (default : DlmSt) with
      fallbacks := s.fallbacks, latePrimary := s.latePrimary, missing := s.missing, none_ := s.none_ })
    seq := d.seq.map (fun _ => default)
    host := { d.host with latch := [], linkUp := false } }
  oxStopped 0 (oxStopped 1 d)

/-! ### REST, HOLD and waking -/

/-- The first condition of R462 that fails, as RESULT of PWR_REQ_STATUS; 1 when the request is accepted. -/
def reqCheck (d : Dev) : Nat :=
  if d.fe.rings.any (fun p => p.2.cmds != []) ∨ d.fe.kqRptr ≠ d.fe.kqWptr then 2
  else if d.fe.batchTb.isSome then 7
  else if d.seq.any (fun s => s.attached) then 3
  else if d.store.any (fun s => s.maintBusy) then 4
  else if d.pwr.stage ≠ 0 then 5
  else if d.pwr.keepReady = false then 6 else 1

/-- Level conditions of sources 0 to 5 as a mask. -/
def levelMask (d : Dev) : Nat := maskOf ((List.range 6).filter (levelCond d))

/-- PWR_REQ_REST and PWR_REQ_HOLD: a request for state `st` is checked, and entry begins; a hand-over that has not begun to act ends ABORTED
(R461 to R463, R496). -/
def pwrReq (st : Nat) (d : Dev) : Dev :=
  if d.boot.phase ≠ 2 ∨ d.clk.domains.getD 1 0 ≠ 1 ∨ d.pwr.state ≠ 0 ∨ d.pwr.entering ≠ 0 then d else
  let r := reqCheck d
  if r ≠ 1 then { d with pwr := { d.pwr with reqResult := r } } else
  let d := match d.upd.hand with
    | some h =>
      if h.state ≤ 2 then { d with
        upd := { d.upd with hand := none, busy := false, result := 12 }
        boot := { d.boot with oxsStandbyOk := h.part == 0 || d.boot.oxsStandbyOk } }
      else d
    | none => d
  { d with pwr := { d.pwr with
    reqResult := 1, entering := st, entryTb := d.phe.tb, wakePending := false, wakeCounts := d.icu.count, wakeLevels := levelMask d } }

/-- A wake begins; `src` is the watched source that caused it (R456, R465). During an entry it waits for the entry's end (R463). -/
def startWake (src : Option Nat) (d : Dev) : Dev :=
  let d := match src with
    | some s => gooseWake s d
    | none => d
  if d.pwr.entering ≠ 0 then { d with pwr := { d.pwr with wakePending := true } }
  else if d.pwr.state = 1 ∨ d.pwr.state = 2 then
    { d with pwr := { d.pwr with state := 3, wakeFrom := d.pwr.state, wakeTb := d.phe.tb } }
  else d

/-! ### The keep area and the stage area (R464, R491) -/

/-- Requester of the spine's firmware and of a quarter core's (R100). -/
def rqFirmware : Rq := rqZero 10

/-- Where part `k` of a length lies in the 32 MiB from a base. -/
def areaAt (base k len : Nat) : Nat := base + Config.areaPlace k % (2 ^ 25 + 1 - Nat.min len (2 ^ 25))

/-- Parts, each with its number, are written into an area. -/
def areaWrite (c : Cfg) (base : Nat) (parts : List (List Byte × Nat)) (d : Dev) : Dev :=
  parts.foldl (fun d p => if p.1 = [] then d else (physWrite c rqFirmware (areaAt base p.2 p.1.length) (mark false p.1) [] d).2) d

/-- Firmware writes up to 64 KiB of its own into an area: a hand-over block, or the spine tables. -/
def areaOwn (c : Cfg) (base : Nat) (d : Dev) : Dev :=
  areaWrite c base [((Config.areaBlock d.freeCount).take 65536, 16)] { d with freeCount := d.freeCount + 1 }

/-- The keep area's address. -/
def keepPa (d : Dev) : Nat := d.pwr.keepBase * 2 ^ 32 + d.pwr.keepLo * 2 ^ 25

/-- The stage area's address. -/
def stagePa (d : Dev) : Nat := d.upd.stageHi * 2 ^ 32 + d.upd.stageLo * 2 ^ 25

/-- The parts of the keep area are read, and whether each has its CRC (R464). -/
def keepRead (c : Cfg) (d : Dev) : Bool × Dev :=
  d.pwr.keepCrc.zipIdx.foldl (fun (ok, d) (p, k) =>
    if p.1 = 0 then (ok, d)
    else
      let r := physRead c rqFirmware (areaAt (keepPa d) k p.1) p.1 [] d
      (ok && r.1 == 0 && crc32c (pdata r.2.1) == p.2 && r.2.1.all (fun b => !b.2), r.2.2)) (true, d)

/-- POWER_ENTRY_DONE: entry into REST or HOLD ends. A block being written to the NVM, and a hand-over under way, end first (R463, R489,
R496). -/
def powerEntryDone (c : Cfg) (d : Dev) : Dev :=
  let st := d.pwr.entering
  if st = 0 ∨ d.upd.hand.isSome ∨ d.upd.bufs.any (fun b => b.state == 2) = true then d else
  let d := advanceTo c (d.pwr.entryTb + (if st = 1 then 10000 else 342000)) d
  let d := if st = 1 then d else (List.range 4).foldl (fun d q => cleanWays q (cacheWays c q) d) (areaOwn c (keepPa d) d)
  let d := restOff c d
  let d := if st = 1 then d else
    spineOff ((List.range 4).foldl (fun d q => setQuarter q 0 0 0 (sliceOff c q d)) d)
  let d := { d with
    clk := { d.clk with avs := [], switches := [], rateSwitch := none, rateQueue := [], rail := d.clk.rail.set 4 (if st = 1 then 600 else 0) }
    pwr := { d.pwr with state := st, entering := 0, idleq := 0, holdTb := d.phe.tb } }
  if d.pwr.wakePending then startWake none { d with pwr := { d.pwr with wakePending := false } } else d

/-- WAKE_EVENT: an event or condition of a watched source, or, with no source, the host's exit of the link from L1.2 in HOLD (R456, R465, R524). A
source counts when its event came, or its level began, after the request for the state. -/
def wakeEvent (c : Cfg) (src : Option Nat) (d : Dev) : Dev :=
  if d.boot.phase ≠ 2 then d else
  match src with
  | none => if d.pwr.state = 2 ∧ d.host.perstLow = false then startWake none d else d
  | some s =>
    let came := if s ≤ 5 then levelCond d s && !bit d.pwr.wakeLevels s else decide (aget d.pwr.wakeCounts s < aget d.icu.count s)
    if watched c s && came && (d.pwr.entering != 0 || d.pwr.state == 1 || d.pwr.state == 2) then startWake (some s) d else d

/-- Domains of RUN. Both pipes off leaves the display domain off; without compositor tables they stay off (R59, R459). -/
def runDomains (c : Cfg) (d : Dev) : Dev :=
  let disp := bit d.boot.microcode 4 && ((c.disp 0).enable == 1 || (c.disp 1).enable == 1)
  let front := [1, 1, 1, b2n disp, 1, 1, 1]
  let l := front ++ (List.range 20).map (fun i => b2n (quarterMayRun d (i / 5)))
  { d with clk := { d.clk with domains := l } }

/-- OXS0 starts from its ROM at the wake from HOLD, and OXS1 stands by (R466; DEDUCED, log 178). -/
def oxsFromRom (d : Dev) : Dev :=
  { d with boot := { d.boot with oxsActive := 0, oxsStandbyOk := true } }

/-- Links of the enabled pipes after training: bit p of `links`. -/
def trainLinks (links : Nat) (d : Dev) : Dev :=
  { d with comp := { d.comp with pipes := d.comp.pipes.zipIdx.map (fun (p, i) => { p with link := bit links i, linkTb := d.phe.tb }) } }

/-- PHE after HOLD: reference 10 and PHE_TB go on by the SYSCLK periods that AO counted, references 0 to 7 re-enter ACQUIRING (R466). -/
def pheBack (c : Cfg) (d : Dev) : Dev :=
  let n := (d.phe.tb - d.pwr.holdTb) * 48 / 625
  let k := n * 625 / 48
  let d := { d with phe := { d.phe with tb := d.pwr.holdTb + k } }
  let d := setRef d 10 (fun r => refAdvance c 10 k { r with state := 2 })
  (List.range 8).foldl (fun d i => if (c.phin i).mode = 0 then d else enterAcquiring c i d) d

/-- The wake's end (R466, R467): domains and registers are back, memory is retrained from its saved calibration, and the FE fetches again.
A part in the keep area that fails its CRC costs about 40 ms (R464): its bytes are wrong, or `keepBad` tells that its reading failed; `links` says which
display links train. -/
def wakeRestore (c : Cfg) (keepBad : Bool) (links : Nat) (d : Dev) : Dev :=
  let hold := d.pwr.wakeFrom == 2
  let bad := keepBad || !(keepRead c (runDomains c d)).1
  let d := advanceTo c (d.pwr.wakeTb + (if hold then 1000000 else 25000) + (if bad then 20000000 else 0)) d
  let off := d.clk.domains
  let d := (keepRead c (runDomains c d)).2
  let d := if hold then dlmArm c (pheBack c (oxsFromRom d)) else d
  let d := restoreSaved ((List.range 27).filter (fun k => off.getD k 0 == 0 && d.clk.domains.getD k 0 == 1)) d
  let d := freshUnits (fun _ => true) d
  let d := trainLinks links { d with
    cores := d.cores.zipIdx.map (fun (s, k) => coreFresh (d.clk.aclk.getD (k / 6) 0 / 1000) s)
    phe := { d.phe with lastRetrain := [d.phe.tb, d.phe.tb, d.phe.tb, d.phe.tb] }
    clk := { d.clk with rail := d.clk.rail.set 4 750 }
    host := { d.host with linkUp := d.host.linkUp || (hold && !d.host.perstLow) }
    pwr := { d.pwr with state := 0, wakePending := false, lastBusy := [d.phe.tb, d.phe.tb, d.phe.tb, d.phe.tb] } }
  let d := clearMarks (railFix d)
  obsSync c (obsEmit c 5 0x50 0 0xF1 0 [] d)

/-! ### Registers of PWR with an effect -/

/-- PWR_KEEP_BASE_WRITE: a write of the _HI half. The first write that makes a valid address starts the copy; later ones are ignored (R464). -/
def keepBaseWrite (v : Nat) (d : Dev) : Dev :=
  if d.boot.phase ≠ 2 ∨ d.clk.domains.getD 1 0 ≠ 1 ∨ d.pwr.keepSet then d else
  let hi := v % 65536
  let pa := hi * 2 ^ 32 + d.pwr.keepLo * 2 ^ 25
  { d with pwr := { d.pwr with keepBase := hi, keepSet := pa / 2 ^ 40 == 1 } }

/-- KEEP_COPY_DONE: the FE, ME, SNE and TOK microcode and the compositor tables stand in the keep area, their CRCs are stored and KEEP_READY is set. -/
def keepCopyDone (c : Cfg) (d : Dev) : Dev :=
  if d.pwr.keepSet = false ∨ d.pwr.keepReady ∨ d.pwr.state ≠ 0 ∨ (sliceOf d 0).memLost then d else
  areaWrite c (keepPa d) d.boot.parts.zipIdx { d with
    pwr := { d.pwr with keepReady := true, keepCrc := d.boot.parts.map (fun b => (b.length, crc32c b)) } }

/-- PWR_COUNT_CLEAR. -/
def pwrCountClear (v : Nat) (d : Dev) : Dev :=
  if pwrUp d = false ∨ bit v 0 = false then d else
  { d with pwr := { d.pwr with dips := 0, floorOverride := 0, avsFaults := 0, throttles := 0 } }

/-- PWR_STATUS: bits cleared by a 1; a cleared rail fault lets the next raise try again (R470). -/
def pwrStatusWrite (v : Nat) (d : Dev) : Dev :=
  let clr := v % 32 &&& d.pwr.avsFault
  { d with
    pwr := { d.pwr with avsFault := maskAndNot 8 d.pwr.avsFault clr, thermLast := d.pwr.thermLast && !bit v 31 }
    clk := { d.clk with avsLimit := d.clk.avsLimit.zipIdx.map (fun (l, q) => if bit clr q then 40 else l) } }

/-- PWR_FLOOR_q: a step outside 10 to that of ACLK_MAX_MHZ is ignored (R480). -/
def pwrFloorWrite (c : Cfg) (q v : Nat) (d : Dev) : Dev :=
  let n := v % 64
  if 10 ≤ n ∧ n ≤ aclkTop c q then { d with clk := { d.clk with floor := d.clk.floor.set q n } } else d

end Sys2Proof.Machine
end

