-- ==== Sys2Proof/Machine/Upd.lean ====
section
/-! DEFINITION. Field update, hand-over and attestation (R486 to R502), and faults of the spine cores (R30, R493). -/

namespace Sys2Proof.Machine

/-- Change the update state. -/
def setUpd (f : UpdSt → UpdSt) (d : Dev) : Dev := { d with upd := f d.upd }

/-- One more ignored write or GO. -/
def updIgnore (d : Dev) : Dev := setUpd (fun u => { u with ignored := satInc 255 u.ignored }) d

/-- Change a buffer. -/
def setBuf (b : Nat) (f : UpdBuf → UpdBuf) (d : Dev) : Dev := setUpd (fun u => { u with bufs := upd u.bufs b f }) d

/-- The current command ends (R490). -/
def updEnd (result : Nat) (d : Dev) : Dev := setUpd (fun u => { u with busy := false, result := result }) d

/-! ### The NVM queue (R486 to R489) -/

/-- Whether the NVM is free for the next queued operation: no hand-over reads it, and the device is in RUN or in recovery mode. -/
def nvmIdle (d : Dev) : Bool :=
  (match d.upd.hand with
   | some h => h.state != 1
   | none => true) && d.pwr.state == 0 && d.pwr.entering == 0

/-- A set entry is appended and its command ends, or its verification failed with its two repeats: FAULT, and the entries in force are unchanged
(R488, R489). -/
def doAppend (kind slots tries : Nat) (ok : Bool) (d : Dev) : Dev :=
  if ok = false then updEnd 11 (setUpd (fun u => { u with retries := satAdd 255 u.retries 2 }) d) else
  let ff : List Byte := List.replicate tries 0xFF
  let r := appendSet d.upd.nvm d.upd.lastSector kind slots (ff ++ leBytes (8 - tries) 0)
  updEnd 1 (setUpd (fun u => { u with nvm := r.1, lastSector := r.2 }) d)

/-- Appends at the head of the queue are made, and a block at its head begins to be written. -/
def pumpNvm : Nat → Dev → Dev
  | 0, d => d
  | n + 1, d =>
    if nvmIdle d = false then d else
    match d.upd.queue with
    | .append k s t ok :: rest => pumpNvm n (doAppend k s t ok (setUpd (fun u => { u with queue := rest }) d))
    | .block b _ :: _ => setBuf b (fun x => { x with state := 2 }) d
    | [] => d

/-- The slots that no block may overwrite (R487). -/
def slotProtected (d : Dev) (s : Nat × Nat) : Bool :=
  slotBit (confirmedSlots d.upd.nvm) s.1 == s.2 ||
    (match trialEnt d.upd.nvm with
     | some t => slotBit t.slots s.1 == s.2
     | none => false)

/-- UPD_BLOCK_GO: a write of UPD_BLK_CMD with GO queues the named buffer, or ends it with RANGE or PROTECTED. -/
def blockGo (v : Nat) (d : Dev) : Dev :=
  if updOn d = false then d else
  let b := v % 16
  let d := setUpd (fun u => { u with blkBuf := b }) d
  let a := d.upd.blkHi * 2 ^ 32 + d.upd.blkLo
  if (bufOf d b).state ≠ 0 then updIgnore d
  else
    let refuse := fun (r : Nat) => raise 27 (setBuf b (fun x => { x with result := r }) d)
    match slotAt a with
    | none => refuse 2
    | some s =>
      if a % 4096 ≠ 0 then refuse 2
      else if slotProtected d s then refuse 3
      else
        let d := setBuf b (fun x => { x with state := 1 }) d
        pumpNvm 1 (setUpd (fun u => { u with queue := u.queue ++ [.block b a] }) d)

/-- UPD_BLOCK_DONE: the block being written ends. `misses` says how often the read-back differed: each of the first two repeats the erase
and the programming; after the third the sector's content is open (R488). -/
def blockDone (misses : Nat) (d : Dev) : Dev :=
  match d.upd.queue with
  | .block b a :: rest =>
    if (bufOf d b).state ≠ 2 then d else
    let bad := decide (3 ≤ misses)
    let data := memRead (bufOf d b).data 0 4096
    let f := if bad then freeBytes 4096 d else (data, d)
    let d := setUpd (fun u => { u with
      nvm := nvmWrite u.nvm a f.1, queue := rest, retries := satAdd 255 u.retries (Nat.min misses 2)
      blocks := if bad then u.blocks else satInc 65535 u.blocks }) f.2
    let d := raise 27 (setBuf b (fun x => { x with state := 0, result := if bad then 4 else 1 }) d)
    pumpNvm 18 d
  | _ => d

/-- UPD_MAILBOX_WRITE: aligned 4 or 8 bytes at an offset of the mailbox; a buffer that is not FREE ignores and counts them. -/
def mailboxWrite (off : Nat) (data : List Byte) (d : Dev) : Dev :=
  let n := data.length
  if updOn d = false ∨ (n ≠ 4 ∧ n ≠ 8) ∨ off % n ≠ 0 ∨ 65536 ≤ off then d
  else if (bufOf d (off / 4096)).state ≠ 0 then updIgnore d
  else setBuf (off / 4096) (fun x => { x with data := memWrite x.data (off % 4096) data }) d

/-- The device writes the mailbox from offset 0. -/
def mailboxPut (o : Nat) (l : List Byte) (d : Dev) : Dev :=
  (List.range 16).foldl (fun d b =>
    let lo := 4096 * b
    let part := (l.drop (lo - o)).take (if o ≤ lo then 4096 else lo + 4096 - o)
    if lo + 4096 ≤ o ∨ o + l.length ≤ lo then d
    else setBuf b (fun x => { x with data := memWrite x.data (o - lo) part }) d) d

/-! ### Commands (R490) -/

/-- UPD_COUNT_CLEAR. -/
def updCountClear (v : Nat) (d : Dev) : Dev :=
  if updOn d = false ∨ bit v 0 = false then d else setUpd (fun u => { u with ignored := 0, retries := 0, blocks := 0 }) d

/-- A block is queued or being written. -/
def blocksPending (d : Dev) : Bool := d.upd.bufs.any (fun b => b.state != 0)

/-- A write of UPD_CMD with GO: the fields are written; a command runs only when none does. -/
def updCommand (op arg : Nat) (f : Dev → Dev) (d : Dev) : Dev :=
  if updOn d = false then d else
  let d := setUpd (fun u => { u with op := op, arg := arg % 256 }) d
  if d.upd.busy then updIgnore d else f (setUpd (fun u => { u with busy := true, result := 0 }) d)

/-- Levels of a set of slots as the envelopes have them. -/
def slotLevels (m : Mem) (slots : Nat) : List (Nat × Nat) :=
  ([1, 2, 3, 4, 5, 6, 7]).map (fun k => envelopeLevels m k (slotBit slots k))

/-- An append is queued behind the NVM operations that wait. -/
def queueAppend (kind slots tries : Nat) (ok : Bool) (d : Dev) : Dev :=
  pumpNvm 18 (setUpd (fun u => { u with queue := u.queue ++ [.append kind slots tries ok] }) d)

/-- SET_TRIAL with a number of tries; `ok` is the outcome of the entry's verification. -/
def setTrial (tries : Nat) (ok : Bool) : Dev → Dev := updCommand 1 tries (fun d =>
  let m := d.upd.nvm
  let slots := confirmedSlots m ^^^ (d.upd.mask % 128)
  if d.upd.mask % 128 = 0 ∨ tries = 0 ∨ 8 < tries then updEnd 2 d
  else if blocksPending d then updEnd 3 d
  else if (trialEnt m).isSome then updEnd 5 d
  else if levelsOk (slotLevels m slots) = false then updEnd 6 d
  else queueAppend 2 slots tries ok d)

/-- CANCEL. -/
def updCancel (ok : Bool) (d : Dev) : Dev := updCommand 2 d.upd.arg (fun d =>
  if (trialEnt d.upd.nvm).isNone then updEnd 4 d else queueAppend 1 (confirmedSlots d.upd.nvm) 0 ok d) d

/-- CONFIRM. -/
def updConfirm (ok : Bool) (d : Dev) : Dev := updCommand 3 d.upd.arg (fun d =>
  match trialEnt d.upd.nvm with
  | none => updEnd 4 d
  | some t =>
    if blocksPending d then updEnd 3 d
    else if levelsOk (slotLevels d.upd.nvm t.slots) = false then updEnd 6 d
    else queueAppend 1 t.slots 0 ok d) d

/-- READ_CERT: length at offset 0 of the mailbox and the certificate from offset 16 (R498). -/
def readCert (which : Nat) : Dev → Dev := updCommand 6 which (fun d =>
  if 1 < which then updEnd 2 d
  else if blocksPending d then updEnd 3 d
  else
    let len := getLe (nvmRead d.upd.nvm (0x42000 + 4 * which) 4) 0 4
    let n := Nat.min len (if which = 0 then 0x4000 else 0x8000)
    let cert := nvmRead d.upd.nvm (if which = 0 then 0x44000 else 0x48000) n
    updEnd 1 (mailboxPut 16 cert (mailboxPut 0 (leBytes 4 len) d)))

/-- An image entry of the report (R500). -/
def imageEntry (x : MeasImg) : List Byte :=
  leBytes 1 x.kind ++ leBytes 1 x.slot ++ leBytes 1 x.parts ++ leBytes 1 x.state ++ leBytes 4 x.version ++ leBytes 2 x.lmin ++
    leBytes 2 x.lmax ++ x.digest ++ leBytes 4 0

/-- A record entry of the report. -/
def recEntry (x : MeasRec) : List Byte :=
  leBytes 2 x.type ++ leBytes 1 x.inst ++ leBytes 1 x.format ++ leBytes 1 x.kind ++ leBytes 1 x.slot ++ leBytes 1 x.outcome ++ leBytes 9 0 ++ x.digest

/-- The attestation report, signed with the device keys (R500). -/
def attestReport (d : Dev) : List Byte :=
  let u := d.upd
  let seqOfEnt := fun (e : Option SetEnt) => match e with
    | some x => x.seq
    | none => 0
  let flags := b2n u.trialUsed + 2 * b2n u.reverted + 4 * b2n u.setDefault + 8 * b2n u.overflow + 16 * b2n (bit d.boot.bootStatus 12)
  let body := 2056 + 64 * u.images.length + 64 * u.recs.length
  let head := leBytes 4 0x41394E56 ++ leBytes 2 1 ++ leBytes 2 flags ++ leBytes 2 u.images.length ++ leBytes 2 u.recs.length ++
    leBytes 4 (body + 64 + 3309) ++ leBytes 4 (seqOfEnt (confirmedEnt u.nvm)) ++ leBytes 4 (seqOfEnt (trialEnt u.nvm)) ++ leBytes 2 u.level ++
    leBytes 2 Config.romVersion.toNat ++ leBytes 4 0 ++ leBytes 8 (d.phe.tb % 2 ^ 64) ++ u.nonce.flatMap (leBytes 4) ++
    edPublic (edSeed u.secret) ++ mlPublic (mlSeed u.secret)
  let all := head ++ u.images.flatMap imageEntry ++ u.recs.flatMap recEntry
  let digest := sha384 all
  all ++ edSign (edSeed u.secret) digest ++ mlSign (mlSeed u.secret) ((List.range 32).map (Config.signNoise digest)) digest

/-- ATTEST. -/
def updAttest (d : Dev) : Dev := updCommand 5 d.upd.arg (fun d =>
  if blocksPending d then updEnd 3 d
  else if recovery d ∨ d.upd.pufFail then updEnd 13 d
  else updEnd 1 (mailboxPut 0 (attestReport d) d)) d

/-! ### Hand-over (R491 to R496) -/

/-- HANDOVER of a part: 0 the spine, 1 to 4 the quarters. -/
def handover (part : Nat) : Dev → Dev := updCommand 4 part (fun d =>
  let lost := part != 0 && (sliceOf d (part - 1)).memLost
  if 4 < part then updEnd 2 d
  else if d.upd.stageHi = 0 then updEnd 9 d
  else if blocksPending d then updEnd 3 d
  else if d.boot.phase ≠ 2 ∨ d.pwr.state ≠ 0 ∨ d.pwr.stage ≠ 0 ∨ lost = true then updEnd 8 d
  else
    let d := setUpd (fun u => { u with hand := some ⟨part, 1, d.phe.tb, [], false⟩ }) d
    if part = 0 then { d with boot := { d.boot with oxsStandbyOk := false } } else d)

/-- The hand-over in progress ends with a result, and queued blocks go on; an entry into REST or HOLD that it held begins to act now (R496). -/
def handEnd (result : Nat) (d : Dev) : Dev :=
  let d := updEnd result (setUpd (fun u => { u with hand := none }) d)
  let d := if d.pwr.entering = 0 then d else { d with pwr := { d.pwr with entryTb := d.phe.tb } }
  pumpNvm 18 d

/-- Levels of the running set with a part's images replaced (R484, R491). -/
def mixedLevels (u : UpdSt) (part : Nat) (l : List Image) : List (Nat × Nat) :=
  let rest := u.images.filter (fun e => e.state == 1 && e.parts != 2 ^ part)
  rest.map (fun e => (e.lmin, e.lmax)) ++ l.map (fun x => (x.lmin, x.lmax))

/-- HANDOVER_PREPARED: the part's images are read, authenticated and staged: about 52 ms for the spine and 49 ms for a quarter. -/
def handPrepared (c : Cfg) (d : Dev) : Dev :=
  match d.upd.hand with
  | none => d
  | some h =>
    if h.state ≠ 1 then d else
    let d := advanceTo c (h.tb + (if h.part = 0 then 26000000 else 24500000)) d
    let d := if h.part = 0 then { d with boot := { d.boot with oxsStandbyOk := true } } else d
    let slots := currentSlots d.upd.nvm
    let imgs := (partKinds h.part).map (fun k => readImage d.upd.nvm d.upd.imageKey k (slotBit slots k))
    if imgs.any (·.isNone) then handEnd 7 d
    else
      let l := imgs.filterMap id
      if levelsOk (mixedLevels d.upd h.part l) = false then handEnd 6 d
      else
        let d := areaWrite c (stagePa d) (l.map (fun x => (x.body, 8 + x.kind))) d
        pumpNvm 18 (setUpd (fun u => { u with hand := some { h with state := 2, tb := d.phe.tb, images := l } }) d)

/-- HANDOVER_WINDOW_TIMEOUT: no window opened within 10 s. -/
def handTimeout (c : Cfg) (d : Dev) : Dev :=
  match d.upd.hand with
  | none => d
  | some h => if h.state = 2 then handEnd 10 (advanceTo c (h.tb + 5000000000) d) else d

/-- The microcode and tables of a part's new images are in force: the compositor's from the next panel initialisation (R492, R494). -/
def newMicrocode (h : HandOver) (b : BootSt) : BootSt :=
  let body := fun (k : Nat) => ((h.images.find? (fun x => x.kind == k)).map (fun x => x.body)).getD []
  if h.part = 0 then { b with microcode := b.microcode ||| 0x1D, parts := [body 3, body 4, body 5] }
  else { b with microcode := putBit b.microcode (7 + h.part) true }

/-- The part's new images are in force (R499, R502). -/
def handDone (h : HandOver) (d : Dev) : Dev :=
  let bitp := 2 ^ h.part
  let trial := fun (k : Nat) => match trialEnt d.upd.nvm with
    | some t => slotBit t.slots k != slotBit (confirmedSlots d.upd.nvm) k
    | none => false
  let retire := fun (e : MeasImg) =>
    if e.state = 1 ∧ bit e.parts h.part then
      (if e.parts = bitp then { e with state := 2, parts := 0 } else { e with parts := e.parts - bitp })
    else e
  let u := { d.upd with images := d.upd.images.map retire }
  let u := h.images.foldl (fun u x => logImage ⟨x.kind, x.slot, bitp, 1, x.version, x.lmin, x.lmax, x.digest⟩ u) u
  let slotMask := maskOf ((h.images.filter (fun x => x.slot == 1)).map (fun x => x.kind - 1))
  let trialMask := maskOf ((h.images.filter (fun x => trial x.kind)).map (fun x => x.kind - 1))
  let u := { u with partSlot := u.partSlot.set h.part slotMask, partTrial := u.partTrial.set h.part trialMask }
  handEnd 1 { d with upd := { u with level := lowLevel (runningLevels u) }, boot := newMicrocode h d.boot }

/-- Time passes to the next start of the maintenance window; the activity begins if it fits (R85). A mode-Q shaft reaches the start by its own steps:
it must stand at the first position of the window. -/
def windowStart (c : Cfg) (ticks : Nat) (d : Dev) : Option Dev :=
  let n := d.phe.maintRef
  let r := refOf d n
  if refValid r = false then none else
  let d := advance c (ticksToStamp c n (nextAngle d.phe.maintStart (refStamp r)) d) d
  let into := (refStamp (refOf d n) + 2 ^ 32 - d.phe.maintStart % 2 ^ 32) % 2 ^ 32
  if refMode c n = 3 ∧ 2 ^ 32 ≤ into * (c.phin n).pulses then none
  else if (windowFits c ticks d).isSome then some d else none

/-- SPINE_HANDOVER: at a window start the FE stops posting, and the active core writes its hand-over block (R492). -/
def spineHandover (c : Cfg) (d : Dev) : Dev :=
  match d.upd.hand with
  | none => d
  | some h =>
    if h.part ≠ 0 ∨ h.state ≠ 2 then d else
    match windowStart c 50000 d with
    | none => d
    | some d =>
      let d := areaOwn c (stagePa d) (setUpd (fun u => { u with hand := some { h with state := 3, tb := d.phe.tb } }) d)
      { d with fe := { d.fe with postStop := true } }

/-- SPINE_HANDOVER_SWITCH: 60 us on, the standby core is active and the FE posts again. -/
def spineSwitch (c : Cfg) (d : Dev) : Dev :=
  match d.upd.hand with
  | none => d
  | some h =>
    if h.part ≠ 0 ∨ h.state ≠ 3 then d else
    let d := advanceTo c (h.tb + 30000) d
    let old := d.boot.oxsActive
    let d := oxStopped old { d with
      fe := { d.fe with postStop := false }, boot := { d.boot with oxsActive := 1 - old, oxsStandbyOk := true } }
    handDone h d

/-- Set the service-window mark of every engine of a quarter. -/
def setWindow (q : Nat) (w : Bool) (d : Dev) : Dev :=
  ([1, 2, 3, 4]).foldl (fun d cls => (List.range (instCount cls)).foldl (fun d i =>
    setInst d (instIdx cls q i) (fun s => { s with window := w })) d) d

/-- QUARTER_LEAVE: at a window start the quarter's engines leave every allowed set (R494). -/
def quarterLeave (c : Cfg) (q : Nat) (d : Dev) : Dev :=
  match d.upd.hand with
  | none => d
  | some h =>
    if h.part ≠ q + 1 ∨ h.state ≠ 2 then d else
    match windowStart c 5000 d with
    | none => d
    | some d => setWindow q true (setUpd (fun u => { u with hand := some { h with state := 4, tb := d.phe.tb } }) d)

/-- A restarted quarter's STORE_WAYS: ways are cleaned, changed scratch and trace ways zeroed, and contexts that owned one are lost with
cause KILLED (R495). -/
def newWays (c : Cfg) (q : Nat) (w : StoreWaysRec) (d : Dev) : Dev :=
  let o := c.ways q
  if o = w then d else
  let d := cleanWays q (cacheWays c q) d
  let moved := (List.range 16).filter (fun i =>
    bit o.scratch i != bit w.scratch i || bit o.trace i != bit w.trace i || (bit w.scratch i && o.owner.getD i 0xFF != w.owner.getD i 0xFF))
  let d := zeroScratch q (maskOf moved) (if o.trace = w.trace then d else traceLost c q d)
  let owners := (moved.filter (fun i => bit o.scratch i)).map (fun i => o.owner.getD i 0xFF)
  (List.range 64).foldl (fun d x => if owners.contains (c.contextRc x) then loseContext c x 0x19 [] d else d) d

/-- QUARTER_DRAIN_DONE: every unit has ended; the quarter core restarts, its STORE_WAYS and DRAM_CAL apply, and the start-up test runs: `me`,
`sne` and `sc` are masks of the units that fail it (R494, R495). R58 gives a failing unit its bit of GLB_KAT_FAIL_0 or _1, and R60 has those
registers written once, before READY: they stand, and the unit leaves its allowed sets (DESIGN CHOICE, log 152). -/
def quarterDrained (c : Cfg) (q me sne sc : Nat) (d : Dev) : Cfg × Dev :=
  match d.upd.hand with
  | none => (c, d)
  | some h =>
    if h.part ≠ q + 1 ∨ h.state ≠ 4 ∨ h.tested ∨ quarterBusy d q then (c, d) else
    let d := advanceTo c (d.phe.tb + 3000000) d
    let rs := imageRecs h.images
    let n := cfgOf rs.1
    let d := newWays c q (n.ways q) (oxStopped (2 + q) (areaOwn c (stagePa d) d))
    let c := { c with storeWays := c.storeWays.set q (n.ways q), dramCal := c.dramCal.set q (n.dramCal.getD q none) }
    let test := fun (cls mask : Nat) (d : Dev) => (List.range (instCount cls)).foldl (fun d i =>
      setInst d (instIdx cls q i) (fun s => { s with katFailed := bit mask i, lastCtx := none })) d
    let d := test 4 sc (test 2 sne (test 1 me d))
    (c, setUpd (fun u => { logRecs (acceptRecs rs.1) rs.1 u with hand := some { h with tested := true } }) d)

/-- QUARTER_REJOIN: at the next window start the quarter's CLOCKS and POWER entries apply, its engines are back in their allowed sets, and
HANDOVER completes OK. -/
def quarterRejoin (c : Cfg) (q : Nat) (d : Dev) : Cfg × Dev :=
  match d.upd.hand with
  | none => (c, d)
  | some h =>
    if h.part ≠ q + 1 ∨ h.state ≠ 4 ∨ h.tested = false then (c, d) else
    match windowStart c 5000 d with
    | none => (c, d)
    | some d =>
      let n := cfgOf (imageRecs h.images).1
      let c := { c with
        clocks := { c.clocks with aclkMax := c.clocks.aclkMax.set q (n.clocks.aclkMax.getD q 550) }
        power := { c.power with
          rails := c.power.rails.set q (n.power.rails.getD q 0), idleqEn := putBit c.power.idleqEn q (bit n.power.idleqEn q) } }
      let d := handDone h (setWindow q false d)
      (c, if aclkTop c q < d.clk.step.getD q 0 then changeClock q (aclkTop c q) d else d)

/-- OX_CORE_FAULT of spine core 0 or 1 (R30, R437, R493). -/
def oxCoreFault (c : Cfg) (core : Nat) (d : Dev) : Dev :=
  if d.boot.phase ≠ 2 ∨ 1 < core ∨ d.clk.domains.getD 1 0 ≠ 1 ∨ faulted d then d else
  let active := core == d.boot.oxsActive
  let spine := match d.upd.hand with
    | some h => if h.part = 0 then some h else none
    | none => none
  let fail := fun (d : Dev) =>
    handEnd 11 { d with fe := { d.fe with postStop := false }, boot := { d.boot with oxsStandbyOk := true } }
  let takesOver := fun (d : Dev) =>
    oxStopped core { d with boot := { d.boot with oxsActive := 1 - core, oxsStandbyOk := false } }
  match spine with
  | some h =>
    if h.state = 3 then (if d.phe.tb < h.tb + 20000 then fail d else d)
    else if active = false then fail d
    else if d.boot.oxsStandbyOk = false then enterDevFault c 5 d
    else takesOver (handEnd 11 d)
  | none =>
    if active = false then { d with boot := { d.boot with oxsStandbyOk := false } }
    else if d.boot.oxsStandbyOk = false then enterDevFault c 5 d
    else takesOver d

end Sys2Proof.Machine
end

