-- ==== Sys2Proof/Machine/RegsW.lean ====
section
/-! DEFINITION. The register map of BAR 0, write side (R9, R10, R12): what a write of each register does. -/

namespace Sys2Proof.Machine

/-- PHE_CLEAR: bit n zeroes PHE_ERR_n and PHE_LOSS_n (R86, R87). -/
def pheClear (v : Nat) (d : Dev) : Dev :=
  let refs := d.phe.refs.zipIdx.map (fun (r, n) =>
    if bit (v % 2 ^ 11) n then { r with glitch := 0, periodViolation := 0, pulseCount := 0, timeout := 0, loss := 0 } else r)
  { d with phe := { d.phe with refs := refs } }

/-- FE_REF_OP (R353). -/
def refOp (v : Nat) (d : Dev) : Dev :=
  if bits v 31 30 = 1 then feRefAdd (v % 2 ^ 16) (bits v 23 16) d
  else if bits v 31 30 = 2 then feRefDrop (v % 2 ^ 16) (bits v 23 16) d else d

/-- PWR_REQ: 1 REST, 2 HOLD; 0 and 3 do nothing. -/
def pwrReqWrite (v : Nat) (d : Dev) : Dev := if v % 4 = 1 ∨ v % 4 = 2 then pwrReq (v % 4) d else d

/-- CS_MAINT_CTRL: OP, and GO (R116). -/
def csMaintCtrl (q v : Nat) (d : Dev) : Dev :=
  if bit v 31 then csMaint q (v % 4) d else setSlice d q (fun s => { s with maintOp := v % 4 })

/-- UPD_BLK_CMD: BUF, and GO (R486). -/
def blkCmd (v : Nat) (d : Dev) : Dev := if bit v 31 then blockGo v d else setUpd (fun u => { u with blkBuf := v % 16 }) d

/-- UPD_CMD: OP and ARG, and GO. An OP that is not one of the commands ends BAD_OP (R490); the NVM's verifications succeed. -/
def updCmdWrite (v : Nat) (d : Dev) : Dev :=
  let op := v % 256
  let arg := bits v 15 8
  if bit v 31 = false then setUpd (fun u => { u with op := op, arg := arg }) d else
  let d' := setUpd (fun u => { u with arg := arg }) d
  match op with
  | 1 => setTrial arg true d
  | 2 => updCancel true d'
  | 3 => updConfirm true d'
  | 4 => handover arg d
  | 5 => updAttest d'
  | 6 => readCert arg d
  | _ => updCommand op arg (updEnd 2) d

/-- ERR block of table `k` (R427, R442). -/
def errWrite (k o v : Nat) (d : Dev) : Dev :=
  let tab := fun (f : ErrTab → ErrTab) => { d with err := { d.err with tabs := upd d.err.tabs k f } }
  if o = 0x0C then tab (fun t => { t with overflow := t.overflow && !bit v 16 })
  else if o = 0x10 then tab (fun t => { t with ceThreshold := bits v 15 8, scrubEn := if k = 4 then t.scrubEn else bit v 0 })
  else if o = 0x14 then errClear k v d
  else if 0x100 ≤ o ∧ o < 0x200 ∧ o % 16 = 0 then errLogFree k ((o - 0x100) / 16) v d
  else d

/-- ICU. Writes of the Ox targets' registers from here are ignored (R450, R451). -/
def icuWrite (o v : Nat) (d : Dev) : Dev :=
  let i := d.icu
  if o = 0 then clearMarks { d with icu := { i with globalHold := bit v 0 } }
  else if o = 0x08 then icStatusClear v d
  else if o = 0x0C then icSwRaise v d
  else if 0x400 ≤ o ∧ o < 0x480 then clearMarks { d with icu := { i with en := i.en.set ((o - 0x400) / 4) (v % 2 ^ 16) } }
  else if o = 0x800 then { d with icu := { i with woke := i.woke && !bit v 31 } }
  else if 0x2000 ≤ o ∧ o < 0x2000 + 0x20 * 70 then
    let t := (o - 0x2000) / 32
    match o % 32 with
    | 4 => icuEoi t (v % 512) false d
    | 12 => icuTargetReset t v false d
    | _ => d
  else d

/-- A 44-bit or 64-bit base register, low and high word. -/
def setLow (base v : Nat) : Nat := putBits base 31 0 v

/-- The high word, of `w` bits. -/
def setHigh (base w v : Nat) : Nat := base % 2 ^ 32 + (v % 2 ^ w) * 2 ^ 32

/-- FE. The kernel queue's base and size registers take writes only while ENABLE is 0; 32-bit writes of FE_FENCE_SIG are ignored. -/
def feWrite (o v : Nat) (d : Dev) : Dev :=
  let f := d.fe
  let kq := fun (g : FeSt) => if f.kqEnable then d else { d with fe := g }
  if o = 0x00 then kqEnableWrite v d
  else if o = 0x08 then kq { f with kqBase := setLow f.kqBase v }
  else if o = 0x0C then kq { f with kqBase := setHigh f.kqBase 12 v }
  else if o = 0x10 then kq { f with kqSize := v }
  else if o = 0x14 then kqWptrWrite v d
  else if o = 0x20 then kq { f with kqCqBase := setLow f.kqCqBase v }
  else if o = 0x24 then kq { f with kqCqBase := setHigh f.kqCqBase 12 v }
  else if o = 0x28 then kq { f with kqCqSize := v }
  else if o = 0x30 then kqCqRptrWrite v d
  else if o = 0x40 then { d with fe := { f with bar2Base := v % 2 ^ 20 } }
  else if o = 0x50 then refOp v d
  else if o = 0x54 then { d with fe := { f with refSel := v % 2 ^ 16 } }
  else if o = 0x60 then { d with fe := { f with sigSel := v % 2 ^ 12 } }
  else if o = 0x78 then feCountClear v d
  else if o = 0x800 then feSchedClear v d
  else d

/-- A ring's doorbell page (R337). -/
def dbWrite (c : Cfg) (ring o v : Nat) (d : Dev) : Dev :=
  match o with
  | 0x00 => dbWptr c ring v d
  | 0x08 => dbCqRptr ring v d
  | _ => d

/-- PHE and the deadline monitors. A window's start and length take effect at the next turn boundary of its reference (R86). -/
def pheWrite (o v : Nat) (d : Dev) : Dev :=
  let p := d.phe
  if o = 0x0C then { d with phe := { p with irqEn := v % 2 ^ 11 } }
  else if o = 0x10 then (if v % 16 ≤ 10 then { d with phe := { p with maintRef := v % 16 } } else d)
  else if o = 0x18 then { d with phe := { p with pendStart := some v } }
  else if o = 0x1C then { d with phe := { p with pendLen := some v } }
  else if o = 0x20 then pheClear v d
  else if 0x400 ≤ o ∧ o < 0x500 ∧ o % 32 = 12 then dlmClear ((o - 0x400) / 32) v d
  else d

/-- PWR. -/
def pwrWrite (c : Cfg) (o v : Nat) (d : Dev) : Dev :=
  if o = 0x04 then pwrReqWrite v d
  else if o = 0x10 then (if d.pwr.keepSet then d else { d with pwr := { d.pwr with keepLo := bits v 31 25 } })
  else if o = 0x14 then keepBaseWrite v d
  else if o = 0x24 then pwrStatusWrite v d
  else if o = 0x2C then pwrCountClear v d
  else if 0x40 ≤ o ∧ o < 0x80 ∧ o % 16 = 4 then pwrFloorWrite c ((o - 0x40) / 16) v d
  else d

/-- MMU. MMU_FAULT_BASE takes writes only while ENABLE is 0. -/
def mmuWrite (c : Cfg) (o v : Nat) (d : Dev) : Dev :=
  let m := d.mmu
  if o = 0x00 then faultEnable c v d
  else if o = 0x08 then (if m.enable then d else { d with mmu := { m with base := setLow m.base (v - v % 4096) } })
  else if o = 0x0C then (if m.enable then d else { d with mmu := { m with base := setHigh m.base 16 v } })
  else if o = 0x14 then faultRptr v d
  else if o = 0x18 then batchCfg c v d
  else if o = 0x20 then mmuReplay c v d
  else if o = 0x34 then mmuCountClear v d
  else if 0x50 ≤ o ∧ o < 0xC0 then
    let n := (o - 0x40) / 16
    match o % 16 with
    | 0 => { d with mmu := { m with peerBase := amod m.peerBase n (fun b => setLow b (v - v % 65536)) } }
    | 4 => { d with mmu := { m with peerBase := amod m.peerBase n (fun b => setHigh b 32 v) } }
    | 8 => { d with mmu := { m with peerSize := aset m.peerSize n (v % 2 ^ 28) } }
    | _ => d
  else d

/-- UPD; in recovery mode only the registers that R502 names are active. -/
def updWrite (o v : Nat) (d : Dev) : Dev :=
  let full := !recovery d
  if o = 0x08 then setUpd (fun u => { u with blkLo := v }) d
  else if o = 0x0C then setUpd (fun u => { u with blkHi := v }) d
  else if o = 0x10 then blkCmd v d
  else if o = 0x18 then updCountClear v d
  else if o = 0x20 then updCmdWrite v d
  else if o = 0x24 then setUpd (fun u => { u with mask := v % 128 }) d
  else if full = false then d
  else if o = 0x30 then setUpd (fun u => { u with stageLo := bits v 31 25 }) d
  else if o = 0x34 then setUpd (fun u => { u with stageHi := v % 2 ^ 16 }) d
  else if 0x40 ≤ o ∧ o < 0x60 then setUpd (fun u => { u with nonce := u.nonce.set ((o - 0x40) / 4) v }) d
  else d

/-- OBS (R510, R513, R515). Bit 15 of OBS_SEL_n, which R506 neither names nor reserves, reads 0 (DESIGN CHOICE, log 161). -/
def obsWrite (c : Cfg) (o v : Nat) (d : Dev) : Dev :=
  let s := d.obs
  if o = 0x00 then obsCtrl v d
  else if o = 0x04 then (if v % 16 ≤ 10 then { d with obs := { s with traceRef := v % 16 } } else d)
  else if o = 0x10 then { d with obs := { s with classMask := v } }
  else if o = 0x14 then { d with obs := { s with capEn := bit v 0 && c.isolation.captureAllowed == 1 } }
  else if o = 0x18 then { d with obs := { s with capBase := setLow s.capBase (v - v % 65536) } }
  else if o = 0x1C then { d with obs := { s with capBase := setHigh s.capBase 16 v } }
  else if o = 0x20 then { d with obs := { s with capLen := v } }
  else if o = 0x30 then { d with obs := { s with drainBase := setLow s.drainBase (v - v % 65536) } }
  else if o = 0x34 then { d with obs := { s with drainBase := setHigh s.drainBase 32 v } }
  else if o = 0x38 then obsDrain { d with obs := { s with drainSize := v } }
  else if o = 0x40 then obsDrainRptr v d
  else if o = 0x44 then { d with obs := { s with threshold := v % 2 ^ 24 } }
  else if o = 0x50 then obsDropClear v d
  else if 0x1000 ≤ o ∧ o < 0x1400 then { d with obs := { s with sel := aset s.sel ((o - 0x1000) / 4) (v - fld 23 (v / 2 ^ 23) - fld 15 (bits v 15 15)) } }
  else d

/-- COMP (R325). -/
def compWrite (o v : Nat) (d : Dev) : Dev :=
  let k := d.comp
  if o < 0x200 then
    match o % 0x100 with
    | 0x04 => compSafeExit (o / 0x100) v d
    | 0x0C => compPipeClear (o / 0x100) v d
    | _ => d
  else if o < 0x400 then
    let n := (o - 0x200) / 32
    match o % 32 with
    | 0x00 => { d with comp := { k with sigCtrl := k.sigCtrl.set n (v % 32) } }
    | 0x04 => { d with comp := { k with sigRect0 := k.sigRect0.set n v } }
    | 0x08 => { d with comp := { k with sigRect1 := k.sigRect1.set n v } }
    | 0x0C => { d with comp := { k with sigExpect := k.sigExpect.set n v } }
    | _ => d
  else if o = 0x400 then { d with comp := { k with sigStatus := maskAndNot 16 k.sigStatus v } }
  else if o = 0x500 then compDsiCmd v d
  else if 0x510 ≤ o ∧ o < 0x550 then { d with comp := { k with dsiData := k.dsiData.set ((o - 0x510) / 4) v } }
  else d

/-- CS block of slice `q`. -/
def csWrite (c : Cfg) (q o v : Nat) (d : Dev) : Dev :=
  if o = 0x08 then csWayOff c q v d
  else if o = 0x60 then setSlice d q (fun s => { s with maintPa := setLow s.maintPa v })
  else if o = 0x64 then setSlice d q (fun s => { s with maintPa := setHigh s.maintPa 16 v })
  else if o = 0x68 then setSlice d q (fun s => { s with maintLen := setLow s.maintLen v })
  else if o = 0x6C then setSlice d q (fun s => { s with maintLen := setHigh s.maintLen 32 v })
  else if o = 0x70 then csMaintCtrl q v d
  else if o = 0x74 then setSlice d q (fun s =>
    { s with maintDone := s.maintDone && !bit v 1, maintRejected := s.maintRejected && !bit v 2 })
  else if o = 0x84 then csErrClear q v d
  else d

/-- A quarter's window. -/
def quarterWrite (c : Cfg) (q o v : Nat) (d : Dev) : Dev :=
  if o < 0x10000 then csWrite c q o v d
  else if o < 0x10600 then
    (if o % 0x100 = 0x10 then scFaultClear q ((o - 0x10000) / 0x100) v d else d)
  else if 0x20000 ≤ o ∧ o < 0x20200 then errWrite q (o - 0x20000) v d
  else d

/-- A 32-bit write at an aligned BAR 0 offset, ignored where no block answers. -/
def regWrite32 (c : Cfg) (off v : Nat) (d : Dev) : Dev :=
  let v := v % 2 ^ 32
  if blockOn d off = false then d
  else if off < 0x10000 then (if 0x200 ≤ off ∧ off < 0x400 then errWrite 4 (off - 0x200) v d else d)
  else if off < 0x20000 then icuWrite (off - 0x10000) v d
  else if off < 0x30000 then feWrite (off - 0x20000) v d
  else if off < 0x40000 then pheWrite (off - 0x30000) v d
  else if off < 0x50000 then pwrWrite c (off - 0x40000) v d
  else if off < 0x60000 then mmuWrite c (off - 0x50000) v d
  else if off < 0x70000 then updWrite (off - 0x60000) v d
  else if 0xA0000 ≤ off ∧ off < 0xB0000 then obsWrite c (off - 0xA0000) v d
  else if 0xC0000 ≤ off ∧ off < 0xD0000 then compWrite (off - 0xC0000) v d
  else if 0x100000 ≤ off ∧ off < 0x140000 then dbWrite c ((off - 0x100000) / 0x1000) (off % 0x1000) v d
  else if 0x200000 ≤ off ∧ off < 0x210000 then (if off = 0x200040 then packClear v d else d)
  else if 0x1000000 ≤ off ∧ off < 0x2000000 then quarterWrite c ((off - 0x1000000) / 0x400000) (off % 0x400000) v d
  else d

/-- A BAR 0 write (R12): 4 or 8 naturally aligned bytes, any other is ignored. Eight bytes at FE_FENCE_SIG_LO signal the selected fence
(R350). -/
def bar0Write (c : Cfg) (off : Nat) (data : List Byte) (d : Dev) : Dev :=
  let n := data.length
  if (n ≠ 4 ∧ n ≠ 8) ∨ off % n ≠ 0 then d
  else if 0x80000 ≤ off ∧ off < 0x90000 then mailboxWrite (off - 0x80000) data d
  else if n = 4 then regWrite32 c off (leNat data) d
  else if off = 0x20068 then (if blockOn d off then feFenceSig (leNat data) d else d)
  else regWrite32 c (off + 4) (leNat (data.drop 4)) (regWrite32 c off (leNat (data.take 4)) d)

end Sys2Proof.Machine
end

