-- ==== Sys2Proof/Machine/Host.lean ====
section
/-! DEFINITION. What the host sends over the link: register accesses (R9 to R13), doorbells and BAR 2 accesses with what they do in REST, HOLD
and WAKING (R328, R329, R465, R466), configuration requests (R56), link and PERST_N (R524, R529); and token hand-out (R361). -/

namespace Sys2Proof.Machine

/-- Any access of the host in HOLD makes the link leave L1.2, which starts a wake (R465, R525). -/
def hostTouch (d : Dev) : Dev :=
  if d.boot.phase = 2 ∧ d.pwr.state = 2 ∧ d.host.perstLow = false then startWake none d else d

/-- A host write of a register of the block at `off`: it acts while the block answers. -/
def hostReg (off : Nat) (f : Dev → Dev) (d : Dev) : Dev :=
  let d := hostTouch d
  if blockOn d off then f d else d

/-- An access that wakes the device from REST, or that arrives while REST or HOLD is being entered (R463, R465). -/
def wakeBy (d : Dev) : Dev := if d.pwr.state = 1 ∨ d.pwr.entering ≠ 0 then startWake none d else d

/-- Hold an access until RUN (R466). -/
def holdAccess (a : HeldAcc) (d : Dev) : Dev := { d with pwr := { d.pwr with held := d.pwr.held ++ [a] } }

/-- WAKE_N is driven low (R525). -/
def wakeNLow (d : Dev) : Bool := d.icu.woke && d.host.perstLow

/-- CLKREQ_N is driven low: a wake from HOLD with PERST_N high is under way (R465, R525). DEDUCED, log 149. -/
def clkreqNLow (d : Dev) : Bool := decide (d.pwr.state = 3 ∧ d.pwr.wakeFrom = 2) && !d.host.perstLow

/-! ### Doorbells -/

/-- DB_WPTR_WRITE from the host. -/
def hostWptr (c : Cfg) (ring w : Nat) (d : Dev) : Dev :=
  let d := hostTouch d
  if d.pwr.state = 3 then holdAccess ⟨0, ring, 4, leBytes 4 w⟩ d
  else if ordinary d = false then d
  else
    let ok := dbAccepts c ring w d
    let d := dbWptr c ring w d
    if ok then wakeBy d else d

/-- DB_CQ_RPTR_WRITE from the host. -/
def hostCqRptr (ring v : Nat) (d : Dev) : Dev :=
  let d := hostTouch d
  if d.pwr.state = 3 then holdAccess ⟨1, ring, 4, leBytes 4 v⟩ d
  else if ordinary d then dbCqRptr ring v d else d

/-- FE_KQ_WPTR_WRITE from the host. -/
def hostKqWptr (v : Nat) (d : Dev) : Dev :=
  let d := hostTouch d
  if d.pwr.state = 3 then holdAccess ⟨4, 0, 4, leBytes 4 v⟩ d
  else if ordinary d then wakeBy (kqWptrWrite v d) else d

/-! ### BAR 2 (R327 to R329) -/

/-- The physical address behind a BAR 2 offset. -/
def bar2Addr (d : Dev) (off : Nat) : Nat := d.fe.bar2Base * 2 ^ 28 + off

/-- The request fits the aperture and the maximum payload. -/
def bar2Fits (d : Dev) (off len : Nat) : Bool := decide (0 < len) && decide (len ≤ 512) && decide (off + len ≤ 2 ^ d.host.bar2Log)

/-- The address names node 0, which is all that BAR 2 reaches (R327). -/
def bar2Node0 (d : Dev) (off : Nat) : Bool := decide (bar2Addr d off < 2 ^ 44)

/-- Perform a BAR 2 read, checked as a whole, on the device's own account in RC0 (R94, R329). An address beyond node 0 lies outside the valid ranges
(DEDUCED, log 162). -/
def bar2Get (c : Cfg) (off len : Nat) (d : Dev) : Dev :=
  let r : List PByte × Dev := if bar2Node0 d off then (physRead c (rqZero 11) (bar2Addr d off) len [] d).2
    else (List.replicate len (0, false), countDropped (rqZero 11) 0x07 4 d)
  { r.2 with host := { r.2.host with hostRead := ⟨pdata r.1, ppoison r.1, true⟩ } }

/-- The host writes into the slots of device-written rings: the entries there are undefined from then on (R341). -/
def foreignSlots (pa n : Nat) (d : Dev) : Dev :=
  { d with fe := { d.fe with rings := amapAll d.fe.rings (fun _ r =>
    if r.bound && r.devWriter then
      { r with foreign := r.foreign ++ (List.range r.size).filter (fun k =>
          !r.foreign.contains k && decide (r.base + 128 * k < pa + n) && decide (pa < r.base + 128 * k + 128)) }
    else r) } }

/-- Perform a BAR 2 write, checked as a whole; a poisoned one writes its sectors poisoned. -/
def bar2Put (c : Cfg) (off : Nat) (data : List Byte) (poison : Bool) (d : Dev) : Dev :=
  if bar2Node0 d off then foreignSlots (bar2Addr d off) data.length (physWrite c (rqZero 11) (bar2Addr d off) (mark poison data) [] d).2
  else countDropped (rqZero 11) 0x07 4 d

/-- BAR2_READ: performed in RUN; in REST it starts a wake, and it waits until RUN. -/
def bar2Read (c : Cfg) (off len : Nat) (d : Dev) : Dev :=
  let d := hostTouch d
  if d.boot.phase ≠ 2 ∨ bar2Fits d off len = false then
    { d with host := { d.host with hostRead := ⟨List.replicate len 0, false, false⟩ } }
  else if d.pwr.state = 0 then wakeBy (bar2Get c off len d)
  else holdAccess ⟨2, off, len, []⟩ (wakeBy d)

/-- BAR2_WRITE. -/
def bar2Write (c : Cfg) (off : Nat) (data : List Byte) (poison : Bool) (d : Dev) : Dev :=
  let d := hostTouch d
  if d.boot.phase ≠ 2 ∨ bar2Fits d off data.length = false then d
  else if d.pwr.state = 0 then wakeBy (bar2Put c off data poison d)
  else holdAccess ⟨if poison then 5 else 3, off, data.length, data⟩ (wakeBy d)

/-- A held access takes effect at RUN. -/
def releaseAccess (c : Cfg) (d : Dev) (a : HeldAcc) : Dev :=
  match a.kind with
  | 0 => dbWptr c a.at' (leNat a.data) d
  | 1 => dbCqRptr a.at' (leNat a.data) d
  | 2 => bar2Get c a.at' a.len d
  | 3 => bar2Put c a.at' a.data false d
  | 4 => kqWptrWrite (leNat a.data) d
  | _ => bar2Put c a.at' a.data true d

/-- WAKE_COMPLETE: restore ends, PWR_STATE reads RUN, and the held accesses take effect in their order. -/
def wakeComplete (c : Cfg) (keepBad : Bool) (links : Nat) (d : Dev) : Dev :=
  if d.boot.phase ≠ 2 ∨ d.pwr.state ≠ 3 then d else
  let d := wakeRestore c keepBad links d
  let held := d.pwr.held
  held.foldl (releaseAccess c) { d with pwr := { d.pwr with held := [] } }

/-! ### Other registers -/

/-- A 32-bit register that the host writes as a doorbell: DB_WPTR and DB_CQ_RPTR of a ring, FE_KQ_WPTR. -/
def isDoorbell (off : Nat) : Bool :=
  (decide (0x100000 ≤ off) && decide (off < 0x140000) && (off % 0x1000 == 0 || off % 0x1000 == 8)) || off == 0x20014

/-- A 32-bit register write of the host at an aligned offset. A doorbell is one wherever it is written from. -/
def hostWord (c : Cfg) (off v : Nat) (d : Dev) : Dev :=
  if off = 0x20014 then hostKqWptr v d
  else if isDoorbell off ∧ off % 0x1000 = 0 then hostWptr c ((off - 0x100000) / 0x1000) v d
  else if isDoorbell off then hostCqRptr ((off - 0x100000) / 0x1000) v d
  else bar0Write c off (leBytes 4 v) (hostTouch d)

/-- REGISTER_WRITE: bytes at a BAR 0 offset; what is not 4 or 8 naturally aligned bytes has no effect (R12). -/
def registerWrite (c : Cfg) (off : Nat) (data : List Byte) (d : Dev) : Dev :=
  if data.length = 4 ∧ off % 4 = 0 then hostWord c off (leNat data) d
  else if data.length = 8 ∧ off % 8 = 0 ∧ (isDoorbell off ∨ isDoorbell (off + 4)) then
    hostWord c (off + 4) (leNat (data.drop 4)) (hostWord c off (leNat (data.take 4)) d)
  else bar0Write c off data (hostTouch d)

/-- PAIR_LO_READ: a read by the host of `len` bytes of registers. A 32-bit read of the _LO register of a pair latches the whole pair, and its _HI
register then returns the latched half (R13); a 64-bit read gives both halves from one instant; any other length or alignment reads zero (R12). -/
def pairLoRead (c : Cfg) (off len : Nat) (d : Dev) : Dev :=
  let r := bar0Read c off len (hostTouch d)
  { r.2 with host := { r.2.host with hostRead := ⟨r.1, false, true⟩ } }

/-! ### Configuration requests, the link (R56, R326, R524, R529) -/

/-- What a configuration read finds: the identity of R326; the spec does not lay out the rest. -/
def cfgValue (off : Nat) (d : Dev) : Nat × Dev :=
  if off = 0 then (0x09091F4D, d)
  else
    let r := drawFree d
    if off = 8 then (0x12000000 + r.1.toNat % 256, r.2) else (r.1.toNat % 2 ^ 32, r.2)

/-- The value of a capability field (R326, R327): bytes of the maximum payload and read request, vectors, bytes of BAR 2, link width and generation,
power state (0 D0, 3 D3hot), and bit 0 of the errors, the uncorrectable internal error of R437. -/
def capValue (f : CapField) (d : Dev) : Nat :=
  match f with
  | .maxPayload => 512
  | .maxReadRequest => 4096
  | .msixVectors => 64
  | .bar2Size => 2 ^ d.host.bar2Log
  | .link => fld 4 d.host.width + d.host.rate
  | .powerState => if d.host.d3hot then 3 else 0
  | .errors => b2n d.err.aerInternal

/-- Configuration space answers (R56). -/
def cfgReady (d : Dev) : Bool := d.boot.phase == 2 || d.host.cfgOpen

/-- CONFIG_REQUEST: CRS (no answer value) before READY, normal afterwards. -/
def configRequest (r : CfgReq) (d : Dev) : Dev :=
  let d := hostTouch d
  if d.boot.phase = 0 ∨ d.host.linkUp = false ∧ d.pwr.state ≠ 3 then d
  else if cfgReady d = false then { d with host := { d.host with cfgAnswer := none } }
  else
    match r with
    | .read off =>
      let v := cfgValue off d
      { v.2 with host := { v.2.host with cfgAnswer := some v.1 } }
    | .command b => clearMarks { d with host := { d.host with busMaster := b, cfgAnswer := some 0 } }
    | .msixControl e m => clearMarks { d with host := { d.host with msixEnable := e, funcMask := m, cfgAnswer := some 0 } }
    | .resizeBar n => { d with host := { d.host with bar2Log := if inRange n 28 37 then n else d.host.bar2Log, cfgAnswer := some 0 } }
    | .other _ _ => { d with host := { d.host with cfgAnswer := some 0 } }
    | .capability f => { d with host := { d.host with cfgAnswer := some (capValue f d) } }
    | .power d3 => { d with host := { d.host with d3hot := d3, cfgAnswer := some 0 } }
    | .clearErrors => { d with host := { d.host with cfgAnswer := some 0 }, err := { d.err with aerInternal := false } }

/-- A width and generation that the link can train to (R326). -/
def linkFormat (width rate : Nat) : Bool := (width == 1 || width == 2 || width == 4 || width == 8) && inRange rate 1 5

/-- The link trains at a width and generation, or with any other width stays down. -/
def setLink (width rate : Nat) (d : Dev) : Dev :=
  let up := linkFormat width rate
  { d with host := { d.host with linkUp := up, width := if up then width else 0, rate := if up then rate else 0 } }

/-- LINK_STATE_CHANGE: the link trains, or with width 0 leaves L0. -/
def linkChange (width rate : Nat) (d : Dev) : Dev :=
  if d.boot.phase = 0 ∨ d.host.perstLow ∨ d.clk.domains.getD 2 0 ≠ 1 ∨ d.clk.shutdown then d else setLink width rate d

/-- PERST_N_RELEASE: the link retrains; during a start the limit of R56 counts from here. -/
def perstRelease (width rate : Nat) (d : Dev) : Dev :=
  if d.host.perstLow = false then d else
  let d := { d with host := { d.host with perstLow := false } }
  if d.boot.phase = 0 then d else
  let d := if d.boot.phase = 1 ∧ d.host.cfgOpen = false then { d with boot := { d.boot with relTb := d.phe.tb } } else d
  if d.clk.domains.getD 2 0 = 1 then setLink width rate d else d

/-- The PCIe domain resets (R524): the function's command, MSI-X and resizable BAR registers return to their reset values. -/
def pcieReset (d : Dev) : Dev :=
  clearMarks { d with host := { d.host with
    linkUp := false, width := 0, rate := 0, msixEnable := false, funcMask := false, busMaster := false, bar2Log := 28, d3hot := false, msix := [] } }

/-! ### Token hand-out (R361) -/

/-- TOKEN_HANDOUT of the queue of a class and quarter: one unit of a token goes to an idle instance; `lack` names the rings and instances that hold no
credits for the output (R23). Shader cores take blocks by BLOCK_ADMIT. -/
def tokenHandout (c : Cfg) (cls q : Nat) (lack : List (Nat × Nat)) (d : Dev) : Dev :=
  let queue := cls * 4 + (if quarterClass cls then q else 0)
  if cls = 0 ∨ cls = 4 ∨ 10 ≤ cls ∨ 4 ≤ q ∨ faulted d ∨ d.boot.phase ≠ 2 ∨ d.pwr.state ≠ 0 then d else
  let p := pickLane c (takerOf lack c) queue d
  match p.1.bind (laneHead p.2 queue) with
  | none => d
  | some x =>
    match takerOf lack c p.2 x with
    | some i => giveUnit x i (unitCount c p.2 x) p.2
    | none => d

end Sys2Proof.Machine
end

