-- ==== Sys2Proof/Machine/Sne.lean ====
section
/-! DEFINITION. The softmax-and-norm engine (R182 to R190). -/

namespace Sys2Proof.Machine

/-- The SNE descriptor (R182). -/
structure SneDesc where
  op : Nat
  iFmt : Nat
  oFmt : Nat
  func : Nat
  flags : Nat
  iOff : Int
  oOff : Int
  ck : Nat
  rows : Nat
  width : Nat
  iAddr : Nat
  i2Addr : Nat
  param : Nat
  param2 : Nat
  oAddr : Nat
  iScale : Nat
  oScale : Nat
  side : Nat
  status : Nat
  iStride : Nat
  oStride : Nat
  eps : Nat
deriving DecidableEq, Repr, Inhabited

/-- The fields of a descriptor's bytes. -/
def parseSne (b : List Byte) : SneDesc :=
  { op := getLe b 0 1, iFmt := getLe b 1 1, oFmt := getLe b 2 1, func := getLe b 3 1, flags := getLe b 4 1
    iOff := toSigned 8 (getLe b 5 1), oOff := toSigned 8 (getLe b 6 1), ck := getLe b 7 1, rows := getLe b 8 4
    width := getLe b 0xC 4, iAddr := getLe b 0x10 8, i2Addr := getLe b 0x18 8, param := getLe b 0x20 8
    param2 := getLe b 0x28 8, oAddr := getLe b 0x30 8, iScale := getLe b 0x38 8, oScale := getLe b 0x40 8
    side := getLe b 0x48 8, status := getLe b 0x50 8, iStride := getLe b 0x58 4, oStride := getLe b 0x5C 4
    eps := getLe b 0x60 2 }

/-- Formats of the SNE (R156). -/
def sneFmt (f : Nat) : Bool := f == 1 || f == 2 || inRange f 5 7

/-- The checks of R157 on an SNE descriptor: every field that its row does not call ignored. -/
def sneOk (d : SneDesc) : Bool :=
  inRange d.op 1 8 && sneFmt d.iFmt && sneFmt d.oFmt && ((d.op != 4 && d.op != 5) || decide (d.func ≤ 3)) &&
  offOk d.iOff && offOk d.oOff && (d.op != 7 || inRange d.ck 1 8) &&
  inRange d.rows 1 1048576 && inRange d.width 1 1048576 && (d.op != 6 || d.width % 2 == 0) &&
  d.iAddr % 128 == 0 && d.oAddr % 128 == 0 && d.side % 8 == 0 && d.status % 4 == 0 && d.iStride % 32 == 0 &&
  d.oStride % 32 == 0

/-- An operand with the exponent of its scale in its logarithm (R126). -/
def LEl.scaled (x : LEl) (e : Int) : LEl := match x with
  | .num s lam => .num s (lam + 256 * (e - 127))
  | y => y

/-- A row's elements after conversion, with INPUT_SAT, INPUT_FLUSH and poison (R184). -/
structure SneRow where
  els : List LEl
  sat : Bool
  flush : Bool
  poison : Bool
deriving DecidableEq, Repr, Inhabited

/-- Read row `row` at `base`; its scales are those of the same row number. -/
def sneRow (c : Cfg) (rq : Rq) (m : SneDesc) (base row : Nat) : Eng SneRow := do
  let cs ← loadCodes c rq (fmtBits m.iFmt) (base + row * m.iStride) 0 m.width
  let sc ← loadScales c rq (bit m.flags 0) (m.iScale + row * ceilDiv m.width 32) 0 m.width
  let b := mkBlocks m.iFmt cs.1 sc.1 m.iOff
  let els := b.1.flatMap (fun k => if k.nan then k.els.map (fun _ => LEl.nar) else k.els.map (fun x => x.scaled k.e))
  pure ⟨els, b.2.1, b.2.2, cs.2 || sc.2⟩

/-- An array of L16 parameters, or none for address 0. -/
def l16Array (c : Cfg) (rq : Rq) (addr n : Nat) : Eng (Option (List LEl) × Bool) := do
  if addr = 0 then pure (none, false)
  else
    let r ← eBytes c rq addr (2 * n)
    pure (some ((List.range n).map (fun i => lDecode 2 (getLe r.1 (2 * i) 2))), r.2)

/-! ### Row functions -/

/-- LOG2E of R185. -/
def log2e : Ex := ⟨0x171547653, 2 ^ 32⟩

/-- The exponential step of R185: c[i] and e[i] of an operand against the largest. -/
def expStep (x xmax : Ex) : Int × LEl :=
  let k := (((x.sub xmax).mul log2e).scale 8).roundHalfUp
  (k, if k < -16383 then .zero else .num false k)

/-- The largest of a list of values. -/
def exMax : List Ex → Option Ex
  | [] => none
  | x :: l => some (l.foldl (fun a b => if a.lt b then b else a) x)

/-- SOFTMAX of a row whose length is `n` (R185); none marks NaR. -/
def softmaxRow (els : List LEl) (n : Nat) : List (Option Ex) :=
  let xs := els.take n
  if xs.any (· == .nar) then els.map (fun _ => none) else
  let vs := xs.map (fun x => (x.value).getD Ex.zero)
  match exMax vs with
  | none => els.map (fun _ => some Ex.zero)
  | some mx =>
    let es := vs.map (fun v => expStep v mx)
    let s := Ex.sum (es.map (fun e => (e.2.value).getD Ex.zero))
    let cs : Int := (((roundL 2 s).code % 32768 : Nat) : Int) - 16384
    let p := es.map (fun e => if e.2 = .zero ∨ e.1 - cs < -16383 then some Ex.zero else some (lamValue (e.1 - cs)))
    p ++ List.replicate (els.length - p.length) (some Ex.zero)

/-- The halved, negated logarithm of R186 from a rounded L16 mean square. -/
def rsqrtCode (code : Nat) : Int := (-(((code % 32768 : Nat) : Int) - 16384)) / 2

/-- A code sum of an operand, a factor and an offset (R186): exact in L16. -/
def codeSum (x g : LEl) (cr : Int) : LEl :=
  match lMul x g with
  | .num s lam => lDecode 2 (lam16 s (lam + cr))
  | y => y

/-- One in logarithms. -/
def lOne : LEl := .num false 0

/-- RMSNORM of a row (R186). -/
def rmsRow (els : List LEl) (gamma : Option (List LEl)) (eps : LEl) : List (Option Ex) :=
  match eps.value with
  | none => els.map (fun _ => none)
  | some e =>
    if els.any (· == .nar) then els.map (fun _ => none) else
    let q := Ex.sum (els.map (fun x => match x with
      | .num _ l => lamValue (2 * l)
      | _ => Ex.zero))
    let cr := rsqrtCode (roundL 2 ((q.divNat els.length).add e)).code
    els.zipIdx.map (fun x => (codeSum x.1 ((gamma.map (fun g => g.getD x.2 .zero)).getD lOne) cr).value)

/-- LAYERNORM of a row (R187). -/
def layerRow (els : List LEl) (gamma beta : Option (List LEl)) (eps : LEl) : List (Option Ex) :=
  match eps.value with
  | none => els.map (fun _ => none)
  | some e =>
    if els.any (· == .nar) then els.map (fun _ => none) else
    let vs := els.map (fun x => (x.value).getD Ex.zero)
    let mu := ((lDecode 2 (roundL 2 ((Ex.sum vs).divNat els.length)).code).value).getD Ex.zero
    let ds := vs.map (fun v => v.sub mu)
    let var := ((Ex.sum (ds.map (fun d => d.mul d))).divNat els.length).add e
    let cr := rsqrtCode (roundL 2 var).code
    ds.zipIdx.map (fun x =>
      let y := codeSum (lDecode 2 (roundL 2 x.1).code) ((gamma.map (fun g => g.getD x.2 .zero)).getD lOne) cr
      match y.value, (match beta with
        | some b => (b.getD x.2 .zero).value
        | none => some Ex.zero) with
      | some v, some b => some (v.add b)
      | _, _ => none)

/-- ACT of a row (R188). -/
def actRow (func : Nat) (els : List LEl) : List (Option Ex) := els.map (fun x => (lDecode 2 (actCode func x)).value)

/-- GATED of two rows (R189). -/
def gatedRow (func : Nat) (a b : List LEl) : List (Option Ex) :=
  (a.zip b).map (fun p => (codeSum (lDecode 2 (actCode func p.1)) p.2 0).value)

/-- Sum of two values; NaR if either is. -/
def optAdd (x y : Option Ex) : Option Ex := match x, y with
  | some a, some b => some (a.add b)
  | _, _ => none

/-- Difference of two values. -/
def optSub (x y : Option Ex) : Option Ex := optAdd x (y.map Ex.neg)

/-- Product of two table values. -/
def optMul (x y : LEl) : Option Ex := match x.value, y.value with
  | some a, some b => some (a.mul b)
  | _, _ => none

/-- ADD of two rows (R189). -/
def addRow (a b : List LEl) : List (Option Ex) := (a.zip b).map (fun p => optAdd p.1.value p.2.value)

/-- ROPE of a row: `cs` gives cosine and sine of pair `j` (R189). -/
def ropeRow (els : List LEl) (halves : Bool) (cs : List (LEl × LEl)) : List (Option Ex) :=
  let w := els.length
  (List.range w).map (fun i =>
    let j := if halves then i % (w / 2) else i / 2
    let first := if halves then decide (i < w / 2) else i % 2 == 0
    let a := els.getD (if halves then j else 2 * j) .zero
    let b := els.getD (if halves then j + w / 2 else 2 * j + 1) .zero
    let k := cs.getD j (.zero, .zero)
    if first then optSub (optMul a k.1) (optMul b k.2) else optAdd (optMul a k.2) (optMul b k.1))

/-- COMBINE: the sum of weighted source rows (R189). -/
def combineRow (width : Nat) (terms : List (LEl × List LEl)) : List (Option Ex) :=
  (List.range width).map (fun i =>
    terms.foldl (fun acc t => optAdd acc (lMul t.1 (t.2.getD i .zero)).value) (some Ex.zero))

/-- Row `r` of a command: its exact results and what its inputs showed. -/
def sneCompute (c : Cfg) (rq : Rq) (m : SneDesc) (r : Nat) : Eng (List (Option Ex) × SneRow) := do
  if m.op = 7 then
    let w ← eBytes c rq (m.i2Addr + r * m.ck * 2) (2 * m.ck)
    let ix ← eBytes c rq (m.param + r * m.ck * 4) (4 * m.ck)
    let t ← (List.range m.ck).foldlM (fun (acc : List (LEl × List LEl) × SneRow) j => do
      let s := getLe ix.1 (4 * j) 4
      if s = 0xFFFFFFFF then pure acc
      else
        let row ← sneRow c rq m m.iAddr s
        pure (acc.1 ++ [(lDecode 2 (getLe w.1 (2 * j) 2), row.els)],
          ⟨[], acc.2.sat || row.sat, acc.2.flush || row.flush, acc.2.poison || row.poison⟩)) ([], ⟨[], false, false, w.2 || ix.2⟩)
    pure (combineRow m.width t.1, t.2)
  else
    let a ← sneRow c rq m m.iAddr r
    let b ← (if m.op = 5 ∨ m.op = 8 then sneRow c rq m m.i2Addr r else pure default)
    let two : SneRow := ⟨a.els, a.sat || b.sat, a.flush || b.flush, a.poison || b.poison⟩
    if m.op = 1 then
      let n ← (if m.param = 0 then pure (m.width, false) else do
        let p ← eBytes c rq (m.param + 4 * r) 4
        pure (Nat.min m.width (leNat p.1), p.2) : Eng (Nat × Bool))
      pure (softmaxRow a.els n.1, { two with poison := two.poison || n.2 })
    else if m.op = 2 then
      let g ← l16Array c rq m.param m.width
      pure (rmsRow a.els g.1 (lDecode 2 m.eps), { two with poison := two.poison || g.2 })
    else if m.op = 3 then
      let g ← l16Array c rq m.param m.width
      let be ← l16Array c rq m.param2 m.width
      pure (layerRow a.els g.1 be.1 (lDecode 2 m.eps), { two with poison := two.poison || g.2 || be.2 })
    else if m.op = 4 then pure (actRow m.func a.els, two)
    else if m.op = 5 then pure (gatedRow m.func a.els b.els, two)
    else if m.op = 6 then
      let p ← eBytes c rq (m.param + 4 * r) 4
      let tb ← eBytes c rq (m.i2Addr + leNat p.1 * (m.width / 2) * 4) (m.width / 2 * 4)
      let cs := (List.range (m.width / 2)).map (fun j => (lDecode 2 (getLe tb.1 (4 * j) 2), lDecode 2 (getLe tb.1 (4 * j + 2) 2)))
      pure (ropeRow a.els (bit m.flags 2) cs, { two with poison := two.poison || p.2 || tb.2 })
    else pure (addRow a.els b.els, two)

/-! ### Overlap (R190) -/

/-- Rows of a tensor: the virtual address of the first, bytes between rows, rows, bytes of each. -/
structure Rows where
  base : Nat
  stride : Nat
  n : Nat
  len : Nat

/-- Row `i` of a tensor, as an interval of virtual addresses (R378). -/
def Rows.at (t : Rows) (i : Nat) : Nat × Nat := (t.base % 2 ^ 48 + i * t.stride, t.base % 2 ^ 48 + i * t.stride + t.len)

/-- Whether an interval meets some row: the first row that ends beyond the interval's start is the one to ask. -/
def Rows.meets (t : Rows) (lo hi : Nat) : Bool :=
  let b := t.base % 2 ^ 48
  let j := if t.stride = 0 then 0 else (lo + 1 - (b + t.len) + t.stride - 1) / t.stride
  decide (j < t.n) && decide (b + j * t.stride < hi) && decide (lo < b + j * t.stride + t.len)

/-- Two tensors share a byte. -/
def rowsMeet (a b : Rows) : Bool := (List.range a.n).any (fun i => b.meets (a.at i).1 (a.at i).2)

/-- Words of an array in memory, for the test of overlap alone: reading them is no access of its own. -/
def peekWords (c : Cfg) (rq : Rq) (addr n : Nat) (d : Dev) : List Nat :=
  match (peekRead c rq (rq.ctx.getD 0) addr (4 * n) d).1 with
  | some l => (List.range n).map (fun i => getLe (pdata l) (4 * i) 4)
  | none => []

/-- The inputs of a command beside its IN rows. -/
def sneInputs (c : Cfg) (rq : Rq) (m : SneDesc) (d : Dev) : List Rows :=
  let row := ceilDiv (m.width * fmtBits m.iFmt) 8
  let flat := fun (on : Bool) (a n : Nat) => if on then [(⟨a, 0, 1, n⟩ : Rows)] else []
  flat ((m.op == 1 || m.op == 6) && (m.op == 6 || m.param != 0)) m.param (4 * m.rows) ++
  flat ((m.op == 2 || m.op == 3) && m.param != 0) m.param (2 * m.width) ++
  flat (m.op == 3 && m.param2 != 0) m.param2 (2 * m.width) ++
  (if m.op = 5 ∨ m.op = 8 then [⟨m.i2Addr, m.iStride, m.rows, row⟩] else []) ++
  (if m.op = 6 then (peekWords c rq m.param m.rows d).map (fun p => ⟨m.i2Addr + p * (m.width / 2) * 4, 0, 1, m.width / 2 * 4⟩) else []) ++
  flat (m.op == 7) m.i2Addr (m.rows * m.ck * 2) ++ flat (m.op == 7) m.param (m.rows * m.ck * 4) ++
  (if m.op = 7 then ((peekWords c rq m.param (m.rows * m.ck) d).filter (· != 0xFFFFFFFF)).map (fun s => ⟨m.iAddr + s * m.iStride, 0, 1, row⟩)
   else []) ++
  (if m.op = 7 ∧ bit m.flags 0 = true then
     ((peekWords c rq m.param (m.rows * m.ck) d).filter (· != 0xFFFFFFFF)).map
       (fun s => ⟨m.iScale + s * ceilDiv m.width 32, 0, 1, ceilDiv m.width 32⟩)
   else []) ++
  flat (bit m.flags 0 && m.op != 7) m.iScale (m.rows * ceilDiv m.width 32) ++
  flat (bit m.flags 1) m.oScale (m.rows * ceilDiv m.width 32)

/-- The output overlaps an input in a way that R190 does not permit. -/
def sneUndefined (c : Cfg) (rq : Rq) (m : SneDesc) (d : Dev) : Bool :=
  let out : Rows := ⟨m.oAddr, m.oStride, m.rows, ceilDiv (m.width * fmtBits m.oFmt) 8⟩
  let inp : Rows := ⟨m.iAddr, m.iStride, m.rows, ceilDiv (m.width * fmtBits m.iFmt) 8⟩
  let inPlace := m.oAddr % 2 ^ 48 == m.iAddr % 2 ^ 48 && m.oStride == m.iStride
  (m.op != 7 && !inPlace && rowsMeet out inp) || (sneInputs c rq m d).any (rowsMeet out)

/-- An open output element (R190). -/
def freeEl (fmt : Nat) (d : Dev) : OutEl × Dev :=
  let r := drawFree d
  let v := r.1.toNat
  (⟨v % 2 ^ fmtBits fmt, ⟨0, 0, b2n (bit v 32), bit v 33, bit v 34, bit v 35, bit v 36⟩,
    ⟨bit v 37, bit v 38, bit v 39, if bit v 40 then some (toSigned 20 (v / 2 ^ 41)) else none⟩⟩, r.2)

/-- Open elements for a row. -/
def freeEls (fmt : Nat) : Nat → Dev → List OutEl × Dev
  | 0, d => ([], d)
  | n + 1, d =>
    let r := freeEl fmt d
    let s := freeEls fmt n r.2
    (r.1 :: s.1, s.2)

/-! ### The engine -/

/-- One row: computed, rounded, and its writes formed (R184). -/
def sneStep (c : Cfg) (rq : Rq) (k : Nat) (m : SneDesc) (r : Nat) : Eng Unit := do
  let v ← sneCompute c rq m r
  let sc ← (if bit m.flags 1 then do
      let s ← eBytes c rq (m.oScale + r * ceilDiv m.width 32) (ceilDiv m.width 32)
      pure (s.1.map (·.toNat), s.2)
    else pure ([], false) : Eng (List Nat × Bool))
  let exact := v.1.zipIdx.map (fun e =>
    outRound m.oFmt (if bit m.flags 1 then sc.1.getD (e.2 / 32) 127 else (m.oOff + 127).toNat) e.1 false false)
  let outs ← (if sneUndefined c rq m (← get) then do
      let f := freeEls m.oFmt exact.length (← get)
      set f.2
      pure f.1
    else pure exact : Eng (List OutEl))
  let p := v.2.poison || sc.2
  let stat := outs.foldl (fun a o => a.plus o.stat) ⟨0, 0, 0, v.2.flush, v.2.sat, false, false⟩
  let side := outs.foldl (fun a o => a.plus o.side) Side.none
  commit c rq k (r + 1) p
    ([.write (m.oAddr + r * m.oStride) (mark p (packRow (fmtBits m.oFmt) (outs.map (·.code))))] ++
      (if m.status = 0 then [] else [.stat (m.status + 4 * (r / 64)) stat]) ++
      (if m.side = 0 ∨ m.oFmt = 7 then [] else [.side m.side false side]))

/-- An SNE row of the table: quarter `q`'s engine runs its command when the descriptor names operation `op`. -/
def sneRun (c : Cfg) (op q : Nat) (d : Dev) : Dev :=
  payloadUnit c 2 q 0 128 (fun _ b => sneOk (parseSne b)) (fun _ b => (parseSne b).op == op) (fun _ x rq b => do
    let m := parseSne b
    liftDev (setUnits x 1)
    fromProg (instIdx 2 q 0) m.rows (sneStep c rq (instIdx 2 q 0) m)) d

end Sys2Proof.Machine
end

