-- ==== Sys2Proof/Machine/Raster.lean ====
section
/-! DEFINITION. Geometry of tile rendering: projection and clipping (R286), coverage (R291), interpolation (R292). Values are exact up to the
roundings that the rules name. -/

namespace Sys2Proof.Machine

/-! ### Projection and clipping -/

/-- Pixel coordinates in 1/256 pixel, depth and 1/w in FP32 of a clip-space position with w not zero. -/
def project (width height : Nat) (p : List Ex) : Int × Int × Nat × Nat :=
  let at' := fun (i : Nat) => p.getD i Ex.zero
  let w := at' 3
  let x := (((at' 0).div w).add (Ex.ofInt 1)).mul (Ex.ofInt ((128 * width : Nat) : Int))
  let y := ((Ex.ofInt 1).sub ((at' 1).div w)).mul (Ex.ofInt ((128 * height : Nat) : Int))
  (roundInt 0 x, roundInt 0 y, fRound 7 false ((at' 2).div w), fRound 7 false ((Ex.ofInt 1).div w))

/-- The FP32 word of a coordinate in 1/256 pixel. -/
def coordWord (v : Int) : Nat := fRound 7 false ((Ex.ofInt v).scale (-8))

/-- A coordinate in 1/256 pixel read from its FP32 word; none when it is not finite. -/
def coordOf (w : Nat) : Option Int := (finOf 7 w).map (fun v => roundInt 0 (v.scale 8))

/-- The exact values of FP32 words; none when one is NaN or infinite. -/
def exWords (l : List Nat) : Option (List Ex) := l.mapM (fun w => finOf 7 w)

/-- The first four words of a vertex record (R288). Where the position has no projection (w zero, a value not finite) the spec states no
result, and they are open. -/
def recordHead (width height : Nat) (words : List Nat) : List Nat :=
  match exWords (words.take 4) with
  | some p =>
    if (p.getD 3 Ex.zero).isZero then (words.take 4).zipIdx.map (fun (w, j) => (Config.freeMath (40 + j) (BitVec.ofNat 32 w)).toNat)
    else
      let r := project width height p
      [coordWord r.1, coordWord r.2.1, r.2.2.1, r.2.2.2]
  | none => (words.take 4).zipIdx.map (fun (w, j) => (Config.freeMath (40 + j) (BitVec.ofNat 32 w)).toNat)

/-- A corner of a polygon that is being clipped: its words' exact values, its words, the record it has, whether it is marked. -/
structure Corner where
  vals : List Ex
  words : List Nat
  off : Option Nat
  marked : Bool
deriving Inhabited

/-- The clipping planes, each a linear form of the position that is not negative inside: near, far, and the guard band of 32,768 pixels around
the render area. -/
def clipPlanes (width height : Nat) : List (List Ex → Ex) :=
  let at' := fun (p : List Ex) (i : Nat) => p.getD i Ex.zero
  let band := fun (size i : Nat) (sign : Bool) (p : List Ex) =>
    let half : Ex := ⟨(size : Int), 2⟩
    let room := (at' p 3).mul (half.add (Ex.ofInt 32768))
    let v := (at' p i).mul half
    if sign then room.add v else room.sub v
  [fun p => at' p 2, fun p => (at' p 3).sub (at' p 2), band width 0 true, band width 0 false, band height 1 true, band height 1 false]

/-- The vertex where an edge meets a plane: linear in clip space, rounded to nearest even in FP32. -/
def cutEdge (f : List Ex → Ex) (a b : Corner) : Corner :=
  let da := f a.vals
  let t := da.div (da.sub (f b.vals))
  let ws := (a.vals.zip b.vals).map (fun (x, y) => fRound 7 false (x.add (t.mul (y.sub x))))
  ⟨ws.map (fun w => (finOf 7 w).getD Ex.zero), ws, none, a.marked || b.marked⟩

/-- Clip a polygon against one plane. -/
def clipPlane (f : List Ex → Ex) (poly : List Corner) : List Corner :=
  (poly.zip (poly.drop 1 ++ poly.take 1)).flatMap (fun (a, b) =>
    let ia := !(f a.vals).isNeg
    let ib := !(f b.vals).isNeg
    if ia && ib then [a] else if ia then [a, cutEdge f a b] else if ib then [cutEdge f a b] else [])

/-- Clip a polygon against every plane. -/
def clipAll (width height : Nat) (poly : List Corner) : List Corner :=
  (clipPlanes width height).foldl (fun p f => if p.all (fun v => !(f v.vals).isNeg) then p else clipPlane f p) poly

/-! ### Coverage -/

/-- A point in 1/256 pixel. -/
abbrev Pt := Int × Int

/-- The edge function of a directed edge at a point. -/
def edgeFn (a b p : Pt) : Int := (b.1 - a.1) * (p.2 - a.2) - (b.2 - a.2) * (p.1 - a.1)

/-- Twice the signed area with y downwards: negative for a counter-clockwise triangle (R286). -/
def area2 (a b c : Pt) : Int := edgeFn a b c

/-- Whether an edge of a triangle of positive area is a top or a left edge. -/
def topLeft (a b : Pt) : Bool := (a.2 == b.2 && decide (a.1 < b.1)) || decide (b.2 < a.2)

/-- Whether a point is inside a triangle, with the top-left rule. -/
def insideTri (a b c p : Pt) : Bool :=
  let t := if area2 a b c < 0 then (a, c, b) else (a, b, c)
  let ok := fun (u v : Pt) => let e := edgeFn u v p; decide (0 < e) || (e == 0 && topLeft u v)
  ok t.1 t.2.1 && ok t.2.1 t.2.2 && ok t.2.2 t.1

/-- Sample offsets in 1/256 pixel (R291). -/
def sampleOffsets (samples : Nat) : List Pt :=
  if samples = 4 then [(96, 32), (224, 96), (32, 160), (160, 224)] else [(128, 128)]

/-- The corners of a primitive as points. -/
def primPts (p : Prim) : Pt × Pt × Pt :=
  let at' := fun (i : Nat) => let q := p.corners.getD i default; (q.1, q.2.1)
  (at' 0, at' 1, at' 2)

/-- The coverage of a pixel: bit s when sample s is covered; none outside the render area and the scissor. -/
def pixelCover (samples : Nat) (inArea : Nat → Nat → Bool) (p : Prim) (x y : Nat) : Nat :=
  if inArea x y = false then 0 else
  let t := primPts p
  maskOf (((sampleOffsets samples).zipIdx.filter (fun (o, _) =>
    insideTri t.1 t.2.1 t.2.2 (256 * (x : Int) + o.1, 256 * (y : Int) + o.2))).map (·.2))

/-- Tile height. -/
def tileRows (samples : Nat) : Nat := if samples = 4 then 16 else 32

/-- The coverage of the 32 pixels of block `b` of a tile whose corner is (x0, y0). -/
def blockCover (samples : Nat) (inArea : Nat → Nat → Bool) (p : Prim) (x0 y0 b : Nat) : List Nat :=
  (List.range 32).map (fun l => pixelCover samples inArea p (x0 + 8 * (b % 4) + l % 8) (y0 + 4 * (b / 4) + l / 8))

/-- The fragment groups of a primitive in a tile, in ascending block number. -/
def tileJobs (samples : Nat) (inArea : Nat → Nat → Bool) (p : Prim) (marked : Bool) (idx x0 y0 : Nat) : List FragJob :=
  (List.range (tileRows samples)).filterMap (fun b =>
    if 4 * (b / 4) < tileRows samples then
      let cov := blockCover samples inArea p x0 y0 b
      if cov.all (· == 0) then none else some ⟨idx, b, cov, p, marked⟩
    else none)

/-! ### Interpolation at a pixel centre (R292) -/

/-- b1, b2, depth and 1/w at a pixel centre, in FP32. -/
def fragInputs (p : Prim) (x y : Nat) : List Nat :=
  let t := primPts p
  let c : Pt := (256 * (x : Int) + 128, 256 * (y : Int) + 128)
  let a := area2 t.1 t.2.1 t.2.2
  let l1 := (Ex.ofInt (edgeFn t.2.2 t.1 c)).div (Ex.ofInt a)
  let l2 := (Ex.ofInt (edgeFn t.1 t.2.1 c)).div (Ex.ofInt a)
  let l0 := ((Ex.ofInt 1).sub l1).sub l2
  let z := fun (i : Nat) => (finOf 7 (p.corners.getD i default).2.2.1).getD Ex.zero
  let iw := fun (i : Nat) => (finOf 7 (p.corners.getD i default).2.2.2).getD Ex.zero
  let mix := fun (f : Nat → Ex) => ((l0.mul (f 0)).add (l1.mul (f 1))).add (l2.mul (f 2))
  let s := mix iw
  let b := fun (v : Ex) => if s.isZero then 0 else fRound 7 false (v.div s)
  [b (l1.mul (iw 1)), b (l2.mul (iw 2)), fRound 7 false (mix z), fRound 7 false s]

end Sys2Proof.Machine
end

