-- ==== Sys2Proof/Machine/Til.lean ====
section
/-! DEFINITION. The tiler: render passes, vertex blocks, binning, tiles and fragment groups (R281 to R299). What a step of TIL does before a
stall is done again after the replay: the pass in State moves only when the whole step is performed. -/

namespace Sys2Proof.Machine

/-! ### Fields of the pass descriptor and the draw entries -/

/-- SAMPLES. -/
def passSamples (b : List Byte) : Nat := getLe b 1 1
/-- WIDTH. -/
def passWidth (b : List Byte) : Nat := getLe b 4 2
/-- HEIGHT. -/
def passHeight (b : List Byte) : Nat := getLe b 6 2
/-- Tiles in a row. -/
def tilesX (b : List Byte) : Nat := ceilDiv (passWidth b) 32
/-- Number of tiles. -/
def tileCount (b : List Byte) : Nat := tilesX b * ceilDiv (passHeight b) (tileRows (passSamples b))
/-- Attachment entry `a`. -/
def attEntry (b : List Byte) (a : Nat) : List Byte := slice b (0x40 + 32 * a) 32
/-- Attachments whose FORMAT is not NONE, ascending. -/
def attList (b : List Byte) : List Nat := (List.range 5).filter (fun a => getLe (attEntry b a) 0 1 != 0)
/-- Local bytes of an attachment. -/
def attBytes (b : List Byte) : Nat := 128 * 32 * (if passSamples b = 4 then 2 else 1)
/-- Bytes of a format's element in memory. -/
def attSize (fmt : Nat) : Nat := if fmt = 2 then 2 else if fmt = 6 then 1 else 4

/-- The checks of R283 on the pass descriptor. -/
def passOk (b : List Byte) : Bool :=
  let att := fun (a : Nat) =>
    let e := attEntry b a
    let fmt := getLe e 0 1
    let load := getLe e 1 1
    let store := getLe e 2 1
    let used := load == 1 || store != 0
    decide (fmt ≤ 6) && decide (load ≤ 2) && decide (store ≤ 2) && getLe e 4 4 % 32 == 0 && (!used || getLe e 8 8 % 128 == 0) &&
      !(store == 2 && (passSamples b == 1 || (fmt != 1 && fmt != 2)))
  getLe b 0 1 == 1 && (passSamples b == 1 || passSamples b == 4) && inRange (passWidth b) 1 8192 && inRange (passHeight b) 1 8192 &&
    inRange (getLe b 0xC 4) 1 65536 && getLe b 0x10 8 % 64 == 0 && getLe b 0x18 8 % 128 == 0 && getLe b 0x20 4 % 128 == 0 &&
    decide (8 * tileCount b ≤ getLe b 0x20 4) && getLe b 0x24 4 % 128 == 0 &&
    (getLe b 0x24 4 == 0 || getLe b 0x28 8 % 128 == 0) && getLe b 0x30 8 % 32 == 0 && (List.range 5).all att && attList b != []

/-- VARYINGS of a draw. -/
def drawVars (e : List Byte) : Nat := getLe e 3 1
/-- COUNT of a draw. -/
def drawCount (e : List Byte) : Nat := getLe e 4 4
/-- Bytes of an index. -/
def indexSize (e : List Byte) : Nat := if getLe e 1 1 = 1 then 2 else 4

/-- The checks of R283 on a draw entry. -/
def drawOk (b e : List Byte) : Bool :=
  let x0 := getLe e 0x34 2
  let y0 := getLe e 0x36 2
  let x1 := getLe e 0x38 2
  let y1 := getLe e 0x3A 2
  decide (getLe e 0 1 ≤ 1) && decide (getLe e 1 1 ≤ 2) && decide (getLe e 2 1 ≤ 2) && decide (drawVars e ≤ 32) &&
    inRange (drawCount e) 3 16777216 && regsOk (getLe e 0xC 2) && decide (ceilDiv (8 + drawVars e) 8 * 8 ≤ getLe e 0xC 2) &&
    regsOk (getLe e 0xE 2) && (getLe e 1 1 == 0 || getLe e 0x10 8 % indexSize e == 0) && getLe e 0x18 8 % 128 == 0 &&
    getLe e 0x20 8 % 128 == 0 && getLe e 0x28 8 % 4 == 0 && decide (getLe e 0x30 4 ≤ 56) &&
    decide (x1 ≤ passWidth b) && decide (y1 ≤ passHeight b) && decide (x0 < x1) && decide (y0 < y1)

/-- Whether a pixel lies in the render area and a draw's scissor. -/
def drawArea (b e : List Byte) (x y : Nat) : Bool :=
  decide (x < passWidth b) && decide (y < passHeight b) && decide (getLe e 0x34 2 ≤ x) && decide (x < getLe e 0x38 2) &&
    decide (getLe e 0x36 2 ≤ y) && decide (y < getLe e 0x3A 2)

/-! ### The pass -/

/-- TIL's requester for the pass. -/
def rqTil (c : Cfg) (p : Pass) : Rq := { rqCmd c p.ctx 6 4 0 with serial := some p.serial }

/-- Whether TIL may take a step: it runs the pass, is up, not stalled. -/
def tilReady (c : Cfg) (d : Dev) (p : Pass) : Bool :=
  unitUp d 6 0 0 && !unitStalled d (rqTil c p) && !faulted d &&
    (match runOf d 6 0 0 with
     | some (r, x) => r.serial == p.serial && r.stopTb.isNone && !x.expired
     | none => false)

/-- The pass's allowed cores, ascending over the quarters (R281). -/
def passCores (c : Cfg) (d : Dev) (p : Pass) : List Nat :=
  (List.range 24).filter (fun k =>
    bit (getLe p.desc (8 + k / 6) 1) (k % 6) && inService c d 4 (k / 6) (k % 6) &&
      (match reservedFor c 4 (k / 6) (k % 6) with
       | some r => r == p.ring
       | none => true))

/-- The pass ends with a status. -/
def tilEnd (st : Nat) (d : Dev) : Dev :=
  match d.til with
  | none => unitEnd 6 0 0 st false d
  | some p => unitEnd 6 0 0 st false { clearCores p.serial d with til := none }

/-- A step of TIL that yields the pass's next state. -/
def tilStep (c : Cfg) (f : Pass → Rq → Eng Pass) (d : Dev) : Dev :=
  match d.til with
  | none => d
  | some p =>
    if tilReady c d p = false then d else
    match runEng (f p (rqTil c p)) d with
    | (.ok p, d) => { d with til := some p }
    | (.error .stall, d) => d
    | (.error (.fail st), d) => tilEnd st d
    | (.error .invalid, d) => tilEnd 0x10 d

/-- TIL_RENDER: the pass descriptor and every draw entry are read and checked, and the first phase starts (R283, R284). -/
def tilRender (c : Cfg) (d : Dev) : Dev :=
  match runOf d 6 0 0 with
  | none => d
  | some (r, x) =>
    let rq := rqUnit c x 6 0 0
    if d.til.isSome || r.stopTb.isSome || unitStalled d rq || faulted d || !unitUp d 6 0 0 then d else
    let head : Eng Pass := do
      let b ← ePayload c rq x.entry.payload 256
      if passOk b = false then throw .invalid
      let draws ← (List.range (getLe b 0xC 4)).mapM (fun i => do
        let e ← eRead c rq (getLe b 0x10 8 + 64 * i) 64
        if ppoison e || !drawOk b (pdata e) then throw .invalid
        pure (pdata e))
      pure { (default : Pass) with serial := x.serial, ring := x.ring, ctx := x.ctx, desc := b, draws := draws, pool := 8 * tileCount b }
    match runEng head d with
    | (.ok p, d) => setUnits x 1 { d with til := some p }
    | (.error .stall, d) => d
    | (.error (.fail st), d) => tilEnd st d
    | (.error .invalid, d) => tilEnd 0x10 d

/-! ### Vertex blocks (R285) -/

/-- Index values of elements `first` to `first + n - 1` of a draw. -/
def readIndices (c : Cfg) (rq : Rq) (e : List Byte) (first n : Nat) : Eng (List Nat) := do
  if getLe e 1 1 = 0 then pure ((List.range n).map (· + first))
  else
    let b ← eRead c rq (getLe e 0x10 8 + indexSize e * first) (indexSize e * n)
    pure ((List.range n).map (fun i => getLe (pdata b) (indexSize e * i) (indexSize e)))

/-- BLOCK_ADMIT for the pass in progress: the next 128 elements go to the lowest allowed core that can admit them. -/
def vertexAdmit (c : Cfg) (d : Dev) : Dev :=
  match d.til with
  | none => d
  | some p =>
    match p.draws[p.vDraw]? with
    | none => d
    | some e =>
      if tilReady c d p = false ∨ p.phase ≠ 0 then d else
      let n := Nat.min 128 (drawCount e - 128 * p.vNext)
      let regs := getLe e 0xC 2
      match (passCores c d p).find? (fun k => (fits (coreOf d k) p.ctx (ceilDiv n 32) regs 0 true).isSome) with
      | none => d
      | some k =>
        match cmdOf d p.serial, fits (coreOf d k) p.ctx (ceilDiv n 32) regs 0 true with
        | some x, some (scheds, lo) =>
          let work : Eng (List Nat × List (Nat × Bool)) := do
            let idx ← readIndices c (rqTil c p) e (128 * p.vNext) n
            let us ← readUniforms c (rqTil c p) (getLe e 0x28 8) (getLe e 0x30 4)
            pure (idx, us)
          match runEng work d with
          | (.error .stall, d) => d
          | (.error (.fail st), d) => tilEnd st d
          | (.error .invalid, d) => tilEnd 0x10 d
          | (.ok (idx, us), d) =>
            let core := coreOf d k
            let f := takeFree (scheds.length * regs * 32) d
            let d := takeCore k x.ctx f.2
            let uni := fun (g : Nat) =>
              ([p.vNext, 0, 0, p.vDraw, 0, 0, 128 * p.vNext + 32 * g, 0].map (fun v => (v, false))) ++ us
            let blk : CoreBlk := ⟨core.nextId, p.serial, p.ring, p.ctx, 1, p.vNext, lo, 0, true, d.phe.tb, 0⟩
            let gs := blockGroups x 1 core.nextId p.vNext n regs f.1 (getLe e 0x18 8) scheds
              (fun t => (getLe e 8 4 + idx.getD t 0) % 2 ^ 32) uni core.nextId
            let gs := gs.map (fun g => { g with prim := p.vDraw })
            let d := obsCount 0x24 (k / 6) (k % 6) (some x.ctx) 1 (coreBusy k x (setCore k (putBlock blk gs) d))
            let last := drawCount e ≤ 128 * (p.vNext + 1)
            { d with til := some { p with vDraw := if last then p.vDraw + 1 else p.vDraw, vNext := if last then 0 else p.vNext + 1 } }
        | _, _ => d

/-! ### Binning (R286 to R289) -/

/-- The address of a pool offset. -/
def poolAddr (b : List Byte) (off : Nat) : Nat :=
  if off < getLe b 0x20 4 then getLe b 0x18 8 + off else getLe b 0x28 8 + off - getLe b 0x20 4

/-- Write at a pool offset, through the spill area where it goes on. -/
def poolWrite (c : Cfg) (rq : Rq) (p : Pass) (off : Nat) (data : List PByte) : Eng Unit := do
  if p.overran then pure () else
  let room := getLe p.desc 0x20 4 - off
  let a := data.take room
  let b := data.drop room
  if a ≠ [] then eWrite c rq (poolAddr p.desc off) a
  if b ≠ [] then eWrite c rq (poolAddr p.desc (off + a.length)) b

/-- Place data at the end of the pool; a pool that outgrows its area is only counted from then on (R289). -/
def poolPut (c : Cfg) (rq : Rq) (p : Pass) (data : List PByte) : Eng (Nat × Pass) := do
  let q := { p with pool := p.pool + data.length, overran := p.overran || decide (getLe p.desc 0x20 4 + getLe p.desc 0x24 4 < p.pool + data.length) }
  poolWrite c rq q p.pool data
  pure (p.pool, q)

/-- The bytes of a vertex record. -/
def recordBytes (desc : List Byte) (words : List Nat) (marked : Bool) : List PByte :=
  mark marked ((recordHead (passWidth desc) (passHeight desc) words ++ words.drop 4).flatMap (leBytes 4))

/-- A shaded vertex in the table of the pass. -/
def vtxKey (draw elem : Nat) : Nat := draw * 2 ^ 25 + elem

/-- Place the records of the vertices that have exited, in that order. -/
def placeVertices (c : Cfg) (rq : Rq) (p : Pass) : Eng Pass := do
  let q ← p.exited.foldlM (fun p v => do
    let r ← poolPut c rq p (recordBytes p.desc v.words v.marked)
    pure { r.2 with vtx := aset r.2.vtx (vtxKey v.draw v.elem) ⟨r.1, v.words, v.marked⟩ }) p
  pure { q with exited := [] }

/-- The next triangle from an element of a strip or a list: its elements and where the search goes on; none at the draw's end. Restart
indices of a strip are passed over (R285). -/
def nextTriangle (c : Cfg) (rq : Rq) (e : List Byte) : Nat → Nat → Bool → Eng (Option ((Nat × Nat × Nat) × Nat × Bool))
  | 0, _, _ => pure none
  | fuel + 1, k, odd => do
    if drawCount e < k + 3 then pure none
    else if getLe e 0 1 = 0 then pure (some ((k, k + 1, k + 2), k + 3, false))
    else
      let idx ← if getLe e 1 1 = 0 then pure [] else readIndices c rq e k 3
      let ends := fun (i : Nat) => idx.getD i 0 == (if getLe e 1 1 = 1 then 0xFFFF else 0xFFFFFFFF)
      if ends 0 then nextTriangle c rq e fuel (k + 1) false
      else if ends 1 then nextTriangle c rq e fuel (k + 2) false
      else if ends 2 then nextTriangle c rq e fuel (k + 3) false
      else pure (some (if odd then (k + 1, k, k + 2) else (k, k + 1, k + 2), k + 1, !odd))

/-- Add a primitive to a tile's list: a new chunk when the last is full (R288). -/
def binInto (c : Cfg) (rq : Rq) (idx : Nat) (p : Pass) (t : Nat) : Eng Pass := do
  let l := aget p.tiles t
  let n := l.prims.length
  if n % 31 = 0 then do
    let r ← poolPut c rq p (mark false (leBytes 4 idx ++ leBytes 120 0 ++ leBytes 4 0xFFFFFFFF))
    if n ≠ 0 then poolWrite c rq r.2 (l.last + 124) (mark false (leBytes 4 r.1))
    pure { r.2 with tiles := aset r.2.tiles t ⟨if n = 0 then r.1 else l.first, r.1, idx :: l.prims⟩ }
  else do
    poolWrite c rq p (l.last + 4 * (n % 31)) (mark false (leBytes 4 idx))
    pure { p with tiles := aset p.tiles t { l with prims := idx :: l.prims } }

/-- The tiles in which a primitive covers a sample. -/
def coveredTiles (b e : List Byte) (p : Prim) : List Nat :=
  (List.range (tileCount b)).filter (fun t =>
    tileJobs (passSamples b) (drawArea b e) p false 0 (32 * (t % tilesX b)) (tileRows (passSamples b) * (t / tilesX b)) != [])

/-- One screen triangle: culled, dropped, or binned; once the pool outgrew its area nothing more is binned, and only what the pass needs is counted
(R289, R299). -/
def binTriangle (c : Cfg) (rq : Rq) (draw : Nat) (p : Pass) (cs : List (Corner × Nat)) : Eng Pass := do
  let e := p.draws.getD draw []
  let pr := fun (i : Nat) => project (passWidth p.desc) (passHeight p.desc) (cs.getD i default).1.vals
  let pt := fun (i : Nat) => let q := pr i; (q.1, q.2.1)
  let a := area2 (pt 0) (pt 1) (pt 2)
  let front := decide (a < 0) != bit (getLe p.desc 2 1) 1
  let cull := getLe e 2 1
  if cs.any (fun x => (x.1.vals.getD 3 Ex.zero).isZero) || a == 0 || (cull == 1 && !front) || (cull == 2 && front) then
    pure { p with culled := p.culled + 1 }
  else
    let offs := cs.map (·.2)
    let prim : Prim := ⟨draw, front, p.pool, [pr 0, pr 1, pr 2]⟩
    let tiles := coveredTiles p.desc e prim
    if tiles = [] then pure p else do
    let rec' := offs.flatMap (leBytes 4) ++ leBytes 4 (draw % 65536 + b2n front * 65536)
    let r ← poolPut c rq p (mark false rec')
    let idx := p.prims.length
    let q ← tiles.foldlM (binInto c rq idx) { r.2 with prims := p.prims ++ [prim] }
    pure { q with binned := q.binned + b2n (!q.overran) }

/-- A triangle of three shaded vertices: discarded, or clipped and emitted as a fan. -/
def binPolygon (c : Cfg) (rq : Rq) (draw : Nat) (vs : List Vtx) (p : Pass) : Eng Pass := do
  let cs := vs.map (fun v => (exWords (v.words.take 4)).map (fun _ =>
    ({ vals := v.words.map (fun w => (finOf 7 w).getD Ex.zero), words := v.words, off := some v.off, marked := v.marked } : Corner)))
  match cs.mapM id with
  | none => pure { p with culled := p.culled + 1 }
  | some poly =>
    let poly := clipAll (passWidth p.desc) (passHeight p.desc) poly
    let r ← poly.foldlM (fun (acc : List (Corner × Nat) × Pass) v => do
      match v.off with
      | some o => pure (acc.1 ++ [(v, o)], acc.2)
      | none => do
        let r ← poolPut c rq acc.2 (recordBytes acc.2.desc v.words v.marked)
        pure (acc.1 ++ [(v, r.1)], r.2)) (([] : List (Corner × Nat)), p)
    (List.range (r.1.length - 2)).foldlM (fun p i =>
      binTriangle c rq draw p [r.1.getD 0 default, r.1.getD (i + 1) default, r.1.getD (i + 2) default]) r.2

/-- TIL_TRIANGLE: the next triangle in order, once its vertices have been shaded. -/
def tilTriangle (c : Cfg) (d : Dev) : Dev :=
  match d.til with
  | none => d
  | some p =>
    let e := p.draws.getD p.tDraw []
    if p.phase ≠ 0 ∨ p.draws.length ≤ p.tDraw then d else
    tilStep c (fun p rq => do
      match ← nextTriangle c rq e (drawCount e) p.tElem p.tOdd with
      | none => pure { p with tDraw := p.tDraw + 1, tElem := 0, tOdd := false }
      | some ((i, j, k), next, odd) =>
        let q ← placeVertices c rq p
        let vs := [i, j, k].map (fun n => aget q.vtx (vtxKey p.tDraw n))
        if vs.any (fun v => v.words == []) then pure p
        else do
          let q ← binPolygon c rq p.tDraw vs q
          pure (if drawCount e < next + 3 then { q with tDraw := p.tDraw + 1, tElem := 0, tOdd := false } else { q with tElem := next, tOdd := odd })) d

/-- The bytes of the status record (R299). -/
def statusRecord (p : Pass) : List Byte :=
  leBytes 4 (b2n p.overran) ++ leBytes 4 p.binned ++ leBytes 8 (p.pool - 8 * tileCount p.desc) ++ leBytes 4 p.culled ++ leBytes 4 p.done ++
    leBytes 4 p.skipped ++ leBytes 4 0

/-- Write the status record, when the pass has one. -/
def writeStatus (c : Cfg) (rq : Rq) (p : Pass) : Eng Unit :=
  if getLe p.desc 0x30 8 = 0 then pure () else eWrite c rq (getLe p.desc 0x30 8) (mark false (statusRecord p))

/-- Whether every vertex of the pass has been shaded and no vertex group is left. -/
def verticesDone (d : Dev) (p : Pass) : Bool :=
  decide (p.draws.length ≤ p.vDraw) && d.cores.all (fun k => k.groups.all (fun g => g.serial != p.serial))

/-- TIL_BINNING_DONE: the tile headers are written and the second phase may begin; a pass whose pool outgrew its area completes
BIN_OVERFLOW (R284, R289). -/
def tilBinningDone (c : Cfg) (d : Dev) : Dev :=
  match d.til with
  | none => d
  | some p =>
    if p.phase ≠ 0 ∨ p.tDraw < p.draws.length ∨ verticesDone d p = false then d else
    let d := tilStep c (fun p rq => do
      let p ← placeVertices c rq p
      if p.overran then do
        writeStatus c rq p
        pure { p with phase := 2 }
      else do
        let heads := (List.range (tileCount p.desc)).flatMap (fun t =>
          let l := aget p.tiles t
          leBytes 4 (if l.prims = [] then 0xFFFFFFFF else l.first) ++ leBytes 4 l.prims.length)
        eWrite c rq (getLe p.desc 0x18 8) (mark false heads)
        pure { p with phase := 1 }) d
    match d.til with
    | some p => if p.phase = 2 then tilEnd 0x12 d else d
    | none => d

/-! ### Tiles (R290 to R295) -/

/-- Bytes of a row of a tile in memory, the address of its first pixel, and the number of its pixels inside the render area. -/
def tileRow (b e : List Byte) (t y : Nat) (perPixel : Nat) : Nat × Nat :=
  let x0 := 32 * (t % tilesX b)
  let yy := tileRows (passSamples b) * (t / tilesX b) + y
  let n := if yy < passHeight b then Nat.min 32 (passWidth b - x0) else 0
  (getLe e 8 8 + yy * getLe e 4 4 + x0 * perPixel, n)

/-- The place of a sample in an attachment's tile memory (R293). -/
def elementOf (samples x y s : Nat) : Nat := ((y / 4) * 4 + x / 8) * 32 * samples + s * 32 + (y % 4) * 8 + x % 8

/-- Load one attachment: the local bytes by address (R294). -/
def loadAttachment (c : Cfg) (rq : Rq) (b e : List Byte) (t base : Nat) : Eng (List (Nat × List PByte)) := do
  let sm := passSamples b
  if getLe e 1 1 = 0 then
    pure ((List.range (attBytes b / 4)).map (fun i => (base + 4 * i, mark false (leBytes 4 (getLe e 0x10 4)))))
  else if getLe e 1 1 = 1 then do
    let size := attSize (getLe e 0 1)
    let rows ← (List.range (tileRows sm)).mapM (fun y => do
      let r := tileRow b e t y (sm * size)
      let data ← eRead c rq r.1 (r.2 * sm * size)
      pure ((List.range (r.2 * sm)).map (fun i =>
        let bs := (data.drop (i * size)).take size
        (base + 4 * elementOf sm (i / sm) y (i % sm), bs ++ mark (ppoison bs) (List.replicate (4 - size) 0)))))
    pure rows.flatten
  else pure []

/-- Read at a pool offset, through the spill area where it goes on. -/
def poolRead (c : Cfg) (rq : Rq) (p : Pass) (off n : Nat) : Eng (List PByte) := do
  let room := Nat.min n (getLe p.desc 0x20 4 - off)
  let a ← if room = 0 then pure [] else eRead c rq (poolAddr p.desc off) room
  let b ← if room < n then eRead c rq (poolAddr p.desc (off + room)) (n - room) else pure []
  pure (a ++ b)

/-- The header of tile `t` as the binning allocation holds it: first chunk, entries, and whether it is poisoned (R17, R288). -/
def readHeader (c : Cfg) (rq : Rq) (p : Pass) (t : Nat) : Eng (Nat × Nat × Bool) := do
  let b ← eRead c rq (getLe p.desc 0x18 8 + 8 * t) 8
  pure (getLe (pdata b) 0 4, getLe (pdata b) 4 4, ppoison b)

/-- The entries of a tile's list from the chunk at pool offset `off` on, and whether a chunk was poisoned. -/
def readList (c : Cfg) (rq : Rq) (p : Pass) : Nat → Nat → Nat → Eng (List Nat × Bool)
  | 0, _, _ => pure ([], false)
  | fuel + 1, n, off =>
    if n = 0 ∨ off = 0xFFFFFFFF then pure ([], false) else do
      let b ← poolRead c rq p off 128
      let here := (List.range (Nat.min 31 n)).map (fun i => getLe (pdata b) (4 * i) 4)
      let rest ← readList c rq p fuel (n - here.length) (getLe (pdata b) 124 4)
      pure (here ++ rest.1, ppoison b || rest.2)

/-- A corner of a primitive from the head of a vertex record. -/
def cornerOf (b : List Byte) : Option (Int × Int × Nat × Nat) :=
  match coordOf (getLe b 0 4), coordOf (getLe b 4 4) with
  | some x, some y => some (x, y, getLe b 8 4, getLe b 12 4)
  | _, _ => none

/-- Primitive `i` of the pass from its record and the vertex records that it names. An index that names no primitive, and a coordinate that is not
finite, draw nothing (DESIGN CHOICE, log 167). -/
def readPrim (c : Cfg) (rq : Rq) (p : Pass) (i : Nat) : Eng (Option (Prim × Bool)) :=
  match p.prims[i]? with
  | none => pure none
  | some own => do
    let r ← poolRead c rq p own.off 16
    let w := getLe (pdata r) 12 4
    let vs ← ([0, 4, 8]).mapM (fun o => poolRead c rq p (getLe (pdata r) o 4) 16)
    pure ((vs.mapM (fun v => cornerOf (pdata v))).map (fun cs => (⟨w % 65536, bit w 16, own.off, cs⟩, ppoison r || vs.any ppoison)))

/-- Whether a tile is skipped: nothing to draw and nothing to clear (R295). -/
def tileSkipped (p : Pass) (first : Nat) : Bool :=
  first == 0xFFFFFFFF && (attList p.desc).all (fun a => getLe (attEntry p.desc a) 1 1 != 0)

/-- The pass is over once every tile is done. -/
def passOver (p : Pass) : Bool := p.phase == 1 && decide (tileCount p.desc ≤ p.nextTile) && p.active == []

/-- End a pass whose tiles are all done: its status record is written and it completes. -/
def passEnd (c : Cfg) (d : Dev) : Dev :=
  match d.til with
  | none => d
  | some p =>
    if passOver p = false then d else
    let d := tilStep c (fun p rq => do
      writeStatus c rq p
      pure { p with phase := 3 }) d
    match d.til with
    | some p => if p.phase = 3 then tilEnd 0 d else d
    | none => d

/-- The next tile that is not skipped, how many were passed over, and its header. -/
def nextTile (c : Cfg) (rq : Rq) (p : Pass) : Nat → Nat → Eng (Nat × Nat × (Nat × Nat × Bool))
  | 0, t => pure (t, 0, (0xFFFFFFFF, 0, false))
  | fuel + 1, t =>
    if tileCount p.desc ≤ t then pure (t, 0, (0xFFFFFFFF, 0, false)) else do
      let h ← readHeader c rq p t
      if tileSkipped p h.1 then do
        let r ← nextTile c rq p fuel (t + 1)
        pure (r.1, r.2.1 + 1, r.2.2)
      else pure (t, 0, h)

/-- The fragment groups of a tile in order: its list, the primitives' records and their vertices are read from the pool (R17, R288). What is drawn
from a poisoned list or record carries the mark (R275, R429). -/
def jobsOf (c : Cfg) (rq : Rq) (p : Pass) (t : Nat) (head : Nat × Nat × Bool) : Eng (List FragJob) := do
  let l ← readList c rq p (head.2.1 / 31 + 1) head.2.1 head.1
  let ps ← l.1.mapM (fun i => do
    match ← readPrim c rq p i with
    | none => pure []
    | some (pr, marked) =>
      pure (tileJobs (passSamples p.desc) (drawArea p.desc (p.draws.getD pr.draw [])) pr (marked || l.2 || head.2.2) i (32 * (t % tilesX p.desc))
        (tileRows (passSamples p.desc) * (t / tilesX p.desc))))
  pure ps.flatten

/-- Local bytes of a tile: up to its highest attachment (R293). -/
def tileBytes (b : List Byte) : Nat := ((attList b).getLast?.map (fun a => (a + 1) * attBytes b)).getD 0

/-- TILE_HANDOUT: the next tile goes to the lowest eligible core, its attachments are loaded, and its fragment groups launch as slots
allow. -/
def tileHandout (c : Cfg) (d : Dev) : Dev :=
  match d.til with
  | none => d
  | some p =>
    if p.phase ≠ 1 ∨ tilReady c d p = false then d else
    match runEng (nextTile c (rqTil c p) p (tileCount p.desc) p.nextTile) d with
    | (.error .stall, d) => d
    | (.error (.fail st), d) => tilEnd st d
    | (.error .invalid, d) => tilEnd 0x10 d
    | (.ok (t, skip, head), d) =>
    if tileCount p.desc ≤ t then passEnd c { d with til := some { p with nextTile := t, skipped := p.skipped + skip } }
    else
      let size := tileBytes p.desc
      let ok := fun (k : Nat) =>
        decide ((p.active.filter (fun a => a.core == k)).length < 2) && (fits (coreOf d k) p.ctx 0 8 size false).isSome
      match (passCores c d p).find? ok with
      | none => d
      | some k =>
        match cmdOf d p.serial, fits (coreOf d k) p.ctx 0 8 size false with
        | some x, some (_, lo) =>
          let core := coreOf d k
          let blk : CoreBlk := ⟨core.nextId, p.serial, p.ring, p.ctx, 2, t, lo, size, false, d.phe.tb, 0⟩
          let load : Eng (List (List (Nat × List PByte)) × List FragJob) := do
            let ls ← (attList p.desc).mapM (fun a => loadAttachment c (rqTil c p) p.desc (attEntry p.desc a) t (a * attBytes p.desc))
            pure (ls, ← jobsOf c (rqTil c p) p t head)
          match runEng load (takeCore k x.ctx d) with
          | (.error .stall, d) => d
          | (.error (.fail st), d) => tilEnd st d
          | (.error .invalid, d) => tilEnd 0x10 d
          | (.ok (ls, jobs), d) =>
            let d := coreBusy k x (setCore k (fun s => putLocal blk (mergeStores ls.flatten) (putBlock blk [] s)) d)
            { d with til := some { p with
                nextTile := t + 1, skipped := p.skipped + skip, active := p.active ++ [⟨t, k, blk.id, jobs⟩] } }
        | _, _ => d

/-- A fragment group at its first instruction (R292). -/
def fragGroup (p : Pass) (a : TileAct) (blk : CoreBlk) (j : FragJob) (sched base order : Nat) (us : List (Nat × Bool)) : Grp :=
  let b := p.desc
  let pr := j.src
  let e := p.draws.getD pr.draw []
  let sm := passSamples b
  let x0 := 32 * (a.tile % tilesX b)
  let y0 := tileRows sm * (a.tile / tilesX b)
  let px := fun (l : Nat) => (8 * (j.pixel % 4) + l % 8, 4 * (j.pixel / 4) + l / 8)
  let rec' := poolAddr b pr.off
  let uni := ([x0, y0, j.prim, rec' % 2 ^ 32, rec' / 2 ^ 32, blk.lo, attBytes b].map (fun v => (v, false))) ++ (b2n pr.front, j.marked) :: us
  let v0 := (List.range 32).map (fun l => (px l).1 + 32 * (px l).2 + 1024 * j.cover.getD l 0)
  let g := newGrp p.serial 2 blk.id a.tile j.pixel sched (getLe e 0xE 2) base (getLe e 0x20 8) v0 uni (j.cover.map (· != 0)) order
  let g := { g with tile := a.tile, prim := j.prim, pixel := j.pixel }
  ((List.range 32).filter (fun l => j.cover.getD l 0 != 0)).foldl (fun g l =>
    let addr := blk.lo + 4 * elementOf sm (px l).1 (px l).2 0
    let g := if j.marked then wrV 0 l (v0.getD l 0) true g else g
    (addr :: fragInputs pr (x0 + (px l).1) (y0 + (px l).2)).zipIdx.foldl (fun g (v, i) => wrV (i + 1) l v (j.marked && i != 0) g) g) g

/-- Launch the next fragment group of an active tile when a slot is free; true when one was launched. -/
def launchOne (c : Cfg) (a : TileAct) (d : Dev) : Bool × Dev :=
  match d.til, a.jobs with
  | some p, j :: rest =>
    let e := p.draws.getD j.src.draw []
    let regs := getLe e 0xE 2
    let core := coreOf d a.core
    match tilReady c d p && unitUp d 4 (a.core / 6) (a.core % 6), placeGroups regs 1 (schedUse core), core.blocks.find? (fun b => b.id == a.blk) with
    | true, some (s :: _), some blk =>
      match runEng (readUniforms c (rqTil c p) (getLe e 0x28 8) (getLe e 0x30 4)) d with
      | (.error .stall, d) => (false, d)
      | (.error (.fail st), d) => (false, tilEnd st d)
      | (.error .invalid, d) => (false, tilEnd 0x10 d)
      | (.ok us, d) =>
        let f := takeFree (regs * 32) d
        let g := fragGroup p a blk j s f.1 core.nextId us
        let d := setCore a.core (fun k => { k with groups := k.groups ++ [{ g with left := k.left }], nextId := k.nextId + 1 }) f.2
        let d := obsCount 0x24 (a.core / 6) (a.core % 6) (some p.ctx) 1 d
        let act := p.active.map (fun b => if b.tile = a.tile then { b with jobs := rest } else b)
        (true, { d with til := some { p with active := act } })
    | _, _, _ => (false, d)
  | _, _ => (false, d)

/-- Launch fragment groups while slots are free. -/
def launchAll (c : Cfg) : Nat → Dev → Dev
  | 0, d => d
  | fuel + 1, d =>
    match d.til with
    | none => d
    | some p =>
      let r := p.active.foldl (fun (acc : Bool × Dev) a =>
        if acc.1 then acc else launchOne c a acc.2) (false, d)
      if r.1 then launchAll c fuel r.2 else r.2

/-- A channel of the RESOLVE average. -/
def resolveChannel (hi lo : Nat) (es : List Nat) : Nat := ((es.map (fun v => bits v hi lo)).sum + 2) / 4 * 2 ^ lo

/-- RESOLVE of four samples. -/
def resolvePixel (fmt : Nat) (es : List Nat) : Nat :=
  if fmt = 1 then resolveChannel 31 24 es + resolveChannel 23 16 es + resolveChannel 15 8 es + resolveChannel 7 0 es
  else resolveChannel 15 11 es + resolveChannel 10 5 es + resolveChannel 4 0 es

/-- Write back one attachment (R295). -/
def storeAttachment (c : Cfg) (rq : Rq) (b e : List Byte) (t base : Nat) (core : Core) (blk : CoreBlk) : Eng Unit := do
  let sm := passSamples b
  let fmt := getLe e 0 1
  let size := attSize fmt
  let el := fun (x y s : Nat) => localBytes core blk (base + 4 * elementOf sm x y s) 4
  (List.range (tileRows sm)).forM (fun y => do
    if getLe e 2 1 = 1 then do
      let r := tileRow b e t y (sm * size)
      let data := (List.range (r.2 * sm)).flatMap (fun i => (el (i / sm) y (i % sm)).take size)
      if data ≠ [] then eWrite c rq r.1 data
    else if getLe e 2 1 = 2 then do
      let r := tileRow b e t y size
      let data := (List.range r.2).flatMap (fun x =>
        let ss := (List.range 4).map (fun s => el x y s)
        mark (ss.any ppoison) (leBytes size (resolvePixel fmt (ss.map (fun s => leNat (pdata s))))))
      if data ≠ [] then eWrite c rq r.1 data
    else pure ())

/-- TILE_COMPLETE of a tile whose groups have all exited: its attachments are written back and its core's memory is free again. -/
def tileComplete (c : Cfg) (t : Nat) (d : Dev) : Dev :=
  match d.til with
  | none => d
  | some p =>
    match p.active.find? (fun a => a.tile == t) with
    | none => d
    | some a =>
      let core := coreOf d a.core
      match core.blocks.find? (fun b => b.id == a.blk) with
      | none => d
      | some blk =>
        if a.jobs ≠ [] ∨ core.groups.any (fun g => g.blk == a.blk) = true then d else
        let d := tilStep c (fun p rq => do
          (attList p.desc).forM (fun a => storeAttachment c rq p.desc (attEntry p.desc a) t (a * attBytes p.desc) core blk)
          pure { p with active := p.active.filter (fun x => x.tile != t), done := p.done + 1 }) d
        match d.til with
        | none => d
        | some p2 =>
          if p2.done = p.done then d else
          let d := coreSync a.core (setCore a.core (fun s => { s with blocks := s.blocks.filter (fun b => b.id != a.blk) }) d)
          passEnd c d

end Sys2Proof.Machine
end

