-- ==== Sys2Proof/Machine/Tok.lean ====
section
/-! DEFINITION. The token engine (R192 to R199). -/

namespace Sys2Proof.Machine

/-! ### The generator (R195) -/

/-- One round of Philox-4x32. PRESUMED (log 51): its published multipliers 0xD2511F53 and 0xCD9E8D57. -/
def philoxRound (k0 k1 : Nat) (c : Nat × Nat × Nat × Nat) : Nat × Nat × Nat × Nat :=
  let p0 := 0xD2511F53 * c.1
  let p1 := 0xCD9E8D57 * c.2.2.1
  ((p1 / 2 ^ 32) ^^^ c.2.1 ^^^ k0, p1 % 2 ^ 32, (p0 / 2 ^ 32) ^^^ c.2.2.2 ^^^ k1, p0 % 2 ^ 32)

/-- Rounds with the key increments 0x9E3779B9 and 0xBB67AE85 (PRESUMED, log 51: as published) between them. -/
def philoxRounds : Nat → Nat → Nat → Nat × Nat × Nat × Nat → Nat × Nat × Nat × Nat
  | 0, _, _, c => c
  | n + 1, k0, k1, c =>
    philoxRounds n ((k0 + 0x9E3779B9) % 2 ^ 32) ((k1 + 0xBB67AE85) % 2 ^ 32) (philoxRound k0 k1 c)

/-- The uniform value of a key, position and purpose, as a numerator over 2^64. -/
def uniform (key pos purpose : Nat) : Nat :=
  let o := philoxRounds 10 (key % 2 ^ 32) (key / 2 ^ 32 % 2 ^ 32) (pos % 2 ^ 32, purpose, 0, 0)
  o.2.1 * 2 ^ 32 + o.1

/-! ### Items (R193) -/

/-- A TOK item. -/
structure TokItem where
  op : Nat
  fmt : Nat
  drafts : Nat
  onehot : Bool
  vocab : Nat
  topk : Nat
  topp : Nat
  temp : Nat
  rep : Nat
  presence : Nat
  frequency : Nat
  histLen : Nat
  position : Nat
  stride : Nat
  key : Nat
  logits : Nat
  draftAddr : Nat
  draftLogits : Nat
  history : Nat
  result : Nat
deriving DecidableEq, Repr, Inhabited

/-- The fields of an item's bytes. -/
def parseItem (b : List Byte) : TokItem :=
  { op := getLe b 0 1, fmt := getLe b 1 1, drafts := getLe b 2 1, onehot := bit (getLe b 3 1) 0, vocab := getLe b 4 4
    topk := getLe b 8 2, topp := getLe b 0xA 2, temp := getLe b 0xC 2, rep := getLe b 0xE 2, presence := getLe b 0x10 2
    frequency := getLe b 0x12 2, histLen := getLe b 0x14 2, position := getLe b 0x18 4, stride := getLe b 0x1C 4
    key := getLe b 0x20 8, logits := getLe b 0x28 8, draftAddr := getLe b 0x30 8, draftLogits := getLe b 0x38 8
    history := getLe b 0x40 8, result := getLe b 0x48 8 }

/-- The checks of R157 on an item. -/
def itemOk (t : TokItem) : Bool :=
  inRange t.op 1 3 && (t.fmt == 2 || inRange t.fmt 5 7) && (t.op == 1 || inRange t.drafts 1 7) &&
  inRange t.vocab 2 262144 && decide (t.topk ≤ 256) && decide (t.temp < 0x8000) && decide (t.rep < 0x8000) &&
  decide (t.histLen ≤ 1024) && t.stride % 32 == 0 && t.logits % 128 == 0 && t.result % 64 == 0

/-! ### Distributions (R196) -/

/-- A row as a distribution: tokens with their weights in draw order, and the size of the final set. -/
structure Dist where
  order : List (Nat × Nat)
  kept : Nat
deriving DecidableEq, Repr, Inhabited

/-- The sum of the weights. -/
def Dist.sum (p : Dist) : Nat := (p.order.map (·.2)).sum

/-- The weight of a token. -/
def Dist.at (p : Dist) (x : Nat) : Nat := ((p.order.find? (fun t => t.1 == x)).map (·.2)).getD 0

/-- A history with one more of each listed token; a token listed twice counts its sum. -/
def histAdd (h : List (Nat × Nat)) (extra : List Nat) : List (Nat × Nat) :=
  extra.foldl (fun h t =>
    if h.any (fun p => p.1 == t) then h.map (fun p => if p.1 == t then (p.1, p.2 + 1) else p) else h ++ [(t, 1)]) h

/-- Merge the pairs of a history record. -/
def histMerge (h : List (Nat × Nat)) : List (Nat × Nat) :=
  h.foldl (fun acc p =>
    if acc.any (fun q => q.1 == p.1) then acc.map (fun q => if q.1 == p.1 then (q.1, q.2 + p.2) else q) else acc ++ [p]) []

/-- The penalties on one logit with count `k` (R196 step 2). -/
def penalise (t : TokItem) (k : Nat) (x : LEl) : LEl :=
  let x := match x, lDecode 2 t.rep with
    | .num s lam, .num _ r => lDecode 2 (lam16 s (if s then lam + r else lam - r))
    | y, _ => y
  if t.presence = 0 ∧ t.frequency = 0 then x else
  match x.value, (lDecode 2 t.presence).value, (lDecode 2 t.frequency).value with
  | some v, some p, some f => lDecode 2 (roundL 2 ((v.sub p).sub (f.mul (Ex.ofInt (k : Int))))).code
  | _, _, _ => .nar

/-- Descending by the first of two keys, then ascending token: whether `a` comes before `b`. -/
def before (a b : Nat × Int) : Bool := decide (b.2 < a.2) || (a.2 == b.2 && decide (a.1 < b.1))

/-- Merge of two sorted lists. -/
def mergeLists {α : Type} (le : α → α → Bool) : Nat → List α → List α → List α
  | 0, a, b => a ++ b
  | _ + 1, [], b => b
  | _ + 1, a, [] => a
  | n + 1, x :: a, y :: b => if le y x then y :: mergeLists le n (x :: a) b else x :: mergeLists le n a (y :: b)

/-- Merge sort with fuel. -/
def sortLists {α : Type} (le : α → α → Bool) : Nat → List α → List α
  | 0, l => l
  | n + 1, l =>
    if l.length ≤ 1 then l else
    let h := l.length / 2
    mergeLists le (l.length + 1) (sortLists le n (l.take h)) (sortLists le n (l.drop h))

/-- Sort a list. -/
def sortBy {α : Type} (le : α → α → Bool) (l : List α) : List α := sortLists le (Nat.log2 l.length + 2) l

/-- A total order key of an L16 operand that grows with its value. -/
def lKey : LEl → Int
  | .zero => 0
  | .nar => 0
  | .num s lam => if s then -(lam + 1000000) else lam + 1000000

/-- The weight of e in units of 2^-88 (R185's exponential step, exact). -/
def eWeight (x xmax : Ex) : Nat :=
  match (expStep x xmax).2 with
  | .num _ lam => t16 (lam % 256).toNat * 2 ^ (lam / 256 + 64).toNat
  | _ => 0

/-- The shortest prefix whose sum reaches `need` / 65536. -/
def prefixTo (need : Nat) : Nat → List (Nat × Nat) → List (Nat × Nat)
  | _, [] => []
  | s, p :: l => if need ≤ (s + p.2) * 65536 then [p] else p :: prefixTo need (s + p.2) l

/-- R196 on the logits of a row: the distribution (none when every logit is NaR), and how many were NaR. -/
def rowDist (t : TokItem) (temp : Nat) (xs : List LEl) (hist : List (Nat × Nat)) : Option Dist × Nat :=
  let pen := fun (x : LEl) (i : Nat) => match hist.find? (fun h => h.1 == i) with
    | some h => penalise t h.2 x
    | none => x
  let ys := (xs.zipIdx.map (fun p => (p.2, pen p.1 p.2))).filter (fun p => p.2 != .nar)
  let nar := xs.length - ys.length
  match ys with
  | [] => (none, nar)
  | y0 :: rest =>
    let top := fun (l : List (Nat × LEl)) (b : Nat × LEl) => l.foldl (fun b y => if lKey b.2 < lKey y.2 then y else b) b
    if temp = 0 then (some ⟨[((top rest y0).1, 1)], 1⟩, nar)
    else
      let tl := match lDecode 2 temp with
        | .num _ l => l
        | _ => 0
      let zs := ys.map (fun p => (p.1, match p.2 with
        | .num s lam => lDecode 2 (lam16 s (lam - tl))
        | z => z))
      let mx := ((match zs with
        | [] => LEl.zero
        | z :: l => (top l z).2).value).getD Ex.zero
      let ws := zs.map (fun p => ((p.1, lKey p.2), eWeight ((p.2.value).getD Ex.zero) mx))
      let limit := if t.topk ≠ 0 then t.topk else if t.topp ≠ 0 then 256 else ws.length
      let sortedX := if t.topk ≠ 0 ∨ t.topp ≠ 0 then sortBy (fun a b => before a.1 b.1) ws else ws
      let C := (sortedX.take limit).map (fun p => (p.1.1, p.2))
      let sRef := if t.topk ≠ 0 then (C.map (·.2)).sum else (ws.map (·.2)).sum
      if t.topk = 0 ∧ t.topp = 0 then (some ⟨C, C.length⟩, nar)
      else
        let Cs := sortBy (fun a b => before (a.1, (a.2 : Int)) (b.1, (b.2 : Int))) C
        let F := if t.topp = 0 then Cs else prefixTo (t.topp * sRef) 0 Cs
        (some ⟨F, F.length⟩, nar)

/-- The first token whose cumulative weight exceeds u times the sum (R197). -/
def drawFrom (order : List (Nat × Nat)) (u s : Nat) : Nat → Nat
  | acc => match order with
    | [] => 0
    | p :: l => if u * s < (acc + p.2) * 2 ^ 64 then p.1 else
      match l with
      | [] => p.1
      | _ => drawFrom l u s (acc + p.2)

/-- A draw from a distribution. -/
def Dist.draw (p : Dist) (u : Nat) : Nat := drawFrom p.order u p.sum 0

/-- Ascending token order. -/
def ascending (l : List (Nat × Nat)) : List (Nat × Nat) := sortBy (fun a b => decide (a.1 < b.1)) l

/-- The residual draw of R199. -/
def residualDraw (p q : Dist) (u : Nat) : Nat :=
  let sp := p.sum
  let sq := q.sum
  let r := (ascending p.order).map (fun t => (t.1, t.2 * sq - q.at t.1 * sp))
  let s := (r.map (·.2)).sum
  if s = 0 then drawFrom (ascending p.order) u sp 0 else drawFrom r u s 0

/-! ### Results -/

/-- What an item has decided so far. -/
structure TokRes where
  status : Nat
  accepted : Nat
  tokens : List Nat
  nar : Nat
  kept : Nat
  poison : Bool
deriving DecidableEq, Repr, Inhabited

/-- The result record (R194). -/
def TokRes.bytes (r : TokRes) : List Byte :=
  leBytes 1 r.status ++ leBytes 1 r.accepted ++ leBytes 1 r.tokens.length ++ leBytes 5 0 ++
    (List.range 8).flatMap (fun i => leBytes 4 (r.tokens.getD i 0xFFFFFFFF)) ++
    leBytes 4 (Nat.min 0xFFFFFFFF r.nar) ++ leBytes 4 r.kept ++ leBytes 16 0

/-- The logits of a row in L16 (R144, offset 0), with their poison. -/
def tokRow (c : Cfg) (rq : Rq) (t : TokItem) (base row : Nat) : Eng (List LEl × Bool) := do
  let r ← loadCodes c rq (fmtBits t.fmt) (base + row * t.stride) 0 t.vocab
  pure (r.1.map (fun x => (elDecode t.fmt x 0).1), r.2)

/-- A row as a distribution, folded into the result. -/
def tokDist (c : Cfg) (rq : Rq) (t : TokItem) (temp base row : Nat) (hist : List (Nat × Nat)) (res : TokRes) :
    Eng (Option Dist × TokRes) := do
  let l ← tokRow c rq t base row
  let p := rowDist t temp l.1 hist
  let res := { res with nar := res.nar + p.2, poison := res.poison || l.2 }
  match p.1 with
  | some q => pure (some q, { res with kept := q.kept })
  | none => pure (none, { res with status := 1 })

/-- VERIFY_GREEDY and VERIFY_SAMPLE from draft `i` on (R198, R199). -/
def verifyLoop (c : Cfg) (rq : Rq) (t : TokItem) (hist : List (Nat × Nat)) (ds : List Nat) : Nat → Nat → TokRes → Eng TokRes
  | 0, i, res => do
    let temp := if t.op = 2 then 0 else t.temp
    let p ← tokDist c rq t temp t.logits i (histAdd hist ds) res
    match p.1 with
    | none => pure { p.2 with accepted := i }
    | some q => pure { p.2 with accepted := i, tokens := p.2.tokens ++ [q.draw (uniform t.key (t.position + i) 0)] }
  | n + 1, i, res => do
    let temp := if t.op = 2 then 0 else t.temp
    let d := ds.getD i 0
    let h := histAdd hist (ds.take i)
    let p ← tokDist c rq t temp t.logits i h res
    match p.1 with
    | none => pure { p.2 with accepted := i }
    | some pi =>
      if t.op = 2 then
        let a := pi.draw 0
        if a = d then verifyLoop c rq t hist ds n (i + 1) { p.2 with tokens := p.2.tokens ++ [d] }
        else pure { p.2 with accepted := i, tokens := p.2.tokens ++ [a] }
      else
        let q ← (if t.onehot then pure (some ⟨[(d, 1)], 1⟩, p.2)
          else do
            let q ← tokDist c rq t temp t.draftLogits i h p.2
            pure (q.1, { q.2 with kept := if q.1.isSome then p.2.kept else q.2.kept }) : Eng (Option Dist × TokRes))
        match q.1 with
        | none => pure { q.2 with accepted := i }
        | some qi =>
          let u := uniform t.key (t.position + i) 1
          if u * qi.at d * pi.sum < 2 ^ 64 * pi.at d * qi.sum then
            verifyLoop c rq t hist ds n (i + 1) { q.2 with tokens := q.2.tokens ++ [d] }
          else
            let x := residualDraw pi qi (uniform t.key (t.position + i) 2)
            pure { q.2 with accepted := i, tokens := q.2.tokens ++ [x] }

/-- Decide one item. -/
def tokItem (c : Cfg) (rq : Rq) (t : TokItem) : Eng TokRes := do
  let h ← eBytes c rq t.history (8 * t.histLen)
  let hist := histMerge (((List.range t.histLen).map (fun i => (getLe h.1 (8 * i) 4, getLe h.1 (8 * i + 4) 4))).filter
    (fun p => decide (p.1 < t.vocab)))
  let res : TokRes := ⟨0, 0, [], 0, 0, h.2⟩
  if t.op = 1 then
    let p ← tokDist c rq t t.temp t.logits 0 hist res
    match p.1 with
    | none => pure p.2
    | some q => pure { p.2 with tokens := [q.draw (uniform t.key t.position 0)] }
  else
    let db ← eBytes c rq t.draftAddr (4 * t.drafts)
    let ds := (List.range t.drafts).map (fun i => getLe db.1 (4 * i) 4)
    verifyLoop c rq t hist ds t.drafts 0 { res with poison := res.poison || db.2 }

/-- TOK_COMMAND: every item is checked, then decided in order (R157, R192). -/
def tokCommand (c : Cfg) (d : Dev) : Dev :=
  payloadUnit c 5 0 0 128 (fun _ b => inRange (getLe b 0 4) 1 512) (fun _ _ => true) (fun _ x rq b => do
    let n := getLe b 0 4
    let k := instIdx 5 0 0
    let items ← eBytes c rq (x.entry.payload + 128) (128 * n)
    let ts := (List.range n).map (fun i => parseItem (slice items.1 (128 * i) 128))
    if items.2 || !ts.all itemOk then throw .invalid
    liftDev (setUnits x 1)
    fromProg k n (fun i => do
      let t := ts.getD i default
      let r ← tokItem c rq t
      commit c rq k (i + 1) r.poison [.write t.result (mark r.poison r.bytes)])) d

end Sys2Proof.Machine
end

