-- ==== Sys2Proof/Machine/Settle.lean ====
section
/-! DEFINITION. What follows of itself before a step ends: completions and losses reach the units that depend on them, commands that became
ready or failed are taken up, the step sequencers write what has room, fragment groups launch. And Function Level Reset, which needs it (R330). -/

namespace Sys2Proof.Machine

/-- A command has ended: no unit keeps a part of it, and its chain and its sequence learn of it. -/
def commandEnded (c : Cfg) (x : Cmd) (status : Nat) (d : Dev) : Dev :=
  let d := clearCores x.serial d
  let d := match d.til with
    | some p => if p.serial = x.serial then { d with til := none } else d
    | none => d
  let d := compDone x.serial d
  (List.range 4).foldl (fun d i => seqDone x status i d) (dlmDone c x status d)

/-- A context was lost: monitors, sequencers and pipes learn of it (R229, R226, R315). -/
def contextLost (c : Cfg) (ctx : Nat) (running : List (Nat × Nat × Nat)) (d : Dev) : Dev :=
  (List.range 4).foldl (fun d i => seqLost c ctx i d) (compCtxLost ctx (dlmCtxLost c ctx running d))

/-- The device fault state: both pipes show BACKGROUND alone (R437). -/
def pipesDark (d : Dev) : Dev :=
  { d with comp := { d.comp with pipes := d.comp.pipes.map (fun s => { s with
    inForce := none, pending := none, taken := false, frame := s.frame.map (fun f => { f with set := none }) }) } }

/-- Take up one note. A request of an engine reaches any register but those of UPD and the mailbox (R380). -/
def takeNote (c : Cfg) (n : Note) (d : Dev) : Dev :=
  match n with
  | .done x st => commandEnded c x st d
  | .ctxLost ctx _ running => contextLost c ctx running d
  | .quarterOut q => dlmQuarterOut c q d
  | .devFault => pipesDark d
  | .regWrite off data => if 0x60000 ≤ off ∧ off < 0xA0000 then d else bar0Write c off data d

/-- Work that is ready without any command: rings, sequencers, fragment groups, expired commands, queued NVM operations. -/
def readyWork (c : Cfg) (d : Dev) : Dev :=
  let d := fetchers (settleRings c (settleFuel d) d)
  let d := (List.range 4).foldl (fun d i => seqPump c i (seqOf d i).todo.length d) d
  let d := match d.til with
    | some p => launchAll c (2 * (p.active.map (fun a => a.jobs.length + 1)).sum) d
    | none => d
  pumpNvm 18 (finishExpired c d)

/-- Take up notes and ready work until nothing is left; what the fuel does not reach is taken up by the next step. -/
def settleLoop (c : Cfg) : Nat → Dev → Dev
  | 0, d => d
  | n + 1, d =>
    match d.notes with
    | x :: rest => settleLoop c n (takeNote c x { d with notes := rest })
    | [] =>
      match abandonLater c d with
      | some d => settleLoop c n d
      | none =>
        let d := readyWork c d
        if d.notes = [] then d else settleLoop c n d

/-- The end of a step: MEs preload for tokens that stand at the head of their lanes (R368). Level conditions that have ended may wake again when they come back (R456). -/
def settle (c : Cfg) (d : Dev) : Dev :=
  let d := preloads c (settleLoop c (256 + d.notes.length + 8 * settleFuel d) d)
  { d with pwr := { d.pwr with wakeLevels := d.pwr.wakeLevels &&& levelMask d } }

/-! ### Function Level Reset and PERST_N (R330, R524) -/

/-- Step 1: every ACTIVE context goes through the loss sequence with cause FLR. -/
def flrLose (c : Cfg) (d : Dev) : Dev := (List.range 64).foldl (fun d x => loseContext c x 0x1A [] d) d

/-- Step 2: sequencers detached, contexts FREE, rings unbound, waiting records discarded. CAUSE and IGNORED are kept. -/
def flrUnbind (d : Dev) : Dev :=
  let f := d.fe
  { d with
    seq := d.seq.map (fun _ => default)
    fe := { f with
      ctxs := amapAll f.ctxs (fun _ x => { (default : CtxSt) with cause := x.cause })
      rings := amapAll f.rings (fun _ r => { (default : Ring) with ignored := r.ignored })
      batchTb := none, batchCount := 0, batchRings := [], kqCmds := [], kqRecs := [] } }

/-- Step 3: fences, counts, and the registers of the KQ, the MMU and the ICU that the rule names. -/
def flrRegisters (d : Dev) : Dev :=
  let f := d.fe
  let d := { d with
    fe := { f with
      fences := [], refs := [], kqEnable := false, kqBase := 0, kqSize := 0, kqWptr := 0, kqRptr := 0, kqCqBase := 0, kqCqSize := 0
      kqCqWptr := 0, kqCqRptr := 0, bar2Base := 0, refSel := 0, sigSel := 0 }
    mmu := MmuSt.init
    icu := { d.icu with
      globalHold := false, stackFaults := 0, last := IcuSt.init.last, holdEnd := IcuSt.init.holdEnd, en := IcuSt.init.en } }
  (List.range 64).foldl (fun d t => resetTarget t d) d

/-- The steps of the Function Level Reset. -/
def flrSteps (c : Cfg) (d : Dev) : Dev := flrRegisters (flrUnbind (settle c (flrLose c d)))

/-- FUNCTION_LEVEL_RESET: requested through configuration space, so that it is answered with CRS and without effect before that opens (R56,
R330). The function's own command, MSI-X and table registers are reset as for any function. -/
def functionLevelReset (c : Cfg) (d : Dev) : Dev :=
  let d := hostTouch d
  if cfgReady d = false ∨ d.host.linkUp = false then d else
  let h := d.host
  flrSteps c { d with host := { h with msixEnable := false, funcMask := false, busMaster := false, bar2Log := 28, d3hot := false, msix := [] } }

/-- PERST_N_ASSERT: the link goes down, the PCIe domain resets, and in RUN the steps of the Function Level Reset take place. -/
def perstAssert (c : Cfg) (d : Dev) : Dev :=
  if d.host.perstLow then d else
  let d := { d with host := { d.host with perstLow := true } }
  if d.boot.phase = 0 then d else
  let d := pcieReset d
  if d.boot.phase = 2 ∧ d.pwr.state = 0 then flrSteps c d else d

end Sys2Proof.Machine
end

