-- ==== Sys2Proof/Machine/Start.lean ====
section
/-! DEFINITION. Resets and starts (R55 to R60, R485): SYS_RST_N, PWR_FAIL_N, brown-out (R523, R526), thermal shutdown (R475, R530). -/

namespace Sys2Proof.Machine

/-! ### Reset -/

/-- A reset of every domain: registers return to their reset values and DRAM contents are lost. What lies outside the device stays: the boot
NVM, host memory and what was sent to it, the levels of the reset inputs and PERST_N, and AO's note of a thermal shutdown (R475, R528). -/
def resetDev (d : Dev) : Dev :=
  let n := Dev.init d.upd.nvm d.freeCount
  { n with
    host := { n.host with busMem := d.host.busMem, busPoison := d.host.busPoison, msgs := d.host.msgs, perstLow := d.host.perstLow }
    boot := { n.boot with sysRstLow := d.boot.sysRstLow, pwrFailLow := d.boot.pwrFailLow, brownOut := d.boot.brownOut }
    clk := { n.clk with shutdown := d.clk.shutdown } }

/-- Nothing holds the device in reset. -/
def mayStart (d : Dev) : Bool := !d.boot.sysRstLow && !d.boot.pwrFailLow && !d.boot.brownOut && !d.clk.shutdown

/-! ### Choice of slots (R485) -/

/-- What the choice of slots and the reading of the images give: NVM with its consumed try, images read, slots chosen, the kinds started from
a trial slot, the causes of a revert, and whether the chosen set is inconsistent. -/
structure Chosen where
  nvm : Mem
  images : List Image
  slots : Nat
  trial : Nat
  used : Bool
  revert : Nat
  mismatch : Bool
deriving DecidableEq, Repr, Inhabited

/-- The order in which R55 reads the images. -/
def bootOrder : List Nat := [1, 2, 4, 3, 5, 6, 7]

/-- The images of a set that authenticate, in order. -/
def readSet (m : Mem) (key : Option (List Byte)) (slots : Nat) : List Image :=
  match key with
  | none => []
  | some k => bootOrder.filterMap (fun kind => readImage m k kind (slotBit slots kind))

/-- A try is consumed: the lowest TRIES byte of 0xFF is programmed to 0x00. -/
def consumeTry (m : Mem) (t : SetEnt) : Mem :=
  match findIdxOpt (· == 0xFF) t.tries with
  | some i => nvmWrite m (t.addr + 0x10 + i) [0]
  | none => m

/-- Levels of the images of a set. -/
def imageLevels (l : List Image) : List (Nat × Nat) := l.map (fun x => (x.lmin, x.lmax))

/-- Choose slots and read the images. -/
def chooseSet (m : Mem) (secret : Option (List Byte)) : Chosen :=
  let conf := confirmedSlots m
  let key := secret.bind (imageKeyOf m)
  match trialEnt m with
  | none =>
    let l := readSet m key conf
    ⟨m, l, conf, 0, false, 0, !levelsOk (imageLevels l)⟩
  | some t =>
    let m := consumeTry m t
    let l := readSet m key t.slots
    let kinds := conf ^^^ t.slots
    let auth := bootOrder.any (fun k => bit kinds (k - 1) && !l.any (fun x => x.kind == k))
    if auth || !levelsOk (imageLevels l) then
      let l := readSet m key conf
      ⟨m, l, conf, 0, true, if auth then 1 else 2, !levelsOk (imageLevels l)⟩
    else ⟨m, l, t.slots, kinds, true, 0, false⟩

/-! ### The start sequence (R55, R57 to R60) -/

/-- The update block after the choice: start status, parts, and the measurement log (R499, R502). -/
def bootUpd (s : StartIn) (x : Chosen) : UpdSt :=
  let tries := match trialEnt x.nvm with
    | some t => (t.tries.filter (· == 0xFF)).length
    | none => 0
  let has := fun (k : Nat) => x.images.any (fun i => i.kind == k)
  let runs := fun (p : Nat) => p == 0 || has 2
  let kindsOf := fun (p m : Nat) => maskOf (((partKinds p).filter (fun k => runs p && has k && bit m (k - 1))).map (fun k => k - 1))
  let u := { UpdSt.init x.nvm with
    triesLeft := tries, pufFail := s.puf.isNone, levelMismatch := x.mismatch, setDefault := (confirmedEnt x.nvm).isNone
    revertCause := x.revert, reverted := x.revert != 0, trialUsed := x.used, level := lowLevel (imageLevels x.images)
    partSlot := (List.range 5).map (fun p => kindsOf p x.slots), partTrial := (List.range 5).map (fun p => kindsOf p x.trial)
    lastSector := lastSectorOf x.nvm, secret := s.puf.getD [], imageKey := (s.puf.bind (imageKeyOf x.nvm)).getD [] }
  x.images.foldl (fun u i => logImage ⟨i.kind, i.slot, maskOf ((List.range 5).filter (fun p => runs p && (partKinds p).contains i.kind)), 1, i.version, i.lmin, i.lmax, i.digest⟩ u) u

/-- GLB_CFG_STATUS. -/
def cfgStatusWord (k : CfgCount) (truncated : Bool) : Nat :=
  k.crcFail * 2 ^ 24 + k.reject * 2 ^ 16 + k.unknown * 2 ^ 8 + k.dup * 2 + b2n truncated

/-- The link as it stands at the end of a start: trained when PERST_N is high. -/
def bootLink (s : StartIn) (d : Dev) : Dev := if d.host.perstLow then d else setLink s.width s.rate d

/-- What R57 leaves in DRAM after training. -/
def staleDram (s : StartIn) (d : Dev) : Dev :=
  let d := s.stale.foldl (fun d p => setSlice d p.1 (fun t => { t with dram := memWrite t.dram p.2.1 p.2.2 })) d
  s.marks.foldl (fun d p => setSlice d p.1 (fun t => { t with latent := aset t.latent p.2.1 p.2.2 })) d

/-- Recovery mode, or a firmware that hangs: no READY (R59, R485). The status registers are written all the same, before configuration space opens
(R60): no configuration image is applied, and the device runs untrimmed (R51). -/
def startFails (s : StartIn) (x : Chosen) (hang : Bool) (bad : Bool) (d : Dev) : Dev :=
  let d := { d with
    boot := { d.boot with
      phase := 1, bootStatus := fld 15 (b2n bad) + fld 14 1 + fld 13 (b2n (!hang)) + fld 12 1
      bootSlots := fld 8 x.trial + x.slots, bootTime := 0 }
    clk := { d.clk with domains := [1, 1, 1] ++ List.replicate 24 0, rail := d.clk.rail.set 4 750 }
    phe := { d.phe with tb := s.ms * 500000 }
    upd := bootUpd s x }
  bootLink s d

/-- The start-up test: units of running quarters whose bit is set failed it (R58). It is skipped without the microcode of kind 4 (R59). -/
def applyKat (d : Dev) : Dev :=
  let b := d.boot
  let put := fun (cls i q : Nat) (f : Bool) (d : Dev) => if f then setInst d (instIdx cls q i) (fun s => { s with katFailed := true }) else d
  (List.range 4).foldl (fun d q =>
    let d := (List.range 8).foldl (fun d i => put 1 i q (bit b.katFail0 (8 * q + i)) d) d
    let d := (List.range 6).foldl (fun d i => put 4 i q (bit b.katFail1 (6 * q + i)) d) d
    put 2 0 q (bit b.katFail1 (24 + q)) d) d

/-- The results of the start-up test that can be: bits of quarters that run. -/
def katBits (run : Nat) (per : Nat) (m : Nat) : Nat := maskOf ((List.range (4 * per)).filter (fun i => bit m i && bit run (i / per)))

/-- Clocks and rails at READY: every running quarter at the step of its ACLK_MAX_MHZ, its rail where R471 wants it. -/
def bootClocks (c : Cfg) (d : Dev) : Dev :=
  let on := (List.range 4).map (fun q => quarterMayRun d q)
  let steps := (List.range 4).map (fun q => if on.getD q false then aclkTop c q else 0)
  let base := (List.range 4).map (fun q => if on.getD q false then vmin (steps.getD q 0) else 0)
  let d := { d with clk := { d.clk with
    step := steps, rail := base ++ [750], dramRate := on.map (fun b => if b then c.power.dramMts else 0) } }
  let rails := (List.range 4).map (fun q => if on.getD q false then railTarget d q (steps.getD q 0) else 0)
  { d with clk := { d.clk with rail := rails ++ [750] } }

/-- Phase references and monitors at READY: reference 10 LOCKED at turn 0, inputs with a mode ACQUIRING, monitors waiting (R62, R73). -/
def bootPhase (c : Cfg) (d : Dev) : Dev :=
  let d := setRef d 10 (fun r => { r with state := 2, turn := 0, acc := 0, count := 0, period := 500000, everLocked := true, edgeTb := d.phe.tb })
  dlmArm c ((List.range 8).foldl (fun d n => if (c.phin n).mode = 0 then d else enterAcquiring c n d) d)

/-- READY. -/
def startReady (s : StartIn) (x : Chosen) (bad : Bool) (d : Dev) : Cfg × Dev :=
  let has := fun (k : Nat) => x.images.any (fun i => i.kind == k)
  let rs := imageRecs x.images
  let acc := acceptRecs rs.1
  let c := cfgOf rs.1
  let k := countRecs acc rs.1
  let run := if has 2 then 0xF else 0
  let lost := if has 2 then s.dramFail % 16 else 0xF
  let micro := maskOf (((List.range 7).filter (fun i => has (i + 1)))) + (if has 4 then 0xF00 else 0)
  let test := has 4
  let kat0 := if test then katBits run 8 s.kat0 else 0
  let kat1 := if test then katBits run 6 (s.kat1 % 2 ^ 24) + fld 24 (katBits run 1 (s.kat1 / 2 ^ 24)) else 0
  let part := fun (k : Nat) => ((x.images.find? (fun i => i.kind == k)).map (fun i => i.body)).getD []
  let tb := s.ms * 500000
  let status := fld 15 (b2n bad) + fld 14 (b2n (!has 6)) + fld 12 (b2n c.trims.isNone) + fld 8 lost + 1
  let d := { d with
    boot := { d.boot with
      phase := 2, bootStatus := status, cfgStatus := cfgStatusWord k rs.2, cfgFaulted := k.faulted, katFail0 := kat0, katFail1 := kat1
      bootSlots := fld 8 x.trial + x.slots, bootTime := Nat.min 65535 s.ms, oxsActive := 0, oxsStandbyOk := true, oxqRunning := run
      microcode := micro, parts := [part 3, part 4, part 5] }
    upd := logRecs acc rs.1 (bootUpd s x)
    store := d.store.zipIdx.map (fun (t, q) => { t with memLost := bit lost q })
    phe := { d.phe with tb := tb, lastRetrain := [tb, tb, tb, tb] }
    pwr := { d.pwr with lastBusy := [tb, tb, tb, tb] }
    obs := { d.obs with capEn := c.trace.captureDefault == 1 && c.isolation.captureAllowed == 1 } }
  let d := trainLinks s.links (bootClocks c (runDomains c (applyKat d)))
  (c, obsSync c (bootPhase c (bootLink s (staleDram s d))))

/-- A start (R55): what the board has put into the NVM stands in it, slots are chosen and images read, and the start ends READY, in recovery
mode, or hangs. -/
def startDev (s : StartIn) (d : Dev) : Cfg × Dev :=
  let m := s.nvm.foldl (fun m p => nvmWrite m p.1 p.2) d.upd.nvm
  let bad := headersBad m
  let x := chooseSet m s.puf
  let d := { d with
    pwr := { d.pwr with thermLast := d.pwr.thermLast || d.clk.shutdown }, clk := { d.clk with shutdown := false }
    boot := { d.boot with readOpcode := (readMode m).1, dummy := (readMode m).2.1, enables := (readMode m).2.2 } }
  let need := fun (k : Nat) => x.images.any (fun i => i.kind == k)
  if s.hang then (Cfg.absent, startFails s x true bad d)
  else if x.mismatch ∨ need 1 = false ∨ need 3 = false then (Cfg.absent, startFails s x false bad d)
  else startReady s x bad d

/-- A start follows when nothing holds the device in reset. -/
def startIfFree (s : StartIn) (c : Cfg) (d : Dev) : Cfg × Dev := if mayStart d ∧ d.boot.phase = 0 then startDev s d else (c, d)

/-- SYS_RST_N_ASSERT: an accepted low resets every domain. -/
def sysRstAssert (d : Dev) : Cfg × Dev := (Cfg.absent, resetDev { d with boot := { d.boot with sysRstLow := true } })

/-- SYS_RST_N_RELEASE: a start, unless another cause holds the device in reset. It is the one way out of a thermal shutdown (R475). -/
def sysRstRelease (s : StartIn) (c : Cfg) (d : Dev) : Cfg × Dev :=
  if d.boot.sysRstLow = false ∨ s.testEn then (c, d) else
  let d := { d with boot := { d.boot with sysRstLow := false } }
  if d.boot.pwrFailLow ∨ d.boot.brownOut ∨ d.boot.phase ≠ 0 then
    (c, { d with pwr := { d.pwr with thermLast := d.pwr.thermLast || d.clk.shutdown }, clk := { d.clk with shutdown := false } })
  else startDev s d

/-- PWR_FAIL_N_LOW: as SYS_RST_N. -/
def pwrFailLow (d : Dev) : Cfg × Dev := (Cfg.absent, resetDev { d with boot := { d.boot with pwrFailLow := true } })

/-- PWR_FAIL_N_RELEASE. -/
def pwrFailRelease (s : StartIn) (c : Cfg) (d : Dev) : Cfg × Dev :=
  if d.boot.pwrFailLow = false then (c, d) else startIfFree s c { d with boot := { d.boot with pwrFailLow := false } }

/-! ### Brown-out and shutdown -/

/-- A rail is monitored now (R526). -/
def railWatched (d : Dev) (r : Rail) : Bool :=
  match r with
  | .ao => true
  | .io18 => true
  | .spine => d.clk.domains.getD 1 0 == 1
  | .sram => (d.clk.domains.drop 1).any (fun s => s != 0)
  | .quarter q => decide (q < 4) && (List.range 5).any (fun k => d.clk.domains.getD (7 + 5 * q + k) 0 != 0)

/-- Quarter `q` loses its supply: its memory is lost, and its domains stay off until the next start. -/
def quarterBrownOut (c : Cfg) (q : Nat) (d : Dev) : Dev :=
  let d := quarterMemoryLost q d
  let d := setQuarter q 0 0 0 (setSlice d q (fun s => { SliceSt.init with memLost := s.memLost }))
  let d := { d with
    boot := { d.boot with oxqRunning := putBit d.boot.oxqRunning q false }
    pwr := { d.pwr with shedLost := putBit d.pwr.shedLost q false, idleq := putBit d.pwr.idleq q false }
    clk := { d.clk with
      avs := d.clk.avs.filter (fun r => r.rail != q), switches := d.clk.switches.filter (fun w => w.quarter != q)
      rail := d.clk.rail.set q 0, dramRate := d.clk.dramRate.set q 0 } }
  settle c (oxStopped (2 + q) d)

/-- BROWN_OUT of a rail that stayed below its level for 2 us. -/
def brownOut (r : Rail) (c : Cfg) (d : Dev) : Cfg × Dev :=
  if railWatched d r = false then (c, d) else
  match r with
  | .quarter q => (c, quarterBrownOut c q d)
  | _ => (Cfg.absent, resetDev { d with boot := { d.boot with brownOut := true } })

/-- BROWN_OUT_RECOVERY: every monitored rail is back; the reset ends, and a start begins when the reset inputs are high. -/
def brownOutRecovery (s : StartIn) (c : Cfg) (d : Dev) : Cfg × Dev :=
  if d.boot.brownOut = false ∨ d.boot.sysRstLow ∨ d.boot.pwrFailLow then (c, d)
  else startIfFree s c { d with boot := { d.boot with brownOut := false } }

/-- AO switches off every other domain; DRAM contents are lost and the link goes down. -/
def shutdownDev (d : Dev) : Cfg × Dev := (Cfg.absent, resetDev { d with clk := { d.clk with shutdown := true } })

/-- THERMAL_SHUTDOWN: a sensor reads a temperature, in units of 0.25 degree, at or above 120 degrees, or 112 on an untrimmed part. -/
def thermalShutdown (temp : Int) (c : Cfg) (d : Dev) : Cfg × Dev :=
  if d.boot.phase = 0 ∨ temp < thermLimit c 120 then (c, d) else shutdownDev d

/-- DRAM_OVERTEMP: a package reports a temperature, in degrees, above 105. -/
def dramOvertemp (temp : Int) (c : Cfg) (d : Dev) : Cfg × Dev :=
  if d.boot.phase ≠ 2 ∨ temp ≤ 105 then (c, d) else shutdownDev d

/-- READY_TIMEOUT: 900 ms after the later of the releases of SYS_RST_N and PERST_N, configuration space opens without READY (R56). -/
def readyTimeout (c : Cfg) (d : Dev) : Dev :=
  if d.boot.phase ≠ 1 ∨ d.host.cfgOpen ∨ d.host.perstLow then d else
  let d := advanceTo c (d.boot.relTb + 450000000) d
  { d with host := { d.host with cfgOpen := true } }

end Sys2Proof.Machine
end

