-- ==== Sys2Proof/WellFormed.lean ====
section
/-! DEFINITION. Well-formed commands: every operand names a part that the device has, or a value that its field holds. -/

namespace Sys2Proof.Machine

/-- What a DRAM read finds in a sector: a 6-bit poison field, a result of the code, at most 256 data bits, a 10-bit syndrome. -/
def SectorErr.wf (e : SectorErr) : Bool :=
  decide (e.flips < 64) && decide (e.code < 3) && e.wrong.all (fun b => decide (b < 256)) && decide (e.syndrome < 1024)

/-- What a start meets fits its fields: NVM bytes inside the 128 MiB part, a secret of 32 bytes, fail bits of existing units and quarters, a duration of the millisecond
register, and DRAM offsets of the usable bytes (R90). -/
def StartIn.wf (s : StartIn) : Bool :=
  s.nvm.all (fun p => decide (p.1 + p.2.length ≤ 2 ^ 27)) && s.puf.all (fun k => k.length == 32) && decide (s.kat0 < 2 ^ 32) && decide (s.kat1 < 2 ^ 28)
    && decide (s.dramFail < 16) && decide (s.links < 4) && decide (s.rate < 6)
    && s.stale.all (fun p => decide (p.1 < 4) && decide (p.2.1 + p.2.2.length ≤ 29999955968))
    && s.marks.all (fun p => decide (p.1 < 4) && decide (p.2.1 * 32 < 29999955968) && p.2.2.wf)

/-- A configuration request names a register of the 4 KiB of configuration space. -/
def CfgReq.wf (r : CfgReq) : Bool :=
  match r with
  | .read off => decide (off < 4096) && decide (off % 4 = 0)
  | .command _ => true
  | .msixControl _ _ => true
  | .resizeBar n => decide (n < 64)
  | .other off v => decide (off < 4096) && decide (off % 4 = 0) && decide (v < 2 ^ 32)
  | .capability _ | .power _ | .clearErrors => true

/-- A rail of the package. -/
def Rail.wf (r : Rail) : Bool :=
  match r with
  | .quarter n => decide (n < 4)
  | .ao | .io18 | .spine | .sram => true

end Sys2Proof.Machine

namespace Sys2Proof

/-- A command is well formed. -/
def Instr.wf (x : Instr) : Bool :=
  match x with
  | .sysRstNRelease st => st.wf
  | .readyTimeout => true
  | .sysRstNAssert => true
  | .pwrFailNLow => true
  | .brownOut r => r.wf
  | .perstNAssert => true
  | .perstNRelease width rate => decide (width = 0 ∨ width = 1 ∨ width = 2 ∨ width = 4 ∨ width = 8) && decide (rate < 6)
  | .configRequest r => r.wf
  | .functionLevelReset => true
  | .linkStateChange width rate => decide (width = 0 ∨ width = 1 ∨ width = 2 ∨ width = 4 ∨ width = 8) && decide (rate < 6)
  | .pwrFailNRelease st => st.wf
  | .brownOutRecovery st => st.wf
  | .phinLevelChange pin _ => decide (pin < 8)
  | .phinEdgeAccepted pin => decide (pin < 8)
  | .acquireTimeout n => decide (n < 8)
  | .lockTimeout n => decide (n < 8)
  | .interpolatedTurn n => decide (n < 11)
  | .displayLineStart p line => decide (p < 2) && decide (line < 65536)
  | .startComparatorFire ring => decide (ring < 64)
  | .dlmCheck r => decide (r < 8)
  | .cycleMark ring => decide (ring < 64)
  | .dlmClear r v => decide (r < 8) && decide (v < 2 ^ 32)
  | .pheClear v => decide (v < 2 ^ 32)
  | .retrainStart q => decide (q < 4)
  | .retrainForced q => decide (q < 4)
  | .retrainEnd q => decide (q < 4)
  | .storeRequest ctx cls q i pa len wdata _ onchip => decide (∀ y ∈ ctx, y < 64) && decide (cls < 16) && decide (q < 4) && decide (i < 8) && decide (pa < 2 ^ 48) && decide (len ≤ 128) && decide (∀ y ∈ wdata, y.length ≤ 128) && decide (∀ y ∈ onchip, y.2 < 32) && decide (0 < len) && decide (pa % 128 + len ≤ 128) && decide (∀ y ∈ wdata, y.length = len ∧ y.any (·.isSome) = true)
  | .evictionAccepted q => decide (q < 4)
  | .dramFillComplete q errs => decide (q < 4) && decide (errs.length ≤ 4 ∧ ∀ y ∈ errs, y.wf = true)
  | .writeDrainExit q => decide (q < 4)
  | .streamTrackerTimeout q => decide (q < 4)
  | .prefetchRequest ctx cls q i pa errs => decide (ctx < 64) && decide (cls < 16) && decide (q < 4) && decide (i < 8) && decide (pa < 2 ^ 48) && decide (errs.length ≤ 4 ∧ ∀ y ∈ errs, y.wf = true)
  | .scratchZeroDone q => decide (q < 4)
  | .csMaintClean q => decide (q < 4)
  | .csMaintInvalidate q => decide (q < 4)
  | .csMaintCleanInvalidate q => decide (q < 4)
  | .csMaintComplete q => decide (q < 4)
  | .csSwClean q set way => decide (q < 4) && decide (set < 24576) && decide (way < 16)
  | .csSwInvalidate q set way => decide (q < 4) && decide (set < 24576) && decide (way < 16)
  | .csSwCleanInvalidate q set way => decide (q < 4) && decide (set < 24576) && decide (way < 16)
  | .csWayOffWrite q v => decide (q < 4) && decide (v < 2 ^ 32)
  | .wayCleanDone q way => decide (q < 4) && decide (way < 16)
  | .csErrClear q v => decide (q < 4) && decide (v < 2 ^ 32)
  | .quarterMemoryLost q => decide (q < 4)
  | .tokenHandout cls h => decide (cls < 16) && decide (h.q < 4) && h.lack.all (fun p => decide (p.1 < 64) && decide (p.2 < 8))
  | .meMatmul q i => decide (q < 4) && decide (i < 8)
  | .meBatched q i => decide (q < 4) && decide (i < 8)
  | .meExpert q i => decide (q < 4) && decide (i < 8)
  | .meAttnScore q i => decide (q < 4) && decide (i < 8)
  | .meAttnValue q i => decide (q < 4) && decide (i < 8)
  | .meUnitComplete q i => decide (q < 4) && decide (i < 8)
  | .sneSoftmax q => decide (q < 4)
  | .sneRmsnorm q => decide (q < 4)
  | .sneLayernorm q => decide (q < 4)
  | .sneAct q => decide (q < 4)
  | .sneGated q => decide (q < 4)
  | .sneRope q => decide (q < 4)
  | .sneCombine q => decide (q < 4)
  | .sneAdd q => decide (q < 4)
  | .tokCommand => true
  | .seqAttach => true
  | .seqDetach => true
  | .seqStepBuild i => decide (i < 4)
  | .seqCommit i => decide (i < 4)
  | .seqStepDrop i => decide (i < 4)
  | .muleCopy q i => decide (q < 4) && decide (i < 4)
  | .muleFill q i => decide (q < 4) && decide (i < 4)
  | .storeMaint q i => decide (q < 4) && decide (i < 4)
  | .kvStore q i => decide (q < 4) && decide (i < 4)
  | .mulePrefetch q i => decide (q < 4) && decide (i < 4)
  | .muleSpanComplete q i => decide (q < 4) && decide (i < 4)
  | .packCompress i => decide (i < 2)
  | .packDecompress i => decide (i < 2)
  | .cvuScan i => decide (i < 4)
  | .packClear v => decide (v < 2 ^ 32)
  | .scDispatch q => decide (q < 4)
  | .blockAdmit q => decide (q < 5)
  | .nop q n gi => decide (q < 4) && decide (n < 6) && decide (gi < 48)
  | .iadd q n gi => decide (q < 4) && decide (n < 6) && decide (gi < 48)
  | .isub q n gi => decide (q < 4) && decide (n < 6) && decide (gi < 48)
  | .imul q n gi => decide (q < 4) && decide (n < 6) && decide (gi < 48)
  | .imad q n gi => decide (q < 4) && decide (n < 6) && decide (gi < 48)
  | .imin q n gi => decide (q < 4) && decide (n < 6) && decide (gi < 48)
  | .imax q n gi => decide (q < 4) && decide (n < 6) && decide (gi < 48)
  | .and q n gi => decide (q < 4) && decide (n < 6) && decide (gi < 48)
  | .or q n gi => decide (q < 4) && decide (n < 6) && decide (gi < 48)
  | .xor q n gi => decide (q < 4) && decide (n < 6) && decide (gi < 48)
  | .shl q n gi => decide (q < 4) && decide (n < 6) && decide (gi < 48)
  | .shr q n gi => decide (q < 4) && decide (n < 6) && decide (gi < 48)
  | .popc q n gi => decide (q < 4) && decide (n < 6) && decide (gi < 48)
  | .clz q n gi => decide (q < 4) && decide (n < 6) && decide (gi < 48)
  | .brev q n gi => decide (q < 4) && decide (n < 6) && decide (gi < 48)
  | .bfe q n gi => decide (q < 4) && decide (n < 6) && decide (gi < 48)
  | .bfi q n gi => decide (q < 4) && decide (n < 6) && decide (gi < 48)
  | .icmp q n gi => decide (q < 4) && decide (n < 6) && decide (gi < 48)
  | .sel q n gi => decide (q < 4) && decide (n < 6) && decide (gi < 48)
  | .mov q n gi => decide (q < 4) && decide (n < 6) && decide (gi < 48)
  | .uput q n gi => decide (q < 4) && decide (n < 6) && decide (gi < 48)
  | .rdsv q n gi => decide (q < 4) && decide (n < 6) && decide (gi < 48)
  | .fadd q n gi => decide (q < 4) && decide (n < 6) && decide (gi < 48)
  | .fmul q n gi => decide (q < 4) && decide (n < 6) && decide (gi < 48)
  | .ffma q n gi => decide (q < 4) && decide (n < 6) && decide (gi < 48)
  | .fmin q n gi => decide (q < 4) && decide (n < 6) && decide (gi < 48)
  | .fmax q n gi => decide (q < 4) && decide (n < 6) && decide (gi < 48)
  | .fcmp q n gi => decide (q < 4) && decide (n < 6) && decide (gi < 48)
  | .frcp q n gi => decide (q < 4) && decide (n < 6) && decide (gi < 48)
  | .frsq q n gi => decide (q < 4) && decide (n < 6) && decide (gi < 48)
  | .fsqrt q n gi => decide (q < 4) && decide (n < 6) && decide (gi < 48)
  | .fex2 q n gi => decide (q < 4) && decide (n < 6) && decide (gi < 48)
  | .flg2 q n gi => decide (q < 4) && decide (n < 6) && decide (gi < 48)
  | .fsin q n gi => decide (q < 4) && decide (n < 6) && decide (gi < 48)
  | .fcos q n gi => decide (q < 4) && decide (n < 6) && decide (gi < 48)
  | .hdot4 q n gi => decide (q < 4) && decide (n < 6) && decide (gi < 48)
  | .ftwosum q n gi => decide (q < 4) && decide (n < 6) && decide (gi < 48)
  | .ftwoprod q n gi => decide (q < 4) && decide (n < 6) && decide (gi < 48)
  | .lmul q n gi => decide (q < 4) && decide (n < 6) && decide (gi < 48)
  | .ladd q n gi => decide (q < 4) && decide (n < 6) && decide (gi < 48)
  | .lsub q n gi => decide (q < 4) && decide (n < 6) && decide (gi < 48)
  | .lneg q n gi => decide (q < 4) && decide (n < 6) && decide (gi < 48)
  | .cvt q n gi => decide (q < 4) && decide (n < 6) && decide (gi < 48)
  | .cvt2 q n gi => decide (q < 4) && decide (n < 6) && decide (gi < 48)
  | .cld q n gi => decide (q < 4) && decide (n < 6) && decide (gi < 48)
  | .cst q n gi => decide (q < 4) && decide (n < 6) && decide (gi < 48)
  | .lld q n gi => decide (q < 4) && decide (n < 6) && decide (gi < 48)
  | .lst q n gi => decide (q < 4) && decide (n < 6) && decide (gi < 48)
  | .catom q n gi => decide (q < 4) && decide (n < 6) && decide (gi < 48)
  | .latom q n gi => decide (q < 4) && decide (n < 6) && decide (gi < 48)
  | .fence q n gi => decide (q < 4) && decide (n < 6) && decide (gi < 48)
  | .fenceRelease q n gi => decide (q < 4) && decide (n < 6) && decide (gi < 48)
  | .xlane q n gi => decide (q < 4) && decide (n < 6) && decide (gi < 48)
  | .pvote q n gi => decide (q < 4) && decide (n < 6) && decide (gi < 48)
  | .eqmask q n gi => decide (q < 4) && decide (n < 6) && decide (gi < 48)
  | .syncG q n gi => decide (q < 4) && decide (n < 6) && decide (gi < 48)
  | .syncB q n gi => decide (q < 4) && decide (n < 6) && decide (gi < 48)
  | .mmaL8 q n gi => decide (q < 4) && decide (n < 6) && decide (gi < 48)
  | .mmaL4l8 q n gi => decide (q < 4) && decide (n < 6) && decide (gi < 48)
  | .mmaL16 q n gi => decide (q < 4) && decide (n < 6) && decide (gi < 48)
  | .pxlock q n gi => decide (q < 4) && decide (n < 6) && decide (gi < 48)
  | .pxlockGrant q n gi lane => decide (q < 4) && decide (n < 6) && decide (gi < 48) && decide (lane < 32)
  | .pxunlock q n gi => decide (q < 4) && decide (n < 6) && decide (gi < 48)
  | .trace q n gi => decide (q < 4) && decide (n < 6) && decide (gi < 48)
  | .traceAnswer q n gi lane => decide (q < 4) && decide (n < 6) && decide (gi < 48) && decide (lane < 32)
  | .bra q n gi => decide (q < 4) && decide (n < 6) && decide (gi < 48)
  | .jmpr q n gi => decide (q < 4) && decide (n < 6) && decide (gi < 48)
  | .call q n gi => decide (q < 4) && decide (n < 6) && decide (gi < 48)
  | .exit q n gi => decide (q < 4) && decide (n < 6) && decide (gi < 48)
  | .scFaultClear q n v => decide (q < 4) && decide (n < 6) && decide (v < 2 ^ 32)
  | .tilRender => true
  | .tilTriangle => true
  | .tilBinningDone => true
  | .tileHandout => true
  | .tileComplete t => decide (t < 2 ^ 22)
  | .compPresent => true
  | .reprojDecision p => decide (p < 2)
  | .layerLatch p => decide (p < 2)
  | .scanoutLine p _ => decide (p < 2)
  | .signatureCompare n => decide (n < 16)
  | .compSafeExit p v => decide (p < 2) && decide (v < 2 ^ 32)
  | .compPipeClear p v => decide (p < 2) && decide (v < 2 ^ 32)
  | .compDsiCmd v => decide (v < 2 ^ 32)
  | .dsiPacketSent => true
  | .linkRetrain p _ => decide (p < 2)
  | .edpHpd kind _ => decide (kind < 3)
  | .bar2Read off len => decide (off < 2 ^ 37) && decide (0 < len ∧ len ≤ 512)
  | .bar2Write off data _ => decide (off < 2 ^ 37) && decide (0 < data.length ∧ data.length ≤ 512)
  | .registerWrite off data => decide (off < 2 ^ 26) && decide (0 < data.length ∧ data.length ≤ 512)
  | .pairLoRead b => decide (b.off < 2 ^ 26) && decide (0 < b.len ∧ b.len ≤ 512)
  | .dbWptrWrite ring v => decide (ring < 64) && decide (v < 2 ^ 32)
  | .dbCqRptrWrite ring v => decide (ring < 64) && decide (v < 2 ^ 32)
  | .doorbellBatchClose => true
  | .ringEntryFetch ring => decide (ring < 64)
  | .kqEntryFetch => true
  | .feKqWptrWrite v => decide (v < 2 ^ 32)
  | .feKqCqRptrWrite v => decide (v < 2 ^ 32)
  | .feKqEnable v => decide (v < 2 ^ 32)
  | .commandDispatch ring => decide (ring < 64)
  | .commandComplete ring index => decide (ring < 64) && decide (index < 2 ^ 32)
  | .cqRecordDrain queue => decide (queue < 65)
  | .feRefAdd obj n => decide (obj < 65536) && decide (n < 256)
  | .feRefDrop obj n => decide (obj < 65536) && decide (n < 256)
  | .feFenceSig v => decide (v < 2 ^ 64)
  | .feCountClear v => decide (v < 2 ^ 32)
  | .feNop ring => decide (ring < 64)
  | .ctxCreate => true
  | .ctxKill => true
  | .ctxRelease => true
  | .ringInit => true
  | .ringUnbind => true
  | .fenceInit => true
  | .invalidate => true
  | .invalidateComplete => true
  | .ctxSetRoot => true
  | .commandTimeout ring index => decide (ring < 64) && decide (index < 2 ^ 32)
  | .waitTimeout ring => decide (ring < 64)
  | .drainLimitExpiry cls q i => decide (cls < 16) && decide (q < 4) && decide (i < 8)
  | .instanceResetDone cls q i => decide (cls < 16) && decide (q < 4) && decide (i < 8)
  | .feSchedClear v => decide (v < 2 ^ 32)
  | .ptwWalk cls q i ctx va access => decide (cls < 16) && decide (q < 4) && decide (i < 8) && decide (ctx < 64) && decide (va < 2 ^ 64) && decide (access < 16)
  | .faultBatchHoldoff => true
  | .faultBatchWrite => true
  | .mmuReplay b => decide (b < 2 ^ 32)
  | .mmuFaultRptrWrite v => decide (v < 2 ^ 32)
  | .mmuFaultEnable v => decide (v < 2 ^ 32)
  | .mmuBatchCfgWrite v => decide (v < 2 ^ 32)
  | .mmuCountClear v => decide (v < 2 ^ 32)
  | .hostReadCompletion data _ => decide (data.length ≤ 512)
  | .completionTimeout => true
  | .scrubSector q e => decide (q < 4) && e.wf
  | .cwsScrub _ _ => true
  | .tokenParityError => true
  | .creditParityError => true
  | .spineUe kind cls i loc syn => decide (kind < 4) && decide (cls < 16) && decide (i < 8) && decide (loc < 2 ^ 64) && decide (syn < 32)
  | .oxCoreFault core => decide (core < 2)
  | .errLogFree k e v => decide (k < 5) && decide (e < 16) && decide (v < 2 ^ 32)
  | .errClear k v => decide (k < 5) && decide (v < 2 ^ 32)
  | .icuDelivery => true
  | .holdoffExpiry g => decide (g < 32)
  | .icuEoi t src _ => decide (t < 70) && decide (src < 512)
  | .icuTargetReset t v _ => decide (t < 70) && decide (v < 2 ^ 32)
  | .icSwRaise v => decide (v < 2 ^ 32)
  | .icStatusClear v => decide (v < 2 ^ 32)
  | .msixTableWrite off v => decide (off < 1024) && decide (v < 2 ^ 32)
  | .pwrReqRest => true
  | .pwrReqHold => true
  | .powerEntryDone => true
  | .wakeEvent src => decide (∀ y ∈ src, y < 512)
  | .wakeComplete _ links => decide (links < 4)
  | .idleqEntry q => decide (q < 4)
  | .governorStep est => decide (est < 65536)
  | .throttleDown q temps => decide (q < 4) && decide (temps.length = 5)
  | .throttleUp q temps => decide (q < 4) && decide (temps.length = 5)
  | .thermalShutdown _ => true
  | .dramOvertemp _ => true
  | .avsRequestDone rail => decide (rail < 5)
  | .avsRetry rail readback => decide (rail < 5) && decide (∀ y ∈ readback, y < 1024)
  | .pwrWarnNChange _ => true
  | .droopDetect => true
  | .droopHoldExpiry => true
  | .shedS2Entry => true
  | .shedS3Entry => true
  | .shedS4Entry => true
  | .shedRecovery => true
  | .pwrKeepBaseWrite v => decide (v < 2 ^ 32)
  | .keepCopyDone => true
  | .pwrCountClear v => decide (v < 2 ^ 32)
  | .clockSwitchDone q => decide (q < 4)
  | .dramRateSwitchDone q => decide (q < 4)
  | .updBlockGo v => decide (v < 2 ^ 32)
  | .updBlockDone misses => decide (misses ≤ 3)
  | .setTrial tries _ => decide (tries < 256)
  | .cancel _ => true
  | .confirm _ => true
  | .handover part => decide (part < 256)
  | .handoverPrepared => true
  | .handoverWindowTimeout => true
  | .spineHandover => true
  | .spineHandoverSwitch => true
  | .quarterLeave q => decide (q < 4)
  | .quarterDrainDone q me sne sc => decide (q < 4) && decide (me < 256) && decide (sne < 2) && decide (sc < 64)
  | .quarterRejoin q => decide (q < 4)
  | .attest => true
  | .readCert which => decide (which < 256)
  | .updCountClear v => decide (v < 2 ^ 32)
  | .updMailboxWrite off data => decide (off < 65536) && decide (0 < data.length ∧ data.length ≤ 512)
  | .obsSnap v => decide (v < 2 ^ 32)
  | .obsCntClear v => decide (v < 2 ^ 32)
  | .obsDropClear v => decide (v < 2 ^ 32)
  | .obsDrainRptrWrite v => decide (v < 2 ^ 32)

end Sys2Proof
end

