-- ==== Sys2Proof/Machine/Run.lean ====
section
/-! DEFINITION. How a command runs: the state in which its rule lets it act, and the end of its step. -/

namespace Sys2Proof.Machine

/-- A command that acts on the device, and the end of its step. Operands that name no part of the device, or that fit no field of it, reach
nothing: the command is ignored (DESIGN CHOICE, log 6). -/
def onDev (ok : Bool) (f : Cfg → Dev → Dev) (s : State) : Host.Outcome State Fault Refusal :=
  .next (if ok then { s with dev := settle s.cfg (f s.cfg s.dev) } else s)

/-- A command that acts on the records in force too (a reset or a start), and the end of its step. -/
def onBoth (ok : Bool) (f : Cfg → Dev → Cfg × Dev) (s : State) : Host.Outcome State Fault Refusal :=
  .next (if ok then
    let r := f s.cfg s.dev
    { s with cfg := r.1, dev := settle r.1 r.2 }
  else s)

/-- Bits of a memory go wrong: a DRAM sector, or a byte of an on-chip memory. Nothing is found before the next read (R421, R424). -/
def plant (u : Upset) (d : Dev) : Dev :=
  if u.source = 0 then
    let e : SectorErr := ⟨0, if u.double then 2 else 1, [u.loc % 32 * 8, u.loc % 32 * 8 + 1], u.syndrome % 1024⟩
    setSlice d u.table (fun s => { s with latent := aset s.latent (u.loc / 32) e })
  else { d with err := { d.err with upsets := d.err.upsets ++ [{ u with syndrome := u.syndrome % 32 }] } }

/-- The upset, if any, of one TBCLK period: the spec says what errors do, and not when they come. A single wrong bit of a spine memory is found at once;
an error beyond correction there is SPINE_UE; a wrong copy of a control word is voted out and rewritten, two of them leave no majority (R434, log 163). -/
def strike (c : Cfg) (d : Dev) : Dev :=
  let u := Config.freeUpset d.freeCount
  let d := { d with freeCount := d.freeCount + 1 }
  match u with
  | some (k, source, loc, double, syn) =>
    if k < 4 ∧ source < 6 then plant ⟨k, source, loc, double, syn⟩ d
    else if k = 4 ∧ source = 7 ∧ d.clk.domains.getD (savedReg loc).1 0 = 0 then plant ⟨4, 7, loc, double, syn⟩ d
    else if k = 4 ∧ source = 6 ∧ double = false then logError 4 false 6 loc (syn % 32) d
    else if k = 5 ∧ d.boot.phase = 2 ∧ d.clk.domains.getD 1 0 = 1 then
      if double then enterDevFault c 1 d else { d with err := { d.err with voteFix := satInc 65535 d.err.voteFix } }
    else d
  | none => d

/-- No command waits: one TBCLK period passes, and what is due happens (DESIGN CHOICE, log 3). Nothing moves while the device is held in reset. -/
def idle (s : State) : State :=
  if s.dev.boot.phase = 0 then s else { s with dev := settle s.cfg (advance s.cfg 1 (strike s.cfg s.dev)) }

/-- After READY (R56). -/
def started (f : Dev → Dev) (d : Dev) : Dev := if d.boot.phase = 2 then f d else d

/-- After READY with the spine's domain on (R459): its units act. -/
def live (f : Dev → Dev) (d : Dev) : Dev := if d.boot.phase = 2 ∧ d.clk.domains.getD 1 0 = 1 then f d else d

/-- In RUN: the engines act (R459). -/
def inRun (f : Dev → Dev) (d : Dev) : Dev :=
  if d.boot.phase = 2 ∧ d.clk.domains.getD 1 0 = 1 ∧ d.pwr.state = 0 then f d else d

/-- An Ox core writes a register of quarter `q`'s slice. -/
def oxReg (q : Nat) (f : Dev → Dev) (d : Dev) : Dev := if quarterReg d q 0 then f d else d

/-- A write of an ICU register by an Ox core or through BAR 0. -/
def icuAccess (ox : Bool) (off : Nat) (f : Dev → Dev) (d : Dev) : Dev :=
  if ox then (if ordinary d then f d else d) else hostReg off f d

/-- BLOCK_ADMIT of a quarter's compute dispatches, or with 4 of the render pass in progress. -/
def admitBlock (c : Cfg) (q : Nat) (d : Dev) : Dev := if q = 4 then vertexAdmit c d else blockAdmit c q d

/-- BAR 0 offset of a register of quarter `q`'s slice block. -/
def csAt (q o : Nat) : Nat := 0x1000000 + q * 0x400000 + o

/-- BAR 0 offset of a register of shader core `n` of quarter `q`. -/
def scAt (q n o : Nat) : Nat := csAt q (0x10000 + 0x100 * n + o)

/-- BAR 0 offset of a register of error table `k`: a quarter's, or with 4 the spine's. -/
def errAt (k o : Nat) : Nat := if k = 4 then 0x200 + o else csAt k (0x20000 + o)

end Sys2Proof.Machine
end

