-- ==== Sys2Proof/Machine/ExecEngine.lean ====
section
/-! DEFINITION. Meanings of the commands: token hand-out, matrix, softmax-and-norm and token engines, step sequencers, data movers, pack and check-value units. -/

namespace Sys2Proof.Machine

/-- TOKEN_HANDOUT (R361): An input queue hands one unit of a token to an idle instance, real-time lanes first and then by deficit round robin. -/
def execTokenHandout (cls : Nat) (h : HandOut) (s : State) : Host.Outcome State Fault Refusal :=
  onDev (Instr.tokenHandout cls h).wf (fun c => inRun (tokenHandout c cls h.q h.lack)) s

/-- ME_MATMUL (R165): An ME MATMUL command multiplies M x K rows by a K x N weight matrix, split into units. -/
def execMeMatmul (q : Nat) (i : Nat) (s : State) : Host.Outcome State Fault Refusal :=
  onDev (Instr.meMatmul q i).wf (fun c => inRun (meForm c 1 q i)) s

/-- ME_BATCHED (R170): An ME BATCHED command runs BATCH independent matrix products. -/
def execMeBatched (q : Nat) (i : Nat) (s : State) : Host.Outcome State Fault Refusal :=
  onDev (Instr.meBatched q i).wf (fun c => inRun (meForm c 2 q i)) s

/-- ME_EXPERT (R174): An ME EXPERT command multiplies each row by the matrix of its expert and skips out-of-range indices. -/
def execMeExpert (q : Nat) (i : Nat) (s : State) : Host.Outcome State Fault Refusal :=
  onDev (Instr.meExpert q i).wf (fun c => inRun (meForm c 3 q i)) s

/-- ME_ATTN_SCORE (R176): An ME ATTN_SCORE command forms scaled query-key scores over the visible keys of key-value pages. -/
def execMeAttnScore (q : Nat) (i : Nat) (s : State) : Host.Outcome State Fault Refusal :=
  onDev (Instr.meAttnScore q i).wf (fun c => inRun (meForm c 4 q i)) s

/-- ME_ATTN_VALUE (R177): An ME ATTN_VALUE command sums probability-weighted values over the visible keys. -/
def execMeAttnValue (q : Nat) (i : Nat) (s : State) : Host.Outcome State Fault Refusal :=
  onDev (Instr.meAttnValue q i).wf (fun c => inRun (meForm c 5 q i)) s

/-- ME_UNIT_COMPLETE (R171): An ME finishes a unit, writes its output tile and merges its status word, and the instance becomes idle. -/
def execMeUnitComplete (q : Nat) (i : Nat) (s : State) : Host.Outcome State Fault Refusal :=
  onDev (Instr.meUnitComplete q i).wf (fun c => inRun (meComplete c q i)) s

/-- SNE_SOFTMAX (R185): The SNE computes a softmax over each row. -/
def execSneSoftmax (q : Nat) (s : State) : Host.Outcome State Fault Refusal :=
  onDev (Instr.sneSoftmax q).wf (fun c => inRun (sneRun c 1 q)) s

/-- SNE_RMSNORM (R186): The SNE computes an RMS normalisation of each row. -/
def execSneRmsnorm (q : Nat) (s : State) : Host.Outcome State Fault Refusal :=
  onDev (Instr.sneRmsnorm q).wf (fun c => inRun (sneRun c 2 q)) s

/-- SNE_LAYERNORM (R187): The SNE computes a layer normalisation of each row. -/
def execSneLayernorm (q : Nat) (s : State) : Host.Outcome State Fault Refusal :=
  onDev (Instr.sneLayernorm q).wf (fun c => inRun (sneRun c 3 q)) s

/-- SNE_ACT (R188): The SNE applies an activation function to each element. -/
def execSneAct (q : Nat) (s : State) : Host.Outcome State Fault Refusal :=
  onDev (Instr.sneAct q).wf (fun c => inRun (sneRun c 4 q)) s

/-- SNE_GATED (R189): The SNE multiplies ACT(a) by b for each element. -/
def execSneGated (q : Nat) (s : State) : Host.Outcome State Fault Refusal :=
  onDev (Instr.sneGated q).wf (fun c => inRun (sneRun c 5 q)) s

/-- SNE_ROPE (R189): The SNE rotates element pairs by the position's cosine and sine. -/
def execSneRope (q : Nat) (s : State) : Host.Outcome State Fault Refusal :=
  onDev (Instr.sneRope q).wf (fun c => inRun (sneRun c 6 q)) s

/-- SNE_COMBINE (R189): The SNE forms weighted sums of source rows. -/
def execSneCombine (q : Nat) (s : State) : Host.Outcome State Fault Refusal :=
  onDev (Instr.sneCombine q).wf (fun c => inRun (sneRun c 7 q)) s

/-- SNE_ADD (R189): The SNE adds two rows element by element. -/
def execSneAdd (q : Nat) (s : State) : Host.Outcome State Fault Refusal :=
  onDev (Instr.sneAdd q).wf (fun c => inRun (sneRun c 8 q)) s

/-- TOK_COMMAND (R192): TOK decides the items of its payload in order and writes a result record for each. -/
def execTokCommand (s : State) : Host.Outcome State Fault Refusal :=
  onDev (Instr.tokCommand).wf (fun c => inRun (tokCommand c)) s

/-- SEQ_ATTACH (R203): The MGMT command SEQ_ATTACH binds a step sequencer instance to its descriptor. -/
def execSeqAttach (s : State) : Host.Outcome State Fault Refusal :=
  onDev (Instr.seqAttach).wf (fun c => inRun (seqAttach c)) s

/-- SEQ_DETACH (R206): The MGMT command SEQ_DETACH releases an instance once the step in flight has committed or dropped, and writes back the pools.
-/
def execSeqDetach (s : State) : Host.Outcome State Fault Refusal :=
  onDev (Instr.seqDetach).wf (fun c => inRun (seqDetach c)) s

/-- SEQ_STEP_BUILD (R210): SEQ assigns rows to sequences, allocates pages, writes the batch descriptor and emits the step's commands. -/
def execSeqStepBuild (i : Nat) (s : State) : Host.Outcome State Fault Refusal :=
  onDev (Instr.seqStepBuild i).wf (fun c => inRun (seqBuild c i)) s

/-- SEQ_COMMIT (R222): After an OK verify, SEQ commits each sequence's kept tokens, copies the shadow slots to pages and signals STEP_FENCE. -/
def execSeqCommit (i : Nat) (s : State) : Host.Outcome State Fault Refusal :=
  onDev (Instr.seqCommit i).wf (fun c => inRun (seqCommit c i)) s

/-- SEQ_STEP_DROP (R223): A failed, abandoned, skipped or timed-out step is dropped with no table change, and the next step is built from the same
state. -/
def execSeqStepDrop (i : Nat) (s : State) : Host.Outcome State Fault Refusal :=
  onDev (Instr.seqStepDrop i).wf (fun c => inRun (seqDrop c i)) s

/-- MULE_COPY (R344): The Mule command COPY copies a virtual range. -/
def execMuleCopy (q : Nat) (i : Nat) (s : State) : Host.Outcome State Fault Refusal :=
  onDev (Instr.muleCopy q i).wf (fun c => inRun (muleCopy c q i)) s

/-- MULE_FILL (R344): The Mule command FILL fills a range with a pattern. -/
def execMuleFill (q : Nat) (i : Nat) (s : State) : Host.Outcome State Fault Refusal :=
  onDev (Instr.muleFill q i).wf (fun c => inRun (muleFill c q i)) s

/-- STORE_MAINT (R115): The Mule command STORE_MAINT cleans or invalidates the lines of a virtual range. -/
def execStoreMaint (q : Nat) (i : Nat) (s : State) : Host.Outcome State Fault Refusal :=
  onDev (Instr.storeMaint q i).wf (fun c => inRun (muleMaint c q i)) s

/-- KV_STORE (R216): The Mule command KV_STORE writes keys and values into the slots of a page list. -/
def execKvStore (q : Nat) (i : Nat) (s : State) : Host.Outcome State Fault Refusal :=
  onDev (Instr.kvStore q i).wf (fun c => inRun (muleKvStore c q i)) s

/-- MULE_PREFETCH (R344): The Mule command PREFETCH brings a range into the side buffers. -/
def execMulePrefetch (q : Nat) (i : Nat) (s : State) : Host.Outcome State Fault Refusal :=
  onDev (Instr.mulePrefetch q i).wf (fun c => inRun (mulePrefetch c q i)) s

/-- MULE_SPAN_COMPLETE (R363): A Mule finishes a 64 KiB span of a command whose spans remain; its busy time is charged to the ring's deficit and the
instance becomes idle for the next hand-out. -/
def execMuleSpanComplete (q : Nat) (i : Nat) (s : State) : Host.Outcome State Fault Refusal :=
  onDev (Instr.muleSpanComplete q i).wf (fun _ => inRun (spanComplete q i)) s

/-- PACK_COMPRESS (R406): PACK compresses 256-byte blocks into fixed-size blocks. -/
def execPackCompress (i : Nat) (s : State) : Host.Outcome State Fault Refusal :=
  onDev (Instr.packCompress i).wf (fun c => inRun (packCompress c i)) s

/-- PACK_DECOMPRESS (R410): PACK decodes compressed blocks, poisoning blocks that have errors. -/
def execPackDecompress (i : Nat) (s : State) : Host.Outcome State Fault Refusal :=
  onDev (Instr.packDecompress i).wf (fun c => inRun (packDecompress c i)) s

/-- CVU_SCAN (R416): A check-value unit computes or resumes a CRC over a virtual range. -/
def execCvuScan (i : Nat) (s : State) : Host.Outcome State Fault Refusal :=
  onDev (Instr.cvuScan i).wf (fun c => inRun (cvuScan c i)) s

/-- PACK_CLEAR (R419): A write of CLR zeroes both PACK_n_ERR. -/
def execPackClear (v : Nat) (s : State) : Host.Outcome State Fault Refusal :=
  onDev (Instr.packClear v).wf (fun _ => hostReg 0x200040 (packClear v)) s

end Sys2Proof.Machine
end

