-- ==== Sys2Proof/Machine/ExecFloat.lean ====
section
/-! DEFINITION. Meanings of the commands: the floating-point, L16 and conversion instructions of the shader cores. -/

namespace Sys2Proof.Machine

/-- FADD (R266): Floating-point add. -/
def execFadd (q : Nat) (n : Nat) (gi : Nat) (s : State) : Host.Outcome State Fault Refusal :=
  onDev (Instr.fadd q n gi).wf (fun c => inRun (opFadd c q n gi)) s

/-- FMUL (R266): Floating-point multiply. -/
def execFmul (q : Nat) (n : Nat) (gi : Nat) (s : State) : Host.Outcome State Fault Refusal :=
  onDev (Instr.fmul q n gi).wf (fun c => inRun (opFmul c q n gi)) s

/-- FFMA (R266): Fused multiply-add, rounded once. -/
def execFfma (q : Nat) (n : Nat) (gi : Nat) (s : State) : Host.Outcome State Fault Refusal :=
  onDev (Instr.ffma q n gi).wf (fun c => inRun (opFfma c q n gi)) s

/-- FMIN (R266): minimumNumber. -/
def execFmin (q : Nat) (n : Nat) (gi : Nat) (s : State) : Host.Outcome State Fault Refusal :=
  onDev (Instr.fmin q n gi).wf (fun c => inRun (opFmin c q n gi)) s

/-- FMAX (R266): maximumNumber. -/
def execFmax (q : Nat) (n : Nat) (gi : Nat) (s : State) : Host.Outcome State Fault Refusal :=
  onDev (Instr.fmax q n gi).wf (fun c => inRun (opFmax c q n gi)) s

/-- FCMP (R266): Floating-point compare into a predicate. -/
def execFcmp (q : Nat) (n : Nat) (gi : Nat) (s : State) : Host.Outcome State Fault Refusal :=
  onDev (Instr.fcmp q n gi).wf (fun c => inRun (opFcmp c q n gi)) s

/-- FRCP (R267): Reciprocal. -/
def execFrcp (q : Nat) (n : Nat) (gi : Nat) (s : State) : Host.Outcome State Fault Refusal :=
  onDev (Instr.frcp q n gi).wf (fun c => inRun (opFrcp c q n gi)) s

/-- FRSQ (R267): Reciprocal square root. -/
def execFrsq (q : Nat) (n : Nat) (gi : Nat) (s : State) : Host.Outcome State Fault Refusal :=
  onDev (Instr.frsq q n gi).wf (fun c => inRun (opFrsq c q n gi)) s

/-- FSQRT (R267): Square root. -/
def execFsqrt (q : Nat) (n : Nat) (gi : Nat) (s : State) : Host.Outcome State Fault Refusal :=
  onDev (Instr.fsqrt q n gi).wf (fun c => inRun (opFsqrt c q n gi)) s

/-- FEX2 (R267): Base-2 exponential. -/
def execFex2 (q : Nat) (n : Nat) (gi : Nat) (s : State) : Host.Outcome State Fault Refusal :=
  onDev (Instr.fex2 q n gi).wf (fun c => inRun (opFex2 c q n gi)) s

/-- FLG2 (R267): Base-2 logarithm. -/
def execFlg2 (q : Nat) (n : Nat) (gi : Nat) (s : State) : Host.Outcome State Fault Refusal :=
  onDev (Instr.flg2 q n gi).wf (fun c => inRun (opFlg2 c q n gi)) s

/-- FSIN (R267): Sine of an angle in turns. -/
def execFsin (q : Nat) (n : Nat) (gi : Nat) (s : State) : Host.Outcome State Fault Refusal :=
  onDev (Instr.fsin q n gi).wf (fun c => inRun (opFsin c q n gi)) s

/-- FCOS (R267): Cosine of an angle in turns. -/
def execFcos (q : Nat) (n : Nat) (gi : Nat) (s : State) : Host.Outcome State Fault Refusal :=
  onDev (Instr.fcos q n gi).wf (fun c => inRun (opFcos c q n gi)) s

/-- HDOT4 (R268): Four-element FP16 or BF16 dot product accumulated in FP32. -/
def execHdot4 (q : Nat) (n : Nat) (gi : Nat) (s : State) : Host.Outcome State Fault Refusal :=
  onDev (Instr.hdot4 q n gi).wf (fun c => inRun (opHdot4 c q n gi)) s

/-- FTWOSUM (R268): Rounded sum and its exact error. -/
def execFtwosum (q : Nat) (n : Nat) (gi : Nat) (s : State) : Host.Outcome State Fault Refusal :=
  onDev (Instr.ftwosum q n gi).wf (fun c => inRun (opFtwosum c q n gi)) s

/-- FTWOPROD (R268): Rounded product and its exact error. -/
def execFtwoprod (q : Nat) (n : Nat) (gi : Nat) (s : State) : Host.Outcome State Fault Refusal :=
  onDev (Instr.ftwoprod q n gi).wf (fun c => inRun (opFtwoprod c q n gi)) s

/-- LMUL (R269): L16 multiply of element pairs. -/
def execLmul (q : Nat) (n : Nat) (gi : Nat) (s : State) : Host.Outcome State Fault Refusal :=
  onDev (Instr.lmul q n gi).wf (fun c => inRun (opLmul c q n gi)) s

/-- LADD (R269): L16 add of element pairs. -/
def execLadd (q : Nat) (n : Nat) (gi : Nat) (s : State) : Host.Outcome State Fault Refusal :=
  onDev (Instr.ladd q n gi).wf (fun c => inRun (opLadd c q n gi)) s

/-- LSUB (R269): L16 subtract of element pairs. -/
def execLsub (q : Nat) (n : Nat) (gi : Nat) (s : State) : Host.Outcome State Fault Refusal :=
  onDev (Instr.lsub q n gi).wf (fun c => inRun (opLsub c q n gi)) s

/-- LNEG (R269): L16 negate. -/
def execLneg (q : Nat) (n : Nat) (gi : Nat) (s : State) : Host.Outcome State Fault Refusal :=
  onDev (Instr.lneg q n gi).wf (fun c => inRun (opLneg c q n gi)) s

/-- CVT (R270): Convert one element between formats in the selected rounding mode. -/
def execCvt (q : Nat) (n : Nat) (gi : Nat) (s : State) : Host.Outcome State Fault Refusal :=
  onDev (Instr.cvt q n gi).wf (fun c => inRun (opCvt c q n gi)) s

/-- CVT2 (R270): Convert two FP32 values into two 16-bit elements. -/
def execCvt2 (q : Nat) (n : Nat) (gi : Nat) (s : State) : Host.Outcome State Fault Refusal :=
  onDev (Instr.cvt2 q n gi).wf (fun c => inRun (opCvt2 c q n gi)) s

end Sys2Proof.Machine
end

