-- ==== Sys2Proof/Machine/ExecGraphics.lean ====
section
/-! DEFINITION. Meanings of the commands: tile graphics, composition and display. -/

namespace Sys2Proof.Machine

/-- TIL_RENDER (R281): A render pass is checked and its vertex shading and binning phase starts. -/
def execTilRender (s : State) : Host.Outcome State Fault Refusal :=
  onDev (Instr.tilRender).wf (fun c => inRun (tilRender c)) s

/-- TIL_TRIANGLE (R286): TIL clips, culls, projects and bins one triangle into tile lists. -/
def execTilTriangle (s : State) : Host.Outcome State Fault Refusal :=
  onDev (Instr.tilTriangle).wf (fun c => inRun (tilTriangle c)) s

/-- TIL_BINNING_DONE (R284): Binning of the whole pass ends and tile shading may begin. -/
def execTilBinningDone (s : State) : Host.Outcome State Fault Refusal :=
  onDev (Instr.tilBinningDone).wf (fun c => inRun (tilBinningDone c)) s

/-- TILE_HANDOUT (R290): The next tile goes to the lowest eligible core, which loads its attachments and launches fragment groups. -/
def execTileHandout (s : State) : Host.Outcome State Fault Refusal :=
  onDev (Instr.tileHandout).wf (fun c => inRun (tileHandout c)) s

/-- TILE_COMPLETE (R295): A tile's groups have exited and their writes are accepted, and its attachments are written back. -/
def execTileComplete (t : Nat) (s : State) : Host.Outcome State Fault Refusal :=
  onDev (Instr.tileComplete t).wf (fun c => inRun (tileComplete c t)) s

/-- COMP_PRESENT (R308): A PRESENT command becomes the pipe's pending set, replacing an older one, which completes SKIPPED. -/
def execCompPresent (s : State) : Host.Outcome State Fault Refusal :=
  onDev (Instr.compPresent).wf (fun c => inRun (compPresent c)) s

/-- REPROJ_DECISION (R313): At REPROJ_ANGLE the pipe decides which set the next frame shows, or re-projects the set in force. -/
def execReprojDecision (p : Nat) (s : State) : Host.Outcome State Fault Refusal :=
  onDev (Instr.reprojDecision p).wf (fun c => inRun (reprojDecision c p)) s

/-- LAYER_LATCH (R306): At A_latch the pipe fixes the next frame's set and mode; the pending PRESENT completes and safe-mode changes apply. -/
def execLayerLatch (p : Nat) (s : State) : Host.Outcome State Fault Refusal :=
  onDev (Instr.layerLatch p).wf (fun c => inRun (layerLatch c p)) s

/-- SCANOUT_LINE (R318): A scan-out line is composed; poisoned, faulting or late pixels take SAFE_COLOUR or BACKGROUND and are counted. -/
def execScanoutLine (p : Nat) (got : Nat) (s : State) : Host.Outcome State Fault Refusal :=
  onDev (Instr.scanoutLine p got).wf (fun c => inRun (scanoutLine c p got)) s

/-- SIGNATURE_COMPARE (R319): At the end of a region's last line its CRC is stored and compared; a mismatch may enter safe mode. -/
def execSignatureCompare (n : Nat) (s : State) : Host.Outcome State Fault Refusal :=
  onDev (Instr.signatureCompare n).wf (fun c => inRun (signatureCompare c n)) s

/-- COMP_SAFE_EXIT (R321): A write of SAFE_EXIT clears SAFE_SIG at the next latch. -/
def execCompSafeExit (p : Nat) (v : Nat) (s : State) : Host.Outcome State Fault Refusal :=
  onDev (Instr.compSafeExit p v).wf (fun _ => hostReg (0xC0004 + 0x100 * p) (compSafeExit p v)) s

/-- COMP_PIPE_CLEAR (R325): A write of CLR zeroes the pipe's counters. -/
def execCompPipeClear (p : Nat) (v : Nat) (s : State) : Host.Outcome State Fault Refusal :=
  onDev (Instr.compPipeClear p v).wf (fun _ => hostReg (0xC000C + 0x100 * p) (compPipeClear p v)) s

/-- COMP_DSI_CMD (R324): GO queues a DCS packet for the next vertical blanking. -/
def execCompDsiCmd (v : Nat) (s : State) : Host.Outcome State Fault Refusal :=
  onDev (Instr.compDsiCmd v).wf (fun _ => hostReg 0xC0500 (compDsiCmd v)) s

/-- DSI_PACKET_SENT (R324): The DCS packet is sent in low-power mode and BUSY clears. -/
def execDsiPacketSent (s : State) : Host.Outcome State Fault Refusal :=
  onDev (Instr.dsiPacketSent).wf (fun c => inRun (dsiPacketSent c)) s

/-- LINK_RETRAIN (R324): A pipe whose link is down retrains every 100 ms. -/
def execLinkRetrain (p : Nat) (up : Bool) (s : State) : Host.Outcome State Fault Refusal :=
  onDev (Instr.linkRetrain p up).wf (fun c => inRun (linkRetrain c p up)) s

/-- EDP_HPD (R523): A filtered hot-plug or interrupt pulse on EDP_HPD starts eDP hot-plug handling. -/
def execEdpHpd (kind : Nat) (up : Bool) (s : State) : Host.Outcome State Fault Refusal :=
  onDev (Instr.edpHpd kind up).wf (fun c => inRun (edpHpd c kind up)) s

end Sys2Proof.Machine
end

