-- ==== Sys2Proof/Machine/ExecHost.lean ====
section
/-! DEFINITION. Meanings of the commands: host accesses, doorbells, submission, references and fences. -/

namespace Sys2Proof.Machine

/-- BAR2_READ (R328): A host read through BAR 2 returns store data, poisoned when the sector is poisoned. -/
def execBar2Read (off : Nat) (len : Nat) (s : State) : Host.Outcome State Fault Refusal :=
  onDev (Instr.bar2Read off len).wf (fun c => bar2Read c off len) s

/-- BAR2_WRITE (R328): A host write through BAR 2 writes device memory in arrival order. -/
def execBar2Write (off : Nat) (data : List Byte) (poison : Bool) (s : State) : Host.Outcome State Fault Refusal :=
  onDev (Instr.bar2Write off data poison).wf (fun c => bar2Write c off data poison) s

/-- REGISTER_WRITE (R9): A write to any BAR 0 register with no row of its own sets its RW fields and clears its W1C bits. -/
def execRegisterWrite (off : Nat) (data : List Byte) (s : State) : Host.Outcome State Fault Refusal :=
  onDev (Instr.registerWrite off data).wf (fun c => registerWrite c off data) s

/-- PAIR_LO_READ (R13): A 32-bit read of the _LO register of a 64-bit pair latches the whole value, so that the next _HI read returns the latched
upper half. -/
def execPairLoRead (b : BarRead) (s : State) : Host.Outcome State Fault Refusal :=
  onDev (Instr.pairLoRead b).wf (fun c => pairLoRead c b.off b.len) s

/-- DB_WPTR_WRITE (R338): A doorbell write is checked and accepted into the coalescing batch, or ignored and counted. -/
def execDbWptrWrite (ring : Nat) (v : Nat) (s : State) : Host.Outcome State Fault Refusal :=
  onDev (Instr.dbWptrWrite ring v).wf (fun c => hostWptr c ring v) s

/-- DB_CQ_RPTR_WRITE (R338): The host reports completion records consumed. -/
def execDbCqRptrWrite (ring : Nat) (v : Nat) (s : State) : Host.Outcome State Fault Refusal :=
  onDev (Instr.dbCqRptrWrite ring v).wf (fun _ => hostCqRptr ring v) s

/-- DOORBELL_BATCH_CLOSE (R340): A batch closes after COALESCE_K doorbells or COALESCE_US; pending bits are set and preloads start. -/
def execDoorbellBatchClose (s : State) : Host.Outcome State Fault Refusal :=
  onDev (Instr.doorbellBatchClose).wf (fun c => live (dbBatchClose c)) s

/-- RING_ENTRY_FETCH (R346): The fetcher reads a ring entry, takes its references and evaluates its waits. -/
def execRingEntryFetch (ring : Nat) (s : State) : Host.Outcome State Fault Refusal :=
  onDev (Instr.ringEntryFetch ring).wf (fun c => inRun (ringFetch c ring)) s

/-- KQ_ENTRY_FETCH (R335): The FE fetches a kernel-queue entry and routes it to a ring queue or runs it as MGMT. -/
def execKqEntryFetch (s : State) : Host.Outcome State Fault Refusal :=
  onDev (Instr.kqEntryFetch).wf (fun c => inRun (kqFetch c)) s

/-- FE_KQ_WPTR_WRITE (R338): The host advances the kernel queue's write index. -/
def execFeKqWptrWrite (v : Nat) (s : State) : Host.Outcome State Fault Refusal :=
  onDev (Instr.feKqWptrWrite v).wf (fun _ => hostKqWptr v) s

/-- FE_KQ_CQ_RPTR_WRITE (R338): The host reports KQ completion records consumed. -/
def execFeKqCqRptrWrite (v : Nat) (s : State) : Host.Outcome State Fault Refusal :=
  onDev (Instr.feKqCqRptrWrite v).wf (fun _ => hostReg 0x20030 (kqCqRptrWrite v)) s

/-- FE_KQ_ENABLE (R358): Setting ENABLE resets the KQ indices, starts fetching and releases waiting KQ records. -/
def execFeKqEnable (v : Nat) (s : State) : Host.Outcome State Fault Refusal :=
  onDev (Instr.feKqEnable v).wf (fun _ => hostReg 0x20000 (kqEnableWrite v)) s

/-- COMMAND_DISPATCH (R346): A ready command whose lane has room is posted as a token, or completes DEPENDENCY_FAILED on an error fence. -/
def execCommandDispatch (ring : Nat) (s : State) : Host.Outcome State Fault Refusal :=
  onDev (Instr.commandDispatch ring).wf (fun c => inRun (commandDispatch c ring)) s

/-- COMMAND_COMPLETE (R346): An engine's completion token arrives; the signal is applied, the record is written and the references are dropped. -/
def execCommandComplete (ring : Nat) (index : Nat) (s : State) : Host.Outcome State Fault Refusal :=
  onDev (Instr.commandComplete ring index).wf (fun c => inRun (commandComplete c ring index)) s

/-- CQ_RECORD_DRAIN (R349): A completion record waiting for a full queue is written once the queue has room. -/
def execCqRecordDrain (queue : Nat) (s : State) : Host.Outcome State Fault Refusal :=
  onDev (Instr.cqRecordDrain queue).wf (fun c => live (cqRecordDrain c queue)) s

/-- FE_REF_ADD (R353): A host write to FE_REF_OP with ADD raises an object's reference count. -/
def execFeRefAdd (obj : Nat) (n : Nat) (s : State) : Host.Outcome State Fault Refusal :=
  onDev (Instr.feRefAdd obj n).wf (fun _ => hostReg 0x20050 (feRefAdd obj n)) s

/-- FE_REF_DROP (R353): A host write to FE_REF_OP with DROP lowers an object's reference count. -/
def execFeRefDrop (obj : Nat) (n : Nat) (s : State) : Host.Outcome State Fault Refusal :=
  onDev (Instr.feRefDrop obj n).wf (fun _ => hostReg 0x20050 (feRefDrop obj n)) s

/-- FE_FENCE_SIG (R350): A 64-bit host write applies a normal signal to the selected fence. -/
def execFeFenceSig (v : Nat) (s : State) : Host.Outcome State Fault Refusal :=
  onDev (Instr.feFenceSig v).wf (fun _ => hostReg 0x20068 (feFenceSig v)) s

/-- FE_COUNT_CLEAR (R358): A write of CLR zeroes the FE counters and every ring's IGNORED. -/
def execFeCountClear (v : Nat) (s : State) : Host.Outcome State Fault Refusal :=
  onDev (Instr.feCountClear v).wf (fun _ => hostReg 0x20078 (feCountClear v)) s

/-- FE_NOP (R343): The FE command NOP completes at once. -/
def execFeNop (ring : Nat) (s : State) : Host.Outcome State Fault Refusal :=
  onDev (Instr.feNop ring).wf (fun c => inRun (feNop c ring)) s

/-- CTX_CREATE (R396): The MGMT command CTX_CREATE makes a FREE context ACTIVE with its translation root. -/
def execCtxCreate (s : State) : Host.Outcome State Fault Refusal :=
  onDev (Instr.ctxCreate).wf (fun c => inRun (ctxCreate c)) s

/-- CTX_KILL (R357): The MGMT command CTX_KILL runs the loss sequence on an active context with cause KILLED. -/
def execCtxKill (s : State) : Host.Outcome State Fault Refusal :=
  onDev (Instr.ctxKill).wf (fun c => inRun (ctxKill c)) s

/-- CTX_RELEASE (R333): The MGMT command CTX_RELEASE returns a context to FREE once its commands have completed. -/
def execCtxRelease (s : State) : Host.Outcome State Fault Refusal :=
  onDev (Instr.ctxRelease).wf (fun c => inRun (ctxRelease c)) s

/-- RING_INIT (R357): The MGMT command RING_INIT binds a ring to a context with its bases, sizes and zero indices. -/
def execRingInit (s : State) : Host.Outcome State Fault Refusal :=
  onDev (Instr.ringInit).wf (fun c => inRun (ringInit c)) s

/-- RING_UNBIND (R357): The MGMT command RING_UNBIND stops fetching and completes once the fetched commands and their records are done. -/
def execRingUnbind (s : State) : Host.Outcome State Fault Refusal :=
  onDev (Instr.ringUnbind).wf (fun c => inRun (ringUnbind c)) s

/-- FENCE_INIT (R357): The MGMT command FENCE_INIT sets a fence's value and error flag directly. -/
def execFenceInit (s : State) : Host.Outcome State Fault Refusal :=
  onDev (Instr.fenceInit).wf (fun c => inRun (fenceInit c)) s

/-- INVALIDATE (R397): The MGMT command INVALIDATE removes cached translations of a range at one instant. -/
def execInvalidate (s : State) : Host.Outcome State Fault Refusal :=
  onDev (Instr.invalidate).wf (fun c => inRun (invalidate c)) s

/-- INVALIDATE_COMPLETE (R397): The requests translated before the invalidation have completed, and INVALIDATE completes and signals. -/
def execInvalidateComplete (s : State) : Host.Outcome State Fault Refusal :=
  onDev (Instr.invalidateComplete).wf (fun c => inRun (invalidateComplete c)) s

/-- CTX_SET_ROOT (R396): The MGMT command CTX_SET_ROOT sets a new root and invalidates the whole context. -/
def execCtxSetRoot (s : State) : Host.Outcome State Fault Refusal :=
  onDev (Instr.ctxSetRoot).wf (fun c => inRun (ctxSetRoot c)) s

end Sys2Proof.Machine
end

