-- ==== Sys2Proof/Machine/ExecIntegrity.lean ====
section
/-! DEFINITION. Meanings of the commands: integrity, the error logs and the interrupt controller. -/

namespace Sys2Proof.Machine

/-- SCRUB_SECTOR (R426): The patrol scrub reads the next DRAM sector and corrects or poisons it. -/
def execScrubSector (q : Nat) (e : SectorErr) (s : State) : Host.Outcome State Fault Refusal :=
  onDev (Instr.scrubSector q e).wf (fun _ => inRun (scrubSector q e)) s

/-- CWS_SCRUB (R434): The background scrub votes every control word once in each 10 ms. -/
def execCwsScrub (fixes : Nat) (split : Bool) (s : State) : Host.Outcome State Fault Refusal :=
  onDev (Instr.cwsScrub fixes split).wf (fun c => live (cwsScrub c fixes split)) s

/-- TOKEN_PARITY_ERROR (R435): A token parity mismatch at a receiver puts the device in the fault state. -/
def execTokenParityError (s : State) : Host.Outcome State Fault Refusal :=
  onDev (Instr.tokenParityError).wf (fun c => live (tokenParity c)) s

/-- CREDIT_PARITY_ERROR (R435): A credit parity mismatch at a receiver puts the device in the fault state. -/
def execCreditParityError (s : State) : Host.Outcome State Fault Refusal :=
  onDev (Instr.creditParityError).wf (fun c => live (creditParity c)) s

/-- SPINE_UE (R437): An uncorrectable error in spine control memory puts the device in the fault state. -/
def execSpineUe (kind : Nat) (cls : Nat) (i : Nat) (loc : Nat) (syn : Nat) (s : State) : Host.Outcome State Fault Refusal :=
  onDev (Instr.spineUe kind cls i loc syn).wf (fun c => live (spineUe c kind cls i loc syn)) s

/-- OX_CORE_FAULT (R30): A fault of the active spine core hands control to the standby, or with no standby enters OX_PAIR. -/
def execOxCoreFault (core : Nat) (s : State) : Host.Outcome State Fault Refusal :=
  onDev (Instr.oxCoreFault core).wf (fun c => live (oxCoreFault c core)) s

/-- ERR_LOG_FREE (R427): Writing 1 to an entry's VALID frees the log entry and zeroes it. -/
def execErrLogFree (k : Nat) (e : Nat) (v : Nat) (s : State) : Host.Outcome State Fault Refusal :=
  onDev (Instr.errLogFree k e v).wf (fun _ => hostReg (errAt k (0x100 + 0x10 * e)) (errLogFree k e v)) s

/-- ERR_CLEAR (R442): A write of CLR zeroes the error counters. -/
def execErrClear (k : Nat) (v : Nat) (s : State) : Host.Outcome State Fault Refusal :=
  onDev (Instr.errClear k v).wf (fun _ => hostReg (errAt k 0x14) (errClear k v)) s

/-- ICU_DELIVERY (R448): The ICU pushes the highest deliverable source onto an accepting target's stack and sends MSI-X or asserts the Ox line. -/
def execIcuDelivery (s : State) : Host.Outcome State Fault Refusal :=
  onDev (Instr.icuDelivery).wf (fun c => live (icuDelivery c)) s

/-- HOLDOFF_EXPIRY (R452): A group's hold-off runs out and its sources become deliverable. -/
def execHoldoffExpiry (g : Nat) (s : State) : Host.Outcome State Fault Refusal :=
  onDev (Instr.holdoffExpiry g).wf (fun c => live (holdoffExpiry c g)) s

/-- ICU_EOI (R450): An EOI write pops a matching top entry, or sets FAULT and raises PRI_STACK_FAULT. -/
def execIcuEoi (t : Nat) (src : Nat) (ox : Bool) (s : State) : Host.Outcome State Fault Refusal :=
  onDev (Instr.icuEoi t src ox).wf (fun _ => icuAccess ox (0x12004 + 0x20 * t) (icuEoi t src ox)) s

/-- ICU_TARGET_RESET (R451): A RESET write empties a target's stack, returns its counts and clears FAULT. -/
def execIcuTargetReset (t : Nat) (v : Nat) (ox : Bool) (s : State) : Host.Outcome State Fault Refusal :=
  onDev (Instr.icuTargetReset t v ox).wf (fun _ => icuAccess ox (0x1200C + 0x20 * t) (icuTargetReset t v ox)) s

/-- IC_SW_RAISE (R457): A write counts one event for software source 480 to 511. -/
def execIcSwRaise (v : Nat) (s : State) : Host.Outcome State Fault Refusal :=
  onDev (Instr.icSwRaise v).wf (fun _ => hostReg 0x1000C (icSwRaise v)) s

/-- IC_STATUS_CLEAR (R458): A write of CLR zeroes STACK_FAULTS. -/
def execIcStatusClear (v : Nat) (s : State) : Host.Outcome State Fault Refusal :=
  onDev (Instr.icStatusClear v).wf (fun _ => hostReg 0x10008 (icStatusClear v)) s

/-- MSIX_TABLE_WRITE (R447): A host write to the BAR 4 MSI-X table changes a vector's Mask bit, which changes whether that target is enabled, clears
the ICU marks and updates the pending-bit array. -/
def execMsixTableWrite (off : Nat) (v : Nat) (s : State) : Host.Outcome State Fault Refusal :=
  onDev (Instr.msixTableWrite off v).wf (fun _ => fun d => msixTableWrite off v (hostTouch d)) s

end Sys2Proof.Machine
end

