-- ==== Sys2Proof/Machine/ExecMemory.lean ====
section
/-! DEFINITION. Meanings of the commands: memory, exchange, barrier, matrix, interlock, ray and control instructions of the shader cores; their fault record. -/

namespace Sys2Proof.Machine

/-- CLD (R272): Load from the central store at a virtual address. -/
def execCld (q : Nat) (n : Nat) (gi : Nat) (s : State) : Host.Outcome State Fault Refusal :=
  onDev (Instr.cld q n gi).wf (fun c => inRun (opCld c q n gi)) s

/-- CST (R272): Store to the central store at a virtual address. -/
def execCst (q : Nat) (n : Nat) (gi : Nat) (s : State) : Host.Outcome State Fault Refusal :=
  onDev (Instr.cst q n gi).wf (fun c => inRun (opCst c q n gi)) s

/-- LLD (R272): Load from the block's local memory. -/
def execLld (q : Nat) (n : Nat) (gi : Nat) (s : State) : Host.Outcome State Fault Refusal :=
  onDev (Instr.lld q n gi).wf (fun c => inRun (opLld c q n gi)) s

/-- LST (R272): Store to the block's local memory. -/
def execLst (q : Nat) (n : Nat) (gi : Nat) (s : State) : Host.Outcome State Fault Refusal :=
  onDev (Instr.lst q n gi).wf (fun c => inRun (opLst c q n gi)) s

/-- CATOM (R274): Atomic read-modify-write in the line's home slice. -/
def execCatom (q : Nat) (n : Nat) (gi : Nat) (s : State) : Host.Outcome State Fault Refusal :=
  onDev (Instr.catom q n gi).wf (fun c => inRun (opCatom c q n gi)) s

/-- LATOM (R274): Atomic read-modify-write in local memory. -/
def execLatom (q : Nat) (n : Nat) (gi : Nat) (s : State) : Host.Outcome State Fault Refusal :=
  onDev (Instr.latom q n gi).wf (fun c => inRun (opLatom c q n gi)) s

/-- FENCE (R273): Wait until the thread's earlier store accesses are accepted. -/
def execFence (q : Nat) (n : Nat) (gi : Nat) (s : State) : Host.Outcome State Fault Refusal :=
  onDev (Instr.fence q n gi).wf (fun c => inRun (opFence c q n gi)) s

/-- FENCE_RELEASE (R273): All earlier store accesses of a fenced thread are accepted, and its later accesses issue. -/
def execFenceRelease (q : Nat) (n : Nat) (gi : Nat) (s : State) : Host.Outcome State Fault Refusal :=
  onDev (Instr.fenceRelease q n gi).wf (fun _ => inRun (fenceRelease q n gi)) s

/-- XLANE (R276): Lane exchange within segments of the issuing set. -/
def execXlane (q : Nat) (n : Nat) (gi : Nat) (s : State) : Host.Outcome State Fault Refusal :=
  onDev (Instr.xlane q n gi).wf (fun c => inRun (opXlane c q n gi)) s

/-- PVOTE (R276): Vote ALL, ANY or MASK over a predicate. -/
def execPvote (q : Nat) (n : Nat) (gi : Nat) (s : State) : Host.Outcome State Fault Refusal :=
  onDev (Instr.pvote q n gi).wf (fun c => inRun (opPvote c q n gi)) s

/-- EQMASK (R276): Mask of the lanes with an equal value. -/
def execEqmask (q : Nat) (n : Nat) (gi : Nat) (s : State) : Host.Outcome State Fault Refusal :=
  onDev (Instr.eqmask q n gi).wf (fun c => inRun (opEqmask c q n gi)) s

/-- SYNC_G (R246): Wait at the group barrier identified by the instruction's address. -/
def execSyncG (q : Nat) (n : Nat) (gi : Nat) (s : State) : Host.Outcome State Fault Refusal :=
  onDev (Instr.syncG q n gi).wf (fun c => inRun (opSyncG c q n gi)) s

/-- SYNC_B (R246): Wait at block barrier 0 to 3. -/
def execSyncB (q : Nat) (n : Nat) (gi : Nat) (s : State) : Host.Outcome State Fault Refusal :=
  onDev (Instr.syncB q n gi).wf (fun c => inRun (opSyncB c q n gi)) s

/-- MMA_L8 (R278): Group-wide L8 matrix multiply-accumulate. -/
def execMmaL8 (q : Nat) (n : Nat) (gi : Nat) (s : State) : Host.Outcome State Fault Refusal :=
  onDev (Instr.mmaL8 q n gi).wf (fun c => inRun (opMmaL8 c q n gi)) s

/-- MMA_L4L8 (R278): Group-wide L4 x L8 matrix multiply-accumulate. -/
def execMmaL4l8 (q : Nat) (n : Nat) (gi : Nat) (s : State) : Host.Outcome State Fault Refusal :=
  onDev (Instr.mmaL4l8 q n gi).wf (fun c => inRun (opMmaL4l8 c q n gi)) s

/-- MMA_L16 (R278): Group-wide L16 matrix multiply-accumulate. -/
def execMmaL16 (q : Nat) (n : Nat) (gi : Nat) (s : State) : Host.Outcome State Fault Refusal :=
  onDev (Instr.mmaL16 q n gi).wf (fun c => inRun (opMmaL16 c q n gi)) s

/-- PXLOCK (R296): A fragment thread waits until earlier primitives at its pixel have unlocked. -/
def execPxlock (q : Nat) (n : Nat) (gi : Nat) (s : State) : Host.Outcome State Fault Refusal :=
  onDev (Instr.pxlock q n gi).wf (fun c => inRun (opPxlock c q n gi)) s

/-- PXLOCK_GRANT (R296): The last earlier fragment at the pixel unlocks or exits, and the waiting thread continues. -/
def execPxlockGrant (q : Nat) (n : Nat) (gi : Nat) (lane : Nat) (s : State) : Host.Outcome State Fault Refusal :=
  onDev (Instr.pxlockGrant q n gi lane).wf (fun _ => inRun (pxlockGrant q n gi lane)) s

/-- PXUNLOCK (R296): A fragment thread leaves its locked section. -/
def execPxunlock (q : Nat) (n : Nat) (gi : Nat) (s : State) : Host.Outcome State Fault Refusal :=
  onDev (Instr.pxunlock q n gi).wf (fun c => inRun (opPxunlock c q n gi)) s

/-- TRACE (R302): Send a ray query to the RTU. -/
def execTrace (q : Nat) (n : Nat) (gi : Nat) (s : State) : Host.Outcome State Fault Refusal :=
  onDev (Instr.trace q n gi).wf (fun c => inRun (opTrace c q n gi)) s

/-- TRACE_ANSWER (R303): The RTU ends traversal and writes the hit, miss or failure answer. -/
def execTraceAnswer (q : Nat) (n : Nat) (gi : Nat) (lane : Nat) (s : State) : Host.Outcome State Fault Refusal :=
  onDev (Instr.traceAnswer q n gi lane).wf (fun c => inRun (traceAnswer c q n gi lane)) s

/-- BRA (R280): Relative branch. -/
def execBra (q : Nat) (n : Nat) (gi : Nat) (s : State) : Host.Outcome State Fault Refusal :=
  onDev (Instr.bra q n gi).wf (fun c => inRun (opBra c q n gi)) s

/-- JMPR (R280): Jump through a register pair. -/
def execJmpr (q : Nat) (n : Nat) (gi : Nat) (s : State) : Host.Outcome State Fault Refusal :=
  onDev (Instr.jmpr q n gi).wf (fun c => inRun (opJmpr c q n gi)) s

/-- CALL (R280): Relative call that writes the return address. -/
def execCall (q : Nat) (n : Nat) (gi : Nat) (s : State) : Host.Outcome State Fault Refusal :=
  onDev (Instr.call q n gi).wf (fun c => inRun (opCall c q n gi)) s

/-- EXIT (R280): The thread exits and counts as arrived at every barrier. -/
def execExit (q : Nat) (n : Nat) (gi : Nat) (s : State) : Host.Outcome State Fault Refusal :=
  onDev (Instr.exit q n gi).wf (fun c => inRun (opExit c q n gi)) s

/-- SC_FAULT_CLEAR (R258): Writing 1 to VALID clears the core's fault record. -/
def execScFaultClear (q : Nat) (n : Nat) (v : Nat) (s : State) : Host.Outcome State Fault Refusal :=
  onDev (Instr.scFaultClear q n v).wf (fun _ => hostReg (scAt q n 0x10) (scFaultClear q n v)) s

end Sys2Proof.Machine
end

