-- ==== Sys2Proof/Machine/ExecMmu.lean ====
section
/-! DEFINITION. Meanings of the commands: timeouts, translation faults and reads that left the device. -/

namespace Sys2Proof.Machine

/-- COMMAND_TIMEOUT (R372): A command reaches its ring's TIMEOUT; its units are withdrawn, it completes TIMEOUT and its context is lost. -/
def execCommandTimeout (ring : Nat) (index : Nat) (s : State) : Host.Outcome State Fault Refusal :=
  onDev (Instr.commandTimeout ring index).wf (fun c => inRun (commandTimeoutSc c ring index)) s

/-- WAIT_TIMEOUT (R373): An undispatched command reaches WAIT_TIMEOUT_US, completes WAIT_TIMEOUT and loses its context. -/
def execWaitTimeout (ring : Nat) (s : State) : Host.Outcome State Fault Refusal :=
  onDev (Instr.waitTimeout ring).wf (fun c => inRun (waitTimeoutSc c ring)) s

/-- DRAIN_LIMIT_EXPIRY (R372): An instance that has not drained within 50 us is reset. -/
def execDrainLimitExpiry (cls : Nat) (q : Nat) (i : Nat) (s : State) : Host.Outcome State Fault Refusal :=
  onDev (Instr.drainLimitExpiry cls q i).wf (fun c => inRun (drainLimitSc c cls q i)) s

/-- INSTANCE_RESET_DONE (R372): An instance reset ends and the instance rejoins its allowed sets. -/
def execInstanceResetDone (cls : Nat) (q : Nat) (i : Nat) (s : State) : Host.Outcome State Fault Refusal :=
  onDev (Instr.instanceResetDone cls q i).wf (fun c => inRun (resetDone c cls q i)) s

/-- FE_SCHED_CLEAR (R377): A write of CLR zeroes every FE_SCHED_r_COUNT. -/
def execFeSchedClear (v : Nat) (s : State) : Host.Outcome State Fault Refusal :=
  onDev (Instr.feSchedClear v).wf (fun _ => hostReg 0x20800 (feSchedClear v)) s

/-- PTW_WALK (R385): A table walk ends with a translation, or with a fault of the first failing kind. -/
def execPtwWalk (cls : Nat) (q : Nat) (i : Nat) (ctx : Nat) (va : Nat) (access : Nat) (s : State) : Host.Outcome State Fault Refusal :=
  onDev (Instr.ptwWalk cls q i ctx va access).wf (fun c => inRun (ptwWalk c cls q i ctx va access)) s

/-- FAULT_BATCH_HOLDOFF (R391): HOLDOFF_US after its first record, the open batch closes. -/
def execFaultBatchHoldoff (s : State) : Host.Outcome State Fault Refusal :=
  onDev (Instr.faultBatchHoldoff).wf (fun c => live (batchHoldoff c)) s

/-- FAULT_BATCH_WRITE (R393): A closed batch's records are written once the fault ring has room; BATCH_CLOSED advances and the interrupt is raised. -/
def execFaultBatchWrite (s : State) : Host.Outcome State Fault Refusal :=
  onDev (Instr.faultBatchWrite).wf (fun c => live (batchWrite c)) s

/-- MMU_REPLAY (R392): A write to MMU_REPLAY makes the requests stalled on batch b or earlier walk again. -/
def execMmuReplay (b : Nat) (s : State) : Host.Outcome State Fault Refusal :=
  onDev (Instr.mmuReplay b).wf (fun c => hostReg 0x50020 (mmuReplay c b)) s

/-- MMU_FAULT_RPTR_WRITE (R393): The host reports fault records consumed. -/
def execMmuFaultRptrWrite (v : Nat) (s : State) : Host.Outcome State Fault Refusal :=
  onDev (Instr.mmuFaultRptrWrite v).wf (fun _ => hostReg 0x50014 (faultRptr v)) s

/-- MMU_FAULT_ENABLE (R399): Setting ENABLE zeroes the fault ring indices and releases waiting batches. -/
def execMmuFaultEnable (v : Nat) (s : State) : Host.Outcome State Fault Refusal :=
  onDev (Instr.mmuFaultEnable v).wf (fun c => hostReg 0x50000 (faultEnable c v)) s

/-- MMU_BATCH_CFG_WRITE (R391): A write sets COUNT and HOLDOFF_US, and closes the open batch at once when COUNT is lowered to its size. -/
def execMmuBatchCfgWrite (v : Nat) (s : State) : Host.Outcome State Fault Refusal :=
  onDev (Instr.mmuBatchCfgWrite v).wf (fun c => hostReg 0x50018 (batchCfg c v)) s

/-- MMU_COUNT_CLEAR (R399): A write of CLR zeroes MMU_COUNT. -/
def execMmuCountClear (v : Nat) (s : State) : Host.Outcome State Fault Refusal :=
  onDev (Instr.mmuCountClear v).wf (fun _ => hostReg 0x50034 (mmuCountClear v)) s

/-- HOST_READ_COMPLETION (R381): A PCI Express read completion returns data, delivered poisoned when it is poisoned or carries an error. -/
def execHostReadCompletion (data : List Byte) (bad : Bool) (s : State) : Host.Outcome State Fault Refusal :=
  onDev (Instr.hostReadCompletion data bad).wf (fun c => live (hostReadCompletion c data bad)) s

/-- COMPLETION_TIMEOUT (R381): A host read times out, delivers poison and increments HOST_CPL_ERR. -/
def execCompletionTimeout (s : State) : Host.Outcome State Fault Refusal :=
  onDev (Instr.completionTimeout).wf (fun c => live (completionTimeout c)) s

end Sys2Proof.Machine
end

