-- ==== Sys2Proof/Machine/ExecPhase.lean ====
section
/-! DEFINITION. Meanings of the commands: phase references, deadline monitors, the maintenance window. -/

namespace Sys2Proof.Machine

/-- PHIN_LEVEL_CHANGE (R64): A synchronised PHIN pin changes level, which starts the glitch filter's count. -/
def execPhinLevelChange (pin : Nat) (level : Bool) (s : State) : Host.Outcome State Fault Refusal :=
  onDev (Instr.phinLevelChange pin level).wf (fun c => live (phinLevel c pin level)) s

/-- PHIN_EDGE_ACCEPTED (R64): A level that has held for W TBCLK samples is accepted as an edge, timed back to its first sample. -/
def execPhinEdgeAccepted (pin : Nat) (s : State) : Host.Outcome State Fault Refusal :=
  onDev (Instr.phinEdgeAccepted pin).wf (fun c => live (phinEdge c pin)) s

/-- ACQUIRE_TIMEOUT (R73): No boundary arrives for TIMEOUT_K x PERIOD_MAX_NS in ACQUIRING; timing restarts and TIMEOUT is incremented. -/
def execAcquireTimeout (n : Nat) (s : State) : Host.Outcome State Fault Refusal :=
  onDev (Instr.acquireTimeout n).wf (fun c => live (acquireTimeout c n)) s

/-- LOCK_TIMEOUT (R73): No used boundary arrives for TIMEOUT_K x PERIOD_TICKS in LOCKED; the reference moves to COASTING, or to LOST. -/
def execLockTimeout (n : Nat) (s : State) : Host.Outcome State Fault Refusal :=
  onDev (Instr.lockTimeout n).wf (fun c => live (lockTimeout c n)) s

/-- INTERPOLATED_TURN (R70): The angle accumulator carries into the turn count at an interpolated turn boundary. -/
def execInterpolatedTurn (n : Nat) (s : State) : Host.Outcome State Fault Refusal :=
  onDev (Instr.interpolatedTurn n).wf (fun c => live (interpolatedTurn c n)) s

/-- DISPLAY_LINE_START (R63): A display pipe starts a line; its reference aligns to the exact line angle, and locks at the first frame after the pipe
is enabled. -/
def execDisplayLineStart (p : Nat) (line : Nat) (s : State) : Host.Outcome State Fault Refusal :=
  onDev (Instr.displayLineStart p line).wf (fun c => inRun (displayLine c p line)) s

/-- START_COMPARATOR_FIRE (R78): A ring's start comparator finds its target reached and dispatches the waiting command, with START_LATE when the
target was already past. -/
def execStartComparatorFire (ring : Nat) (s : State) : Host.Outcome State Fault Refusal :=
  onDev (Instr.startComparatorFire ring).wf (fun c => live (comparatorFire c ring)) s

/-- DLM_CHECK (R229): A deadline monitor's check event at CHECK_ANGLE evaluates NO_CHAIN, PREDICTED and SHED and may release the fall-back chain. -/
def execDlmCheck (r : Nat) (s : State) : Host.Outcome State Fault Refusal :=
  onDev (Instr.dlmCheck r).wf (fun c => inRun (dlmCheck c r)) s

/-- CYCLE_MARK (R228): The FE command CYCLE_MARK delimits the START or END of a chain for a deadline monitor. -/
def execCycleMark (ring : Nat) (s : State) : Host.Outcome State Fault Refusal :=
  onDev (Instr.cycleMark ring).wf (fun c => live (cycleMark c ring)) s

/-- DLM_CLEAR (R233): A write of CLR to DLM_CLEAR_r zeroes the monitor's counters. -/
def execDlmClear (r : Nat) (v : Nat) (s : State) : Host.Outcome State Fault Refusal :=
  onDev (Instr.dlmClear r v).wf (fun _ => hostReg (0x3040C + 0x20 * r) (dlmClear r v)) s

/-- PHE_CLEAR (R87): A write to PHE_CLEAR zeroes PHE_ERR_n and PHE_LOSS_n of the selected references. -/
def execPheClear (v : Nat) (s : State) : Host.Outcome State Fault Refusal :=
  onDev (Instr.pheClear v).wf (fun _ => hostReg 0x30020 (pheClear v)) s

/-- RETRAIN_START (R85): A quarter that is due starts LP5X periodic retraining when it fits in the open maintenance window. -/
def execRetrainStart (q : Nat) (s : State) : Host.Outcome State Fault Refusal :=
  onDev (Instr.retrainStart q).wf (fun c => inRun (retrainStart c q)) s

/-- RETRAIN_FORCED (R85): A quarter not retrained within 48 ms retrains at once, and MAINT_FORCED is incremented. -/
def execRetrainForced (q : Nat) (s : State) : Host.Outcome State Fault Refusal :=
  onDev (Instr.retrainForced q).wf (fun c => inRun (retrainForced c q)) s

/-- RETRAIN_END (R85): A 1.5 us retraining ends and the quarter's DRAM serves requests again. -/
def execRetrainEnd (q : Nat) (s : State) : Host.Outcome State Fault Refusal :=
  onDev (Instr.retrainEnd q).wf (fun c => live (retrainEnd c q)) s

end Sys2Proof.Machine
end

