-- ==== Sys2Proof/Machine/ExecPower.lean ====
section
/-! DEFINITION. Meanings of the commands: device states, clocks, rails, temperatures and supply sag. -/

namespace Sys2Proof.Machine

/-- PWR_REQ_REST (R463): A write of REST to PWR_REQ is checked and, if accepted, starts entry into REST. -/
def execPwrReqRest (s : State) : Host.Outcome State Fault Refusal :=
  onDev (Instr.pwrReqRest).wf (fun _ => hostReg 0x40004 (pwrReq 1)) s

/-- PWR_REQ_HOLD (R463): A write of HOLD to PWR_REQ is checked and, if accepted, cleans the ways and starts entry into HOLD. -/
def execPwrReqHold (s : State) : Host.Outcome State Fault Refusal :=
  onDev (Instr.pwrReqHold).wf (fun _ => hostReg 0x40004 (pwrReq 2)) s

/-- POWER_ENTRY_DONE (R463): Entry into REST or HOLD ends with the domains off and the link in L1 or L1.2. -/
def execPowerEntryDone (s : State) : Host.Outcome State Fault Refusal :=
  onDev (Instr.powerEntryDone).wf (fun c => live (powerEntryDone c)) s

/-- WAKE_EVENT (R465): A watched source, a doorbell or BAR access, or a link exit starts a wake from REST or HOLD. -/
def execWakeEvent (src : Option Nat) (s : State) : Host.Outcome State Fault Refusal :=
  onDev (Instr.wakeEvent src).wf (fun c => wakeEvent c src) s

/-- WAKE_COMPLETE (R466): Restore ends, PWR_STATE reads RUN and the FE resumes fetching. -/
def execWakeComplete (keepBad : Bool) (links : Nat) (s : State) : Host.Outcome State Fault Refusal :=
  onDev (Instr.wakeComplete keepBad links).wf (fun c => wakeComplete c keepBad links) s

/-- IDLEQ_ENTRY (R460): A quarter idle for 10 us with IDLEQ_EN set stops its engine clocks. -/
def execIdleqEntry (q : Nat) (s : State) : Host.Outcome State Fault Refusal :=
  onDev (Instr.idleqEntry q).wf (fun c => inRun (idleqEntry c q)) s

/-- GOVERNOR_STEP (R473): Every 100 us the governor estimates package power and steps quarter ACLKs down or up. -/
def execGovernorStep (est : Nat) (s : State) : Host.Outcome State Fault Refusal :=
  onDev (Instr.governorStep est).wf (fun c => inRun (governorStep c est)) s

/-- THROTTLE_DOWN (R474): A hot quarter lowers its ACLK one step every 100 us. -/
def execThrottleDown (q : Nat) (temps : List Int) (s : State) : Host.Outcome State Fault Refusal :=
  onDev (Instr.throttleDown q temps).wf (fun c => live (throttleDown c q temps)) s

/-- THROTTLE_UP (R474): A cooled quarter raises its ACLK one step every 1 ms. -/
def execThrottleUp (q : Nat) (temps : List Int) (s : State) : Host.Outcome State Fault Refusal :=
  onDev (Instr.throttleUp q temps).wf (fun c => live (throttleUp c q temps)) s

/-- THERMAL_SHUTDOWN (R475): A sensor at the shutdown level makes AO switch off every other domain. -/
def execThermalShutdown (temp : Int) (s : State) : Host.Outcome State Fault Refusal :=
  onBoth (Instr.thermalShutdown temp).wf (fun c => thermalShutdown temp c) s

/-- DRAM_OVERTEMP (R530): A DRAM package reporting above 105 C causes the thermal shutdown. -/
def execDramOvertemp (temp : Int) (s : State) : Host.Outcome State Fault Refusal :=
  onBoth (Instr.dramOvertemp temp).wf (fun c => dramOvertemp temp c) s

/-- AVS_REQUEST_DONE (R470): An AVSBus voltage request completes its write, acknowledgement and status poll. -/
def execAvsRequestDone (rail : Nat) (s : State) : Host.Outcome State Fault Refusal :=
  onDev (Instr.avsRequestDone rail).wf (fun _ => live (avsRequestDone rail)) s

/-- AVS_RETRY (R470): An incomplete AVS request is retried after 50 us, and becomes AVS_FAULT after the third retry. -/
def execAvsRetry (rail : Nat) (readback : Option Nat) (s : State) : Host.Outcome State Fault Refusal :=
  onDev (Instr.avsRetry rail readback).wf (fun c => live (avsRetry c rail readback)) s

/-- PWR_WARN_N_CHANGE (R476): A filtered change of PWR_WARN_N activates or deactivates the warning; activation enters S1. -/
def execPwrWarnNChange (level : Bool) (s : State) : Host.Outcome State Fault Refusal :=
  onDev (Instr.pwrWarnNChange level).wf (fun c => warnPin c level) s

/-- DROOP_DETECT (R476): An on-die droop detector fires and holds the warning active for 100 us. -/
def execDroopDetect (s : State) : Host.Outcome State Fault Refusal :=
  onDev (Instr.droopDetect).wf (fun c => droopDetect c) s

/-- DROOP_HOLD_EXPIRY (R476): 100 us after the last droop firing, that cause of the warning ends. -/
def execDroopHoldExpiry (s : State) : Host.Outcome State Fault Refusal :=
  onDev (Instr.droopHoldExpiry).wf (fun c => droopExpiry c) s

/-- SHED_S2_ENTRY (R477): At w = 200 us, stage S2 gates unreserved shader cores, holds TIL and blanks pipe 1. -/
def execShedS2Entry (s : State) : Host.Outcome State Fault Refusal :=
  onDev (Instr.shedS2Entry).wf (fun c => shedS2 c) s

/-- SHED_S3_ENTRY (R477): At w = 1 ms, stage S3 gates unreserved MEs, applies SHED and moves DRAM to 4266 MT/s. -/
def execShedS3Entry (s : State) : Host.Outcome State Fault Refusal :=
  onDev (Instr.shedS3Entry).wf (fun c => shedS3 c) s

/-- SHED_S4_ENTRY (R477): At w = 5 ms, stage S4 cleans and switches off Q1 to Q3 and sets SAFE_SHED. -/
def execShedS4Entry (s : State) : Host.Outcome State Fault Refusal :=
  onDev (Instr.shedS4Entry).wf (fun c => shedS4 c) s

/-- SHED_RECOVERY (R478): After 10 ms, and then each 2 ms, of inactive warning the highest stage is left. -/
def execShedRecovery (s : State) : Host.Outcome State Fault Refusal :=
  onDev (Instr.shedRecovery).wf (fun c => shedRecovery c) s

/-- PWR_KEEP_BASE_WRITE (R464): The first write of a valid keep address starts the copy of microcode into the keep area. -/
def execPwrKeepBaseWrite (v : Nat) (s : State) : Host.Outcome State Fault Refusal :=
  onDev (Instr.pwrKeepBaseWrite v).wf (fun _ => hostReg 0x40014 (keepBaseWrite v)) s

/-- KEEP_COPY_DONE (R464): The keep area copy ends, its CRCs are stored and KEEP_READY is set. -/
def execKeepCopyDone (s : State) : Host.Outcome State Fault Refusal :=
  onDev (Instr.keepCopyDone).wf (fun c => inRun (keepCopyDone c)) s

/-- PWR_COUNT_CLEAR (R480): A write of CLR zeroes PWR_COUNT. -/
def execPwrCountClear (v : Nat) (s : State) : Host.Outcome State Fault Refusal :=
  onDev (Instr.pwrCountClear v).wf (fun _ => hostReg 0x4002C (pwrCountClear v)) s

/-- CLOCK_SWITCH_DONE (R469): A quarter's 2 us clock switch ends, its engines resume their units and its slice serves requests again, with any
following rail lowering then requested. -/
def execClockSwitchDone (q : Nat) (s : State) : Host.Outcome State Fault Refusal :=
  onDev (Instr.clockSwitchDone q).wf (fun c => inRun (clockSwitchDone c q)) s

/-- DRAM_RATE_SWITCH_DONE (R477): A quarter's 4 us switch of its DRAM rate ends, its memory serves requests again, and the next quarter in turn begins
its switch. -/
def execDramRateSwitchDone (q : Nat) (s : State) : Host.Outcome State Fault Refusal :=
  onDev (Instr.dramRateSwitchDone q).wf (fun c => inRun (dramRateDone c q)) s

end Sys2Proof.Machine
end

