-- ==== Sys2Proof/Machine/ExecReset.lean ====
section
/-! DEFINITION. Meanings of the commands: resets, starts and the link. -/

namespace Sys2Proof.Machine

/-- SYS_RST_N_RELEASE (R55): Release of SYS_RST_N begins the timed start sequence: it reads the NVM, authenticates the images, parses the records,
trains DRAM, runs the self-test and sets READY. -/
def execSysRstNRelease (st : StartIn) (s : State) : Host.Outcome State Fault Refusal :=
  onBoth (Instr.sysRstNRelease st).wf (fun c => sysRstRelease st c) s

/-- READY_TIMEOUT (R56): 900 ms after the later release of SYS_RST_N and PERST_N without READY, configuration space opens normally with only GLB
readable. -/
def execReadyTimeout (s : State) : Host.Outcome State Fault Refusal :=
  onDev (Instr.readyTimeout).wf (fun c => readyTimeout c) s

/-- SYS_RST_N_ASSERT (R523): An accepted low on SYS_RST_N resets every domain. -/
def execSysRstNAssert (s : State) : Host.Outcome State Fault Refusal :=
  onBoth (Instr.sysRstNAssert).wf (fun _ => sysRstAssert) s

/-- PWR_FAIL_N_LOW (R478): An accepted low on PWR_FAIL_N resets the device as SYS_RST_N does. -/
def execPwrFailNLow (s : State) : Host.Outcome State Fault Refusal :=
  onBoth (Instr.pwrFailNLow).wf (fun _ => pwrFailLow) s

/-- BROWN_OUT (R526): A monitored rail stays below its level for 2 us; the device resets, or for a quarter rail that quarter's memory is lost. -/
def execBrownOut (r : Rail) (s : State) : Host.Outcome State Fault Refusal :=
  onBoth (Instr.brownOut r).wf (fun c => brownOut r c) s

/-- PERST_N_ASSERT (R524): An accepted low on PERST_N takes the link down and, in RUN, performs the steps of the Function Level Reset. -/
def execPerstNAssert (s : State) : Host.Outcome State Fault Refusal :=
  onDev (Instr.perstNAssert).wf (fun c => perstAssert c) s

/-- PERST_N_RELEASE (R524): Release of PERST_N retrains the link, and configuration requests complete with CRS until the reset steps are done. -/
def execPerstNRelease (width : Nat) (rate : Nat) (s : State) : Host.Outcome State Fault Refusal :=
  onDev (Instr.perstNRelease width rate).wf (fun _ => perstRelease width rate) s

/-- CONFIG_REQUEST (R56): A PCI Express configuration request is answered with CRS before READY, and normally afterwards. -/
def execConfigRequest (r : CfgReq) (s : State) : Host.Outcome State Fault Refusal :=
  onDev (Instr.configRequest r).wf (fun _ => configRequest r) s

/-- FUNCTION_LEVEL_RESET (R330): A Function Level Reset loses every active context, unbinds rings, zeroes fences and counts, and resets the listed
registers. -/
def execFunctionLevelReset (s : State) : Host.Outcome State Fault Refusal :=
  onDev (Instr.functionLevelReset).wf (fun c => functionLevelReset c) s

/-- LINK_STATE_CHANGE (R529): The PCI Express link trains or leaves L0, and PCIE_LINK is raised when the link is narrower or slower than full. -/
def execLinkStateChange (width : Nat) (rate : Nat) (s : State) : Host.Outcome State Fault Refusal :=
  onDev (Instr.linkStateChange width rate).wf (fun _ => linkChange width rate) s

/-- PWR_FAIL_N_RELEASE (R523): Release of a filtered low on PWR_FAIL_N ends the reset it held and begins a start. -/
def execPwrFailNRelease (st : StartIn) (s : State) : Host.Outcome State Fault Refusal :=
  onBoth (Instr.pwrFailNRelease st).wf (fun c => pwrFailRelease st c) s

/-- BROWN_OUT_RECOVERY (R526): Every monitored rail has stayed above its level plus 30 mV for 1 ms with SYS_RST_N and PWR_FAIL_N high, so the
brown-out reset ends and a start begins. -/
def execBrownOutRecovery (st : StartIn) (s : State) : Host.Outcome State Fault Refusal :=
  onBoth (Instr.brownOutRecovery st).wf (fun c => brownOutRecovery st c) s

end Sys2Proof.Machine
end

