-- ==== Sys2Proof/Machine/ExecShader.lean ====
section
/-! DEFINITION. Meanings of the commands: dispatch and block admission; the integer instructions of the shader cores. -/

namespace Sys2Proof.Machine

/-- SC_DISPATCH (R239): A compute dispatch command is checked and its blocks are handed out in linear order. -/
def execScDispatch (q : Nat) (s : State) : Host.Outcome State Fault Refusal :=
  onDev (Instr.scDispatch q).wf (fun c => inRun (scDispatch c q)) s

/-- BLOCK_ADMIT (R237): A core admits a block once all its groups, its block slot and its local memory fit, and places the groups. -/
def execBlockAdmit (q : Nat) (s : State) : Host.Outcome State Fault Refusal :=
  onDev (Instr.blockAdmit q).wf (fun c => inRun (admitBlock c q)) s

/-- NOP (R265): Shader instruction NOP does nothing. -/
def execNop (q : Nat) (n : Nat) (gi : Nat) (s : State) : Host.Outcome State Fault Refusal :=
  onDev (Instr.nop q n gi).wf (fun c => inRun (opNop c q n gi)) s

/-- IADD (R265): Integer add, wrapping or saturating. -/
def execIadd (q : Nat) (n : Nat) (gi : Nat) (s : State) : Host.Outcome State Fault Refusal :=
  onDev (Instr.iadd q n gi).wf (fun c => inRun (opIadd c q n gi)) s

/-- ISUB (R265): Integer subtract, wrapping or saturating. -/
def execIsub (q : Nat) (n : Nat) (gi : Nat) (s : State) : Host.Outcome State Fault Refusal :=
  onDev (Instr.isub q n gi).wf (fun c => inRun (opIsub c q n gi)) s

/-- IMUL (R265): Integer multiply, low or high word. -/
def execImul (q : Nat) (n : Nat) (gi : Nat) (s : State) : Host.Outcome State Fault Refusal :=
  onDev (Instr.imul q n gi).wf (fun c => inRun (opImul c q n gi)) s

/-- IMAD (R265): Integer multiply-add, low word. -/
def execImad (q : Nat) (n : Nat) (gi : Nat) (s : State) : Host.Outcome State Fault Refusal :=
  onDev (Instr.imad q n gi).wf (fun c => inRun (opImad c q n gi)) s

/-- IMIN (R265): Signed or unsigned integer minimum. -/
def execImin (q : Nat) (n : Nat) (gi : Nat) (s : State) : Host.Outcome State Fault Refusal :=
  onDev (Instr.imin q n gi).wf (fun c => inRun (opImin c q n gi)) s

/-- IMAX (R265): Signed or unsigned integer maximum. -/
def execImax (q : Nat) (n : Nat) (gi : Nat) (s : State) : Host.Outcome State Fault Refusal :=
  onDev (Instr.imax q n gi).wf (fun c => inRun (opImax c q n gi)) s

/-- AND (R265): Bitwise AND. -/
def execAnd (q : Nat) (n : Nat) (gi : Nat) (s : State) : Host.Outcome State Fault Refusal :=
  onDev (Instr.and q n gi).wf (fun c => inRun (opAnd c q n gi)) s

/-- OR (R265): Bitwise OR. -/
def execOr (q : Nat) (n : Nat) (gi : Nat) (s : State) : Host.Outcome State Fault Refusal :=
  onDev (Instr.or q n gi).wf (fun c => inRun (opOr c q n gi)) s

/-- XOR (R265): Bitwise XOR. -/
def execXor (q : Nat) (n : Nat) (gi : Nat) (s : State) : Host.Outcome State Fault Refusal :=
  onDev (Instr.xor q n gi).wf (fun c => inRun (opXor c q n gi)) s

/-- SHL (R265): Shift left. -/
def execShl (q : Nat) (n : Nat) (gi : Nat) (s : State) : Host.Outcome State Fault Refusal :=
  onDev (Instr.shl q n gi).wf (fun c => inRun (opShl c q n gi)) s

/-- SHR (R265): Logical or arithmetic shift right. -/
def execShr (q : Nat) (n : Nat) (gi : Nat) (s : State) : Host.Outcome State Fault Refusal :=
  onDev (Instr.shr q n gi).wf (fun c => inRun (opShr c q n gi)) s

/-- POPC (R265): Population count. -/
def execPopc (q : Nat) (n : Nat) (gi : Nat) (s : State) : Host.Outcome State Fault Refusal :=
  onDev (Instr.popc q n gi).wf (fun c => inRun (opPopc c q n gi)) s

/-- CLZ (R265): Count leading zeros. -/
def execClz (q : Nat) (n : Nat) (gi : Nat) (s : State) : Host.Outcome State Fault Refusal :=
  onDev (Instr.clz q n gi).wf (fun c => inRun (opClz c q n gi)) s

/-- BREV (R265): Bit reverse. -/
def execBrev (q : Nat) (n : Nat) (gi : Nat) (s : State) : Host.Outcome State Fault Refusal :=
  onDev (Instr.brev q n gi).wf (fun c => inRun (opBrev c q n gi)) s

/-- BFE (R265): Bit-field extract. -/
def execBfe (q : Nat) (n : Nat) (gi : Nat) (s : State) : Host.Outcome State Fault Refusal :=
  onDev (Instr.bfe q n gi).wf (fun c => inRun (opBfe c q n gi)) s

/-- BFI (R265): Bit-field insert. -/
def execBfi (q : Nat) (n : Nat) (gi : Nat) (s : State) : Host.Outcome State Fault Refusal :=
  onDev (Instr.bfi q n gi).wf (fun c => inRun (opBfi c q n gi)) s

/-- ICMP (R265): Integer compare into a predicate, combined with PS. -/
def execIcmp (q : Nat) (n : Nat) (gi : Nat) (s : State) : Host.Outcome State Fault Refusal :=
  onDev (Instr.icmp q n gi).wf (fun c => inRun (opIcmp c q n gi)) s

/-- SEL (R265): Select A or B by a predicate. -/
def execSel (q : Nat) (n : Nat) (gi : Nat) (s : State) : Host.Outcome State Fault Refusal :=
  onDev (Instr.sel q n gi).wf (fun c => inRun (opSel c q n gi)) s

/-- MOV (R265): Move a register or immediate. -/
def execMov (q : Nat) (n : Nat) (gi : Nat) (s : State) : Host.Outcome State Fault Refusal :=
  onDev (Instr.mov q n gi).wf (fun c => inRun (opMov c q n gi)) s

/-- UPUT (R265): Write a uniform register from the lowest thread of the issuing set. -/
def execUput (q : Nat) (n : Nat) (gi : Nat) (s : State) : Host.Outcome State Fault Refusal :=
  onDev (Instr.uput q n gi).wf (fun c => inRun (opUput c q n gi)) s

/-- RDSV (R277): Read a special value: lane, issue mask, clock or placement. -/
def execRdsv (q : Nat) (n : Nat) (gi : Nat) (s : State) : Host.Outcome State Fault Refusal :=
  onDev (Instr.rdsv q n gi).wf (fun c => inRun (opRdsv c q n gi)) s

end Sys2Proof.Machine
end

