-- ==== Sys2Proof/Machine/ExecStore.lean ====
section
/-! DEFINITION. Meanings of the commands: the central store. -/

namespace Sys2Proof.Machine

/-- STORE_REQUEST (R104): A read or write reaches its home slice, is checked, and hits, allocates, fetches sectors or streams according to the state
of its sectors. -/
def execStoreRequest (ctx : Option Nat) (cls : Nat) (q : Nat) (i : Nat) (pa : Nat) (len : Nat) (wdata : Option (List (Option PByte))) (noalloc : Bool) (onchip : Option (Bool × Nat)) (s : State) : Host.Outcome State Fault Refusal :=
  onDev (Instr.storeRequest ctx cls q i pa len wdata noalloc onchip).wf (fun c => inRun (storeRequestOf c ctx cls q i pa len wdata noalloc onchip)) s

/-- EVICTION_ACCEPTED (R110): The controller accepts a dirty victim's write, and the waiting fill proceeds. -/
def execEvictionAccepted (q : Nat) (s : State) : Host.Outcome State Fault Refusal :=
  onDev (Instr.evictionAccepted q).wf (fun c => inRun (evictionAccepted c q)) s

/-- DRAM_FILL_COMPLETE (R104): A DRAM fill returns, sectors are decoded under inline SEC-DED and poison, and the waiting request is served. -/
def execDramFillComplete (q : Nat) (errs : List SectorErr) (s : State) : Host.Outcome State Fault Refusal :=
  onDev (Instr.dramFillComplete q errs).wf (fun c => inRun (dramFillComplete c q errs)) s

/-- WRITE_DRAIN_EXIT (R110): The write queue falls to 64 lines and write drain ends. -/
def execWriteDrainExit (q : Nat) (s : State) : Host.Outcome State Fault Refusal :=
  onDev (Instr.writeDrainExit q).wf (fun c => inRun (writeDrainExit c q)) s

/-- STREAM_TRACKER_TIMEOUT (R106): 1 us passes without a write miss from a stream, and its tracker returns to allocation. -/
def execStreamTrackerTimeout (q : Nat) (s : State) : Host.Outcome State Fault Refusal :=
  onDev (Instr.streamTrackerTimeout q).wf (fun c => inRun (trackerTimeout c q)) s

/-- PREFETCH_REQUEST (R108): A prefetch is dropped if its line is present, or fetched into a side-buffer entry, displacing the longest-unused one. -/
def execPrefetchRequest (ctx : Nat) (cls : Nat) (q : Nat) (i : Nat) (pa : Nat) (errs : List SectorErr) (s : State) : Host.Outcome State Fault Refusal :=
  onDev (Instr.prefetchRequest ctx cls q i pa errs).wf (fun c => inRun (prefetchRequest c ctx cls q i pa errs)) s

/-- SCRATCH_ZERO_DONE (R98): Zeroing of a lost class's scratch ways ends, and requests waiting for those ways proceed. -/
def execScratchZeroDone (q : Nat) (s : State) : Host.Outcome State Fault Refusal :=
  onDev (Instr.scratchZeroDone q).wf (fun c => inRun (scratchZeroDone c q)) s

/-- CS_MAINT_CLEAN (R116): GO with OP CLEAN starts a background clean of a physical range in every home slice. -/
def execCsMaintClean (q : Nat) (s : State) : Host.Outcome State Fault Refusal :=
  onDev (Instr.csMaintClean q).wf (fun _ => hostReg (csAt q 0x70) (csMaint q 1)) s

/-- CS_MAINT_INVALIDATE (R116): GO with OP INVALIDATE starts a background invalidation of a physical range. -/
def execCsMaintInvalidate (q : Nat) (s : State) : Host.Outcome State Fault Refusal :=
  onDev (Instr.csMaintInvalidate q).wf (fun _ => hostReg (csAt q 0x70) (csMaint q 2)) s

/-- CS_MAINT_CLEAN_INVALIDATE (R116): GO with OP CLEAN_INVALIDATE starts a background clean and invalidation of a physical range. -/
def execCsMaintCleanInvalidate (q : Nat) (s : State) : Host.Outcome State Fault Refusal :=
  onDev (Instr.csMaintCleanInvalidate q).wf (fun _ => hostReg (csAt q 0x70) (csMaint q 3)) s

/-- CS_MAINT_COMPLETE (R114): Every line of the range has been treated and its writes accepted; BUSY clears, DONE is set and CS_MAINT_DONE is raised.
-/
def execCsMaintComplete (q : Nat) (s : State) : Host.Outcome State Fault Refusal :=
  onDev (Instr.csMaintComplete q).wf (fun c => inRun (csMaintComplete c q)) s

/-- CS_SW_CLEAN (R117): An Ox core cleans one way of one set through CS_SW_OP. -/
def execCsSwClean (q : Nat) (set : Nat) (way : Nat) (s : State) : Host.Outcome State Fault Refusal :=
  onDev (Instr.csSwClean q set way).wf (fun c => oxReg q (csSw c q 1 set way)) s

/-- CS_SW_INVALIDATE (R117): An Ox core invalidates one way of one set through CS_SW_OP. -/
def execCsSwInvalidate (q : Nat) (set : Nat) (way : Nat) (s : State) : Host.Outcome State Fault Refusal :=
  onDev (Instr.csSwInvalidate q set way).wf (fun c => oxReg q (csSw c q 2 set way)) s

/-- CS_SW_CLEAN_INVALIDATE (R117): An Ox core cleans and invalidates one way of one set through CS_SW_OP. -/
def execCsSwCleanInvalidate (q : Nat) (set : Nat) (way : Nat) (s : State) : Host.Outcome State Fault Refusal :=
  onDev (Instr.csSwCleanInvalidate q set way).wf (fun c => oxReg q (csSw c q 3 set way)) s

/-- CS_WAY_OFF_WRITE (R119): Setting a bit of CS_WAY_OFF starts cleaning the way; clearing a bit powers the way up empty. -/
def execCsWayOffWrite (q : Nat) (v : Nat) (s : State) : Host.Outcome State Fault Refusal :=
  onDev (Instr.csWayOffWrite q v).wf (fun c => hostReg (csAt q 0x08) (csWayOff c q v)) s

/-- WAY_CLEAN_DONE (R119): A way's cleaning ends, the way is powered down, and OFF is set for it. -/
def execWayCleanDone (q : Nat) (way : Nat) (s : State) : Host.Outcome State Fault Refusal :=
  onDev (Instr.wayCleanDone q way).wf (fun _ => inRun (wayCleanDone q way)) s

/-- CS_ERR_CLEAR (R121): A write of CLR to CS_ERR_CLEAR zeroes every field of CS_ERR. -/
def execCsErrClear (q : Nat) (v : Nat) (s : State) : Host.Outcome State Fault Refusal :=
  onDev (Instr.csErrClear q v).wf (fun _ => hostReg (csAt q 0x84) (csErrClear q v)) s

/-- QUARTER_MEMORY_LOST (R29): A quarter's memory is lost: its dirty lines are discarded, QUARTER_OUT fires and sequences homed there fail. -/
def execQuarterMemoryLost (q : Nat) (s : State) : Host.Outcome State Fault Refusal :=
  onDev (Instr.quarterMemoryLost q).wf (fun _ => started (quarterMemoryLost q)) s

end Sys2Proof.Machine
end

