-- ==== Sys2Proof/Machine/ExecUpdate.lean ====
section
/-! DEFINITION. Meanings of the commands: field update, hand-over and attestation; observation. -/

namespace Sys2Proof.Machine

/-- UPD_BLOCK_GO (R486): GO queues a mailbox buffer for writing at an NVM address, or refuses it as RANGE or PROTECTED. -/
def execUpdBlockGo (v : Nat) (s : State) : Host.Outcome State Fault Refusal :=
  onDev (Instr.updBlockGo v).wf (fun _ => fun d => blockGo v (hostTouch d)) s

/-- UPD_BLOCK_DONE (R488): An NVM block erase, program and verify ends; the buffer becomes FREE with a RESULT and UPDATE is raised. -/
def execUpdBlockDone (misses : Nat) (s : State) : Host.Outcome State Fault Refusal :=
  onDev (Instr.updBlockDone misses).wf (fun _ => blockDone misses) s

/-- SET_TRIAL (R490): The update command SET_TRIAL appends a TRIAL set entry. -/
def execSetTrial (tries : Nat) (ok : Bool) (s : State) : Host.Outcome State Fault Refusal :=
  onDev (Instr.setTrial tries ok).wf (fun _ => fun d => setTrial tries ok (hostTouch d)) s

/-- CANCEL (R490): The update command CANCEL appends a CONFIRMED entry with the confirmed slots. -/
def execCancel (ok : Bool) (s : State) : Host.Outcome State Fault Refusal :=
  onDev (Instr.cancel ok).wf (fun _ => fun d => updCancel ok (hostTouch d)) s

/-- CONFIRM (R490): The update command CONFIRM appends a CONFIRMED entry with the trial's slots. -/
def execConfirm (ok : Bool) (s : State) : Host.Outcome State Fault Refusal :=
  onDev (Instr.confirm ok).wf (fun _ => fun d => updConfirm ok (hostTouch d)) s

/-- HANDOVER (R491): The update command HANDOVER starts preparing a part's images in the stage area. -/
def execHandover (part : Nat) (s : State) : Host.Outcome State Fault Refusal :=
  onDev (Instr.handover part).wf (fun _ => fun d => handover part (hostTouch d)) s

/-- HANDOVER_PREPARED (R491): Preparation ends; the part waits for a window, or the command ends with AUTH_FAIL or LEVEL_MISMATCH. -/
def execHandoverPrepared (s : State) : Host.Outcome State Fault Refusal :=
  onDev (Instr.handoverPrepared).wf (fun c => live (handPrepared c)) s

/-- HANDOVER_WINDOW_TIMEOUT (R491): No suitable window opens within 10 s, and HANDOVER ends with WINDOW_TIMEOUT. -/
def execHandoverWindowTimeout (s : State) : Host.Outcome State Fault Refusal :=
  onDev (Instr.handoverWindowTimeout).wf (fun c => live (handTimeout c)) s

/-- SPINE_HANDOVER (R492): At a window start the FE stops posting and the active core writes its hand-over block. -/
def execSpineHandover (s : State) : Host.Outcome State Fault Refusal :=
  onDev (Instr.spineHandover).wf (fun c => inRun (spineHandover c)) s

/-- SPINE_HANDOVER_SWITCH (R492): The standby core becomes active and the FE resumes posting. -/
def execSpineHandoverSwitch (s : State) : Host.Outcome State Fault Refusal :=
  onDev (Instr.spineHandoverSwitch).wf (fun c => live (spineSwitch c)) s

/-- QUARTER_LEAVE (R494): At a window start the quarter's units leave every allowed set. -/
def execQuarterLeave (q : Nat) (s : State) : Host.Outcome State Fault Refusal :=
  onDev (Instr.quarterLeave q).wf (fun c => inRun (quarterLeave c q)) s

/-- QUARTER_DRAIN_DONE (R494): Running units finish, and OXQq restarts from the staged firmware and runs the test. -/
def execQuarterDrainDone (q : Nat) (me : Nat) (sne : Nat) (sc : Nat) (s : State) : Host.Outcome State Fault Refusal :=
  onBoth (Instr.quarterDrainDone q me sne sc).wf (fun c => quarterDrained c q me sne sc) s

/-- QUARTER_REJOIN (R494): At the next window start the quarter's units rejoin and HANDOVER completes OK. -/
def execQuarterRejoin (q : Nat) (s : State) : Host.Outcome State Fault Refusal :=
  onBoth (Instr.quarterRejoin q).wf (fun c => quarterRejoin c q) s

/-- ATTEST (R500): The update command ATTEST writes a signed report of the measurement log to the mailbox. -/
def execAttest (s : State) : Host.Outcome State Fault Refusal :=
  onDev (Instr.attest).wf (fun _ => fun d => updAttest (hostTouch d)) s

/-- READ_CERT (R490): The update command READ_CERT copies a vendor certificate into the mailbox. -/
def execReadCert (which : Nat) (s : State) : Host.Outcome State Fault Refusal :=
  onDev (Instr.readCert which).wf (fun _ => fun d => readCert which (hostTouch d)) s

/-- UPD_COUNT_CLEAR (R502): A write of CLR zeroes UPD_COUNT. -/
def execUpdCountClear (v : Nat) (s : State) : Host.Outcome State Fault Refusal :=
  onDev (Instr.updCountClear v).wf (fun _ => fun d => updCountClear v (hostTouch d)) s

/-- UPD_MAILBOX_WRITE (R486): A host write into an update mailbox buffer stores image bytes when the buffer is FREE, and is otherwise ignored and
counted in IGNORED. -/
def execUpdMailboxWrite (off : Nat) (data : List Byte) (s : State) : Host.Outcome State Fault Refusal :=
  onDev (Instr.updMailboxWrite off data).wf (fun _ => fun d => mailboxWrite off data (hostTouch d)) s

/-- OBS_SNAP (R505): SNAP copies all 256 counters at one SCLK. -/
def execObsSnap (v : Nat) (s : State) : Host.Outcome State Fault Refusal :=
  onDev (Instr.obsSnap v).wf (fun _ => fun d => obsSnap v (hostTouch d)) s

/-- OBS_CNT_CLEAR (R504): CNT_CLEAR zeroes every counter. -/
def execObsCntClear (v : Nat) (s : State) : Host.Outcome State Fault Refusal :=
  onDev (Instr.obsCntClear v).wf (fun _ => fun d => obsCntClear v (hostTouch d)) s

/-- OBS_DROP_CLEAR (R515): A write of CLR zeroes OBS_DROP. -/
def execObsDropClear (v : Nat) (s : State) : Host.Outcome State Fault Refusal :=
  onDev (Instr.obsDropClear v).wf (fun _ => fun d => obsDropClear v (hostTouch d)) s

/-- OBS_DRAIN_RPTR_WRITE (R513): The host reports trace drain bytes consumed. -/
def execObsDrainRptrWrite (v : Nat) (s : State) : Host.Outcome State Fault Refusal :=
  onDev (Instr.obsDrainRptrWrite v).wf (fun _ => fun d => obsDrainRptr v (hostTouch d)) s

end Sys2Proof.Machine
end

