-- ==== Sys2Proof/Machine/Dispatch.lean ====
section
/-! DEFINITION. Dispatch: one arm per command, each a direct call of its meaning. -/

namespace Sys2Proof.Machine

/-- The effect of a command on everything but the queue. -/
def exec (i : Instr) (s : State) : Host.Outcome State Fault Refusal :=
  match i with
  | .sysRstNRelease st => Sys2Proof.Machine.execSysRstNRelease st s
  | .readyTimeout => Sys2Proof.Machine.execReadyTimeout s
  | .sysRstNAssert => Sys2Proof.Machine.execSysRstNAssert s
  | .pwrFailNLow => Sys2Proof.Machine.execPwrFailNLow s
  | .brownOut r => Sys2Proof.Machine.execBrownOut r s
  | .perstNAssert => Sys2Proof.Machine.execPerstNAssert s
  | .perstNRelease width rate => Sys2Proof.Machine.execPerstNRelease width rate s
  | .configRequest r => Sys2Proof.Machine.execConfigRequest r s
  | .functionLevelReset => Sys2Proof.Machine.execFunctionLevelReset s
  | .linkStateChange width rate => Sys2Proof.Machine.execLinkStateChange width rate s
  | .pwrFailNRelease st => Sys2Proof.Machine.execPwrFailNRelease st s
  | .brownOutRecovery st => Sys2Proof.Machine.execBrownOutRecovery st s
  | .phinLevelChange pin level => Sys2Proof.Machine.execPhinLevelChange pin level s
  | .phinEdgeAccepted pin => Sys2Proof.Machine.execPhinEdgeAccepted pin s
  | .acquireTimeout n => Sys2Proof.Machine.execAcquireTimeout n s
  | .lockTimeout n => Sys2Proof.Machine.execLockTimeout n s
  | .interpolatedTurn n => Sys2Proof.Machine.execInterpolatedTurn n s
  | .displayLineStart p line => Sys2Proof.Machine.execDisplayLineStart p line s
  | .startComparatorFire ring => Sys2Proof.Machine.execStartComparatorFire ring s
  | .dlmCheck r => Sys2Proof.Machine.execDlmCheck r s
  | .cycleMark ring => Sys2Proof.Machine.execCycleMark ring s
  | .dlmClear r v => Sys2Proof.Machine.execDlmClear r v s
  | .pheClear v => Sys2Proof.Machine.execPheClear v s
  | .retrainStart q => Sys2Proof.Machine.execRetrainStart q s
  | .retrainForced q => Sys2Proof.Machine.execRetrainForced q s
  | .retrainEnd q => Sys2Proof.Machine.execRetrainEnd q s
  | .storeRequest ctx cls q inst pa len wdata noalloc onchip => Sys2Proof.Machine.execStoreRequest ctx cls q inst pa len wdata noalloc onchip s
  | .evictionAccepted q => Sys2Proof.Machine.execEvictionAccepted q s
  | .dramFillComplete q errs => Sys2Proof.Machine.execDramFillComplete q errs s
  | .writeDrainExit q => Sys2Proof.Machine.execWriteDrainExit q s
  | .streamTrackerTimeout q => Sys2Proof.Machine.execStreamTrackerTimeout q s
  | .prefetchRequest ctx cls q inst pa errs => Sys2Proof.Machine.execPrefetchRequest ctx cls q inst pa errs s
  | .scratchZeroDone q => Sys2Proof.Machine.execScratchZeroDone q s
  | .csMaintClean q => Sys2Proof.Machine.execCsMaintClean q s
  | .csMaintInvalidate q => Sys2Proof.Machine.execCsMaintInvalidate q s
  | .csMaintCleanInvalidate q => Sys2Proof.Machine.execCsMaintCleanInvalidate q s
  | .csMaintComplete q => Sys2Proof.Machine.execCsMaintComplete q s
  | .csSwClean q set way => Sys2Proof.Machine.execCsSwClean q set way s
  | .csSwInvalidate q set way => Sys2Proof.Machine.execCsSwInvalidate q set way s
  | .csSwCleanInvalidate q set way => Sys2Proof.Machine.execCsSwCleanInvalidate q set way s
  | .csWayOffWrite q v => Sys2Proof.Machine.execCsWayOffWrite q v s
  | .wayCleanDone q way => Sys2Proof.Machine.execWayCleanDone q way s
  | .csErrClear q v => Sys2Proof.Machine.execCsErrClear q v s
  | .quarterMemoryLost q => Sys2Proof.Machine.execQuarterMemoryLost q s
  | .tokenHandout cls q => Sys2Proof.Machine.execTokenHandout cls q s
  | .meMatmul q inst => Sys2Proof.Machine.execMeMatmul q inst s
  | .meBatched q inst => Sys2Proof.Machine.execMeBatched q inst s
  | .meExpert q inst => Sys2Proof.Machine.execMeExpert q inst s
  | .meAttnScore q inst => Sys2Proof.Machine.execMeAttnScore q inst s
  | .meAttnValue q inst => Sys2Proof.Machine.execMeAttnValue q inst s
  | .meUnitComplete q inst => Sys2Proof.Machine.execMeUnitComplete q inst s
  | .sneSoftmax q => Sys2Proof.Machine.execSneSoftmax q s
  | .sneRmsnorm q => Sys2Proof.Machine.execSneRmsnorm q s
  | .sneLayernorm q => Sys2Proof.Machine.execSneLayernorm q s
  | .sneAct q => Sys2Proof.Machine.execSneAct q s
  | .sneGated q => Sys2Proof.Machine.execSneGated q s
  | .sneRope q => Sys2Proof.Machine.execSneRope q s
  | .sneCombine q => Sys2Proof.Machine.execSneCombine q s
  | .sneAdd q => Sys2Proof.Machine.execSneAdd q s
  | .tokCommand => Sys2Proof.Machine.execTokCommand s
  | .seqAttach => Sys2Proof.Machine.execSeqAttach s
  | .seqDetach => Sys2Proof.Machine.execSeqDetach s
  | .seqStepBuild inst => Sys2Proof.Machine.execSeqStepBuild inst s
  | .seqCommit inst => Sys2Proof.Machine.execSeqCommit inst s
  | .seqStepDrop inst => Sys2Proof.Machine.execSeqStepDrop inst s
  | .muleCopy q inst => Sys2Proof.Machine.execMuleCopy q inst s
  | .muleFill q inst => Sys2Proof.Machine.execMuleFill q inst s
  | .storeMaint q inst => Sys2Proof.Machine.execStoreMaint q inst s
  | .kvStore q inst => Sys2Proof.Machine.execKvStore q inst s
  | .mulePrefetch q inst => Sys2Proof.Machine.execMulePrefetch q inst s
  | .muleSpanComplete q inst => Sys2Proof.Machine.execMuleSpanComplete q inst s
  | .packCompress inst => Sys2Proof.Machine.execPackCompress inst s
  | .packDecompress inst => Sys2Proof.Machine.execPackDecompress inst s
  | .cvuScan inst => Sys2Proof.Machine.execCvuScan inst s
  | .packClear v => Sys2Proof.Machine.execPackClear v s
  | .scDispatch q => Sys2Proof.Machine.execScDispatch q s
  | .blockAdmit q => Sys2Proof.Machine.execBlockAdmit q s
  | .nop q n gi => Sys2Proof.Machine.execNop q n gi s
  | .iadd q n gi => Sys2Proof.Machine.execIadd q n gi s
  | .isub q n gi => Sys2Proof.Machine.execIsub q n gi s
  | .imul q n gi => Sys2Proof.Machine.execImul q n gi s
  | .imad q n gi => Sys2Proof.Machine.execImad q n gi s
  | .imin q n gi => Sys2Proof.Machine.execImin q n gi s
  | .imax q n gi => Sys2Proof.Machine.execImax q n gi s
  | .and q n gi => Sys2Proof.Machine.execAnd q n gi s
  | .or q n gi => Sys2Proof.Machine.execOr q n gi s
  | .xor q n gi => Sys2Proof.Machine.execXor q n gi s
  | .shl q n gi => Sys2Proof.Machine.execShl q n gi s
  | .shr q n gi => Sys2Proof.Machine.execShr q n gi s
  | .popc q n gi => Sys2Proof.Machine.execPopc q n gi s
  | .clz q n gi => Sys2Proof.Machine.execClz q n gi s
  | .brev q n gi => Sys2Proof.Machine.execBrev q n gi s
  | .bfe q n gi => Sys2Proof.Machine.execBfe q n gi s
  | .bfi q n gi => Sys2Proof.Machine.execBfi q n gi s
  | .icmp q n gi => Sys2Proof.Machine.execIcmp q n gi s
  | .sel q n gi => Sys2Proof.Machine.execSel q n gi s
  | .mov q n gi => Sys2Proof.Machine.execMov q n gi s
  | .uput q n gi => Sys2Proof.Machine.execUput q n gi s
  | .rdsv q n gi => Sys2Proof.Machine.execRdsv q n gi s
  | .fadd q n gi => Sys2Proof.Machine.execFadd q n gi s
  | .fmul q n gi => Sys2Proof.Machine.execFmul q n gi s
  | .ffma q n gi => Sys2Proof.Machine.execFfma q n gi s
  | .fmin q n gi => Sys2Proof.Machine.execFmin q n gi s
  | .fmax q n gi => Sys2Proof.Machine.execFmax q n gi s
  | .fcmp q n gi => Sys2Proof.Machine.execFcmp q n gi s
  | .frcp q n gi => Sys2Proof.Machine.execFrcp q n gi s
  | .frsq q n gi => Sys2Proof.Machine.execFrsq q n gi s
  | .fsqrt q n gi => Sys2Proof.Machine.execFsqrt q n gi s
  | .fex2 q n gi => Sys2Proof.Machine.execFex2 q n gi s
  | .flg2 q n gi => Sys2Proof.Machine.execFlg2 q n gi s
  | .fsin q n gi => Sys2Proof.Machine.execFsin q n gi s
  | .fcos q n gi => Sys2Proof.Machine.execFcos q n gi s
  | .hdot4 q n gi => Sys2Proof.Machine.execHdot4 q n gi s
  | .ftwosum q n gi => Sys2Proof.Machine.execFtwosum q n gi s
  | .ftwoprod q n gi => Sys2Proof.Machine.execFtwoprod q n gi s
  | .lmul q n gi => Sys2Proof.Machine.execLmul q n gi s
  | .ladd q n gi => Sys2Proof.Machine.execLadd q n gi s
  | .lsub q n gi => Sys2Proof.Machine.execLsub q n gi s
  | .lneg q n gi => Sys2Proof.Machine.execLneg q n gi s
  | .cvt q n gi => Sys2Proof.Machine.execCvt q n gi s
  | .cvt2 q n gi => Sys2Proof.Machine.execCvt2 q n gi s
  | .cld q n gi => Sys2Proof.Machine.execCld q n gi s
  | .cst q n gi => Sys2Proof.Machine.execCst q n gi s
  | .lld q n gi => Sys2Proof.Machine.execLld q n gi s
  | .lst q n gi => Sys2Proof.Machine.execLst q n gi s
  | .catom q n gi => Sys2Proof.Machine.execCatom q n gi s
  | .latom q n gi => Sys2Proof.Machine.execLatom q n gi s
  | .fence q n gi => Sys2Proof.Machine.execFence q n gi s
  | .fenceRelease q n gi => Sys2Proof.Machine.execFenceRelease q n gi s
  | .xlane q n gi => Sys2Proof.Machine.execXlane q n gi s
  | .pvote q n gi => Sys2Proof.Machine.execPvote q n gi s
  | .eqmask q n gi => Sys2Proof.Machine.execEqmask q n gi s
  | .syncG q n gi => Sys2Proof.Machine.execSyncG q n gi s
  | .syncB q n gi => Sys2Proof.Machine.execSyncB q n gi s
  | .mmaL8 q n gi => Sys2Proof.Machine.execMmaL8 q n gi s
  | .mmaL4l8 q n gi => Sys2Proof.Machine.execMmaL4l8 q n gi s
  | .mmaL16 q n gi => Sys2Proof.Machine.execMmaL16 q n gi s
  | .pxlock q n gi => Sys2Proof.Machine.execPxlock q n gi s
  | .pxlockGrant q n gi lane => Sys2Proof.Machine.execPxlockGrant q n gi lane s
  | .pxunlock q n gi => Sys2Proof.Machine.execPxunlock q n gi s
  | .trace q n gi => Sys2Proof.Machine.execTrace q n gi s
  | .traceAnswer q n gi lane => Sys2Proof.Machine.execTraceAnswer q n gi lane s
  | .bra q n gi => Sys2Proof.Machine.execBra q n gi s
  | .jmpr q n gi => Sys2Proof.Machine.execJmpr q n gi s
  | .call q n gi => Sys2Proof.Machine.execCall q n gi s
  | .exit q n gi => Sys2Proof.Machine.execExit q n gi s
  | .scFaultClear q n v => Sys2Proof.Machine.execScFaultClear q n v s
  | .tilRender => Sys2Proof.Machine.execTilRender s
  | .tilTriangle => Sys2Proof.Machine.execTilTriangle s
  | .tilBinningDone => Sys2Proof.Machine.execTilBinningDone s
  | .tileHandout => Sys2Proof.Machine.execTileHandout s
  | .tileComplete t => Sys2Proof.Machine.execTileComplete t s
  | .compPresent => Sys2Proof.Machine.execCompPresent s
  | .reprojDecision p => Sys2Proof.Machine.execReprojDecision p s
  | .layerLatch p => Sys2Proof.Machine.execLayerLatch p s
  | .scanoutLine p got => Sys2Proof.Machine.execScanoutLine p got s
  | .signatureCompare n => Sys2Proof.Machine.execSignatureCompare n s
  | .compSafeExit p v => Sys2Proof.Machine.execCompSafeExit p v s
  | .compPipeClear p v => Sys2Proof.Machine.execCompPipeClear p v s
  | .compDsiCmd v => Sys2Proof.Machine.execCompDsiCmd v s
  | .dsiPacketSent => Sys2Proof.Machine.execDsiPacketSent s
  | .linkRetrain p up => Sys2Proof.Machine.execLinkRetrain p up s
  | .edpHpd kind up => Sys2Proof.Machine.execEdpHpd kind up s
  | .bar2Read off len => Sys2Proof.Machine.execBar2Read off len s
  | .bar2Write off data poison => Sys2Proof.Machine.execBar2Write off data poison s
  | .registerWrite off data => Sys2Proof.Machine.execRegisterWrite off data s
  | .pairLoRead off => Sys2Proof.Machine.execPairLoRead off s
  | .dbWptrWrite ring v => Sys2Proof.Machine.execDbWptrWrite ring v s
  | .dbCqRptrWrite ring v => Sys2Proof.Machine.execDbCqRptrWrite ring v s
  | .doorbellBatchClose => Sys2Proof.Machine.execDoorbellBatchClose s
  | .ringEntryFetch ring => Sys2Proof.Machine.execRingEntryFetch ring s
  | .kqEntryFetch => Sys2Proof.Machine.execKqEntryFetch s
  | .feKqWptrWrite v => Sys2Proof.Machine.execFeKqWptrWrite v s
  | .feKqCqRptrWrite v => Sys2Proof.Machine.execFeKqCqRptrWrite v s
  | .feKqEnable v => Sys2Proof.Machine.execFeKqEnable v s
  | .commandDispatch ring => Sys2Proof.Machine.execCommandDispatch ring s
  | .commandComplete ring index => Sys2Proof.Machine.execCommandComplete ring index s
  | .cqRecordDrain queue => Sys2Proof.Machine.execCqRecordDrain queue s
  | .feRefAdd obj n => Sys2Proof.Machine.execFeRefAdd obj n s
  | .feRefDrop obj n => Sys2Proof.Machine.execFeRefDrop obj n s
  | .feFenceSig v => Sys2Proof.Machine.execFeFenceSig v s
  | .feCountClear v => Sys2Proof.Machine.execFeCountClear v s
  | .feNop ring => Sys2Proof.Machine.execFeNop ring s
  | .ctxCreate => Sys2Proof.Machine.execCtxCreate s
  | .ctxKill => Sys2Proof.Machine.execCtxKill s
  | .ctxRelease => Sys2Proof.Machine.execCtxRelease s
  | .ringInit => Sys2Proof.Machine.execRingInit s
  | .ringUnbind => Sys2Proof.Machine.execRingUnbind s
  | .fenceInit => Sys2Proof.Machine.execFenceInit s
  | .invalidate => Sys2Proof.Machine.execInvalidate s
  | .invalidateComplete => Sys2Proof.Machine.execInvalidateComplete s
  | .ctxSetRoot => Sys2Proof.Machine.execCtxSetRoot s
  | .commandTimeout ring index => Sys2Proof.Machine.execCommandTimeout ring index s
  | .waitTimeout ring => Sys2Proof.Machine.execWaitTimeout ring s
  | .drainLimitExpiry cls q inst => Sys2Proof.Machine.execDrainLimitExpiry cls q inst s
  | .instanceResetDone cls q inst => Sys2Proof.Machine.execInstanceResetDone cls q inst s
  | .feSchedClear v => Sys2Proof.Machine.execFeSchedClear v s
  | .ptwWalk cls q inst ctx va access => Sys2Proof.Machine.execPtwWalk cls q inst ctx va access s
  | .faultBatchHoldoff => Sys2Proof.Machine.execFaultBatchHoldoff s
  | .faultBatchWrite => Sys2Proof.Machine.execFaultBatchWrite s
  | .mmuReplay b => Sys2Proof.Machine.execMmuReplay b s
  | .mmuFaultRptrWrite v => Sys2Proof.Machine.execMmuFaultRptrWrite v s
  | .mmuFaultEnable v => Sys2Proof.Machine.execMmuFaultEnable v s
  | .mmuBatchCfgWrite v => Sys2Proof.Machine.execMmuBatchCfgWrite v s
  | .mmuCountClear v => Sys2Proof.Machine.execMmuCountClear v s
  | .hostReadCompletion data bad => Sys2Proof.Machine.execHostReadCompletion data bad s
  | .completionTimeout => Sys2Proof.Machine.execCompletionTimeout s
  | .scrubSector q e => Sys2Proof.Machine.execScrubSector q e s
  | .cwsScrub fixes split => Sys2Proof.Machine.execCwsScrub fixes split s
  | .tokenParityError => Sys2Proof.Machine.execTokenParityError s
  | .creditParityError => Sys2Proof.Machine.execCreditParityError s
  | .spineUe kind cls inst loc syn => Sys2Proof.Machine.execSpineUe kind cls inst loc syn s
  | .oxCoreFault core => Sys2Proof.Machine.execOxCoreFault core s
  | .errLogFree k e v => Sys2Proof.Machine.execErrLogFree k e v s
  | .errClear k v => Sys2Proof.Machine.execErrClear k v s
  | .icuDelivery => Sys2Proof.Machine.execIcuDelivery s
  | .holdoffExpiry g => Sys2Proof.Machine.execHoldoffExpiry g s
  | .icuEoi t src ox => Sys2Proof.Machine.execIcuEoi t src ox s
  | .icuTargetReset t v ox => Sys2Proof.Machine.execIcuTargetReset t v ox s
  | .icSwRaise v => Sys2Proof.Machine.execIcSwRaise v s
  | .icStatusClear v => Sys2Proof.Machine.execIcStatusClear v s
  | .msixTableWrite off v => Sys2Proof.Machine.execMsixTableWrite off v s
  | .pwrReqRest => Sys2Proof.Machine.execPwrReqRest s
  | .pwrReqHold => Sys2Proof.Machine.execPwrReqHold s
  | .powerEntryDone => Sys2Proof.Machine.execPowerEntryDone s
  | .wakeEvent src => Sys2Proof.Machine.execWakeEvent src s
  | .wakeComplete keepBad links => Sys2Proof.Machine.execWakeComplete keepBad links s
  | .idleqEntry q => Sys2Proof.Machine.execIdleqEntry q s
  | .governorStep est => Sys2Proof.Machine.execGovernorStep est s
  | .throttleDown q temps => Sys2Proof.Machine.execThrottleDown q temps s
  | .throttleUp q temps => Sys2Proof.Machine.execThrottleUp q temps s
  | .thermalShutdown temp => Sys2Proof.Machine.execThermalShutdown temp s
  | .dramOvertemp temp => Sys2Proof.Machine.execDramOvertemp temp s
  | .avsRequestDone rail => Sys2Proof.Machine.execAvsRequestDone rail s
  | .avsRetry rail readback => Sys2Proof.Machine.execAvsRetry rail readback s
  | .pwrWarnNChange level => Sys2Proof.Machine.execPwrWarnNChange level s
  | .droopDetect => Sys2Proof.Machine.execDroopDetect s
  | .droopHoldExpiry => Sys2Proof.Machine.execDroopHoldExpiry s
  | .shedS2Entry => Sys2Proof.Machine.execShedS2Entry s
  | .shedS3Entry => Sys2Proof.Machine.execShedS3Entry s
  | .shedS4Entry => Sys2Proof.Machine.execShedS4Entry s
  | .shedRecovery => Sys2Proof.Machine.execShedRecovery s
  | .pwrKeepBaseWrite v => Sys2Proof.Machine.execPwrKeepBaseWrite v s
  | .keepCopyDone => Sys2Proof.Machine.execKeepCopyDone s
  | .pwrCountClear v => Sys2Proof.Machine.execPwrCountClear v s
  | .clockSwitchDone q => Sys2Proof.Machine.execClockSwitchDone q s
  | .dramRateSwitchDone q => Sys2Proof.Machine.execDramRateSwitchDone q s
  | .updBlockGo v => Sys2Proof.Machine.execUpdBlockGo v s
  | .updBlockDone misses => Sys2Proof.Machine.execUpdBlockDone misses s
  | .setTrial tries ok => Sys2Proof.Machine.execSetTrial tries ok s
  | .cancel ok => Sys2Proof.Machine.execCancel ok s
  | .confirm ok => Sys2Proof.Machine.execConfirm ok s
  | .handover part => Sys2Proof.Machine.execHandover part s
  | .handoverPrepared => Sys2Proof.Machine.execHandoverPrepared s
  | .handoverWindowTimeout => Sys2Proof.Machine.execHandoverWindowTimeout s
  | .spineHandover => Sys2Proof.Machine.execSpineHandover s
  | .spineHandoverSwitch => Sys2Proof.Machine.execSpineHandoverSwitch s
  | .quarterLeave q => Sys2Proof.Machine.execQuarterLeave q s
  | .quarterDrainDone q me sne sc => Sys2Proof.Machine.execQuarterDrainDone q me sne sc s
  | .quarterRejoin q => Sys2Proof.Machine.execQuarterRejoin q s
  | .attest => Sys2Proof.Machine.execAttest s
  | .readCert which => Sys2Proof.Machine.execReadCert which s
  | .updCountClear v => Sys2Proof.Machine.execUpdCountClear v s
  | .updMailboxWrite off data => Sys2Proof.Machine.execUpdMailboxWrite off data s
  | .obsSnap v => Sys2Proof.Machine.execObsSnap v s
  | .obsCntClear v => Sys2Proof.Machine.execObsCntClear v s
  | .obsDropClear v => Sys2Proof.Machine.execObsDropClear v s
  | .obsDrainRptrWrite v => Sys2Proof.Machine.execObsDrainRptrWrite v s

end Sys2Proof.Machine
end

