-- ==== Sys2Proof/Safety.lean ====
section
/-! DEFINITION. The vocabulary of the claims: how a command ends, the states in which commands act, a device at rest, legal records. -/

namespace Sys2Proof.Machine

/-- The outcome of a command that leaves the device `d`: what follows of itself is taken up, the records and the queue stay. -/
def State.ended (s : State) (d : Dev) : State := { s with dev := settle s.cfg d }

/-- After READY, in RUN, the spine's domain on: the engines act (R459). -/
def Running (s : State) : Prop := s.dev.boot.phase = 2 ∧ s.dev.clk.domains.getD 1 0 = 1 ∧ s.dev.pwr.state = 0

/-- After READY with the spine's domain on. -/
def Live (s : State) : Prop := s.dev.boot.phase = 2 ∧ s.dev.clk.domains.getD 1 0 = 1

/-- A host access of the register at `off` reaches it: the device is not in HOLD, and the register's block answers. -/
def HostReaches (s : State) (off : Nat) : Prop := s.dev.pwr.state ≠ 2 ∧ blockOn s.dev off = true

/-- Nothing follows of itself: no note waits, no chain is to be abandoned, no work is ready, no engine preloads. -/
def AtRest (c : Cfg) (d : Dev) : Prop := d.notes = [] ∧ abandonLater c d = none ∧ readyWork c d = d ∧ preloads c d = d

/-- The records in force are legal together: store ways (R95), phase inputs on their own pins (R66), reservations that do not overlap
and do not promise more than the whole (R52), fall-back rings (R532), classes of contexts and engines (R100), ring timeouts and coalescing (R49). -/
structure CfgLegal (c : Cfg) : Prop where
  ways : ∀ q, (c.ways q).scratch &&& (c.ways q).trace = 0 ∧
    ∀ i < 8, (c.ways q).rcMask.getD i 0 &&& ((c.ways q).scratch ||| (c.ways q).trace) = 0
  pins : ∀ i j, i < j → (c.phin i).mode ≠ 0 → (c.phin j).mode ≠ 0 → i + (c.phin i).mode ≤ j
  shares : ∀ r r' a b, r ≠ r' → c.share r = some a → c.share r' = some b →
    ∀ q, a.meMask.getD q 0 &&& b.meMask.getD q 0 = 0 ∧ a.scMask.getD q 0 &&& b.scMask.getD q 0 = 0
  promised : ((List.range 8).map (fun r => ((c.share r).map (·.storePct)).getD 0)).sum ≤ 100 ∧
    ((List.range 8).map (fun r => ((c.share r).map (·.dramPct)).getD 0)).sum ≤ 100
  fallback : ∀ r m, c.dlm r = some m → m.fallbackRing ≠ r ∧ c.dlm m.fallbackRing = none ∧
    ∀ r' m', r' ≠ r → c.dlm r' = some m' → m'.fallbackRing ≠ m.fallbackRing
  classes : (∀ x, c.contextRc x ≤ 7) ∧ ∀ e, c.engineRc e ≤ 7
  times : ∀ r, 0 < (c.ring r).timeout ∧ 0 < (c.ring r).waitTimeoutUs ∧ 0 < (c.ring r).sliceUs
  coalesce : c.submit.mode ≤ 1 ∧ 1 ≤ c.submit.coalesceK ∧ c.submit.coalesceK ≤ 64 ∧ c.submit.coalesceUs ≤ 10

/-! ### Commands of the front end -/

/-- The head of the kernel queue is a fetched MGMT command of operation `op` (R396, R357) whose waits hold, with its 64 payload bytes `b` read,
leaving the device `d`. -/
structure MgmtHead (s : State) (op : Nat) (x : Cmd) (b : List Byte) (d : Dev) : Prop where
  running : Running s
  head : mgmtHead s.dev = some x
  oper : x.entry.op = op
  fetched : x.phase = .fetched
  aligned : x.entry.payload % 64 = 0
  payload : ∃ p, physRead s.cfg (rqZero 0) (x.entry.payload % 2 ^ 48) 64 [] s.dev = (0, p, d) ∧ ppoison p = false ∧ b = pdata p

/-- The ring's oldest command that is not yet dispatched is `x`. -/
def State.waitsAt (s : State) (ring : Nat) (x : Cmd) : Prop := ring < 64 ∧ oldestWaiting (ringOf s.dev ring) = some x

/-! ### Engine units -/

/-- Instance `i` of class `cls` runs the unit `r` of the command `x` and acts: it is not told to stop, holds no stalled request, and is in service (R363, R389). -/
structure UnitRuns (s : State) (cls q i : Nat) (r : Run) (x : Cmd) : Prop where
  running : Running s
  run : runOf s.dev cls q i = some (r, x)
  going : r.stopTb = none
  able : unitStalled s.dev (rqUnit s.cfg x cls q i) = false ∧ faulted s.dev = false ∧ unitUp s.dev cls q i = true

/-- How the work of a unit ends: as `done` says, or waiting on a stalled request, or with the status of what stopped it (R348, R389). -/
def workEnd {α : Type} (cls q i : Nat) (done : α → Dev → Dev) (r : Except Stop α × Dev) : Dev :=
  match r.1 with
  | .ok a => done a r.2
  | .error .stall => r.2
  | .error (.fail st) => unitEnd cls q i st false r.2
  | .error .invalid => unitEnd cls q i 0x10 false r.2

/-- A row that runs a whole command of an engine, of which its registers first show what `take` says: its payload of `len` bytes is read; one that fails its check ends INVALID_COMMAND (R157); one of this row's
kind does the row's work on what its buffers hold (R421), after the writes that an earlier stall left, and ends with the work's outcome. -/
def WholeRow (row : Nat → Nat → Instr) (cls quarters units len : Nat) (take : Cfg → Nat → Dev → Dev) (ok mine : Cmd → List Byte → Bool)
    (work : Cfg → Nat → Run → Cmd → Rq → List Byte → Eng Unit) : Prop :=
  ∀ s q i r x b d, q < quarters → i < units → UnitRuns s cls q i r x →
    runEng (ePayload s.cfg (rqUnit s.cfg x cls q i) x.entry.payload len) (take s.cfg i s.dev) = (.ok b, d) →
    (ok x b = false → exec (row q i) s = .next (s.ended (unitEnd cls q i 0x10 false d))) ∧
    (ok x b = true → mine x b = true → exec (row q i) s = .next (s.ended (workEnd cls q i
      (fun _ e => unitEnd cls q i 0 (runAt e (instIdx cls q i)).poison e)
      (runEng (do resume s.cfg (rqUnit s.cfg x cls q i) (instIdx cls q i); work s.cfg i r x (rqUnit s.cfg x cls q i) b) (readBuffer cls q i d)))))

/-- A Mule row runs one span of its command (R363): with its payload read and legal, the span's work is done; the command's last span ends the unit, and
any other waits for its row of completion. -/
def SpanRow (row : Nat → Nat → Instr) (op : Nat) (m : Cfg → MuleOp) : Prop :=
  ∀ s q i r x b d, q < 4 → i < 4 → UnitRuns s 3 q i r x → r.formed = false → x.entry.op = op →
    runEng (ePayload s.cfg (rqUnit s.cfg x 3 q i) x.entry.payload (m s.cfg).len) (readBuffer 3 q i s.dev) = (.ok b, d) →
    ((m s.cfg).ok b = false → exec (row q i) s = .next (s.ended (unitEnd 3 q i 0x10 false d))) ∧
    ((m s.cfg).ok b = true → exec (row q i) s = .next (s.ended (workEnd 3 q i
      (fun _ e => if (cmdOf e x.serial).any (fun y => y.unitsLeft != []) then markFormed 3 q i e
        else unitEnd 3 q i 0 (runAt e (instIdx 3 q i)).poison e)
      (runEng (do resume s.cfg (rqUnit s.cfg x 3 q i) (instIdx 3 q i); (m s.cfg).work (rqUnit s.cfg x 3 q i) (instIdx 3 q i) b r.unitNo)
        (setUnits x (Nat.max 1 ((m s.cfg).spans b)) d)))))

/-! ### Shader instructions -/

/-- The device after an instruction of a group of core `n` of quarter `q` has issued: one issue is counted (event 0x20 of R506). -/
def State.issued (s : State) (q n : Nat) (t : IssueCtx) (d : Dev) : State := s.ended (obsCount 0x20 q n (some t.x.ctx) 1 d)

/-- A group's next instruction issues (R243, R261): `t` is what is known at the issue, once errors of the core's memories are found (R421, R422), `d` the
device after the instruction's word was read. -/
structure Issued (s : State) (q n gi : Nat) (t : IssueCtx) (d : Dev) : Prop where
  running : Running s
  place : q < 4 ∧ n < 6 ∧ gi < 48
  core : t.k = coreIdx q n ∧ t.rq = rqCore s.cfg t.x t.k
  group : (coreOf (coreErrors t.k s.dev) t.k).groups[gi]? = some t.g
  next : issuing t.g = some (t.pc, t.mask)
  cmd : cmdOf s.dev t.g.serial = some t.x ∧ t.x.expired = false ∧ (ctxOf s.dev t.x.ctx).state = 1
  noneWaits : t.g.rays.any (fun r => bit t.mask r.lane) = false ∧ (lanes t.mask).any (fun l => t.g.lock.getD l 0 == 1) = false
  able : unitStalled s.dev t.rq = false ∧ faulted s.dev = false ∧ unitUp s.dev 4 q n = true
  word : ∃ w, runEng (fetchWord s.cfg t.rq t.pc) (coreErrors t.k s.dev) = (.ok w, d) ∧ decodeIns w = t.i

/-- What a lane gives an instruction of a shape: its operand words, its predicate operand, its number. -/
def laneIn (sh : Shape) (t : IssueCtx) (l : Nat) : LaneIn :=
  { a := (rdSrc t.g t.i.au t.i.a sh.a l).1
    b := if sh.b = 0 ∧ t.i.imm = false then [] else (rdB t.g t.i sh.b l).1
    c := if t.i.imm then [] else (rdSrc t.g t.i.cu t.i.c sh.c l).1
    ps := if sh.ps then (rdP t.g t.i.ps l).1 else false
    lane := l }

/-- The mark of a lane's result (R275): that of any operand it consumed or of its guard. `usesPs` tells that PS is consumed. -/
def laneMark (sh : Shape) (usesPs : Bool) (t : IssueCtx) (l : Nat) : Bool :=
  (rdSrc t.g t.i.au t.i.a sh.a l).2 || (if sh.b = 0 ∧ t.i.imm = false then false else (rdB t.g t.i sh.b l).2) ||
    (if t.i.imm then false else (rdSrc t.g t.i.cu t.i.c sh.c l).2) || (sh.ps && usesPs && (rdP t.g t.i.ps l).2) || (guardOf t.g t.i l).2

/-- A group after an instruction that writes `k` consecutive vector registers from D in the lanes `act`: those hold the results, every other register
of every lane holds what it held, the issuing lanes go on at the next instruction, and nothing else of the group changes. A register at or above
REGS takes no write and reads zero (R254). -/
structure LaneResult (t : IssueCtx) (act : List Nat) (k : Nat) (res : Nat → List Nat) (mk : Nat → Bool) (g : Grp) : Prop where
  written : ∀ l ∈ act, ∀ j < k, t.i.d + j < t.g.regs → rdV g (t.i.d + j) l = ((res l).getD j 0 % 2 ^ 32, mk l)
  absent : ∀ r l, t.g.regs ≤ r → rdV g r l = (0, false)
  kept : ∀ r l, l < 32 → ¬(l ∈ act ∧ t.i.d ≤ r ∧ r < t.i.d + k) → rdV g r l = rdV t.g r l
  frame : { g with vregs := t.g.vregs } = nextPc t.pc t.mask t.g

/-- A lane-by-lane row with vector results: where its opcode issues in a legal form, the lanes whose guard holds take the results. -/
def LaneRow (row : Nat → Nat → Nat → Instr) (op : Nat) (sh : Shape) (more : Ins → Bool) (k : Nat) (res : Ins → LaneIn → List Nat) : Prop :=
  ∀ s q n gi t d, Issued s q n gi t d → t.i.op = op → shapeOk sh t.i = true → more t.i = true →
    ∃ g, LaneResult t t.act k (fun l => res t.i (laneIn sh t l)) (laneMark sh true t) g ∧
      exec (row q n gi) s = .next (s.issued q n t (setGrp t.k g d))

/-- A lane-by-lane row with a predicate result: the lanes whose guard holds write predicate D, and nothing else changes. PS is
consumed where `usesPs` holds. -/
def PredRow (row : Nat → Nat → Nat → Instr) (op : Nat) (sh : Shape) (usesPs : Ins → Bool) (res : Ins → LaneIn → Bool) : Prop :=
  ∀ s q n gi t d, Issued s q n gi t d → t.i.op = op → shapeOk sh t.i = true →
    exec (row q n gi) s = .next (s.issued q n t (setGrp t.k (nextPc t.pc t.mask
      (t.act.foldl (fun g l => wrP t.i.d l (res t.i (laneIn sh t l)) (laneMark sh (usesPs t.i) t l) g) t.g)) d))

/-- A shape of a 32-bit result with `a`, `b` and `c` operand words, an immediate form or not, and the legal MOD values up to `m`. -/
def upTo (m a b c imm : Nat) : Shape := { plain a b c imm with md := fun x => decide (x ≤ m) }

/-- The lanes of an instruction whose accesses are still to be performed: those that an earlier issue performed before it waited are not (R395). -/
def toPerform (t : IssueCtx) : List Nat := t.act.filter (fun l => !bit (aget t.g.part t.pc) l)

/-- Every access of `size` bytes that is still to be performed goes through (R272, R273, R389): no lane waits behind a FENCE, none has a marked or misaligned
address, each is translated, giving `ps` and leaving the device `d'`, and no physical address fails its check (`bus` tells what a bus address faults with). -/
def Accessed (s : State) (t : IssueCtx) (size access : Nat) (off : Bool) (bus : LanePa → Option Nat) (d : Dev) (ps : List LanePa) (d' : Dev) : Prop :=
  t.act.any (fun l => bit t.g.fenced l) = false ∧ vaFault size ((toPerform t).map (laneVa t off)) = none ∧
    translateLanes s.cfg t.rq t.x.ctx access ((toPerform t).map (laneVa t off)) d = (ps, false, d') ∧ paFault s.cfg t.rq size d' bus ps = none

/-- The block whose local memory a group's access reaches, and the lanes' addresses in it: none is marked, out of range or misaligned (R253, R272). -/
def LocalAccess (t : IssueCtx) (size : Nat) (off : Bool) (d : Dev) (b : CoreBlk) (l : List LaneVa) : Prop :=
  b = blkOf d t.k t.g ∧ localFault (if t.g.kind = 2 then b.lo else 0) b size (t.act.map (laneLocal t off)) = none ∧
    l = (t.act.map (laneLocal t off)).map (fun a => { a with va := a.va - if t.g.kind = 2 then b.lo else 0 })

/-- Sixteen elements of a fragment and its partner's: row `i` of A, or column `i` of B, from `k` registers at `f` (R250). -/
def fragmentLine (t : IssueCtx) (fmt f k i : Nat) : List Nat :=
  fragEls (fmtBits fmt) (rdSrc t.g false f k i).1 ++ fragEls (fmtBits fmt) (rdSrc t.g false f k (i + 16)).1

/-- A matrix row (R250 to R252): with all 32 lanes issuing, D to D + 7 of lane l take elements 8 (l / 16) + j of row l mod 16, with the marks of
the fragments, the scale codes and C. -/
def MatrixRow (row : Nat → Nat → Nat → Instr) (op fa fb ra rb : Nat) : Prop :=
  ∀ s q n gi t d, Issued s q n gi t d → t.i.op = op → t.mask = 2 ^ 32 - 1 →
    shapeOk { plain ra rb 8 0 with dst := 8, guard := false, uni := false, x := fun x => decide (x < 256) } t.i = true →
    (t.i.d + 8 ≤ t.i.a ∨ t.i.a + ra ≤ t.i.d) → (t.i.d + 8 ≤ t.i.b ∨ t.i.b + rb ≤ t.i.d) → (t.i.d + 8 ≤ t.i.x ∨ t.i.x + 1 ≤ t.i.d) →
    ∃ g, exec (row q n gi) s = .next (s.issued q n t (setGrp t.k g d)) ∧
      { g with vregs := t.g.vregs } = nextPc t.pc t.mask t.g ∧
      (∀ r l, l < 32 → ¬(t.i.d ≤ r ∧ r < t.i.d + 8) → rdV g r l = rdV t.g r l) ∧
      ∀ l j, l < 32 → j < 8 → t.i.d + j < t.g.regs →
        let scale := fun (r : Nat) => rdSrc t.g false t.i.x 1 r
        let c := rdSrc t.g false (t.i.c + j) 1 l
        let k := 8 * (l / 16) + j
        rdV g (t.i.d + j) l = (mmaElement fa fb (fragmentLine t fa t.i.a ra (l % 16)) (fragmentLine t fb t.i.b rb k)
            (wd (scale (l % 16)).1 0 % 256) (wd (scale k).1 0 / 256 % 256) (wd c.1 0) % 2 ^ 32,
          (rdSrc t.g false t.i.a ra (l % 16)).2 || (rdSrc t.g false t.i.a ra (l % 16 + 16)).2 || (scale (l % 16)).2 ||
            ((rdSrc t.g false t.i.b rb k).2 || (rdSrc t.g false t.i.b rb (k + 16)).2 || (scale k).2) || c.2)

/-- The shape of a floating-point opcode (R266): MOD 0 to 2, and the source modifiers of X that its operands allow. -/
def fpShape (b c imm xm : Nat) : Shape := { plain 1 b c imm with md := fun m => decide (m ≤ 2), x := fun x => x &&& (511 - xm) == 0 }

/-- Element by element, a result of the operands A, B and C with their modifiers in the type of MOD (R266). -/
def perElement (f : Nat → FVal → FVal → FVal → Nat) (i : Ins) (x : LaneIn) : List Nat :=
  [fpPack i.md ((fpArgs i x).map (fun (a, b, c) => f (fpFmt i.md) a b c))]

end Sys2Proof.Machine
end

