-- ==== Sys2Proof/Certificates/Slice0/Obligations.lean ====
section
/-! DEFINITION. The statements for the provers. -/

open Sys2Proof Sys2Proof.Machine

/-- For every live state, PHIN_LEVEL_CHANGE of a pin that a reference uses starts the glitch filter's count at the present time, and a change back within the filter's time counts GLITCH, while one after it comes behind the acceptance of the level that it ends; an unused pin only takes its level. PHIN_EDGE_ACCEPTED lets time pass to the end of the filter and gives the reference an edge at the time of the first sample. ACQUIRE_TIMEOUT restarts timing and counts TIMEOUT; LOCK_TIMEOUT counts it and enters COASTING with COAST_TURNS turns left, or LOST when that is 0. INTERPOLATED_TURN of a valid reference lets time pass to the carry, adds one turn and keeps the rest of the angle; a turn of COASTING after its entry takes one from COAST_LEFT. The first DISPLAY_LINE_START of an enabled pipe locks its reference at turn 0 with a new epoch, and every line of a present reference aligns it to the nearest exact line angle, a frame's first line being its edge. Where it follows a convention of the model's own, that is the model's choice and no rule of the spec: log 4, 32.
(derived; R63, R64, R65, R67, R70, R71, R73.) -/
def Obligations.PhaseInputRows : Prop :=
  (∀ s pin level, pin < 8 → Live s → exec (.phinLevelChange pin level) s = .next (s.ended (
    let p := s.dev.phe.pins.getD pin default
    let moved := fun (f : PinSt → PinSt) => { s.dev with phe := { s.dev.phe with pins := s.dev.phe.pins.modify pin f } }
    if (pinUse s.cfg pin).isNone then moved (fun p => { p with raw := level, level := level, since := s.dev.phe.tb })
    else if p.raw = level then s.dev
    else if level ≠ p.level then moved (fun p => { p with raw := level, since := s.dev.phe.tb })
    else if s.dev.phe.tb < p.since + glitchW s.cfg ((pinUse s.cfg pin).getD (0, 0)).1 then
      setRef (moved (fun p => { p with raw := level, since := s.dev.phe.tb })) ((pinUse s.cfg pin).getD (0, 0)).1
        (fun r => { r with glitch := satInc 255 r.glitch })
    else
      let d := phinEdge s.cfg pin s.dev
      { d with phe := { d.phe with pins := d.phe.pins.modify pin (fun p => { p with raw := level, since := d.phe.tb }) } }))) ∧
  (∀ s pin n part, pin < 8 → Live s → pinUse s.cfg pin = some (n, part) →
    (s.dev.phe.pins.getD pin default).raw ≠ (s.dev.phe.pins.getD pin default).level →
    let p := s.dev.phe.pins.getD pin default
    let d := advanceTo s.cfg (p.since + glitchW s.cfg n) s.dev
    let other := if part = 0 then d.phe.pins.getD (n + 1) default else d.phe.pins.getD n default
    let both := (s.cfg.phin n).mode == 3 && part != 2 && other.raw != other.level && other.since == p.since
    let pins := d.phe.pins.modify pin (fun p => { p with level := p.raw })
    exec (.phinEdgeAccepted pin) s = .next (s.ended (pinEdge s.cfg n part p.since p.raw both { d with phe := { d.phe with
      pins := if both then pins.modify (if part = 0 then n + 1 else n) (fun p => { p with level := p.raw }) else pins } }))) ∧
  (∀ s n, n < 8 → Live s → (refOf s.dev n).state = 1 → refMode s.cfg n = 1 ∨ refMode s.cfg n = 2 →
    let d := advanceTo s.cfg ((refOf s.dev n).timingTb + ceilDiv ((s.cfg.phin n).timeoutK * (s.cfg.phin n).periodMax) 2) s.dev
    exec (.acquireTimeout n) s = .next (s.ended (setRef d n (fun r => { r with
      timingTb := d.phe.tb, lastEdge := none, good := 0, timeout := satInc 255 r.timeout, pulses := 0, pulseBad := false })))) ∧
  (∀ s n, n < 8 → Live s → (refOf s.dev n).state = 2 → refMode s.cfg n = 1 ∨ refMode s.cfg n = 2 →
    let d := setRef (advanceTo s.cfg ((refOf s.dev n).edgeTb + (s.cfg.phin n).timeoutK * (refOf s.dev n).period) s.dev) n
      (fun r => { r with timeout := satInc 255 r.timeout })
    exec (.lockTimeout n) s = .next (s.ended (if (s.cfg.phin n).coastTurns = 0 then enterLost s.cfg n d
      else refTrace s.cfg n false (setRef d n (fun r => { r with
        state := 3
        coastLeft := (s.cfg.phin n).coastTurns
        coastEntry := if 2 ^ 48 ≤ r.acc + (s.cfg.phin n).timeoutK * (2 ^ 48 % Nat.max 1 r.period) - r.hold then (r.turn + 1) % 2 ^ 32
          else r.turn }))))) ∧
  (∀ s n, n < 10 → Live s → refValid (refOf s.dev n) = true → refMode s.cfg n ≠ 3 → 0 < refInc s.cfg n (refOf s.dev n) →
    let r := refOf s.dev n
    let d := advance s.cfg (if 2 ^ 48 ≤ r.acc then 0 else ceilDiv (2 ^ 48 - r.acc + r.hold) (refInc s.cfg n r)) s.dev
    let e := maintUpdate n (setRef d n (fun r => { r with turn := (r.turn + 1) % 2 ^ 32, acc := r.acc - 2 ^ 48 }))
    let f := setRef e n (fun r => { r with coastLeft := r.coastLeft - 1 })
    exec (.interpolatedTurn n) s = .next (s.ended (if r.state = 3 ∧ (refOf e n).turn ≠ r.coastEntry then
      (if (refOf f n).coastLeft = 0 then enterLost s.cfg n f else f) else e))) ∧
  (∀ s p, p < 2 → Running s → (s.cfg.disp p).enable ≠ 0 → 0 < totalLines s.cfg p → s.dev.clk.domains.getD 3 0 = 1 → (refOf s.dev (8 + p)).state = 0 →
    exec (.displayLineStart p 0) s = .next (s.ended (refTrace s.cfg (8 + p) true (enterLocked s.cfg (8 + p) (framePeriod s.cfg p) s.dev.phe.tb
      (setRef s.dev (8 + p) (fun r => { r with epoch := (r.epoch + 1) % 65536 })))))) ∧
  (∀ s p line, p < 2 → line < totalLines s.cfg p → line < 65536 → Running s → (s.cfg.disp p).enable ≠ 0 → s.dev.clk.domains.getD 3 0 = 1 →
    (refOf s.dev (8 + p)).state ≠ 0 →
    let r := refOf s.dev (8 + p)
    let now : Int := (r.turn * 2 ^ 48 + r.acc : Nat) - (r.hold : Int)
    let values := [now / 2 ^ 48 - 1, now / 2 ^ 48, now / 2 ^ 48 + 1].map
      (fun b => b * 2 ^ 48 + (((line * 2 ^ 32 / totalLines s.cfg p) * 2 ^ 16 : Nat) : Int))
    ∃ v ∈ values, (∀ w ∈ values, (v - now).natAbs ≤ (w - now).natAbs) ∧
      exec (.displayLineStart p line) s = .next (s.ended (
        let d := alignTo s.cfg (8 + p) v s.dev
        if line = 0 then setRef d (8 + p) (fun r => { r with edgeTb := d.phe.tb }) else d)))

/-- For every running state with no retraining in progress, RETRAIN_START of the next quarter that is due begins its retraining in a maintenance window that it fits and that has not been used; RETRAIN_FORCED of a quarter whose memory is on and whose clock does not switch lets time pass to 48 ms after its last retraining, counts MAINT_FORCED and begins it. RETRAIN_END of the quarter that retrains lets time pass to 750 TBCLK (1.5 us) after the beginning, ends it and notes its time. Where it follows a convention of the model's own, that is the model's choice and no rule of the spec: log 27, 28.
(derived; R85, R469.) -/
def Obligations.RetrainingRows : Prop :=
  (∀ s q w, q < 4 → Running s → windowFits s.cfg 750 s.dev = some w → s.dev.phe.retraining = none → s.dev.phe.windowUsed ≠ some w →
    retrainDue s.dev q = true → (∀ i < 4, retrainDue s.dev ((s.dev.phe.nextRetrain + i) % 4) = true → ∃ j ≤ i, (s.dev.phe.nextRetrain + j) % 4 = q) →
    exec (.retrainStart q) s = .next (s.ended { s.dev with phe := { s.dev.phe with
      retraining := some (q, s.dev.phe.tb), windowUsed := some w, nextRetrain := (q + 1) % 4 } })) ∧
  (∀ s q, q < 4 → Running s → s.dev.clk.domains.getD (11 + 5 * q) 0 = 1 → s.dev.phe.retraining = none →
    s.dev.clk.switches.any (fun w => w.quarter == q) = false →
    let d := advanceTo s.cfg (s.dev.phe.lastRetrain.getD q 0 + 24000000) s.dev
    exec (.retrainForced q) s = .next (s.ended { d with phe := { d.phe with
      maintForced := satInc 65535 d.phe.maintForced, retraining := some (q, d.phe.tb), nextRetrain := (q + 1) % 4 } })) ∧
  (∀ s q t, q < 4 → Live s → s.dev.phe.retraining = some (q, t) →
    let d := advanceTo s.cfg (t + 750) s.dev
    exec (.retrainEnd q) s = .next (s.ended { d with phe := { d.phe with retraining := none, lastRetrain := d.phe.lastRetrain.set q d.phe.tb } }))

/-- For every running state, GO with CLEAN, INVALIDATE or CLEAN_INVALIDATE of an idle quarter block makes it BUSY with the range that its registers hold, and of a busy block only sets REJECTED; CS_MAINT_COMPLETE treats every line of the range in every slice, clears BUSY, sets DONE and counts one event of source 28 + q. An Ox core's CS_SW_OP on a cache way treats the one line of that set and way. CS_WAY_OFF takes the new value: cache ways newly set start cleaning, cleared bits leave CLEANING and OFF; WAY_CLEAN_DONE cleans and invalidates every line of a way that is cleaning and moves it from CLEANING to OFF. Where it follows a convention of the model's own, that is the model's choice and no rule of the spec: log 100.
(derived; R113, R114, R116, R117, R119.) -/
def Obligations.StoreMaintenanceRows : Prop :=
  (∀ s q op, q < 4 → HostReaches s (csAt q 0x70) →
    (op = (.csMaintClean q, 1) ∨ op = (.csMaintInvalidate q, 2) ∨ op = (.csMaintCleanInvalidate q, 3)) →
    exec op.1 s = .next (s.ended { s.dev with store := s.dev.store.modify q (fun m =>
      if m.maintBusy then { m with maintRejected := true }
      else { m with maintOp := op.2, maintRun := (op.2, m.maintPa, m.maintLen), maintBusy := true }) })) ∧
  (∀ s q, q < 4 → Running s → (sliceOf s.dev q).maintBusy = true →
    exec (.csMaintComplete q) s = .next (s.ended (raise (28 + q) (setSlice
      (maintRange s.cfg (sliceOf s.dev q).maintRun.1 (sliceOf s.dev q).maintRun.2.1 (sliceOf s.dev q).maintRun.2.2 s.dev) q
      (fun m => { m with maintBusy := false, maintDone := true }))))) ∧
  (∀ s q set way op, q < 4 → set < 24576 → way < 16 → quarterReg s.dev q 0 = true → bit (cacheWays s.cfg q) way = true →
    (op = (.csSwClean q set way, 1) ∨ op = (.csSwInvalidate q set way, 2) ∨ op = (.csSwCleanInvalidate q set way, 3)) →
    exec op.1 s = .next (s.ended (maintLine op.2 true q (set * 16 + way) s.dev))) ∧
  (∀ s q v, q < 4 → v < 2 ^ 32 → HostReaches s (csAt q 0x08) →
    exec (.csWayOffWrite q v) s = .next (s.ended { s.dev with store := s.dev.store.modify q (fun m => { m with
      wayOff := v % 2 ^ 16
      cleaning := (m.cleaning ||| maskAndNot 16 ((v % 2 ^ 16) &&& cacheWays s.cfg q) m.off) &&& (v % 2 ^ 16)
      off := m.off &&& (v % 2 ^ 16) }) })) ∧
  (∀ s q way, q < 4 → way < 16 → Running s → bit (sliceOf s.dev q).cleaning way = true →
    exec (.wayCleanDone q way) s = .next (s.ended (setSlice (cleanWays q (2 ^ way) s.dev) q (fun m =>
      { m with cleaning := putBit m.cleaning way false, off := putBit m.off way true }))))

/-- For every running state, a request of 1 to 128 bytes inside one line is placed by its address. A write of whole bytes to a bus address is posted, and a read of one waits for its completion, as part of the last read where it goes on from it. A read that 256 outstanding ones hold back, a request to a slice that is held and one to a scratch way that is being zeroed wait, and an access of the register region is performed (a write with gaps to the bus too, its bytes alone). A scratch access with its way at rest is performed, with the error that it meets. A request to DRAM behind an earlier request of its line waits; one whose sectors are at hand is performed at once; any other waits, behind a dirty victim or for a fill, or for a line buffer while all 64 are taken. A request that fails its check loses its context, or without one is dropped and counted. EVICTION_ACCEPTED lets the oldest request behind a victim go on, DRAM_FILL_COMPLETE performs the oldest request that waits for a fill with what the fill finds, each followed by the requests that waited for them, and PREFETCH_REQUEST fetches an absent line to the side buffer. Where it follows a convention of the model's own, that is the model's choice and no rule of the spec: log 14, 16, 18, 163, 164.
(derived; R94, R97, R103, R104, R105, R108, R110, R381.) -/
def Obligations.StoreRequestRows : Prop :=
  (∀ s ctx cls q i pa len wdata noalloc onchip rq f, Running s → (Instr.storeRequest ctx cls q i pa len wdata noalloc onchip).wf = true →
    rq = { (match ctx with
      | some x => rqNamed s.cfg x cls q i
      | none => rqOwn s.cfg cls (if quarterClass cls then q else 4) i) with noalloc := noalloc } →
    f = (⟨rq, pa, (wdata.map (·.length)).getD len, wdata, 0, false⟩ : Fill) → 0 < f.len → pa % 128 + f.len ≤ 128 →
    (∀ a w, place s.cfg s.dev rq pa f.len = .bus a → wdata = some (w.map some) →
      exec (.storeRequest ctx cls q i pa len wdata noalloc onchip) s = .next (s.ended (answer [] true (busWrite s.dev a w)))) ∧
    (∀ a, place s.cfg s.dev rq pa f.len = .bus a → wdata.isSome = true →
      exec (.storeRequest ctx cls q i pa len wdata noalloc onchip) s = .next (s.ended (performLine s.cfg f [] s.dev))) ∧
    (∀ r, place s.cfg s.dev rq pa f.len = .regs r →
      exec (.storeRequest ctx cls q i pa len wdata noalloc onchip) s = .next (s.ended (performLine s.cfg f [] s.dev))) ∧
    (∀ a, place s.cfg s.dev rq pa f.len = .bus a → wdata = none →
      (∀ r ∈ s.dev.host.outReads.getLast?, ¬(r.rq = rq ∧ r.bus + r.len = a ∧ r.len + f.len ≤ 512 ∧ r.inv = false)) →
      s.dev.host.outReads.length < 256 →
      exec (.storeRequest ctx cls q i pa len wdata noalloc onchip) s = .next (s.ended { s.dev with
        host := { s.dev.host with outReads := s.dev.host.outReads ++ [⟨rq, a, f.len, false⟩] } })) ∧
    (∀ a r l, place s.cfg s.dev rq pa f.len = .bus a → wdata = none → s.dev.host.outReads = l ++ [r] →
      r.rq = rq → r.bus + r.len = a → r.len + f.len ≤ 512 → r.inv = false →
      exec (.storeRequest ctx cls q i pa len wdata noalloc onchip) s = .next (s.ended { s.dev with
        host := { s.dev.host with outReads := l ++ [{ r with len := r.len + f.len }] } })) ∧
    (∀ a, place s.cfg s.dev rq pa f.len = .bus a → wdata = none →
      (∀ r ∈ s.dev.host.outReads.getLast?, ¬(r.rq = rq ∧ r.bus + r.len = a ∧ r.len + f.len ≤ 512 ∧ r.inv = false)) →
      256 ≤ s.dev.host.outReads.length →
      exec (.storeRequest ctx cls q i pa len wdata noalloc onchip) s = .next (s.ended
        (setSlice s.dev (homeOf s.cfg s.dev f) (fun m => { m with waiting := m.waiting ++ [{ f with stage := 4 }] })))) ∧
    (∀ h w o, place s.cfg s.dev rq pa f.len = .scratch h w o → sliceHeld s.dev h = true ∨ bit (sliceOf s.dev h).zeroing w = true →
      exec (.storeRequest ctx cls q i pa len wdata noalloc onchip) s = .next (s.ended
        (setSlice s.dev h (fun m => { m with waiting := m.waiting ++ [{ f with stage := if sliceHeld s.dev h then 3 else 2 }] })))) ∧
    (∀ h o, place s.cfg s.dev rq pa f.len = .dram h o → sliceHeld s.dev h = true →
      exec (.storeRequest ctx cls q i pa len wdata noalloc onchip) s = .next (s.ended
        (setSlice s.dev h (fun m => { m with waiting := m.waiting ++ [{ f with stage := 3 }] })))) ∧
    (∀ h w o, place s.cfg s.dev rq pa f.len = .scratch h w o → sliceHeld s.dev h = false → bit (sliceOf s.dev h).zeroing w = false →
      exec (.storeRequest ctx cls q i pa len wdata noalloc onchip) s = .next (s.ended
        (performLine s.cfg f [] (plantUpset h (some (scratchLoc w o)) onchip s.dev)))) ∧
    (∀ h o, place s.cfg s.dev rq pa f.len = .dram h o → sliceHeld s.dev h = false →
      exec (.storeRequest ctx cls q i pa len wdata noalloc onchip) s = .next (s.ended
        (if waitersOf s.cfg s.dev h (o / 128) ≠ [] then setSlice s.dev h (fun m => { m with waiting := m.waiting ++ [{ f with stage := 5 }] })
         else match stageOf s.cfg s.dev f with
           | none => performLine s.cfg f [] (plantUpset h (chipLoc s.dev h (o / 128) (o % 128) f) onchip s.dev)
           | some n => setSlice s.dev h (fun m => { m with
               waiting := m.waiting ++ [{ f with stage := if 64 ≤ lineBuffers s.cfg s.dev h then 4 else n }] })))) ∧
    (∀ st sl, place s.cfg s.dev rq pa f.len = .bad st sl → rq.ctx = none →
      exec (.storeRequest ctx cls q i pa len wdata noalloc onchip) s = .next (s.ended
        (countDropped rq st sl (answer (List.replicate f.len (0, false)) false s.dev)))) ∧
    (∀ st sl x, place s.cfg s.dev rq pa f.len = .bad st sl → rq.ctx = some x →
      exec (.storeRequest ctx cls q i pa len wdata noalloc onchip) s = .next (s.ended
        (loseContext s.cfg x st [] (answer [] false s.dev))))) ∧
  (∀ s q f l o h, q < 4 → Running s → sliceHeld s.dev q = false → memServes s.dev q = true →
    (sliceOf s.dev q).waiting.find? (fun f => f.stage == 0) = some f → fillLine s.cfg s.dev f = some (h, l, o) →
    ∃ d, d = (allocate s.cfg q l f.rq s.dev).2 ∧ exec (.evictionAccepted q) s = .next (s.ended
      (if (stageOf s.cfg d f).isSome then
        setSlice d q (fun m => { m with waiting := m.waiting.map (fun g => if g = f then { g with stage := 1 } else g) })
       else retryWaiting s.cfg q (performLine s.cfg f [] (setSlice d q (fun m => { m with waiting := m.waiting.erase f })))))) ∧
  (∀ s q errs f, q < 4 → (Instr.dramFillComplete q errs).wf = true → Running s → sliceHeld s.dev q = false → memServes s.dev q = true →
    (sliceOf s.dev q).waiting.find? (fun f => f.stage == 1) = some f →
    exec (.dramFillComplete q errs) s = .next (s.ended (retryWaiting s.cfg q (performLine s.cfg f errs
      (setSlice s.dev q (fun m => { m with waiting := m.waiting.erase f })))))) ∧
  (∀ s ctx cls q i pa errs h o, (Instr.prefetchRequest ctx cls q i pa errs).wf = true → Running s → s.dev.pwr.stage = 0 →
    place s.cfg s.dev (rqNamed s.cfg ctx cls q i) pa 1 = .dram h o → (sliceOf s.dev h).memLost = false →
    findWay s.dev h (o / 128) = none → (stagedAt s.dev h (o / 128)).isSome = false →
    (sliceOf s.dev h).side.any (fun e => e.l == o / 128) = false → waitersOf s.cfg s.dev h (o / 128) = [] →
    ∃ x d, fetchSectors h 0xF errs (freshLine (o / 128)) s.dev = (x, d) ∧
      exec (.prefetchRequest ctx cls q i pa errs) s = .next (s.ended (obsCount 0x34 h 0xF none 1
        (setSlice (chipWrite h 1 (bufferLoc 17 (o / 128)) 128 d) h (fun m => { m with side := (⟨o / 128, (rqNamed s.cfg ctx cls q i).ctx, x.poison, x.data⟩ :: m.side).take 256 })))))

/-- For every running state, WRITE_DRAIN_EXIT of a slice in write drain leaves 64 lines in its write queue, ends the drain, and has the controller accept the staged lines and the requests behind them go on; STREAM_TRACKER_TIMEOUT lets time pass to 1 us (500 TBCLK) after the least recent tracker's last miss and drops the trackers that are then so old; SCRATCH_ZERO_DONE ends the zeroing and performs, in order, the requests that waited for it. After READY, QUARTER_MEMORY_LOST of a quarter not yet lost discards its lines, its side buffer, its staged lines and their use order, clears KEEP_READY when the quarter is Q0, marks the memory lost and notes the loss for what follows from it. Where it follows a convention of the model's own, that is the model's choice and no rule of the spec: log 4, 13.
(derived; R29, R98, R106, R110, R112.) -/
def Obligations.StoreTimedRows : Prop :=
  (∀ s q, q < 4 → Running s → (sliceOf s.dev q).drain = true →
    ∃ d, d = { s.dev with store := s.dev.store.modify q (fun m => { m with wq := 64, drain := false }) } ∧
      exec (.writeDrainExit q) s = .next (s.ended (retryWaiting s.cfg q ((sliceOf d q).staged.foldl (fun d x => acceptLine q x d) d)))) ∧
  (∀ s q t, q < 4 → Running s → (sliceOf s.dev q).trackers.getLast? = some t →
    ∃ d, d = advanceTo s.cfg (t.tb + 500) s.dev ∧
      exec (.streamTrackerTimeout q) s = .next (s.ended { d with store := d.store.modify q (fun m => { m with
        trackers := m.trackers.filter (fun t => decide (d.phe.tb < t.tb + 500)) }) })) ∧
  (∀ s q, q < 4 → Running s →
    exec (.scratchZeroDone q) s = .next (s.ended (((sliceOf s.dev q).waiting.filter (fun f => f.stage == 2)).foldl
      (fun d f => performLine s.cfg f [] d) { s.dev with store := s.dev.store.modify q (fun m => { m with
        zeroing := 0, waiting := m.waiting.filter (fun f => f.stage != 2) }) }))) ∧
  (∀ s q, q < 4 → s.dev.boot.phase = 2 → (sliceOf s.dev q).memLost = false →
    exec (.quarterMemoryLost q) s = .next (s.ended { s.dev with
      store := s.dev.store.modify q (fun m => { m with memLost := true, lines := [], side := [], staged := [], recency := [] })
      pwr := { s.dev.pwr with keepReady := decide (q ≠ 0) && s.dev.pwr.keepReady }
      notes := s.dev.notes ++ [.quarterOut q] }))

/-- For every running state with such an MGMT command fetched at the head of the kernel queue and its payload read, the row answers a next state, whatever the payload holds. CTX_CREATE of a FREE context, the MMU on and the root legal, makes it ACTIVE with that root and drops what is cached of it. CTX_KILL runs the loss sequence with cause KILLED on an ACTIVE context and leaves any other as it is. CTX_RELEASE does the same to an ACTIVE context first; a FREE one is left as it is; one with commands or held completion records left waits; else it becomes FREE, its rings are unbound and its translations and side-buffer entries dropped. RING_INIT of an unbound ring with an ACTIVE context and legal bases and sizes binds it with zero indices and drops its lanes' deficits. RING_UNBIND leaves an unbound ring as it is, unbinds an idle one, and stops the fetching of a busy one and waits. FENCE_INIT sets a fence's value and error flag and looks again at what waits on it. In every other case the command completes INVALID_COMMAND with nothing else changed. Where it follows a convention of the model's own, that is the model's choice and no rule of the spec: log 25, 26, 145.
(derived; R333, R334, R336, R350, R357, R388.) -/
def Obligations.ContextAndRingManagementRows : Prop :=
  (∀ s x b d, MgmtHead s 1 x b d →
    (getLe b 0 1 < 64 → (ctxOf d (getLe b 0 1)).state = 0 → tableOk 3 (getLe b 8 8) = true → d.mmu.enable = true →
      exec .ctxCreate s = .next (s.ended (mgmtEnd s.cfg x 0 (dropCached (some (getLe b 0 1)) 0 (2 ^ 48)
        { d with fe := { d.fe with ctxs := aset d.fe.ctxs (getLe b 0 1) ⟨1, 0, getLe b 8 8⟩ } })))) ∧
    (¬(getLe b 0 1 < 64 ∧ (ctxOf d (getLe b 0 1)).state = 0 ∧ tableOk 3 (getLe b 8 8) = true ∧ d.mmu.enable = true) →
      exec .ctxCreate s = .next (s.ended (mgmtEnd s.cfg x 0x10 d)))) ∧
  (∀ s x b d, MgmtHead s 2 x b d → exec .ctxKill s = .next (s.ended (
    if 64 ≤ getLe b 0 1 then mgmtEnd s.cfg x 0x10 d
    else if (ctxOf d (getLe b 0 1)).state = 1 then mgmtEnd s.cfg x 0 (loseContext s.cfg (getLe b 0 1) 0x19 [] d)
    else mgmtEnd s.cfg x 0 d))) ∧
  (∀ s x b d, MgmtHead s 3 x b d →
    let e := if (ctxOf d (getLe b 0 1)).state = 1 then loseContext s.cfg (getLe b 0 1) 0x19 [] d else d
    exec .ctxRelease s = .next (s.ended (
      if 64 ≤ getLe b 0 1 then mgmtEnd s.cfg x 0x10 d
      else if (ctxOf e (getLe b 0 1)).state = 0 then mgmtEnd s.cfg x 0 e
      else if cmdsOfCtx e (getLe b 0 1) = [] ∧ e.fe.rings.all (fun p => !(p.2.bound && p.2.ctx == getLe b 0 1 && p.2.waitRecs != [])) = true then
        mgmtEnd s.cfg x 0 (flushSide (getLe b 0 1) (dropCached (some (getLe b 0 1)) 0 (2 ^ 48)
          (unbindCtx (getLe b 0 1) { e with fe := { e.fe with ctxs := aset e.fe.ctxs (getLe b 0 1) ⟨0, (ctxOf e (getLe b 0 1)).cause, 0⟩ } })))
      else mgmtBegun x e))) ∧
  (∀ s x b d, MgmtHead s 4 x b d → exec .ringInit s = .next (s.ended (
    if getLe b 0 1 < 64 ∧ getLe b 1 1 < 64 ∧ (ringOf d (getLe b 0 1)).bound = false ∧ (ctxOf d (getLe b 1 1)).state = 1 ∧
        queueSizeOk (getLe b 4 4) = true ∧ queueSizeOk (getLe b 0x18 4) = true ∧ ringBaseOk (getLe b 8 8) = true ∧ cqBaseOk (getLe b 0x10 8) = true then
      mgmtEnd s.cfg x 0 { d with
        fe := { d.fe with rings := aset d.fe.rings (getLe b 0 1) { (default : Ring) with
          bound := true, ctx := getLe b 1 1, size := getLe b 4 4, base := getLe b 8 8, cqBase := getLe b 0x10 8, cqSize := getLe b 0x18 4
          ignored := (ringOf d (getLe b 0 1)).ignored
          devWriter := (ringOf d (getLe b 0 1)).devWriter } }
        sched := { d.sched with deficit := d.sched.deficit.filter (fun p => p.1 % 64 != getLe b 0 1) } }
    else mgmtEnd s.cfg x 0x10 d))) ∧
  (∀ s x b d, MgmtHead s 5 x b d → exec .ringUnbind s = .next (s.ended (
    if 64 ≤ getLe b 0 1 then mgmtEnd s.cfg x 0x10 d
    else if (ringOf d (getLe b 0 1)).bound = false then mgmtEnd s.cfg x 0 d
    else if (ringOf d (getLe b 0 1)).cmds = [] ∧ (ringOf d (getLe b 0 1)).waitRecs = [] then
      mgmtEnd s.cfg x 0 (setRing d (getLe b 0 1) (fun r => { r with bound := false, unbinding := false, pending := false, fetchTo := none }))
    else mgmtBegun x (setRing d (getLe b 0 1) (fun r => { r with unbinding := true }))))) ∧
  (∀ s x b d, MgmtHead s 6 x b d → exec .fenceInit s = .next (s.ended (
    if 1 < getLe b 2 1 then mgmtEnd s.cfg x 0x10 d
    else mgmtEnd s.cfg x 0 (reevaluate (getLe b 0 2 % 4096)
      { d with fe := { d.fe with fences := aset d.fe.fences (getLe b 0 2 % 4096) ⟨getLe b 8 8, getLe b 2 1 == 1⟩ } }))))

/-- For every running state with such an MGMT command fetched at the head of the kernel queue and its payload read, INVALIDATE of one context or, with 0xFF, of all drops the cached translations of its range, or with a LENGTH of 0 of the whole context, marks the translated requests that are outstanding then, and its command stays at the head as dispatched. CTX_SET_ROOT of an ACTIVE context with a legal root sets the root, drops all translations of the context, marks its requests and waits likewise. A payload that names no such context or no legal root completes INVALID_COMMAND. INVALIDATE_COMPLETE completes the waiting command OK once no marked read and no marked store request is outstanding. Where it follows a convention of the model's own, that is the model's choice and no rule of the spec: log 25.
(derived; R396, R397, R398.) -/
def Obligations.InvalidationAndRootRows : Prop :=
  (∀ s x b d, MgmtHead s 0x10 x b d → exec .invalidate s = .next (s.ended (
    if 64 ≤ getLe b 0 1 ∧ getLe b 0 1 ≠ 0xFF then mgmtEnd s.cfg x 0x10 d
    else
      let who := if getLe b 0 1 = 0xFF then none else some (getLe b 0 1)
      let e := markIssued who (if getLe b 0x10 8 = 0 then dropCached who 0 (2 ^ 48) d else dropCached who (getLe b 8 8 % 2 ^ 48) (getLe b 0x10 8) d)
      mgmtBegun x (setCmd e x.serial (fun y => { y with phase := .dispatched, dispatchTb := e.phe.tb }))))) ∧
  (∀ s x b d, MgmtHead s 0x11 x b d → exec .ctxSetRoot s = .next (s.ended (
    if 64 ≤ getLe b 0 1 ∨ (ctxOf d (getLe b 0 1)).state ≠ 1 ∨ tableOk 3 (getLe b 8 8) = false then mgmtEnd s.cfg x 0x10 d
    else
      let e := markIssued (some (getLe b 0 1)) (dropCached (some (getLe b 0 1)) 0 (2 ^ 48)
        { d with fe := { d.fe with ctxs := amod d.fe.ctxs (getLe b 0 1) (fun r => { r with root := getLe b 8 8 }) } })
      mgmtBegun x (setCmd e x.serial (fun y => { y with phase := .dispatched, dispatchTb := e.phe.tb }))))) ∧
  (∀ s x rest, Running s → s.dev.fe.kqCmds = x :: rest → x.phase = .dispatched → x.entry.op = 0x10 ∨ x.entry.op = 0x11 →
    (∀ m ∈ s.dev.host.outReads, m.inv = false) → (∀ m ∈ s.dev.store, ∀ w ∈ m.waiting, w.inv = false) →
    exec .invalidateComplete s = .next (s.ended (mgmtEnd s.cfg x 0 s.dev)))

/-- For every state in RUN with ordinary registers answering and no entry into a lower state, and every 32-bit value, each write completes. DB_WPTR is accepted exactly when the ring is bound without a device writer in DIRECT mode, no device fault stands, and the value is at most SIZE beyond both RPTR and WPTR; the doorbell then acts at once or joins the batch, and any other write is counted as ignored (in the fault state, nothing happens). DB_CQ_RPTR, FE_KQ_WPTR and FE_KQ_CQ_RPTR are taken or counted by the same kind of check. Clearing FE_KQ_ENABLE disables the kernel queue; setting it with legal sizes zeroes its indices and writes the records that wait. DOORBELL_BATCH_CLOSE lets time pass to the end of the batch and gives each of its doorbells effect. Where it follows a convention of the model's own, that is the model's choice and no rule of the spec: log 26.
(derived; R335, R336, R338, R339, R340, R341.) -/
def Obligations.DoorbellRows : Prop :=
  (∀ s r v, r < 64 → v < 2 ^ 32 → ordinary s.dev = true → s.dev.pwr.state = 0 → s.dev.pwr.entering = 0 → faulted s.dev = false →
    let g := ringOf s.dev r
    let d := { s.dev with fe := { s.dev.fe with rings := amod s.dev.fe.rings r (fun g => { g with wptr := v }) } }
    let f := d.fe
    let joined := { d with fe := { f with
        batchTb := some (f.batchTb.getD d.phe.tb), batchCount := f.batchCount + 1
        batchRings := if f.batchRings.contains r then f.batchRings else f.batchRings ++ [r] } }
    exec (.dbWptrWrite r v) s = .next (s.ended (
      if g.bound = true ∧ g.devWriter = false ∧ s.cfg.submit.mode = 1 ∧ idxLe v g.rptr g.size = true ∧ idxLe v g.wptr g.size = true then
        if r < 8 ∨ s.cfg.submit.coalesceUs = 0 then dbEffect r d
        else if s.cfg.submit.coalesceK ≤ f.batchCount + 1 then closeDbBatch joined else joined
      else dbIgnore r s.dev))) ∧
  (∀ s r v, r < 64 → v < 2 ^ 32 → ordinary s.dev = true → s.dev.pwr.state = 0 →
    let g := ringOf s.dev r
    exec (.dbCqRptrWrite r v) s = .next (s.ended (
      if idxLe g.cqWptr v g.cqSize = true ∧ idxLe v g.cqRptr g.cqSize = true then setRing s.dev r (fun g => { g with cqRptr := v })
      else dbIgnore r s.dev))) ∧
  (∀ s v, v < 2 ^ 32 → ordinary s.dev = true → s.dev.pwr.state = 0 → s.dev.pwr.entering = 0 →
    exec (.feKqWptrWrite v) s = .next (s.ended { s.dev with
      fe := if s.dev.fe.kqEnable = true ∧ idxLe v s.dev.fe.kqRptr s.dev.fe.kqSize = true ∧ idxLe v s.dev.fe.kqWptr s.dev.fe.kqSize = true then
          { s.dev.fe with kqWptr := v } else { s.dev.fe with dbIgnored := satInc 255 s.dev.fe.dbIgnored } })) ∧
  (∀ s v, v < 2 ^ 32 → HostReaches s 0x20030 →
    exec (.feKqCqRptrWrite v) s = .next (s.ended { s.dev with
      fe := if idxLe s.dev.fe.kqCqWptr v s.dev.fe.kqCqSize = true ∧ idxLe v s.dev.fe.kqCqRptr s.dev.fe.kqCqSize = true then
          { s.dev.fe with kqCqRptr := v } else { s.dev.fe with dbIgnored := satInc 255 s.dev.fe.dbIgnored } })) ∧
  (∀ s v, v < 2 ^ 32 → HostReaches s 0x20000 →
    exec (.feKqEnable v) s = .next (s.ended (
      if v.testBit 0 = false then { s.dev with fe := { s.dev.fe with kqEnable := false } }
      else if queueSizeOk s.dev.fe.kqSize = true ∧ queueSizeOk s.dev.fe.kqCqSize = true then iter drainKq s.dev.fe.kqRecs.length
        { s.dev with fe := { s.dev.fe with kqEnable := true, kqWptr := 0, kqRptr := 0, kqCqWptr := 0, kqCqRptr := 0 } }
      else s.dev))) ∧
  (∀ s t, Live s → s.dev.fe.batchTb = some t →
    exec .doorbellBatchClose s = .next (s.ended (closeDbBatch (advanceTo s.cfg (t + s.cfg.submit.coalesceUs * 500) s.dev))))

/-- For every running state with the front end not stopped, RING_ENTRY_FETCH of a bound ring with unread entries reads the 128 bytes at BASE + (RPTR mod SIZE) x 128, advances RPTR and enters the command under the next serial; an entry with a poison mark completes INVALID_COMMAND, one of an attached ring that the host has written holds free bytes (log 136), and a read that fails its checks stops the ring's fetching and loses its context. KQ_ENTRY_FETCH, while no ring unbinds, reads the next entry from host memory and advances its index; in DIRECT mode a MGMT entry joins the MGMT commands and any other completes INVALID_COMMAND. COMMAND_DISPATCH posts the ring's oldest waiting command when it is ready and may be posted. COMMAND_COMPLETE ends a command whose engine has finished with its status. CQ_RECORD_DRAIN writes the oldest waiting record of a queue that has room. Where it follows a convention of the model's own, that is the model's choice and no rule of the spec: log 22, 24.
(derived; R335, R336, R343, R346, R347, R349, R431.) -/
def Obligations.FetchAndDispatchRows : Prop :=
  (∀ s r p d, r < 64 → Running s → feStopped s.dev = false → (ringOf s.dev r).bound = true → (ringOf s.dev r).fetchStopped = false →
    (ringOf s.dev r).unbinding = false → (ringOf s.dev r).rptr ≠ (ringOf s.dev r).effWptr → ∀ k,
    let g := ringOf s.dev r
    physRead s.cfg (rqFe s.cfg g.ctx) (g.base + (g.rptr % g.size) * 128) 128 [] s.dev = (k, p, d) →
    let a := setRing d r (fun h => { h with rptr := (h.rptr + 1) % 2 ^ 32 })
    let b := if g.devWriter = true ∧ g.foreign.contains (g.rptr % g.size) = true then freeBytes 128 a else (pdata p, a)
    let x := newCmd b.2 (parseEntry b.1) g.rptr r g.ctx false false
    (k ≠ 0 → exec (.ringEntryFetch r) s = .next (s.ended (loseContext s.cfg g.ctx k [] (setRing d r (fun h => { h with fetchStopped := true }))))) ∧
    (k = 0 → ppoison p = false → exec (.ringEntryFetch r) s = .next (s.ended (enterRing s.cfg x b.2))) ∧
    (k = 0 → ppoison p = true → ∃ st f, finishCmd s.cfg { x with poisoned := true } 0x10 false (bumpSerial b.2) = (st, f) ∧
      exec (.ringEntryFetch r) s = .next (s.ended (if st = 0 then f else loseContext s.cfg g.ctx st [] f)))) ∧
  (∀ s b k, Running s → feStopped s.dev = false → s.dev.fe.kqEnable = true → s.dev.fe.kqRptr ≠ s.dev.fe.kqWptr →
    s.dev.fe.rings.any (fun p => p.2.unbinding) = false → s.cfg.submit.mode = 1 →
    busRead s.dev (s.dev.fe.kqBase + (s.dev.fe.kqRptr % s.dev.fe.kqSize) * 128) 128 = (b, k) → ppoison b = false →
    let e := parseEntry (pdata b)
    let d := { k with fe := { k.fe with kqRptr := (s.dev.fe.kqRptr + 1) % 2 ^ 32 } }
    let x := newCmd d e s.dev.fe.kqRptr e.ring (ringOf s.dev e.ring).ctx true true
    let t := takeRefs e.objects (bumpSerial d)
    exec .kqEntryFetch s = .next (s.ended (
      if e.cls = 15 then { t with fe := { t.fe with kqCmds := t.fe.kqCmds ++ [{ x with waitRes := evalWaits t x }] } }
      else (finishCmd s.cfg x 0x10 true t).2))) ∧
  (∀ s r x, Running s → s.waitsAt r x → x.ready = true → x.phase = .fetched → x.entry.cls ≠ 0 → mayPost s.cfg s.dev x = true →
    exec (.commandDispatch r) s = .next (s.ended (postToken s.cfg x s.dev))) ∧
  (∀ s r i x, r < 64 → i < 2 ^ 32 → Running s → (ringOf s.dev r).cmds.find? (fun x => x.phase == .finished && x.index == i) = some x →
    exec (.commandComplete r i) s = .next (s.ended (endCmd s.cfg x x.status s.dev))) ∧
  (∀ s q w rest st d, q < 64 → Live s → (ringOf s.dev q).waitRecs = w :: rest → cqRoom (ringOf s.dev q) = true → faulted s.dev = false →
    cqPut s.cfg q w.bytes (setRing s.dev q (fun r => { r with waitRecs := rest })) = (st, d) →
    exec (.cqRecordDrain q) s = .next (s.ended (
      if st ≠ 0 then loseContext s.cfg (ringOf s.dev q).ctx st [] (dropRefs w.objects d)
      else dropRefs w.objects (if w.notify.isSome then raise (w.notify.getD 0) d else d)))) ∧
  (∀ s w rest, Live s → s.dev.fe.kqRecs = w :: rest → kqRoom s.dev.fe = true → faulted s.dev = false →
    exec (.cqRecordDrain 64) s = .next (s.ended (dropRefs w.objects (kqPut w.bytes { s.dev with fe := { s.dev.fe with kqRecs := rest } }))))

/-- For every running state whose ring's oldest waiting command is a ready NOP, FE_NOP joins it to the open chain and completes it OK. For a ready CYCLE_MARK whose payload is read unpoisoned, KIND 1 opens a chain of its monitor and KIND 2 closes the open one, and the command completes OK, but on a gated ring an unreleased START is staged and does not complete; a poisoned payload completes INVALID_COMMAND. START_COMPARATOR_FIRE of a ring whose oldest waiting command is armed for a stamp of a valid reference, and may be posted, lets time pass to that stamp, fires what lower rings hold for the same queue and the same time, and with the target reached posts the command, recording the comparator's event. Where it follows a convention of the model's own, that is the model's choice and no rule of the spec: log 29, 143.
(derived; R77, R78, R228, R343, R346, R347.) -/
def Obligations.FrontEndCommandRows : Prop :=
  (∀ s r x, Running s → s.waitsAt r x → x.entry.cls = 0 → x.entry.op = 1 → feReady s.cfg s.dev x = true →
    let e := joinChain s.cfg x s.dev
    exec (.feNop r) s = .next (s.ended
      (endCmd s.cfg { resolveAfterStart e ((cmdOf e x.serial).getD x) with dispatchTb := e.phe.tb, ran := true } 0 e))) ∧
  (∀ s r x data d, Live s → s.waitsAt r x → x.entry.cls = 0 → x.entry.op = 2 → feReady s.cfg s.dev x = true →
    unitStalled s.dev { rqFe s.cfg x.ctx with serial := some x.serial } = false →
    virtRead s.cfg { rqFe s.cfg x.ctx with serial := some x.serial } x.ctx x.entry.payload 64 1 s.dev = (⟨0, false, data⟩, d) →
    let y := { resolveAfterStart s.dev x with dispatchTb := s.dev.phe.tb, ran := true }
    let mk := parseMark (pdata data)
    let gate := gateOf s.cfg r
    exec (.cycleMark r) s = .next (s.ended (
      if ppoison data = true then endCmd s.cfg { y with poisoned := true } 0x10 d
      else if gate.isSome = true ∧ mk.kind = 1 ∧ y.released = false then endSkipping gate (stageMark r y.serial mk d)
      else if mk.kind = 1 then endCmd s.cfg y 0 (startReached s.cfg r mk d)
      else if mk.kind = 2 then closeChain s.cfg r (endCmd s.cfg y 0 (if gate.isSome = true ∧ y.cmark.isNone = true then endSkipping gate d else d))
      else endCmd s.cfg y 0 d))) ∧
  (∀ s r x t y d, Live s → s.waitsAt r x → x.startTarget = some t → x.phase = .armed → x.entry.cls ≠ 0 →
    refValid (refOf s.dev x.entry.start.ref) = true → mayPost s.cfg s.dev x = true →
    d = (((List.range r).filter (fun k => (oldestWaiting (ringOf (advance s.cfg (ticksToStamp s.cfg x.entry.start.ref t s.dev) s.dev) k)).any
        (fun z => queueOf z.entry == queueOf x.entry))).foldl (fun d k => fireNow s.cfg k d) (advance s.cfg (ticksToStamp s.cfg x.entry.start.ref t s.dev) s.dev)) →
    oldestWaiting (ringOf d r) = some y → y.phase = .armed → mayPost s.cfg d y = true → targetReached d y = true → y.entry.cls ≠ 0 →
    exec (.startComparatorFire r) s = .next (s.ended (postToken s.cfg y (obsEmit s.cfg 1 0x11 0 0xF0 r [] d))))

/-- R354 whole, over every device and handle. ADD N gives count + N saturated at 16,777,215, counting REF_SAT exactly when that saturates; an FE take is ADD 1 and counts REF_FROM_ZERO exactly when it starts from 0. DROP N, or an FE drop (N = 1), from a count of at least N gives count - N; when that is 0 the object is released: one RELEASE record is posted on the kernel queue and the release source counts one event. From a count below N the result is 0, REF_UNDERFLOW counts one, and nothing is released. No other handle's count changes. Outside the fault state; FE_REF_OP with N of 1 to 255 does exactly this.
(stated; R354.) -/
def Obligations.ReferenceCountRules : Prop :=
  (∀ d obj n take, let v := aget d.fe.refs obj
    let e := refAdd obj n take d
    aget e.fe.refs obj = min (v + n) 16777215 ∧ (∀ o, o ≠ obj → aget e.fe.refs o = aget d.fe.refs o) ∧
    e.fe.refSat = (if 16777215 < v + n then satInc 255 d.fe.refSat else d.fe.refSat) ∧
    e.fe.refFromZero = (if take = true ∧ v = 0 then satInc 255 d.fe.refFromZero else d.fe.refFromZero) ∧
    e.fe.refUnderflow = d.fe.refUnderflow ∧ e.icu = d.icu ∧ e.fe.kqRecs = d.fe.kqRecs ∧ e.host = d.host) ∧
  (∀ d obj n, 0 < n → faulted d = false → let v := aget d.fe.refs obj
    let e := refDrop obj n d
    (v < n → e = { d with fe := { d.fe with refs := aset d.fe.refs obj 0, refUnderflow := satInc 255 d.fe.refUnderflow } }) ∧
    (n < v → e = { d with fe := { d.fe with refs := aset d.fe.refs obj (v - n) } }) ∧
    (v = n → e = raise 8 (kqRecord (releaseBytes obj) [] { d with fe := { d.fe with refs := aset d.fe.refs obj 0 } }).2) ∧
    aget e.fe.refs obj = v - n ∧ (∀ o, o ≠ obj → aget e.fe.refs o = aget d.fe.refs o) ∧
    (v = n → aget e.icu.count 8 = satInc 255 (aget d.icu.count 8))) ∧
  (∀ objs d, takeRefs objs d = objs.foldl (fun d o => refAdd o 1 true d) d) ∧
  (∀ objs d, dropRefs objs d = objs.foldl (fun d o => refDrop o 1 d) d) ∧
  (∀ s obj n, obj < 65536 → 0 < n → n < 256 → HostReaches s 0x20050 →
    exec (.feRefAdd obj n) s = .next (s.ended (refAdd obj n false s.dev)) ∧
    exec (.feRefDrop obj n) s = .next (s.ended (refDrop obj n s.dev)))

/-- For every state out of the fault state whose FE answers, and every 64-bit value, a write of FE_FENCE_SIG completes as a normal signal of the selected fence: below V it changes no fence, counts FENCE_REGRESS and one event of source 7; equal to V it changes nothing; above V it sets V, clears E and gives every undispatched command that waits on this fence the result its waits then have. An error signal does the same with E set. A command whose every wait is satisfied reads a dependency failure exactly when one of its fences then has E set. Where it follows a convention of the model's own, that is the model's choice and no rule of the spec: log 23.
(derived; R350, R351.) -/
def Obligations.FenceSignals : Prop :=
  (∀ s v, v < 2 ^ 64 → HostReaches s 0x20068 → faulted s.dev = false →
    let f := s.dev.fe.sigSel % 4096
    let old := (aget s.dev.fe.fences f).v
    exec (.feFenceSig v) s = .next (s.ended (
      if v < old then raise 7 { s.dev with fe := { s.dev.fe with fenceRegress := satInc 255 s.dev.fe.fenceRegress } }
      else if v = old then s.dev
      else reevaluate f { s.dev with fe := { s.dev.fe with fences := aset s.dev.fe.fences f ⟨v, false⟩ } }))) ∧
  (∀ d f v err, faulted d = false → (aget d.fe.fences f).v < v →
    aget (signal f v err d).fe.fences f = ⟨v, err⟩ ∧ (∀ g, g ≠ f → aget (signal f v err d).fe.fences g = aget d.fe.fences g)) ∧
  (∀ d x, (evalWaits d x ≠ 0 ↔ ∀ w ∈ x.entry.waits, w.2 ≤ (aget d.fe.fences w.1).v) ∧
    (evalWaits d x = 2 ↔ (∀ w ∈ x.entry.waits, w.2 ≤ (aget d.fe.fences w.1).v) ∧ ∃ w ∈ x.entry.waits, (aget d.fe.fences w.1).e = true))

/-- For every running state, COMMAND_TIMEOUT of a dispatched command outside a pause lets its age run to TIMEOUT, lets the expiries of lower rings that fall due go first, and then takes its tokens from their lane, stops every instance that works for it, starts the loss of its context with cause TIMEOUT, and with no drain left finishes it; a core where an expired command had groups records a TIMEOUT fault. WAIT_TIMEOUT of a ring's oldest undispatched command lets its wait age run out, lets the expiries of lower rings and the ring's command timeout go first, and completes it WAIT_TIMEOUT, counted. DRAIN_LIMIT_EXPIRY resets an instance that has not drained 50 us after its stop, a shader core with its blocks, and INSTANCE_RESET_DONE lets time pass to the end of the reset. TOKEN_HANDOUT gives one unit of the lane that the search picks to the lowest idle allowed instance that does not lack credits. Where it follows a convention of the model's own, that is the model's choice and no rule of the spec: log 4, 77.
(derived; R360, R361, R363, R371, R372, R373.) -/
def Obligations.TimeoutAndHandOutRows : Prop :=
  (∀ s r i x, r < 64 → i < 2 ^ 32 → Running s → (ringOf s.dev r).cmds.find? (fun x => x.phase == .dispatched && x.index == i && !x.expired) = some x →
    timeoutPaused s.dev x = false → faulted s.dev = false → (ctxOf s.dev x.ctx).state = 1 →
    ∀ k y, ticksToAge s.cfg s.dev r ((timeoutLimit s.cfg r : Int) - x.age).toNat = some k →
    cmdOf (expireBelow s.cfg r (advance s.cfg k s.dev)) x.serial = some y →
    timeoutDue s.cfg (expireBelow s.cfg r (advance s.cfg k s.dev)) y = true → faulted (expireBelow s.cfg r (advance s.cfg k s.dev)) = false →
    let e := expireBelow s.cfg r (advance s.cfg k s.dev)
    let lane := laneIdx y.entry y.ring
    let t := trimLane lane (setCmd { e with sched := { e.sched with lanes := amod e.sched.lanes lane (fun l => l.filter (· != y.serial)) } }
      y.serial (fun x => { x with unitsLeft := [], expired := true }))
    let u := lossStart s.cfg y.ctx 0x0A ((instsOf t y.serial).foldl (fun d k => stopInst y k d) t)
    let f := if drainsOf u y.serial = [] then timeoutFinish s.cfg y u else u
    exec (.commandTimeout r i) s = .next (s.ended (timeoutRecords (newlyExpired s.dev f) s.dev f))) ∧
  (∀ s r x y, Running s → s.waitsAt r x → waitPaused s.cfg s.dev x = false → faulted s.dev = false →
    let e := ringTimeouts s.cfg r (expireBelow s.cfg r (advance s.cfg ((s.cfg.ring r).waitTimeoutUs * 500 - x.waitAge) s.dev))
    let f := endCmd s.cfg y 0x18 (schedCount y.ring (fun m => { m with waitTimeout := satInc 255 m.waitTimeout }) e)
    cmdOf e x.serial = some y → waitDue s.cfg e y = true → faulted e = false →
    exec (.waitTimeout r) s = .next (s.ended (timeoutRecords (newlyExpired s.dev f) s.dev f))) ∧
  (∀ s cls q i r t, cls < 16 → q < 4 → i < 8 → Running s → (instOf s.dev (instIdx cls q i)).run = some r → r.stopTb = some t →
    let e := advanceTo s.cfg (t + 25000) s.dev
    let u := { e with mmu := { e.mmu with
      stalled := e.mmu.stalled.filter (fun m => !(m.cls == cls && m.quarter == (if quarterClass cls then q else 4) && m.inst == i)) } }
    let f := finishExpired s.cfg
      (schedCount r.ring (fun m => { m with reset := satInc 255 m.reset }) (setInst u (instIdx cls q i) (fun m => { m with
        run := none, lastCtx := none, resetEnd := some (u.phe.tb + (if cls = 1 ∨ cls = 2 ∨ cls = 3 then 1000 else 2500)) })))
    exec (.drainLimitExpiry cls q i) s = .next (s.ended (if cls = 4 ∧ (instOf f (instIdx 4 q i)).resetEnd.isSome = true then
      setCore (coreIdx q i) (fun m => dropGroups (fun _ => false) { m with blocks := [] }) f else f))) ∧
  (∀ s cls q i t, cls < 16 → q < 4 → i < 8 → Running s → (instOf s.dev (instIdx cls q i)).resetEnd = some t →
    exec (.instanceResetDone cls q i) s = .next (s.ended (setInst (advanceTo s.cfg t s.dev) (instIdx cls q i) (fun m => { m with resetEnd := none })))) ∧
  (∀ s cls q lack lane d x i, (Instr.tokenHandout cls ⟨q, lack⟩).wf = true → cls ∈ [1, 2, 3, 5, 6, 7, 8, 9] → Running s → faulted s.dev = false →
    pickLane s.cfg (takerOf lack s.cfg) (cls * 4 + (if quarterClass cls then q else 0)) s.dev = (some lane, d) →
    laneHead d (cls * 4 + (if quarterClass cls then q else 0)) lane = some x → takerOf lack s.cfg d x = some i →
    exec (.tokenHandout cls ⟨q, lack⟩) s = .next (s.ended (giveUnit x i (unitCount s.cfg d x) d)))

/-- For every running state with an ACTIVE context, PTW_WALK ends with the walk's translation cached, or adds its fault to the open batch. FAULT_BATCH_HOLDOFF closes the open batch at the end of its hold-off, and FAULT_BATCH_WRITE writes the oldest waiting batch that has room. A write of MMU_REPLAY of a closed batch not yet replayed makes every request stalled on it or an earlier one walk again, and any other value is counted. MMU_FAULT_RPTR is taken or counted by the index check against 1,024. MMU_FAULT_CTRL.ENABLE set zeroes both indices and writes waiting batches that fit. MMU_BATCH_CFG changes only to legal values and closes an open batch that has reached COUNT. Where it follows a convention of the model's own, that is the model's choice and no rule of the spec: log 19, 20, 21.
(derived; R385, R388, R389, R390, R391, R392, R393, R399.) -/
def Obligations.TranslationRows : Prop :=
  (∀ s cls q i ctx va acc r d, (Instr.ptwWalk cls q i ctx va acc).wf = true → Running s → (ctxOf s.dev ctx).state = 1 →
    translate s.cfg (rqNamed s.cfg ctx cls q i) ctx va (bit acc 1 || bit acc 2) s.dev = (r, d) →
    (∀ e, r = .leaf e → exec (.ptwWalk cls q i ctx va acc) s = .next (s.ended d)) ∧
    (∀ k l v a, r = .fault k l v a → exec (.ptwWalk cls q i ctx va acc) s =
      .next (s.ended (addFault s.cfg (rqNamed s.cfg ctx cls q i) ctx va acc k l v a d)))) ∧
  (∀ s, Live s → s.dev.mmu.openRecs ≠ [] →
    exec .faultBatchHoldoff s = .next (s.ended (closeBatch s.cfg (advanceTo s.cfg (s.dev.mmu.openTb + s.dev.mmu.holdoffUs * 500) s.dev)))) ∧
  (∀ s no recs rest, Live s → s.dev.mmu.waitq = (no, recs) :: rest → faultRoom s.dev.mmu recs.length = true →
    exec .faultBatchWrite s = .next (s.ended (writeBatch s.cfg no recs { s.dev with mmu := { s.dev.mmu with waitq := rest } }))) ∧
  (∀ s b, b < 2 ^ 32 → HostReaches s 0x50020 → exec (.mmuReplay b) s = .next (s.ended (
    if b ≤ s.dev.mmu.closed ∧ s.dev.mmu.replayed < b then
      releaseDrained s.cfg ((s.dev.mmu.stalled.filter (fun m => decide (m.batch ≤ b))).foldl (fun d m => rewalk s.cfg m d)
        { s.dev with mmu := { s.dev.mmu with replayed := b } })
    else { s.dev with mmu := { s.dev.mmu with replayIgnored := satInc 255 s.dev.mmu.replayIgnored } }))) ∧
  (∀ s v, v < 2 ^ 32 → HostReaches s 0x50014 → exec (.mmuFaultRptrWrite v) s = .next (s.ended { s.dev with
    mmu := if idxLe s.dev.mmu.wptr v 1024 = true ∧ idxLe v s.dev.mmu.rptr 1024 = true then { s.dev.mmu with rptr := v }
      else { s.dev.mmu with rptrIgnored := satInc 255 s.dev.mmu.rptrIgnored } })) ∧
  (∀ s v, v < 2 ^ 32 → HostReaches s 0x50000 → exec (.mmuFaultEnable v) s = .next (s.ended (
    if v.testBit 0 then drainBatches s.cfg s.dev.mmu.waitq.length { s.dev with mmu := { s.dev.mmu with enable := true, wptr := 0, rptr := 0 } }
    else { s.dev with mmu := { s.dev.mmu with enable := false } }))) ∧
  (∀ s v, v < 2 ^ 32 → HostReaches s 0x50018 →
    let h := bits v 25 16
    let n := bits v 10 0
    let d := { s.dev with mmu := { s.dev.mmu with
      holdoffUs := if 1 ≤ h then h else s.dev.mmu.holdoffUs
      countCfg := if 1 ≤ n ∧ n ≤ 1024 then n else s.dev.mmu.countCfg } }
    exec (.mmuBatchCfgWrite v) s = .next (s.ended (if d.mmu.countCfg ≤ d.mmu.openRecs.length then closeBatch s.cfg d else d)))

/-- For every state with the units on: SCRUB_SECTOR reads the next sector of a quarter, with the error that the row gives or else the one that its bytes hold, under its code and poison field, writes back a corrected or cleared sector, and advances, counting a pass at the end. CWS_SCRUB adds its corrections and one pass; a word with no majority enters the fault state with cause 1. Token and credit parity errors enter it with causes 2 and 3, a spine table error (kind 0) with cause 4; a walk-cache error drops the entry, a data error poisons the command that runs there and what it writes, or marks what a pipe fetched, an error of the saved registers loses what is saved there, and every kind is logged. A standby core's fault takes the standby away, an active core's fault hands over to it, and with none left the fault state has cause 5. Entering the fault state makes every context LOST and records the cause. Where it follows a convention of the model's own, that is the model's choice and no rule of the spec: log 11, 12, 30, 107, 133.
(derived; R30, R424, R426, R434, R435, R437.) -/
def Obligations.IntegrityRows : Prop :=
  (∀ s q e, q < 4 → e.wf = true → Running s → s.dev.clk.domains.getD (11 + 5 * q) 0 = 1 → (sliceOf s.dev q).memLost = false →
    (s.dev.err.tabs.getD q ErrTab.init).scrubEn = true →
    let sec := (s.dev.err.tabs.getD q ErrTab.init).scrubPos / 32
    let f := if e = noErr then aget (sliceOf s.dev q).latent sec else e
    ∃ data bad d, dramSector q sec f s.dev = ((data, bad), d) ∧
      ∃ fixed, fixed = (let field := aget (sliceOf s.dev q).dramPoison sec ^^^ (f.flips % 64)
          decide (popcount 6 field < 4) && (f.code != 2) && (field != 0 || f.code != 0)) ∧
        exec (.scrubSector q e) s = .next (s.ended (let d := if fixed then dramPut q sec data false d else d
          { d with err := { d.err with tabs := d.err.tabs.modify q (fun t =>
            let pos := (s.dev.err.tabs.getD q ErrTab.init).scrubPos + 32
            { t with scrubPos := if dramBytes ≤ pos then 0 else pos, passes := if dramBytes ≤ pos then satInc 65535 t.passes else t.passes }) } }))) ∧
  (∀ s k split, Live s → exec (.cwsScrub k split) s = .next (s.ended (
    let d := { s.dev with err := { s.dev.err with voteFix := satAdd 65535 s.dev.err.voteFix k, cwsPasses := satInc 65535 s.dev.err.cwsPasses } }
    if split then enterDevFault s.cfg 1 d else d))) ∧
  (∀ s, Live s → exec .tokenParityError s = .next (s.ended (enterDevFault s.cfg 2 s.dev)) ∧
    exec .creditParityError s = .next (s.ended (enterDevFault s.cfg 3 s.dev))) ∧
  (∀ s k cls i loc syn, k < 4 → cls < 16 → i < 8 → loc < 2 ^ 64 → syn < 32 → Live s →
    exec (.spineUe k cls i loc syn) s = .next (s.ended (
      let d := logError 4 true (if k = 3 then 7 else 6) loc syn s.dev
      if k = 0 then enterDevFault s.cfg 4 d
      else if k = 1 then { d with mmu := { d.mmu with wc := d.mmu.wc.eraseIdx (loc % 1024) } }
      else if k = 2 then
        if cls = 7 then setPipe (i % 2) (fun m => { m with hurt := some (loc / 2 ^ 48 % 8, loc % 2 ^ 32) }) d
        else ((instOf d (instIdx cls 0 i)).run).elim d (fun r => setInst (setCmd d r.serial (fun x => { x with poisoned := true }))
          (instIdx cls 0 i) (fun m => { m with run := some { r with taint := true } }))
      else saveDamage loc d))) ∧
  (∀ s k, k < 2 → Live s → faulted s.dev = false → s.dev.upd.hand = none →
    exec (.oxCoreFault k) s = .next (s.ended (
      if (k == s.dev.boot.oxsActive) = false then { s.dev with boot := { s.dev.boot with oxsStandbyOk := false } }
      else if s.dev.boot.oxsStandbyOk = false then enterDevFault s.cfg 5 s.dev
      else resetTarget (64 + k) { s.dev with boot := { s.dev.boot with oxsActive := 1 - k, oxsStandbyOk := false } }))) ∧
  (∀ c k d, faulted d = false → k ≠ 0 → faulted (enterDevFault c k d) = true ∧ (enterDevFault c k d).err.devFault = k ∧
    ∀ x < 64, (ctxOf (enterDevFault c k d) x).state = 2)

/-- For every state out of HOLD in which the block answers and every 32-bit value, the write completes. PHE_CLEAR zeroes GLITCH, PERIOD_VIOLATION, PULSE_COUNT, TIMEOUT and LOSS of each reference whose bit is 1. A 1 in bit 0 zeroes DLM_COUNT_r, the four fields of CS_ERR, the FE counters with each ring's count of ignored doorbells, the scheduler's counts, MMU_COUNT, or both PACK_n_ERR, and a 1 in bit 31 clears a core's fault record. Any other value changes nothing, and no other part of the device changes.
(derived; R87, R121, R233, R258, R358, R377, R399, R419.) -/
def Obligations.CounterClearsOfUnits : Prop :=
  (∀ s r v, r < 8 → v < 2 ^ 32 → HostReaches s (0x3040C + 0x20 * r) →
    exec (.dlmClear r v) s = .next (s.ended { s.dev with
      dlm := if v.testBit 0 then s.dev.dlm.modify r (fun m => { m with fallbacks := 0, latePrimary := 0, missing := 0, none_ := 0 }) else s.dev.dlm })) ∧
  (∀ s v, v < 2 ^ 32 → HostReaches s 0x30020 →
    exec (.pheClear v) s = .next (s.ended { s.dev with phe := { s.dev.phe with
      refs := s.dev.phe.refs.mapIdx (fun n r => if n < 11 ∧ v.testBit n then
        { r with glitch := 0, periodViolation := 0, pulseCount := 0, timeout := 0, loss := 0 } else r) } })) ∧
  (∀ s q v, q < 4 → v < 2 ^ 32 → HostReaches s (csAt q 0x84) →
    exec (.csErrClear q v) s = .next (s.ended { s.dev with
      store := if v.testBit 0 then s.dev.store.modify q (fun m => { m with errViol := 0, errScratchRange := 0, errPaRange := 0, errLostWrite := 0 })
        else s.dev.store })) ∧
  (∀ s v, v < 2 ^ 32 → HostReaches s 0x20078 →
    exec (.feCountClear v) s = .next (s.ended { s.dev with
      fe := if v.testBit 0 then { s.dev.fe with fenceRegress := 0, dbIgnored := 0, refUnderflow := 0, refFromZero := 0, refSat := 0, cqFull := 0
                                                rings := amapAll s.dev.fe.rings (fun _ r => { r with ignored := 0 }) }
        else s.dev.fe })) ∧
  (∀ s v, v < 2 ^ 32 → HostReaches s 0x20800 →
    exec (.feSchedClear v) s = .next (s.ended { s.dev with
      sched := if v.testBit 0 then { s.dev.sched with counts := [] } else s.dev.sched })) ∧
  (∀ s v, v < 2 ^ 32 → HostReaches s 0x50034 →
    exec (.mmuCountClear v) s = .next (s.ended { s.dev with
      mmu := if v.testBit 0 then { s.dev.mmu with replayIgnored := 0, ringFull := 0, rptrIgnored := 0, hostCplErr := 0 } else s.dev.mmu })) ∧
  (∀ s v, v < 2 ^ 32 → HostReaches s 0x200040 →
    exec (.packClear v) s = .next (s.ended { s.dev with
      pack := if v.testBit 0 then s.dev.pack.map (fun p => { p with illegal := 0, distance := 0, overrun := 0, quantCmds := 0 }) else s.dev.pack })) ∧
  (∀ s q n v, q < 4 → n < 6 → v < 2 ^ 32 → HostReaches s (scAt q n 0x10) →
    exec (.scFaultClear q n v) s = .next (s.ended { s.dev with
      cores := if v.testBit 31 then s.dev.cores.modify (6 * q + n) (fun m => { m with fault := default }) else s.dev.cores }))

/-- For every state out of HOLD in which the block answers and every 32-bit value, the write completes. A 1 in bit 0 zeroes the five error counters of one table, STACK_FAULTS, the four counters of one display pipe, PWR_COUNT, UPD_COUNT or OBS_DROP; any other value changes nothing. A write of OBS_CTRL with CNT_CLEAR zeroes all 256 counters and one with SNAP first copies them all to the snapshot; each also sets CNT_EN. No other part of the device changes. Where it follows a convention of the model's own, that is the model's choice and no rule of the spec: log 108.
(derived; R442, R458, R325, R480, R502, R504, R505, R515.) -/
def Obligations.CounterClearsOfTheSpine : Prop :=
  (∀ s k v, k < 5 → v < 2 ^ 32 → HostReaches s (errAt k 0x14) →
    exec (.errClear k v) s = .next (s.ended { s.dev with err := { s.dev.err with
      tabs := if v.testBit 0 then s.dev.err.tabs.modify k (fun t => { t with dramCe := 0, onchipCe := 0, dramUe := 0, onchipUe := 0, poisonRead := 0 })
        else s.dev.err.tabs } })) ∧
  (∀ s v, v < 2 ^ 32 → HostReaches s 0x10008 →
    exec (.icStatusClear v) s = .next (s.ended { s.dev with
      icu := { s.dev.icu with stackFaults := if v.testBit 0 then 0 else s.dev.icu.stackFaults } })) ∧
  (∀ s p v, p < 2 → v < 2 ^ 32 → HostReaches s (0xC000C + 0x100 * p) →
    exec (.compPipeClear p v) s = .next (s.ended { s.dev with comp := { s.dev.comp with
      pipes := if v.testBit 0 then s.dev.comp.pipes.modify p (fun m => { m with late := 0, underrun := 0, poison := 0, fault := 0 })
        else s.dev.comp.pipes } })) ∧
  (∀ s v, v < 2 ^ 32 → HostReaches s 0x4002C →
    exec (.pwrCountClear v) s = .next (s.ended { s.dev with
      pwr := if v.testBit 0 then { s.dev.pwr with dips := 0, floorOverride := 0, avsFaults := 0, throttles := 0 } else s.dev.pwr })) ∧
  (∀ s v, v < 2 ^ 32 → HostReaches s 0x60018 →
    exec (.updCountClear v) s = .next (s.ended { s.dev with
      upd := if v.testBit 0 then { s.dev.upd with ignored := 0, retries := 0, blocks := 0 } else s.dev.upd })) ∧
  (∀ s v, v < 2 ^ 32 → HostReaches s 0xA0050 →
    exec (.obsDropClear v) s = .next (s.ended { s.dev with
      obs := if v.testBit 0 then { s.dev.obs with bufDropped := 0, portDropped := 0 } else s.dev.obs })) ∧
  (∀ s v, v < 2 ^ 32 → HostReaches s 0xA0000 →
    exec (.obsCntClear v) s = .next (s.ended { s.dev with obs := { s.dev.obs with
      cnt := []
      snap := if v.testBit 2 then s.dev.obs.cnt else s.dev.obs.snap
      cntEn := v.testBit 0 } })) ∧
  (∀ s v, v < 2 ^ 32 → HostReaches s 0xA0000 →
    exec (.obsSnap v) s = .next (s.ended { s.dev with obs := { s.dev.obs with
      snap := s.dev.obs.cnt
      cnt := if v.testBit 1 then [] else s.dev.obs.cnt
      cntEn := v.testBit 0 } }))

/-- R13 whole, over every device and every _LO offset of a 64-bit pair. A 32-bit read of _LO answers the pair's low half and latches its high half of that instant. Whatever the device does then, if it reads no register of that pair, the next 32-bit read of _HI answers the latched half and ends the latch. A 64-bit read of the pair answers both halves of one instant. The row PAIR_LO_READ completes with just this read, of 4 or 8 bytes or of another size that reads zero, and its bytes are what the host receives.
(stated; R13.) -/
def Obligations.PairReads : Prop :=
  (∀ c d off, isLo off = true → off % 4 = 0 → isLo (off + 4) = false →
    ∃ e, bar0Read c off 4 d = (leBytes 4 (regValue c d off), e) ∧ e = { d with host := e.host } ∧
      ∀ f, aget f.host.latch (off + 4) = aget e.host.latch (off + 4) →
        ∃ g, bar0Read c (off + 4) 4 f = (leBytes 4 (regValue c d (off + 4)), g) ∧ aget g.host.latch (off + 4) = 0) ∧
  (∀ c d off, off % 8 = 0 → bar0Read c off 8 d = (leBytes 4 (regValue c d off) ++ leBytes 4 (regValue c d (off + 4)), d)) ∧
  (∀ s off len r d, off < 2 ^ 26 → 0 < len → len ≤ 512 → s.dev.pwr.state ≠ 2 → bar0Read s.cfg off len s.dev = (r, d) →
    exec (.pairLoRead ⟨off, len⟩) s = .next (s.ended { d with host := { d.host with hostRead := ⟨r, false, true⟩ } }))

/-- For every state in RUN with no entry into a lower state, a BAR 2 read of 1 to 512 bytes inside the aperture answers the bytes it names, and a write writes them. A register write of 1 to 512 bytes that meets no doorbell takes effect as BAR 0's rules say, an 8-byte one over a doorbell as its two halves in order: so GLOBAL_HOLD takes bit 0 of IC_CTRL, and CS_MAINT_PA its low half. Once configuration space is open on a trained link, a configuration read answers a value, writes of Command, MSI-X Control, Resizable BAR and the power state set what they name, and a clear of the error status clears it. A completion of the oldest outstanding read gives its data to the requester, poisoned and counted when it is bad, lets requests that waited for room go on, and a time-out gives poisoned zeros. A write of a vector's table entry sets its address, data or Mask bit and clears the delivery marks. Where it follows a convention of the model's own, that is the model's choice and no rule of the spec: log 98, 99, 101, 102, 103.
(derived; R9, R56, R121, R328, R381, R447, R458.) -/
def Obligations.HostAccessRows : Prop :=
  (∀ s off len, off < 2 ^ 37 → bar2Fits s.dev off len = true → s.dev.boot.phase = 2 → s.dev.pwr.state = 0 → s.dev.pwr.entering = 0 →
    exec (.bar2Read off len) s = .next (s.ended (wakeBy (bar2Get s.cfg off len s.dev)))) ∧
  (∀ s off data p, off < 2 ^ 37 → bar2Fits s.dev off data.length = true → s.dev.boot.phase = 2 → s.dev.pwr.state = 0 → s.dev.pwr.entering = 0 →
    exec (.bar2Write off data p) s = .next (s.ended (wakeBy (bar2Put s.cfg off data p s.dev)))) ∧
  (∀ s off data, off < 2 ^ 26 → 0 < data.length → data.length ≤ 512 → s.dev.pwr.state ≠ 2 →
    isDoorbell off = false → (data.length = 8 → isDoorbell (off + 4) = false) →
    exec (.registerWrite off data) s = .next (s.ended (bar0Write s.cfg off data s.dev))) ∧
  (∀ s off data, off < 2 ^ 26 → data.length = 8 → off % 8 = 0 → isDoorbell off = true ∨ isDoorbell (off + 4) = true →
    exec (.registerWrite off data) s = .next (s.ended
      (hostWord s.cfg (off + 4) (leNat (data.drop 4)) (hostWord s.cfg off (leNat (data.take 4)) s.dev)))) ∧
  (∀ s v, v < 2 ^ 32 → HostReaches s 0x10000 →
    exec (.registerWrite 0x10000 (leBytes 4 v)) s = .next (s.ended { s.dev with icu := { s.dev.icu with globalHold := v.testBit 0, marks := [] } })) ∧
  (∀ s q v, q < 4 → v < 2 ^ 32 → HostReaches s (csAt q 0x60) →
    exec (.registerWrite (csAt q 0x60) (leBytes 4 v)) s = .next (s.ended { s.dev with store := s.dev.store.modify q (fun m =>
      { m with maintPa := setLow m.maintPa v }) })) ∧
  (∀ s, s.dev.pwr.state = 0 → s.dev.boot.phase ≠ 0 → s.dev.host.linkUp = true → cfgReady s.dev = true →
    (∀ off, off < 4096 → off % 4 = 0 → ∃ v d, cfgValue off s.dev = (v, d) ∧
      exec (.configRequest (.read off)) s = .next (s.ended { d with host := { d.host with cfgAnswer := some v } })) ∧
    (∀ b, exec (.configRequest (.command b)) s =
      .next (s.ended (clearMarks { s.dev with host := { s.dev.host with busMaster := b, cfgAnswer := some 0 } }))) ∧
    (∀ e m, exec (.configRequest (.msixControl e m)) s =
      .next (s.ended (clearMarks { s.dev with host := { s.dev.host with msixEnable := e, funcMask := m, cfgAnswer := some 0 } }))) ∧
    (∀ n, 28 ≤ n → n ≤ 37 → exec (.configRequest (.resizeBar n)) s =
      .next (s.ended { s.dev with host := { s.dev.host with bar2Log := n, cfgAnswer := some 0 } })) ∧
    (∀ p, exec (.configRequest (.power p)) s =
      .next (s.ended { s.dev with host := { s.dev.host with d3hot := p, cfgAnswer := some 0 } })) ∧
    exec (.configRequest .clearErrors) s = .next (s.ended
      { s.dev with host := { s.dev.host with cfgAnswer := some 0 }, err := { s.dev.err with aerInternal := false } })) ∧
  (∀ s r rest data bad, Live s → s.dev.host.outReads = r :: rest → data.length ≤ 512 →
    let e := fun (data : List Byte) (bad : Bool) => (List.range 4).foldl (fun d q => retryWaiting s.cfg q d) { s.dev with
      host := { s.dev.host with outReads := rest, storeRead := ⟨slice data 0 r.len, bad, true⟩ }
      mmu := { s.dev.mmu with hostCplErr := if bad then satInc 255 s.dev.mmu.hostCplErr else s.dev.mmu.hostCplErr } }
    exec (.hostReadCompletion data bad) s = .next (s.ended (e data bad)) ∧
    exec .completionTimeout s = .next (s.ended (e (List.replicate r.len 0) true))) ∧
  (∀ s off v, off < 1024 → off % 4 = 0 → v < 2 ^ 32 → s.dev.pwr.state ≠ 2 → s.dev.clk.domains.getD 2 0 = 1 →
    let m := aget s.dev.host.msix (off / 16)
    exec (.msixTableWrite off v) s = .next (s.ended (clearMarks { s.dev with host := { s.dev.host with
      msix := aset s.dev.host.msix (off / 16) (
        if off % 16 = 0 then { m with addr := putBits m.addr 31 0 (v - v % 4) }
        else if off % 16 = 4 then { m with addr := putBits m.addr 63 32 v }
        else if off % 16 = 8 then { m with data := v } else { m with unmasked := !v.testBit 0 }) } })))

/-- For every state whose block answers, IC_SW_RAISE of 480 to 511 counts one event of that source, and of any other value nothing. An EOI that names the top entry of a target pops it; any other sets FAULT, counts STACK_FAULTS and raises source 10; from BAR 0 an EOI of targets 64 to 69 is ignored. A RESET empties the target's stack, clears FAULT and adds each removed event's count back to its source. HOLDOFF_EXPIRY of a group that holds lets time pass to the end and frees it. ICU_DELIVERY makes the first possible delivery in the order of the priorities. Writing 1 to an error-log entry's VALID frees it, and every other entry stays. Where it follows a convention of the model's own, that is the model's choice and no rule of the spec: log 106.
(derived; R427, R442, R448, R449, R450, R451, R452, R457.) -/
def Obligations.InterruptControllerRows : Prop :=
  (∀ s v, v < 2 ^ 32 → HostReaches s 0x1000C →
    exec (.icSwRaise v) s = .next (s.ended (if 480 ≤ v % 512 then { s.dev with icu := { s.dev.icu with
      count := amod s.dev.icu.count (v % 512) (satInc 255) } } else s.dev))) ∧
  (∀ s t n ox, t < 70 → n < 512 → (if ox then ordinary s.dev = true else HostReaches s (0x12004 + 0x20 * t)) →
    exec (.icuEoi t n ox) s = .next (s.ended (
      if ox = false ∧ 64 ≤ t then s.dev
      else if (stackOf s.dev t).head?.any (fun e => e.source == n) then
        { s.dev with icu := { s.dev.icu with stack := aset s.dev.icu.stack t ((stackOf s.dev t).tail), marks := [] } }
      else raise 10 { s.dev with icu := { s.dev.icu with
        fault := putBit s.dev.icu.fault t true, stackFaults := satInc 255 s.dev.icu.stackFaults, marks := [] } }))) ∧
  (∀ s t v ox, t < 70 → v < 2 ^ 32 → (if ox then ordinary s.dev = true else HostReaches s (0x1200C + 0x20 * t)) →
    exec (.icuTargetReset t v ox) s = .next (s.ended (
      if (ox = false ∧ 64 ≤ t) ∨ v.testBit 0 = false then s.dev
      else { s.dev with icu := { s.dev.icu with
        stack := aset s.dev.icu.stack t [], fault := putBit s.dev.icu.fault t false, marks := []
        count := (stackOf s.dev t).foldl (fun a e => if e.source ≤ 5 then a else amod a e.source (fun n => satAdd 255 n e.count)) s.dev.icu.count } }))) ∧
  (∀ s g t, g < 32 → Live s → s.dev.icu.holdEnd.getD g none = some t →
    ∃ d, d = advanceTo s.cfg t s.dev ∧
      exec (.holdoffExpiry g) s = .next (s.ended { d with icu := { d.icu with holdEnd := d.icu.holdEnd.set g none } })) ∧
  (∀ s, Running s → exec .icuDelivery s = .next (s.ended (deliverLoop s.cfg 513 s.dev))) ∧
  (∀ s k e v, k < 5 → e < 16 → v < 2 ^ 32 → HostReaches s (errAt k (0x100 + 0x10 * e)) →
    exec (.errLogFree k e v) s = .next (s.ended { s.dev with err := { s.dev.err with
      tabs := if v.testBit 31 then s.dev.err.tabs.modify k (fun t => { t with log := t.log.set e none }) else s.dev.err.tabs } }))

/-- For every running state: with IC_GLOBAL_HOLD at 1, or no deliverable unmarked source, ICU_DELIVERY changes nothing. When the first source in the order of R448 has a target, it pushes (source, priority, count) onto that target's stack, with count 1 for a level source and else the present COUNT, which becomes 0, sets the group's LAST, starts its hold-off, clears the marks and records the MSI-X message. The source chosen is pending, enabled, out of hold-off and unmarked; the target is named by its group, enabled and able to accept: its stack is empty or its top has a strictly lower priority. Where it follows a convention of the model's own, that is the model's choice and no rule of the spec: log 102, 106.
(derived; R445, R446, R447, R448, R449, R453.) -/
def Obligations.DeliveryOrder : Prop :=
  (∀ s, Running s → s.dev.icu.globalHold = true ∨ bestSource s.cfg s.dev = none → exec .icuDelivery s = .next (s.ended s.dev)) ∧
  (∀ s n t, Running s → bestSource s.cfg s.dev = some n → chooseTarget s.cfg s.dev n = some t →
    ∃ d, exec .icuDelivery s = .next (s.ended d) ∧
      d.icu = { s.dev.icu with
        stack := amod s.dev.icu.stack t (fun l => ⟨n, sourcePrio s.cfg n, if n ≤ 5 then 1 else aget s.dev.icu.count n⟩ :: l)
        count := if n ≤ 5 then s.dev.icu.count else aset s.dev.icu.count n 0
        last := s.dev.icu.last.set (n / 16) t
        holdEnd := s.dev.icu.holdEnd.set (n / 16)
          (if (groupOf s.cfg (n / 16)).holdoffUs = 0 then none else some (s.dev.phe.tb + (groupOf s.cfg (n / 16)).holdoffUs * 500))
        marks := [] } ∧
      d.host = { s.dev.host with msgs := s.dev.host.msgs ++
        (if t < 64 then [((aget s.dev.host.msix t).addr, (aget s.dev.host.msix t).data)] else []) }) ∧
  (∀ c d n, bestSource c d = some n →
    sourcePending d n = true ∧ sourceEnabled d n = true ∧ holding d (n / 16) = false ∧ d.icu.globalHold = false ∧ n ∉ d.icu.marks ∧
    ∀ m ∈ sourceList d, deliverable d m = true → m ∉ d.icu.marks → sourcePrio c m ≤ sourcePrio c n) ∧
  (∀ c d n t, chooseTarget c d n = some t → t < 70 ∧ groupNames c (n / 16) t = true ∧ targetEnabled d t = true ∧
    (stackOf d t = [] ∨ ∃ e rest, stackOf d t = e :: rest ∧ e.prio < sourcePrio c n))

/-- For every running state in which a matrix engine runs a unit not yet formed and its 128-byte descriptor is read: an illegal descriptor ends the unit INVALID_COMMAND. Otherwise the row of the descriptor's operation (MATMUL, BATCHED, EXPERT, ATTN_SCORE, ATTN_VALUE) divides the command into its units, notes an expert index out of range, forms the products of this unit's rows and columns and holds them as the instance's tile; a unit with no work ends OK, and a failed read ends the unit with its status. ME_UNIT_COMPLETE of a formed unit writes the tile, with the marks that reading its buffer adds, counts the unit and its K blocks and ends the unit OK, marked when a written element is. Where it follows a convention of the model's own, that is the model's choice and no rule of the spec: log 36, 38, 39, 41, 42, 43.
(derived; R157, R158, R159, R165, R166, R170, R171, R173, R174, R175, R176, R177.) -/
def Obligations.MatrixEngineRows : Prop :=
  (∀ s q i r x b d row op, q < 4 → i < 8 →
    ((row, op) = (Instr.meMatmul, 1) ∨ (row, op) = (Instr.meBatched, 2) ∨ (row, op) = (Instr.meExpert, 3) ∨
      (row, op) = (Instr.meAttnScore, 4) ∨ (row, op) = (Instr.meAttnValue, 5)) →
    UnitRuns s 1 q i r x → r.formed = false →
    runEng (ePayload s.cfg (rqUnit s.cfg x 1 q i) x.entry.payload 128) s.dev = (.ok b, d) →
    let m := parseMe b
    (meOk m = false → exec (row q i) s = .next (s.ended (unitEnd 1 q i 0x10 false d))) ∧
    (meOk m = true → m.op = op → exec (row q i) s = .next (s.ended (workEnd 1 q i
      (fun t e => t.elim (unitEnd 1 q i 0 false e) (fun t => markFormed 1 q i (setTile q i t e)))
      (runEng (do
        let aux ← loadAux s.cfg (rqUnit s.cfg x 1 q i) m
        liftDev (setUnits x (meUnits m (pdata aux)).length)
        if m.op == 3 && (pdata aux).any (fun e => decide (m.batch ≤ e.toNat) && e.toNat != 0xFF) then
          liftDev (fun d => setCmd d x.serial (fun x => { x with status := 0x11 }))
        match (meUnits m (pdata aux))[r.unitNo]? with
        | none => pure none
        | some u => (fun t => some t) <$> formTile s.cfg (rqUnit s.cfg x 1 q i) b m aux u (meTile (← get) q i)) d))))) ∧
  (∀ s q i r x p k d, q < 4 → i < 8 → UnitRuns s 1 q i r x → r.formed = true →
    let a := readBuffer 1 q i s.dev
    let t := { meTile a q i with poison := (meTile a q i).poison || ((instOf a (instIdx 1 q i)).run.map (fun r => r.taint)).getD false }
    let m := parseMe t.desc
    runEng (do
      let aux ← loadAux s.cfg (rqUnit s.cfg x 1 q i) m
      match (meUnits m (pdata aux))[r.unitNo]? with
      | none => pure (false, 0)
      | some u =>
        let p ← writeTile s.cfg (rqUnit s.cfg x 1 q i) q i m (pdata aux) u t
        pure (p, Nat.min m.kb (u.s * m.kc + m.kc) - u.s * m.kc)) a = (.ok (p, k), d) →
    exec (.meUnitComplete q i) s = .next (s.ended (unitEnd 1 q i 0 p
      (obsCount 0x14 q i (some x.ctx) k (obsCount 0x13 q i (some x.ctx) 1 d)))))

/-- For every running state in which the SNE of a quarter or TOK runs a command whose 128-byte payload is read: an illegal payload ends the command INVALID_COMMAND. The SNE row of the payload's operation (SOFTMAX, RMSNORM, LAYERNORM, ACT, GATED, ROPE, COMBINE, ADD) computes each row from its inputs and writes it, with its status and side words, one after the other, and ends OK, marked when an input was poisoned. TOK_COMMAND reads its 1 to 512 items; a poisoned or illegal item ends it INVALID_COMMAND; else it decides each item in order and writes its result record. A read or write that fails ends the command with its status, and a stalled one leaves what was done. Where it follows a convention of the model's own, that is the model's choice and no rule of the spec: log 37, 44, 50, 51, 52.
(derived; R157, R183, R184, R185, R186, R187, R188, R189, R192, R196.) -/
def Obligations.SoftmaxAndTokenRows : Prop :=
  (∀ row op, ((row, op) = (Instr.sneSoftmax, 1) ∨ (row, op) = (Instr.sneRmsnorm, 2) ∨ (row, op) = (Instr.sneLayernorm, 3) ∨
      (row, op) = (Instr.sneAct, 4) ∨ (row, op) = (Instr.sneGated, 5) ∨ (row, op) = (Instr.sneRope, 6) ∨
      (row, op) = (Instr.sneCombine, 7) ∨ (row, op) = (Instr.sneAdd, 8)) →
    ∀ s q r x b d, q < 4 → UnitRuns s 2 q 0 r x →
      runEng (ePayload s.cfg (rqUnit s.cfg x 2 q 0) x.entry.payload 128) s.dev = (.ok b, d) →
      (sneOk (parseSne b) = false → exec (row q) s = .next (s.ended (unitEnd 2 q 0 0x10 false d))) ∧
      (sneOk (parseSne b) = true → (parseSne b).op = op → exec (row q) s = .next (s.ended (workEnd 2 q 0
        (fun _ e => unitEnd 2 q 0 0 (runAt e (instIdx 2 q 0)).poison e)
        (runEng (do
          resume s.cfg (rqUnit s.cfg x 2 q 0) (instIdx 2 q 0)
          liftDev (setUnits x 1)
          fromProg (instIdx 2 q 0) (parseSne b).rows (sneStep s.cfg (rqUnit s.cfg x 2 q 0) (instIdx 2 q 0) (parseSne b))) (readBuffer 2 q 0 d)))))) ∧
  (∀ s r x b d, UnitRuns s 5 0 0 r x →
    runEng (ePayload s.cfg (rqUnit s.cfg x 5 0 0) x.entry.payload 128) s.dev = (.ok b, d) →
    let rq := rqUnit s.cfg x 5 0 0
    let n := getLe b 0 4
    (¬(1 ≤ n ∧ n ≤ 512) → exec .tokCommand s = .next (s.ended (unitEnd 5 0 0 0x10 false d))) ∧
    (1 ≤ n → n ≤ 512 → exec .tokCommand s = .next (s.ended (workEnd 5 0 0
      (fun _ e => unitEnd 5 0 0 0 (runAt e (instIdx 5 0 0)).poison e)
      (runEng (do
        resume s.cfg rq (instIdx 5 0 0)
        let items ← eBytes s.cfg rq (x.entry.payload + 128) (128 * n)
        let ts := (List.range n).map (fun i => parseItem (slice items.1 (128 * i) 128))
        if items.2 || !ts.all itemOk then throw .invalid
        liftDev (setUnits x 1)
        fromProg (instIdx 5 0 0) n (fun i => do
          let t := ts.getD i default
          let r ← tokItem s.cfg rq t
          commit s.cfg rq (instIdx 5 0 0) (i + 1) r.poison [.write t.result (mark r.poison r.bytes)])) (readBuffer 5 0 0 d))))))

/-- For every running state in which a Mule, PACK or check-value unit runs a command whose payload is read (a PACK or check-value unit's registers first showing its context and preset): an illegal payload ends it INVALID_COMMAND. MULE_COPY, MULE_FILL, STORE_MAINT, KV_STORE and MULE_PREFETCH do one span (64 KiB, or one page) of their range; the command's last span ends it, and MULE_SPAN_COMPLETE ends any other. PACK_COMPRESS and PACK_DECOMPRESS treat every block in order and write the status; CVU_SCAN reads the starting value, or takes the initial one, folds the range in and writes the result and, where an address is given, the finished value. Poison that was read marks the completion, a failure ends the unit with its status, and a stall leaves what was done. Where it follows a convention of the model's own, that is the model's choice and no rule of the spec: log 53, 54, 55, 56, 57.
(derived; R115, R157, R216, R344, R363, R406, R410, R416.) -/
def Obligations.DataMoverRows : Prop :=
  SpanRow Instr.muleCopy 1 copyOp ∧ SpanRow Instr.muleFill 2 fillOp ∧ SpanRow Instr.storeMaint 3 maintOp ∧
  SpanRow Instr.kvStore 4 kvStoreOp ∧ SpanRow Instr.mulePrefetch 5 prefetchOp ∧
  (∀ s q i r x, q < 4 → i < 4 → Running s → runOf s.dev 3 q i = some (r, x) → r.formed = true →
    exec (.muleSpanComplete q i) s = .next (s.ended (unitEnd 3 q i 0 r.poison s.dev))) ∧
  (∀ row op, (row, op) = (Instr.packCompress, 1) ∨ (row, op) = (Instr.packDecompress, 2) →
    WholeRow (fun _ => row) 8 1 2 128 (fun _ => packTaken) (fun _ b => packOk b) (fun _ b => getLe b 0 1 == op) (fun c i _ _ rq b => resumable (instIdx 8 0 i) do
      let k := instIdx 8 0 i
      let size := pkBlock (getLe b 2 1)
      let blocks := if op = 1 then ceilDiv (getLe b 8 8) 256 else getLe b 8 8
      let meets := if op = 1 then vaMeet (getLe b 0x10 8) (getLe b 8 8) (getLe b 0x18 8) (size * blocks)
        else vaMeet (getLe b 0x10 8) (size * blocks) (getLe b 0x18 8) (256 * blocks)
      let a ← packLoop (if op = 1 then compressBlock c rq k b meets else decompressBlock c rq k b meets) blocks 0 PkAcc.init
      packFinish c rq (getLe b 0x20 8) blocks a)) ∧
  WholeRow (fun _ => Instr.cvuScan) 9 1 4 64 cvuTaken (fun _ b => cvuOk b) (fun _ _ => true) (fun c i _ _ rq b => resumable (instIdx 9 0 i) do
    let start ← if bit (getLe b 2 1) 2 then do
        let w ← eRead c rq (getLe b 0x30 8) 8
        pure (leNat (pdata w) % 2 ^ (cvuParam b).width, ppoison w)
      else pure ((cvuParam b).init, false)
    let v ← cvuLoop c rq (cvuParam b) (ceilDiv (getLe b 0x28 8) 4096) (getLe b 0x20 8) (getLe b 0x28 8) start
    eWrite c rq (getLe b 0x30 8) (mark v.2 (leBytes 8 v.1))
    if getLe b 0x38 8 ≠ 0 then eWrite c rq (getLe b 0x38 8) (mark v.2 (leBytes 8 (crcCheck (cvuParam b) v.1)))
    notePoison (instIdx 9 0 i) v.2
    liftDev (fun d => { d with cvu := upd d.cvu i (fun m => { m with value := v.1 }) }))

/-- For every running state: SEQ_ATTACH of a free sequencer, with a legal descriptor read and the total of sequences at most 512, attaches it in state RUNNING and makes its ring device-written; a payload that fails a check completes INVALID_COMMAND. SEQ_DETACH of a sequencer with no step in flight writes back its pool counts and frees it, and its ring where no other sequencer holds it; with a step in flight it waits. For an attached sequencer that may act: SEQ_STEP_BUILD with no step in flight builds the next step's work, and with drafts still to collect first collects them (as SEQ_COMMIT then does alone); SEQ_COMMIT of a verified step commits the kept tokens, signals the step's fence and emits its trace packet; SEQ_STEP_DROP of a failed step whose commands have ended counts the drop, and after two in a row halts the sequencer and raises its source. Where it follows a convention of the model's own, that is the model's choice and no rule of the spec: log 58, 59, 60, 62, 64, 69.
(derived; R203, R206, R207, R209, R210, R222, R223, R225.) -/
def Obligations.StepSequencerRows : Prop :=
  (∀ s x b d, MgmtHead s 7 x b d →
    let i := getLe b 0 1
    (¬(i < 4 ∧ s.cfg.submit.mode ≠ 0 ∧ (seqOf d i).attached = false) → exec .seqAttach s = .next (s.ended (mgmtEnd s.cfg x 0x10 d))) ∧
    (∀ p e, i < 4 → s.cfg.submit.mode ≠ 0 → (seqOf d i).attached = false →
      physRead s.cfg (rqZero 14) (getLe b 8 8 % 2 ^ 48) 256 [] d = (0, p, e) →
      let m : SeqSt := { (default : SeqSt) with
        attached := true, desc := pdata p, descPa := getLe b 8 8 % 2 ^ 48, poisoned := ppoison p, state := 1 }
      exec .seqAttach s = .next (s.ended (
        if seqDescOk m = true ∧ ((d.seq.filter (fun m => m.attached)).map (fun m => m.count)).sum + m.count ≤ 512 then
          mgmtEnd s.cfg x 0 (setRing (setSeq e i (fun _ => { m with
            pools := (List.range 8).map (fun k => getLe (m.model (k / 4)) (0x30 + 4 * (k % 4)) 4) })) m.ring (fun r => { r with devWriter := true }))
        else mgmtEnd s.cfg x 0x10 e)))) ∧
  (∀ s x b d, MgmtHead s 8 x b d →
    let i := getLe b 0 1
    let m := seqOf d i
    exec .seqDetach s = .next (s.ended (
      if 4 ≤ i then mgmtEnd s.cfg x 0x10 d
      else if m.attached = false then mgmtEnd s.cfg x 0 d
      else if m.state = 1 ∧ (m.phase = 1 ∨ m.quiet = false ∨ m.failed = true) then mgmtBegun x (setSeq d i (fun m => { m with detaching := true }))
      else
        let e := setSeq (setInst (writeCounts s.cfg m d) (instIdx 14 0 i) (fun n => { n with log := [] })) i (fun _ => default)
        mgmtEnd s.cfg x 0 (setRing e m.ring (fun r => { r with
          devWriter := e.seq.any (fun o => o.attached && o.ring == m.ring)
          foreign := [] }))))) ∧
  (∀ s i, i < 4 → Running s → seqRuns s.cfg i s.dev = true →
    let m := seqOf s.dev i
    (m.detaching = false → m.quiet = true → m.failed = false → m.phase = 0 →
      exec (.seqStepBuild i) s = .next (s.ended (seqWork s.cfg i (buildStep s.cfg i) s.dev))) ∧
    (m.detaching = false → m.quiet = true → m.failed = false → m.phase = 2 → ∀ d, d = seqWork s.cfg i (collectDrafts s.cfg i) s.dev →
      exec (.seqStepBuild i) s = .next (s.ended (if (seqOf d i).phase = 0 ∧ (seqOf d i).quiet = true ∧ seqRuns s.cfg i d = true then
        seqWork s.cfg i (buildStep s.cfg i) d else d)) ∧ exec (.seqCommit i) s = .next (s.ended d)) ∧
    (m.quiet = true → m.failed = false → m.phase = 1 → ∀ d, d = seqWork s.cfg i (commitStep s.cfg i) s.dev →
      exec (.seqCommit i) s = .next (s.ended (if (seqOf d i).step = m.step then d
        else stepPacket s.cfg i false (m.step + 1) (signal m.fence (m.step + 1) false d)))) ∧
    (m.failed = true → m.pend = [] →
      let drops := if m.failedOther then m.drops + 1 else 0
      let d := seqWork s.cfg i (fun m => do
        let n := { m with
          todo := [], phase := 0, parts := [], failed := false, failedOther := false, step := m.step + 1, dropped := m.dropped + 1
          drops := drops, cycleStep := 0, draftSeqs := [], draftQueue := [], draftNow := [], state := if 2 ≤ drops then 2 else 1 }
        eWrite s.cfg (rqSeq s.cfg i m) (m.addr 0x50) (mark false (statusBytes n))
        pure n) s.dev
      let e := if (seqOf d i).step = m.step then d else stepPacket s.cfg i true (m.step + 1) d
      exec (.seqStepDrop i) s = .next (s.ended (if 2 ≤ drops ∧ (seqOf e i).state = 2 then raise (112 + i) e else e))))

/-- For every command c and every state s, the step of s with c at the front of its queue is exec of c on s with the queue's rest. Where it follows a convention of the model's own, that is the model's choice and no rule of the spec: log 1.
(derived; R331.) -/
def Obligations.StepRunsTheFrontCommand : Prop :=
  ∀ (s : State) (c : Instr) (rest : List Instr), step { s with pending := c :: rest } = exec c { s with pending := rest }

/-- With an empty queue a step answers a next state: while the device is held in reset the same state, and else the state in which the free value of the memories' errors has struck (log 163), one TBCLK period has passed and what follows of itself is taken up. That the empty queue is a clock tick is the model's choice (log 3); that PHE_TB counts TBCLK periods is the spec's. Where it follows a convention of the model's own, that is the model's choice and no rule of the spec: log 3, 138, 163.
(derived; R61, R62, R70.) -/
def Obligations.IdleStep : Prop :=
  (∀ s, s.pending = [] → s.dev.boot.phase = 0 → step s = .next s) ∧
  (∀ s, s.pending = [] → s.dev.boot.phase ≠ 0 → step s = .next (s.ended (advance s.cfg 1 (strike s.cfg s.dev)))) ∧
  (∀ c d, (advance c 1 d).phe.tb = d.phe.tb + 1)

/-- For every command and state: if every operand names a part that the device has and fits its field, the command answers a next state whose queue is the rest; if not, it answers the state as it was. No command ends in a fault or a refusal. That a command whose operands fit nothing is ignored is the model's choice (log 6). Where it follows a convention of the model's own, that is the model's choice and no rule of the spec: log 5, 6.
(derived; R10, R50.) -/
def Obligations.WellFormedCommandsComplete : Prop :=
  ∀ (i : Instr) (s : State),
    (i.wf = true → ∃ c d, exec i s = .next { s with cfg := c, dev := d }) ∧ (i.wf = false → exec i s = .next s)

/-- For every state and every command that is none of the reset inputs' rows, brown-out and its recovery, the two shutdowns, QUARTER_DRAIN_DONE and QUARTER_REJOIN, a step that answers a next state leaves every record in force as it was; an idle step does too.
(derived; R53, R54, R55, R495.) -/
def Obligations.RecordsChangeOnlyAtStarts : Prop :=
  let mayChange : Instr → Bool := fun i =>
    match i with
    | .sysRstNRelease _ | .sysRstNAssert | .pwrFailNLow | .brownOut _ | .pwrFailNRelease _ | .brownOutRecovery _ | .thermalShutdown _
    | .dramOvertemp _ | .quarterDrainDone _ _ _ _ | .quarterRejoin _ => true
    | _ => false
  ∀ s t, (∀ i ∈ s.pending.head?, mayChange i = false) → step s = .next t → t.cfg = s.cfg

/-- If the records in force are legal together and a step answers a next state, the records in force after it are legal together: scratch, trace and cache ways of a slice are disjoint; phase inputs use their own pins; the rings' reserved engines do not overlap and the reserved shares do not exceed the whole; each fall-back ring serves one monitor and is monitored by none; classes are 0 to 7; no ring time is 0; the submission settings are in range. This holds through a start from any boot NVM and through the restart of a quarter in a hand-over. Where it follows a convention of the model's own, that is the model's choice and no rule of the spec: log 110, 111.
(derived; R49, R50, R52, R66, R95, R100, R495, R532.) -/
def Obligations.EveryStepKeepsLegalRecords : Prop :=
  ∀ s t, CfgLegal s.cfg → step s = .next t → CfgLegal t.cfg

/-- The machine right after reset has the value of every absent record in force (R49), and these are legal together.
(derived; R49, R55.) -/
def Obligations.RecordsOfResetAreLegal : Prop :=
  State.reset.cfg = Cfg.absent ∧ CfgLegal State.reset.cfg

/-- Right after reset no command waits; the start has not begun and READY is 0; every domain but AO is off; every context is FREE, every ring unbound, every fence and reference count 0, the KQ disabled; no interrupt source has an event counted; every phase reference is ABSENT; no shed stage is in force and the device state has RUN's encoding; and the records in force have the values of R49: cap 60 W, DRAM 4,266 MT/s, every phase input off, no ring reserved, no monitor, KQ mode. The reset values that the spec does not give are the model's (log 7). Where it follows a convention of the model's own, that is the model's choice and no rule of the spec: log 7.
(derived; R11, R29, R49, R60, R333, R350, R353, R445, R459, R480, R502.) -/
def Obligations.ResetLeaves : Prop :=
  let d := State.reset.dev
  State.reset.pending = [] ∧ d.boot.phase = 0 ∧ d.boot.bootStatus = 0 ∧
  (∀ k, d.clk.domains.getD (k + 1) 0 = 0) ∧
  (∀ x, (ctxOf d x).state = 0) ∧ (∀ r, (ringOf d r).bound = false) ∧ (∀ f, (aget d.fe.fences f).v = 0) ∧ (∀ o, aget d.fe.refs o = 0) ∧
  d.fe.kqEnable = false ∧ (∀ n, aget d.icu.count n = 0) ∧ (∀ n, n < 11 → (refOf d n).state = 0) ∧
  d.pwr.stage = 0 ∧ d.pwr.state = 0 ∧
  State.reset.cfg.power.capW = 60 ∧ State.reset.cfg.power.dramMts = 4266 ∧ (∀ n, n < 8 → (State.reset.cfg.phin n).mode = 0) ∧
  (∀ r, r < 8 → State.reset.cfg.share r = none ∧ State.reset.cfg.dlm r = none) ∧ State.reset.cfg.submit.mode = 0

/-- For every word below 2^64, encoding the fields that R260 reads from it gives the word again. For every set of fields in range (format R: B, C, the uniform flags, PS and X free; format I: IMM free, B and C absent, PS and X the same bits of IMM), decoding its encoding gives the same fields.
(derived; R260.) -/
def Obligations.ShaderWordsRoundTrip : Prop :=
  (∀ w, w < 2 ^ 64 → encodeIns (decodeIns w) = w) ∧
  (∀ i : Ins, i.op < 256 → i.gp < 8 → i.md < 4 → i.d < 256 → i.a < 256 →
    (if i.imm then i.iv < 2 ^ 32 ∧ i.b = 0 ∧ i.c = 0 ∧ i.au = false ∧ i.bu = false ∧ i.cu = false ∧ i.rsv = false ∧
        i.ps = i.iv / 512 % 8 ∧ i.x = i.iv % 512
      else i.b < 256 ∧ i.c < 256 ∧ i.ps < 8 ∧ i.x < 512 ∧
        i.iv = i.b * 2 ^ 24 + i.c * 2 ^ 16 + b2n i.au * 2 ^ 15 + b2n i.bu * 2 ^ 14 + b2n i.cu * 2 ^ 13 + b2n i.rsv * 2 ^ 12 + i.ps * 2 ^ 9 + i.x) →
    decodeIns (encodeIns i) = i)

/-- EXIT without guard, IADD V3, V1, V2 of format R, IADD V3, V1, 0x12345678 of format I, and ICMP with a negated guard of P2 decode to those fields.
(derived; R260, R261, R265.) -/
def Obligations.ShaderWordExamples : Prop :=
  decodeIns 0x8300000000000000 = { (default : Ins) with op := 0x83 } ∧
  decodeIns 0x0100030102000000 = { (default : Ins) with op := 0x01, d := 3, a := 1, b := 2, iv := 0x02000000 } ∧
  decodeIns 0x0180030112345678 = { (default : Ins) with op := 0x01, imm := true, d := 3, a := 1, ps := 3, x := 0x078, iv := 0x12345678 } ∧
  decodeIns 0x1168050607080000 = { (default : Ins) with op := 0x11, ge := true, gn := true, gp := 2, d := 5, a := 6, b := 7, c := 8, iv := 0x07080000 }

/-- For every request that lies in the interleaved region's valid range, the quarter is the lane pa[13:12] xor the thirteen 2-bit fields of the granule group, and the DRAM offset is the granule group times 4,096 plus pa[11:0]; a request in quarter-local region 0x1 + q reaches quarter q at PA[39:0]. Every pair of a quarter and a DRAM offset is reached by exactly one interleaved offset, and a group of four consecutive granules places one in each quarter at the same offset.
(stated; R91.) -/
def Obligations.InterleavedPlacement : Prop :=
  (∀ c d rq pa len, pa < 2 ^ 40 → pa + len ≤ 4 * dramBytes →
    let g := pa / 2 ^ 14
    let f := fun (i : Nat) => g / 4 ^ i % 4
    place c d rq pa len = .dram ((pa / 2 ^ 12 % 4) ^^^ (f 0 ^^^ f 1 ^^^ f 2 ^^^ f 3 ^^^ f 4 ^^^ f 5 ^^^ f 6 ^^^ f 7 ^^^ f 8 ^^^ f 9 ^^^ f 10 ^^^ f 11 ^^^ f 12))
      (g * 4096 + pa % 4096)) ∧
  (∀ c d rq q o len, q < 4 → o < 2 ^ 40 → o + len ≤ dramBytes → place c d rq ((1 + q) * 2 ^ 40 + o) len = .dram q o) ∧
  (∀ q off, q < 4 → off < 2 ^ 38 → interleave (uninterleave q off) = (q, off) ∧ uninterleave q off < 2 ^ 40) ∧
  (∀ o, o < 2 ^ 40 → (interleave o).1 < 4 ∧ uninterleave (interleave o).1 (interleave o).2 = o) ∧
  (∀ g k off, g < 2 ^ 26 → k < 4 → off < 4096 → (interleave (g * 2 ^ 14 + k * 4096 + off)).2 = g * 4096 + off ∧
    ∀ j, j < 4 → (interleave (g * 2 ^ 14 + k * 4096 + off)).1 = (interleave (g * 2 ^ 14 + j * 4096 + off)).1 → j = k)

/-- For every line number l below 2^28 the set index is 8192 * (l mod 3) + (l[12:0] xor l[25:13] xor l[27:26]). For every angle and every 64-bit stamp with turns left to count, the next occurrence is the stamp with the same turn count and that angle when the angle is not below the stamp's, and else that plus one turn.
(stated; R75, R93.) -/
def Obligations.SetIndexAndNextAngle : Prop :=
  (∀ l, l < 2 ^ 28 → storeSet l = 8192 * (l % 3) + ((l % 2 ^ 13) ^^^ (l / 2 ^ 13 % 2 ^ 13) ^^^ (l / 2 ^ 26))) ∧
  (∀ a s, a < 2 ^ 32 → s < 2 ^ 64 - 2 ^ 32 → nextAngle a s =
    if s % 2 ^ 32 ≤ a then s / 2 ^ 32 * 2 ^ 32 + a else s / 2 ^ 32 * 2 ^ 32 + a + 0x100000000)

/-- Let the slots be chosen and the images read from the NVM (R485). With an inconsistent set, or without spine firmware or FE microcode, the start ends in recovery: no record in force, RECOVERY set, READY 0, domains 0 to 2 on; firmware that hangs leaves READY 0 and RECOVERY 0; both show CFG_MINIMUM, TRIMS_DEFAULT, the header's bit and the slots. The NVM's read mode is that of the header in force. Else READY is set, the records in force are those of the images' records, and the start registers hold: DRAM_FAIL (all quarters without quarter firmware), CFG_MINIMUM without a configuration image, the calibration and header bits, the counters of the records, the results of the start-up test for running quarters (none without ME microcode), the slots, the time, and which microcode is in force. Where it follows a convention of the model's own, that is the model's choice and no rule of the spec: log 2, 125, 126, 127, 135.
(derived; R55, R57, R58, R59, R60, R485.) -/
def Obligations.StartOutcomes : Prop :=
  ∀ (st : StartIn) (d : Dev),
    let m := st.nvm.foldl (fun m p => nvmWrite m p.1 p.2) d.upd.nvm
    let x := chooseSet m st.puf
    let has := fun (k : Nat) => x.images.any (fun i => i.kind == k)
    let r := startDev st d
    ((st.hang = true ∨ x.mismatch = true ∨ has 1 = false ∨ has 3 = false) →
      r.1 = Cfg.absent ∧ r.2.boot = { d.boot with
        phase := 1, bootTime := 0, bootSlots := x.trial * 2 ^ 8 + x.slots
        readOpcode := (readMode m).1, dummy := (readMode m).2.1, enables := (readMode m).2.2
        bootStatus := (if headersBad m then 2 ^ 15 else 0) + 2 ^ 14 + (if st.hang then 0 else 2 ^ 13) + 2 ^ 12 } ∧
      r.2.clk.domains = [1, 1, 1] ++ List.replicate 24 0) ∧
    ((st.hang = false ∧ x.mismatch = false ∧ has 1 = true ∧ has 3 = true) →
      let recs := imageRecs x.images
      let k := countRecs (acceptRecs recs.1) recs.1
      let run := if has 2 then 15 else 0
      r.1 = cfgOf recs.1 ∧ r.2.boot = { d.boot with
        phase := 2
        readOpcode := (readMode m).1, dummy := (readMode m).2.1, enables := (readMode m).2.2
        bootStatus := (if headersBad m then 2 ^ 15 else 0) + (if has 6 then 0 else 2 ^ 14) + (if r.1.trims.isNone then 2 ^ 12 else 0) +
          (if has 2 then st.dramFail % 16 else 15) * 2 ^ 8 + 1
        cfgStatus := k.crcFail * 2 ^ 24 + k.reject * 2 ^ 16 + k.unknown * 2 ^ 8 + k.dup * 2 + b2n recs.2
        cfgFaulted := k.faulted
        katFail0 := if has 4 then katBits run 8 st.kat0 else 0
        katFail1 := if has 4 then katBits run 6 (st.kat1 % 2 ^ 24) + katBits run 1 (st.kat1 / 2 ^ 24) * 2 ^ 24 else 0
        bootSlots := x.trial * 2 ^ 8 + x.slots, bootTime := Nat.min 65535 st.ms, oxsActive := 0, oxsStandbyOk := true, oxqRunning := run
        microcode := maskOf ((List.range 7).filter (fun i => has (i + 1))) + (if has 4 then 15 * 2 ^ 8 else 0)
        parts := [3, 4, 5].map (fun j => ((x.images.find? (fun i => i.kind == j)).map (fun i => i.body)).getD []) })

/-- For every state out of HOLD whose PWR block answers, in RUN with no entry begun, a write of REST or HOLD leaves RESULT and nothing else when a condition of R462 fails, naming the first that fails, and else begins the entry, aborting a hand-over that has not begun to act. POWER_ENTRY_DONE, with no hand-over and no NVM block under way, takes its time, switches the domains off (HOLD: after cleaning every way, the quarters and the spine as well) and leaves PWR_STATE REST or HOLD, or wakes at once if a wake came during the entry. WAKE_EVENT of a watched source whose event came since the request begins a wake in REST or HOLD and is remembered during an entry. WAKE_COMPLETE in WAKING restores RUN and lets the held accesses take effect in order. A first write of PWR_KEEP_BASE sets it, and the copy's end sets KEEP_READY with its CRCs. IDLEQ_ENTRY of an idle enabled quarter stops its clocks 10 us after its last work. Where it follows a convention of the model's own, that is the model's choice and no rule of the spec: log 116, 117, 118, 119, 120.
(derived; R460, R461, R462, R463, R464, R465, R466.) -/
def Obligations.DeviceStateRows : Prop :=
  (∀ s st row, (st = 1 ∧ row = Instr.pwrReqRest) ∨ (st = 2 ∧ row = Instr.pwrReqHold) → HostReaches s 0x40004 → Running s → s.dev.pwr.entering = 0 →
    let busy := s.dev.fe.rings.any (fun p => p.2.cmds != []) || (s.dev.fe.kqRptr != s.dev.fe.kqWptr)
    let result := if busy then 2 else if s.dev.fe.batchTb.isSome then 7 else if s.dev.seq.any (fun x => x.attached) then 3
      else if s.dev.store.any (fun x => x.maintBusy) then 4 else if s.dev.pwr.stage ≠ 0 then 5 else if s.dev.pwr.keepReady = false then 6 else 1
    (result ≠ 1 → exec row s = .next (s.ended { s.dev with pwr := { s.dev.pwr with reqResult := result } })) ∧
    (result = 1 → exec row s = .next (s.ended { s.dev with
      upd := if s.dev.upd.hand.any (fun h => decide (h.state ≤ 2)) then { s.dev.upd with hand := none, busy := false, result := 12 } else s.dev.upd
      boot := { s.dev.boot with oxsStandbyOk := s.dev.upd.hand.any (fun h => decide (h.state ≤ 2) && h.part == 0) || s.dev.boot.oxsStandbyOk }
      pwr := { s.dev.pwr with reqResult := 1, entering := st, entryTb := s.dev.phe.tb, wakePending := false
                              wakeCounts := s.dev.icu.count, wakeLevels := levelMask s.dev } }))) ∧
  (∀ s, Live s → s.dev.upd.hand = none → s.dev.upd.bufs.any (fun b => b.state == 2) = false →
    (s.dev.pwr.entering = 1 →
      let d := restOff s.cfg (advanceTo s.cfg (s.dev.pwr.entryTb + 10000) s.dev)
      let e := { d with
        clk := { d.clk with avs := [], switches := [], rateSwitch := none, rateQueue := [], rail := d.clk.rail.set 4 600 }
        pwr := { d.pwr with state := 1, entering := 0, idleq := 0, holdTb := d.phe.tb } }
      exec .powerEntryDone s = .next (s.ended (if d.pwr.wakePending then startWake none { e with pwr := { e.pwr with wakePending := false } } else e))) ∧
    (s.dev.pwr.entering = 2 →
      let clean := (List.range 4).foldl (fun d q => cleanWays q (cacheWays s.cfg q) d)
        (let t := advanceTo s.cfg (s.dev.pwr.entryTb + 342000) s.dev; areaOwn s.cfg (keepPa t) t)
      let d := spineOff ((List.range 4).foldl (fun d q => setQuarter q 0 0 0 (sliceOff s.cfg q d)) (restOff s.cfg clean))
      let e := { d with
        clk := { d.clk with avs := [], switches := [], rateSwitch := none, rateQueue := [], rail := d.clk.rail.set 4 0 }
        pwr := { d.pwr with state := 2, entering := 0, idleq := 0, holdTb := d.phe.tb } }
      exec .powerEntryDone s = .next (s.ended (if d.pwr.wakePending then startWake none { e with pwr := { e.pwr with wakePending := false } } else e)))) ∧
  (∀ s n, n < 512 → s.dev.boot.phase = 2 → s.cfg.irq.goose.contains n = true →
    (if n ≤ 5 then levelCond s.dev n = true ∧ s.dev.pwr.wakeLevels.testBit n = false else aget s.dev.pwr.wakeCounts n < aget s.dev.icu.count n) →
    let d := { s.dev with icu := { s.dev.icu with woke := true, wokeSource := n } }
    (s.dev.pwr.entering ≠ 0 → exec (.wakeEvent (some n)) s = .next (s.ended { d with pwr := { d.pwr with wakePending := true } })) ∧
    (s.dev.pwr.entering = 0 → s.dev.pwr.state = 1 ∨ s.dev.pwr.state = 2 → exec (.wakeEvent (some n)) s = .next (s.ended { d with
      pwr := { d.pwr with state := 3, wakeFrom := d.pwr.state, wakeTb := d.phe.tb } }))) ∧
  (∀ s, s.dev.boot.phase = 2 → s.dev.pwr.state = 2 → s.dev.pwr.entering = 0 → s.dev.host.perstLow = false →
    exec (.wakeEvent none) s = .next (s.ended { s.dev with pwr := { s.dev.pwr with state := 3, wakeFrom := 2, wakeTb := s.dev.phe.tb } })) ∧
  (∀ s keepBad links, links < 4 → s.dev.boot.phase = 2 → s.dev.pwr.state = 3 →
    let d := wakeRestore s.cfg keepBad links s.dev
    exec (.wakeComplete keepBad links) s = .next (s.ended (d.pwr.held.foldl (releaseAccess s.cfg) { d with pwr := { d.pwr with held := [] } }))) ∧
  (∀ s v, v < 2 ^ 32 → HostReaches s 0x40014 → Live s → s.dev.pwr.keepSet = false →
    exec (.pwrKeepBaseWrite v) s = .next (s.ended { s.dev with
      pwr := { s.dev.pwr with keepBase := v % 65536, keepSet := (v % 65536 * 2 ^ 32 + s.dev.pwr.keepLo * 2 ^ 25) / 2 ^ 40 == 1 } })) ∧
  (∀ s v, v < 2 ^ 32 → HostReaches s 0x40014 → Live s → s.dev.pwr.keepSet = true → exec (.pwrKeepBaseWrite v) s = .next (s.ended s.dev)) ∧
  (∀ s, Running s → s.dev.pwr.keepSet = true → s.dev.pwr.keepReady = false → (sliceOf s.dev 0).memLost = false →
    exec .keepCopyDone s = .next (s.ended (areaWrite s.cfg (s.dev.pwr.keepBase * 2 ^ 32 + s.dev.pwr.keepLo * 2 ^ 25) s.dev.boot.parts.zipIdx { s.dev with
      pwr := { s.dev.pwr with keepReady := true, keepCrc := s.dev.boot.parts.map (fun b => (b.length, crc32c b)) } }))) ∧
  (∀ s q, q < 4 → Running s → s.cfg.power.idleqEn.testBit q = true → quarterOn s.dev q = true → quarterBusy s.dev q = false →
    armedFor s.dev q = false → s.dev.pwr.idleq.testBit q = false →
    let d := advanceTo s.cfg (s.dev.pwr.lastBusy.getD q 0 + 5000) s.dev
    exec (.idleqEntry q) s = .next (s.ended { d with pwr := { d.pwr with idleq := putBit d.pwr.idleq q true } }))

/-- For every running state, GOVERNOR_STEP lets time pass to the next 100 us; above the cap it lowers by one step every powered quarter above its floor (with all at their floors for 10 ms it ignores the floors from then on and counts FLOOR_OVERRIDE); below 95 % of it with work waiting it raises each by one step up to its limits; else it changes no step. THROTTLE_DOWN of a quarter that is hot, or too much hotter than a neighbour, lowers its limit by one step, not below 10; THROTTLE_UP of a cooled throttled quarter raises the limit by one, and throttling ends at its maximum. AVS_REQUEST_DONE within 50 us sets the rail and begins the clock switch that waited; AVS_RETRY at 50 us begins the next try, and after the third retry raises AVS_FAULT. CLOCK_SWITCH_DONE sets the step after 2 us and serves the held requests; DRAM_RATE_SWITCH_DONE sets the rate after 4 us and begins the next quarter's switch. Where it follows a convention of the model's own, that is the model's choice and no rule of the spec: log 113, 114.
(derived; R469, R470, R471, R473, R474, R477.) -/
def Obligations.ClockAndRailRows : Prop :=
  (∀ s est, est < 65536 → Running s →
    let t := advanceTo s.cfg ((s.dev.phe.tb / 50000 + 1) * 50000) s.dev
    let cap := 10 * s.cfg.power.capW
    let o := obsCount 0x73 4 0xF none ((t.pwr.energy + est) / 100 - t.pwr.energy / 100) t
    let d := { o with pwr := { o.pwr with energy := t.pwr.energy + est, estimate := est, ignoreFloors := o.pwr.ignoreFloors && decide (cap ≤ est) } }
    let on := (List.range 4).filter (quarterOn d)
    (cap < est →
      let spare := d.pwr.ignoreFloors || on.any (fun q => decide (d.clk.floor.getD q 10 < d.clk.step.getD q 0))
      let since := d.pwr.overTb.getD d.phe.tb
      let e := { d with pwr := (if spare then { d.pwr with overTb := none }
        else if since + 5000000 ≤ d.phe.tb then
          { d.pwr with overTb := none, ignoreFloors := true, floorOverride := satInc 255 d.pwr.floorOverride }
        else { d.pwr with overTb := some since }) }
      exec (.governorStep est) s = .next (s.ended (on.foldl (fun f q =>
        if (if f.pwr.ignoreFloors then 10 else f.clk.floor.getD q 10) < f.clk.step.getD q 0 ∧ changing f q = false then
          obsCount 0x71 q 0xF none 1 (changeClock q (f.clk.step.getD q 0 - 1) { f with clk := { f.clk with capLimited := putBit f.clk.capLimited q true } })
        else f) e))) ∧
    (est ≤ cap → est * 100 < cap * 95 → workWaits d = true →
      exec (.governorStep est) s = .next (s.ended (on.foldl (fun f q =>
        let top := stepTop s.cfg f q
        let g := if top ≤ f.clk.step.getD q 0 + 1 then { f with clk := { f.clk with capLimited := putBit f.clk.capLimited q false } } else f
        if f.clk.step.getD q 0 < top ∧ changing g q = false then obsCount 0x72 q 0xF none 1 (changeClock q (f.clk.step.getD q 0 + 1) g) else g)
        { d with pwr := { d.pwr with overTb := none } }))) ∧
    (est ≤ cap → cap * 95 ≤ est * 100 ∨ workWaits d = false →
      exec (.governorStep est) s = .next (s.ended { d with pwr := { d.pwr with overTb := none } }))) ∧
  (∀ s q temps, q < 4 → temps.length = 5 → Live s → quarterOn s.dev q = true →
    let d := readSensors temps s.dev
    let hot := decide (thermLimit s.cfg 100 ≤ temps.getD q 0) || decide (thermLimit s.cfg 100 ≤ temps.getD 4 0)
    let near := hotterBy d q 35 || (s.dev.clk.neighbour.testBit q && hotterBy d q 30)
    hot = true ∨ near = true →
    let was := s.dev.clk.throttling.testBit q || s.dev.clk.neighbour.testBit q
    let e := if was then advanceTo s.cfg (s.dev.clk.thermTb.getD q 0 + 50000) d else d
    let n := Nat.max 10 (Nat.min (e.clk.step.getD q 0) (e.clk.thermLimit.getD q 40) - 1)
    exec (.throttleDown q temps) s = .next (s.ended (changeClock q n { e with
      clk := { e.clk with throttling := putBit e.clk.throttling q (hot || e.clk.throttling.testBit q), neighbour := putBit e.clk.neighbour q near
                          thermLimit := e.clk.thermLimit.set q n, thermTb := e.clk.thermTb.set q e.phe.tb }
      pwr := { e.pwr with throttles := if was then e.pwr.throttles else satInc 255 e.pwr.throttles } }))) ∧
  (∀ s q temps, q < 4 → temps.length = 5 → Live s → s.dev.clk.throttling.testBit q || s.dev.clk.neighbour.testBit q →
    temps.getD q 0 < thermLimit s.cfg 97 → temps.getD 4 0 < thermLimit s.cfg 97 → hotterBy (readSensors temps s.dev) q 30 = false →
    let d := advanceTo s.cfg (s.dev.clk.thermTb.getD q 0 + 500000) (readSensors temps s.dev)
    let old := d.clk.thermLimit.getD q 40
    let ends := decide (aclkTop s.cfg q ≤ old + 1)
    let e := { d with clk := { d.clk with
      thermLimit := d.clk.thermLimit.set q (if ends then 40 else old + 1), thermTb := d.clk.thermTb.set q d.phe.tb
      throttling := if ends then putBit d.clk.throttling q false else d.clk.throttling
      neighbour := if ends then putBit d.clk.neighbour q false else d.clk.neighbour } }
    exec (.throttleUp q temps) s = .next (s.ended (if e.clk.step.getD q 0 = old ∧ old < stepTop s.cfg e q then changeClock q (old + 1) e else e))) ∧
  (∀ s rail r, rail < 5 → Live s → s.dev.clk.avs.find? (fun r => r.rail == rail) = some r → s.dev.phe.tb ≤ r.tb + 25000 →
    let d := { s.dev with clk := { s.dev.clk with avs := s.dev.clk.avs.erase r, rail := s.dev.clk.rail.set rail r.mv } }
    exec (.avsRequestDone rail) s = .next (s.ended (railFix (match r.step with
      | some n => startSwitch rail n d
      | none => d)))) ∧
  (∀ s rail readback r, rail < 5 → (∀ y ∈ readback, y < 1024) → Live s → s.dev.clk.avs.find? (fun r => r.rail == rail) = some r →
    let d := advanceTo s.cfg (r.tb + 25000) s.dev
    (r.tries < 3 → exec (.avsRetry rail readback) s = .next (s.ended { d with clk := { d.clk with
      avs := d.clk.avs.map (fun x => if x = r then { r with tries := r.tries + 1, tb := d.phe.tb } else x) } })) ∧
    (3 ≤ r.tries →
      let e := raise 11 { d with
        clk := { d.clk with avs := d.clk.avs.erase r }
        pwr := { d.pwr with avsFault := putBit d.pwr.avsFault rail true, avsFaults := satInc 255 d.pwr.avsFaults } }
      let limit := match readback with
        | some mv => stepAt mv
        | none => 10
      let f := { e with clk := { e.clk with avsLimit := e.clk.avsLimit.set rail limit } }
      exec (.avsRetry rail readback) s = .next (s.ended (
        if rail = 4 ∨ r.mv ≤ e.clk.rail.getD rail 0 then e
        else if limit < f.clk.step.getD rail 0 then changeClock rail limit f else f)))) ∧
  (∀ s q w, q < 4 → Running s → s.dev.clk.switches.find? (fun w => w.quarter == q) = some w →
    let d := advanceTo s.cfg (w.tb + 1000) s.dev
    let e := { d with clk := { d.clk with switches := d.clk.switches.filter (fun w => w.quarter != q), step := d.clk.step.set q w.step } }
    exec (.clockSwitchDone q) s = .next (s.ended (releaseHeld s.cfg q (railFix
      (obsEmit s.cfg 5 0x50 0 (srcWord 0xF1 q 0) (e.pwr.state + 16 * q + 256 * w.step) [] e))))) ∧
  (∀ s q w, q < 4 → Running s → s.dev.clk.rateSwitch = some w → w.quarter = q →
    let d := advanceTo s.cfg (w.tb + 2000) s.dev
    exec (.dramRateSwitchDone q) s = .next (s.ended (nextRate w.rate { d with
      clk := { d.clk with rateSwitch := none, dramRate := d.clk.dramRate.set q w.rate } })))

/-- For every started state, a cause that makes the warning active starts w, counts DIPS and, with no stage in force, enters S1; a further cause changes only itself; the end of its last cause starts the time of calm. DROOP_HOLD_EXPIRY ends the droop cause 100 us after the last firing. While a cause holds the warning to 200 us, 1 ms or 5 ms and the stage before is in force, SHED_S2, S3 or S4_ENTRY enters its stage, counted and traced; S3 then switches the DRAM of each powered quarter to 4266 MT/s, and S4 ends a hand-over of a quarter ABORTED and cleans and switches off Q1 to Q3. SHED_RECOVERY with the warning inactive leaves the highest stage 10 ms after the warning ended, and each further one 2 ms later: leaving S4 brings back the quarters that started (out of RUN, only their memory), leaving S3 restores DRAM_MTS. Where it follows a convention of the model's own, that is the model's choice and no rule of the spec: log 4, 115, 123.
(derived; R476, R477, R478, R479.) -/
def Obligations.SupplySagRows : Prop :=
  (∀ s level, s.dev.boot.phase = 2 →
    let d := { s.dev with pwr := { s.dev.pwr with pinLow := !level } }
    let w := { d with pwr := { d.pwr with warnTb := d.phe.tb, dips := satInc 255 d.pwr.dips, leftStages := 0 } }
    (warnActive s.dev = false → level = false → s.dev.pwr.stage = 0 → exec (.pwrWarnNChange level) s = .next (s.ended
      (obsEmit s.cfg 4 0x40 0 0xF1 1 [] (raise 12 { w with pwr := { w.pwr with stage := 1 } })))) ∧
    (warnActive s.dev = false → level = false → s.dev.pwr.stage ≠ 0 → exec (.pwrWarnNChange level) s = .next (s.ended w)) ∧
    (warnActive s.dev = true → level = true → s.dev.pwr.droopTb = none → exec (.pwrWarnNChange level) s = .next (s.ended
      { d with pwr := { d.pwr with calmTb := d.phe.tb, leftStages := 0 } })) ∧
    (warnActive s.dev = !level ∨ s.dev.pwr.droopTb.isSome → exec (.pwrWarnNChange level) s = .next (s.ended d))) ∧
  (∀ s, s.dev.boot.phase = 2 →
    let d := { s.dev with pwr := { s.dev.pwr with droopTb := some s.dev.phe.tb } }
    let w := { d with pwr := { d.pwr with warnTb := d.phe.tb, dips := satInc 255 d.pwr.dips, leftStages := 0 } }
    (warnActive s.dev = true → exec .droopDetect s = .next (s.ended d)) ∧
    (warnActive s.dev = false → s.dev.pwr.stage = 0 → exec .droopDetect s = .next (s.ended
      (obsEmit s.cfg 4 0x40 0 0xF1 1 [] (raise 12 { w with pwr := { w.pwr with stage := 1 } })))) ∧
    (warnActive s.dev = false → s.dev.pwr.stage ≠ 0 → exec .droopDetect s = .next (s.ended w))) ∧
  (∀ s t, s.dev.boot.phase = 2 → s.dev.pwr.droopTb = some t →
    exec .droopHoldExpiry s = .next (s.ended (warnChange s.cfg (fun p => { p with droopTb := none }) (advanceTo s.cfg (t + 50000) s.dev)))) ∧
  (∀ s k us row, (k = 2 ∧ us = 200 ∧ row = Instr.shedS2Entry) ∨ (k = 3 ∧ us = 1000 ∧ row = Instr.shedS3Entry) ∨ (k = 4 ∧ us = 5000 ∧ row = Instr.shedS4Entry) →
    s.dev.boot.phase = 2 → s.dev.pwr.stage + 1 = k →
    s.dev.pwr.pinLow = true ∨ (∃ t, s.dev.pwr.droopTb = some t ∧ s.dev.pwr.warnTb + us * 500 ≤ t + 50000) →
    let t := advanceTo s.cfg (s.dev.pwr.warnTb + us * 500) s.dev
    let d := { t with pwr := { t.pwr with stage := k } }
    let e := { d with
      upd := if d.upd.hand.any (fun h => decide (2 ≤ h.part)) then { d.upd with hand := none, busy := false, result := 12 } else d.upd
      sched := { d.sched with insts := amapAll d.sched.insts (fun i x =>
        if quarterClass (i / 32) && decide (1 ≤ i % 32 / 8) && x.window then { x with window := false } else x) }
      clk := { d.clk with rateQueue := [] } }
    exec row s = .next (s.ended (obsEmit s.cfg 4 0x40 0 0xF1 k [] (raise 12 (
      if k = 2 then d else if k = 3 then setRates 4266 d else shedQuarter s.cfg 3 (shedQuarter s.cfg 2 (shedQuarter s.cfg 1 e))))))) ∧
  (∀ s, s.dev.boot.phase = 2 → warnActive s.dev = false → s.dev.pwr.stage ≠ 0 →
    let t := advanceTo s.cfg (s.dev.pwr.calmTb + 5000000 + 1000000 * s.dev.pwr.leftStages) s.dev
    let k := t.pwr.stage
    let d := { t with pwr := { t.pwr with stage := k - 1, leftStages := t.pwr.leftStages + 1 } }
    exec .shedRecovery s = .next (s.ended (obsEmit s.cfg 4 0x40 0 0xF1 (k + 8) [] (raise 12 (railFix (
      if k = 4 then shedBack (shedBack (shedBack d 1) 2) 3 else if k = 3 then setRates s.cfg.power.dramMts d else d))))))

/-- For every running state and every enabled monitor whose reference is valid, DLM_CHECK takes the cycle whose check angle was passed last and is undecided, or else lets time pass to the next check angle, which the reference must then have reached. It reads the marks of the fall-back ring that are not read yet, marks the cycle checked and skips the staged chains of earlier cycles. A cycle that was delivered or whose fall-back was dispatched ends there. A cycle without a START triggers NO_CHAIN. A cycle whose primary chain still runs triggers PREDICTED when its predicted completion lies after the threshold, else SHED while stage S3 or S4 is in force, else nothing. With no staged chain of the cycle whose memory is present, a NO_CHAIN trigger delivers NONE. Where it follows a convention of the model's own, that is the model's choice and no rule of the spec: log 144.
(derived; R83, R228, R229, R230, R231.) -/
def Obligations.DeadlineCheckRow : Prop :=
  (∀ s r m n t, r < 8 → Running s → faulted s.dev = false → s.cfg.dlm r = some m → refValid (refOf s.dev m.ref) = true →
    let ref := refOf s.dev m.ref
    let decided := fun (k : Nat) => (cycleOf (dlmOf s.dev r) k ref.epoch).any (fun y => y.checked)
    ((lastCheckTurn m (refStamp ref) = some n ∧ decided n = false ∧ t = s.dev) ∨
      ((∀ k, lastCheckTurn m (refStamp ref) = some k → decided k = true) ∧
        n = refStamp ref / 2 ^ 32 + (if m.checkAngle ≤ refStamp ref % 2 ^ 32 then 1 else 0) ∧
        t = advance s.cfg (ticksToStamp s.cfg m.ref ((n * 2 ^ 32 + m.checkAngle) % 2 ^ 64) s.dev) s.dev ∧
        stampAfter ((n * 2 ^ 32 + m.checkAngle) % 2 ^ 64) (refStamp (refOf t m.ref)) = false)) →
    let d := setDlm (skipChains s.cfg r (fun k => decide (toSigned 32 (k.cycle + 2 ^ 32 - n % 2 ^ 32) < 0)) (readMarks s.cfg m.fallbackRing t)) r
      (fun x => setCycle n ref.epoch (fun y => { y with checked := true }) x)
    let y := (cycleOf (dlmOf d r) n ref.epoch).getD default
    exec (.dlmCheck r) s = .next (s.ended (
      if y.delivered ∨ y.dispatched then d
      else if y.started = false then dlmTrigger s.cfg r n ref.epoch 1 d
      else match (dlmOf d r).chains.find? (fun h => h.kind == 0 && h.cmark.cycle == n) with
        | none => d
        | some h => if predictedLate m n h then dlmTrigger s.cfg r n ref.epoch 2 d
          else if 3 ≤ d.pwr.stage then dlmTrigger s.cfg r n ref.epoch 3 d else d))) ∧
  (∀ (c : Cfg) (d : Dev) r m n epoch, c.dlm r = some m → d.pwr.state = 0 →
    (cycleOf (dlmOf d r) n epoch).all (fun y => !y.delivered && !y.dispatched) = true →
    let a := readMarks c m.fallbackRing d
    (∀ h ∈ stagedChains (ringOf a m.fallbackRing), h.1.cycle = n → memPresent a h.1.needed = false) →
    let e := skipChains c r (fun k => k.cycle == n) (setDlm a r (fun s =>
      { setCycle n epoch (fun y => { y with missing := true, trigger := 1 }) s with missing := satInc 255 s.missing }))
    dlmTrigger c r n epoch 1 d = retirePrimary c m r n (deliver c r m ((cycleOf (dlmOf e r) n epoch).getD default) 4 none e))

/-- For every state, an accepted low of SYS_RST_N or PWR_FAIL_N, a brown-out of a monitored rail that is no quarter's, and for a started or starting device a sensor at 120 degrees (112 untrimmed) or for a started one a DRAM package above 105 degrees, leave no record in force and every register at its reset value, keeping the NVM, host memory, the messages sent to it, the levels of the inputs and the note of the cause. A brown-out of a monitored quarter rail loses that quarter's memory and switches its domains off. A rail that is not monitored, or a lower temperature, changes nothing. Where it follows a convention of the model's own, that is the model's choice and no rule of the spec: log 2, 122.
(derived; R55, R475, R478, R523, R526, R530.) -/
def Obligations.ResetRows : Prop :=
  let cleared := fun (s : State) (d : Dev) =>
    let n := Dev.init d.upd.nvm d.freeCount
    State.ended { s with cfg := Cfg.absent } { n with
      host := { n.host with busMem := d.host.busMem, busPoison := d.host.busPoison, msgs := d.host.msgs, perstLow := d.host.perstLow }
      boot := { n.boot with sysRstLow := d.boot.sysRstLow, pwrFailLow := d.boot.pwrFailLow, brownOut := d.boot.brownOut }
      clk := { n.clk with shutdown := d.clk.shutdown } }
  (∀ s, exec .sysRstNAssert s = .next (cleared s { s.dev with boot := { s.dev.boot with sysRstLow := true } })) ∧
  (∀ s, exec .pwrFailNLow s = .next (cleared s { s.dev with boot := { s.dev.boot with pwrFailLow := true } })) ∧
  (∀ s r, r.wf = true → railWatched s.dev r = true → (∀ q, r ≠ .quarter q) →
    exec (.brownOut r) s = .next (cleared s { s.dev with boot := { s.dev.boot with brownOut := true } })) ∧
  (∀ s q, q < 4 → railWatched s.dev (.quarter q) = true →
    let lost := if (sliceOf s.dev q).memLost then s.dev else { loseMemory q s.dev with notes := (loseMemory q s.dev).notes ++ [.quarterOut q] }
    let d := setQuarter q 0 0 0 (setSlice lost q (fun x => { SliceSt.init with memLost := x.memLost }))
    exec (.brownOut (.quarter q)) s = .next (s.ended (settle s.cfg (oxStopped (2 + q) { d with
      boot := { d.boot with oxqRunning := putBit d.boot.oxqRunning q false }
      pwr := { d.pwr with shedLost := putBit d.pwr.shedLost q false, idleq := putBit d.pwr.idleq q false }
      clk := { d.clk with
        avs := d.clk.avs.filter (fun r => r.rail != q), switches := d.clk.switches.filter (fun w => w.quarter != q)
        rail := d.clk.rail.set q 0, dramRate := d.clk.dramRate.set q 0 } })))) ∧
  (∀ s r, r.wf = true → railWatched s.dev r = false → exec (.brownOut r) s = .next (s.ended s.dev)) ∧
  (∀ s temp, s.dev.boot.phase ≠ 0 → (if s.cfg.trims.isSome then 480 else 448) ≤ temp →
    exec (.thermalShutdown temp) s = .next (cleared s { s.dev with clk := { s.dev.clk with shutdown := true } })) ∧
  (∀ s temp, s.dev.boot.phase = 0 ∨ temp < (if s.cfg.trims.isSome then 480 else 448) → exec (.thermalShutdown temp) s = .next (s.ended s.dev)) ∧
  (∀ s temp, s.dev.boot.phase = 2 → 105 < temp →
    exec (.dramOvertemp temp) s = .next (cleared s { s.dev with clk := { s.dev.clk with shutdown := true } })) ∧
  (∀ s temp, s.dev.boot.phase ≠ 2 ∨ temp ≤ 105 → exec (.dramOvertemp temp) s = .next (s.ended s.dev))

/-- SYS_RST_N_RELEASE with no other cause of reset begins a start, also after a thermal shutdown, and leaves the device as it is when TEST_EN is high; PWR_FAIL_N_RELEASE and BROWN_OUT_RECOVERY begin one when no reset input is low, no brown-out holds and no shutdown stands; else each only notes its level. READY_TIMEOUT without READY opens configuration space 900 ms after the later release. PERST_N_ASSERT takes the link down with its PCIe registers and in RUN performs the steps of R330; the release trains the link while the PCIe domain is on. FUNCTION_LEVEL_RESET of a device that answers clears the requests' registers and performs them: every context lost with cause FLR, every ring unbound, fences, references, KQ, MMU and ICU registers as R330 lists. LINK_STATE_CHANGE sets width and rate, or the link down when they are no legal format. Where it follows a convention of the model's own, that is the model's choice and no rule of the spec: log 2, 104, 105, 142.
(derived; R55, R56, R59, R326, R330, R475, R517, R523, R524, R526, R529.) -/
def Obligations.StartAndLinkRows : Prop :=
  let train := fun (width rate : Nat) (d : Dev) =>
    let up := decide (width = 1 ∨ width = 2 ∨ width = 4 ∨ width = 8) && decide (1 ≤ rate ∧ rate ≤ 5)
    { d with host := { d.host with linkUp := up, width := if up then width else 0, rate := if up then rate else 0 } }
  let free := fun (d : Dev) => d.boot.sysRstLow = false ∧ d.boot.pwrFailLow = false ∧ d.boot.brownOut = false ∧ d.clk.shutdown = false ∧ d.boot.phase = 0
  let reset := fun (c : Cfg) (d : Dev) => flrRegisters (flrUnbind (settle c ((List.range 64).foldl (fun d x => loseContext c x 0x1A [] d) d)))
  (∀ s st, st.wf = true → st.testEn = true → exec (.sysRstNRelease st) s = .next (s.ended s.dev)) ∧
  (∀ s st, st.wf = true → st.testEn = false → s.dev.boot.sysRstLow = true →
    let d := { s.dev with boot := { s.dev.boot with sysRstLow := false } }
    (d.boot.pwrFailLow = false → d.boot.brownOut = false → d.boot.phase = 0 →
      exec (.sysRstNRelease st) s = .next (State.ended { s with cfg := (startDev st d).1 } (startDev st d).2)) ∧
    (d.boot.pwrFailLow = true ∨ d.boot.brownOut = true → exec (.sysRstNRelease st) s = .next (s.ended { d with
      pwr := { d.pwr with thermLast := d.pwr.thermLast || d.clk.shutdown }
      clk := { d.clk with shutdown := false } }))) ∧
  (∀ s st row d, st.wf = true →
    ((row = Instr.pwrFailNRelease st ∧ s.dev.boot.pwrFailLow = true ∧ d = { s.dev with boot := { s.dev.boot with pwrFailLow := false } }) ∨
      (row = Instr.brownOutRecovery st ∧ s.dev.boot.brownOut = true ∧ s.dev.boot.sysRstLow = false ∧ s.dev.boot.pwrFailLow = false ∧
        d = { s.dev with boot := { s.dev.boot with brownOut := false } })) →
    (free d → exec row s = .next (State.ended { s with cfg := (startDev st d).1 } (startDev st d).2)) ∧
    (¬free d → exec row s = .next (s.ended d))) ∧
  (∀ s, s.dev.boot.phase = 1 → s.dev.host.cfgOpen = false → s.dev.host.perstLow = false →
    let d := advanceTo s.cfg (s.dev.boot.relTb + 450000000) s.dev
    exec .readyTimeout s = .next (s.ended { d with host := { d.host with cfgOpen := true } })) ∧
  (∀ s, s.dev.host.perstLow = false → s.dev.boot.phase ≠ 0 →
    let h := s.dev.host
    let d := { s.dev with
      host := { h with perstLow := true, linkUp := false, width := 0, rate := 0, msixEnable := false, funcMask := false, busMaster := false
                       bar2Log := 28, d3hot := false, msix := [] }
      icu := { s.dev.icu with marks := [] } }
    exec .perstNAssert s = .next (s.ended (if s.dev.boot.phase = 2 ∧ s.dev.pwr.state = 0 then reset s.cfg d else d))) ∧
  (∀ s width rate, (width = 0 ∨ width = 1 ∨ width = 2 ∨ width = 4 ∨ width = 8) → rate < 6 → s.dev.host.perstLow = true → s.dev.boot.phase ≠ 0 →
    let d := { s.dev with
      host := { s.dev.host with perstLow := false }
      boot := { s.dev.boot with relTb := if s.dev.boot.phase = 1 ∧ s.dev.host.cfgOpen = false then s.dev.phe.tb else s.dev.boot.relTb } }
    exec (.perstNRelease width rate) s = .next (s.ended (if s.dev.clk.domains.getD 2 0 = 1 then train width rate d else d))) ∧
  (∀ s, s.dev.pwr.state ≠ 2 → s.dev.boot.phase = 2 ∨ s.dev.host.cfgOpen = true → s.dev.host.linkUp = true →
    let d := { s.dev with host := { s.dev.host with msixEnable := false, funcMask := false, busMaster := false, bar2Log := 28, d3hot := false, msix := [] } }
    exec .functionLevelReset s = .next (s.ended (reset s.cfg d))) ∧
  (∀ s width rate, (width = 0 ∨ width = 1 ∨ width = 2 ∨ width = 4 ∨ width = 8) → rate < 6 → s.dev.host.perstLow = false → s.dev.boot.phase ≠ 0 →
    s.dev.clk.domains.getD 2 0 = 1 → s.dev.clk.shutdown = false →
    exec (.linkStateChange width rate) s = .next (s.ended (train width rate s.dev)))

/-- For every state in which a shader group's next instruction is IADD, ISUB, IMUL, IMIN, IMAX, AND, OR, XOR, SHL, SHR or MOV in a legal form and issues, the row's command answers a next state: in each issuing lane whose guard holds, D is the operation of R265 on A and B (IMM in format I) under MOD, with the marks of the consumed operands; every other register and lane, every predicate and uniform register and the rest of the group are unchanged, and the issuing lanes stand at the next instruction. Where it follows a convention of the model's own, that is the model's choice and no rule of the spec: log 71, 72, 73.
(derived; R265, R254, R261, R275.) -/
def Obligations.IntegerTwoOperandRows : Prop :=
  LaneRow Instr.iadd 0x01 (upTo 2 1 1 0 1) (fun _ => true) 1 (fun i x =>
    [if i.md = 1 then ofSigned 32 (max (-2147483648) (min 2147483647 (toSigned 32 (wd x.a 0) + toSigned 32 (wd x.b 0))))
     else if i.md = 2 then min 4294967295 (wd x.a 0 + wd x.b 0)
     else (wd x.a 0 + wd x.b 0) % 2 ^ 32]) ∧
  LaneRow Instr.isub 0x02 (upTo 2 1 1 0 1) (fun _ => true) 1 (fun i x =>
    [if i.md = 1 then ofSigned 32 (max (-2147483648) (min 2147483647 (toSigned 32 (wd x.a 0) - toSigned 32 (wd x.b 0))))
     else if i.md = 2 then wd x.a 0 - wd x.b 0
     else (wd x.a 0 + 2 ^ 32 - wd x.b 0) % 2 ^ 32]) ∧
  LaneRow Instr.imul 0x03 (upTo 2 1 1 0 1) (fun _ => true) 1 (fun i x =>
    [if i.md = 1 then ofSigned 32 (toSigned 32 (wd x.a 0) * toSigned 32 (wd x.b 0) / 2 ^ 32)
     else if i.md = 2 then wd x.a 0 * wd x.b 0 / 2 ^ 32
     else wd x.a 0 * wd x.b 0 % 2 ^ 32]) ∧
  LaneRow Instr.imin 0x05 (upTo 1 1 1 0 1) (fun _ => true) 1 (fun i x =>
    [if i.md = 0 then (if toSigned 32 (wd x.a 0) < toSigned 32 (wd x.b 0) then wd x.a 0 else wd x.b 0)
     else (if wd x.a 0 < wd x.b 0 then wd x.a 0 else wd x.b 0)]) ∧
  LaneRow Instr.imax 0x06 (upTo 1 1 1 0 1) (fun _ => true) 1 (fun i x =>
    [if i.md = 0 then (if toSigned 32 (wd x.a 0) < toSigned 32 (wd x.b 0) then wd x.b 0 else wd x.a 0)
     else (if wd x.a 0 < wd x.b 0 then wd x.b 0 else wd x.a 0)]) ∧
  LaneRow Instr.and 0x07 (plain 1 1 0 1) (fun _ => true) 1 (fun _ x => [wd x.a 0 &&& wd x.b 0]) ∧
  LaneRow Instr.or 0x08 (plain 1 1 0 1) (fun _ => true) 1 (fun _ x => [wd x.a 0 ||| wd x.b 0]) ∧
  LaneRow Instr.xor 0x09 (plain 1 1 0 1) (fun _ => true) 1 (fun _ x => [wd x.a 0 ^^^ wd x.b 0]) ∧
  LaneRow Instr.shl 0x0A (plain 1 1 0 1) (fun _ => true) 1 (fun _ x =>
    [if wd x.b 0 % 256 < 32 then wd x.a 0 * 2 ^ (wd x.b 0 % 256) % 2 ^ 32 else 0]) ∧
  LaneRow Instr.shr 0x0B (upTo 1 1 1 0 1) (fun _ => true) 1 (fun i x =>
    [if i.md = 0 then (if wd x.b 0 % 256 < 32 then wd x.a 0 / 2 ^ (wd x.b 0 % 256) else 0)
     else ofSigned 32 (if wd x.b 0 % 256 < 32 then toSigned 32 (wd x.a 0) / 2 ^ (wd x.b 0 % 256)
       else if toSigned 32 (wd x.a 0) < 0 then -1 else 0)]) ∧
  LaneRow Instr.mov 0x13 (plain 0 1 0 1) (fun _ => true) 1 (fun _ x => [wd x.b 0])

/-- For every state in which a shader group's next instruction is NOP, IMAD, POPC, CLZ, BREV, BFE, BFI or SEL in a legal form and issues, the row's command answers a next state in which D of each performing lane is the operation of R265 (SEL by its predicate PS) and everything else of the group is unchanged. ICMP writes predicate D with its comparison, combined with PS by X[5:4]. UPUT writes uniform register D with A of the lowest issuing lane where a lane performs it, and RDSV writes the special value of R277. Where it follows a convention of the model's own, that is the model's choice and no rule of the spec: log 80, 81.
(derived; R265, R254, R261, R275.) -/
def Obligations.IntegerOneAndThreeOperandRows : Prop :=
  LaneRow Instr.nop 0x00 { plain 0 0 0 0 with dst := 0 } (fun _ => true) 0 (fun _ _ => []) ∧
  LaneRow Instr.imad 0x04 (plain 1 1 1 0) (fun _ => true) 1 (fun _ x => [(wd x.a 0 * wd x.b 0 + wd x.c 0) % 2 ^ 32]) ∧
  LaneRow Instr.popc 0x0C (plain 1 0 0 0) (fun _ => true) 1 (fun _ x => [((List.range 32).filter (fun j => (wd x.a 0).testBit j)).length]) ∧
  LaneRow Instr.clz 0x0D (plain 1 0 0 0) (fun _ => true) 1 (fun _ x => [((List.range 32).filter (fun j => decide (wd x.a 0 < 2 ^ j))).length]) ∧
  LaneRow Instr.brev 0x0E (plain 1 0 0 0) (fun _ => true) 1 (fun _ x =>
    [((List.range 32).map (fun j => if (wd x.a 0).testBit j then 2 ^ (31 - j) else 0)).sum]) ∧
  LaneRow Instr.bfe 0x0F (upTo 1 1 1 0 0) (fun _ => true) 1 (fun i x =>
    let len := if bits (wd x.b 0) 12 8 = 0 then 32 else bits (wd x.b 0) 12 8
    let field := wd x.a 0 / 2 ^ (wd x.b 0 % 32) % 2 ^ len
    [if i.md = 1 then ofSigned 32 (toSigned len field) else field]) ∧
  LaneRow Instr.bfi 0x10 (plain 1 1 1 0) (fun _ => true) 1 (fun _ x =>
    let lo := wd x.b 0 % 32
    let len := if bits (wd x.b 0) 12 8 = 0 then 32 else bits (wd x.b 0) 12 8
    [((List.range 32).map (fun j =>
      if (if lo ≤ j ∧ j < lo + len then (wd x.a 0).testBit (j - lo) else (wd x.c 0).testBit j) then 2 ^ j else 0)).sum]) ∧
  LaneRow Instr.sel 0x12 { plain 1 1 0 0 with ps := true } (fun _ => true) 1 (fun _ x => [if x.ps then wd x.a 0 else wd x.b 0]) ∧
  PredRow Instr.icmp 0x11 { plain 1 1 0 0 with pred := true, ps := true, x := fun x => decide (bits x 2 0 ≤ 5) && bits x 5 4 != 3 && bits x 8 6 == 0 }
    (fun i => bits i.x 5 4 != 0) (fun i x =>
      let less := fun (u v : Nat) => if bit i.x 3 then decide (u < v) else decide (toSigned 32 u < toSigned 32 v)
      let r := match bits i.x 2 0 with
        | 0 => wd x.a 0 == wd x.b 0
        | 1 => wd x.a 0 != wd x.b 0
        | 2 => less (wd x.a 0) (wd x.b 0)
        | 3 => !less (wd x.b 0) (wd x.a 0)
        | 4 => less (wd x.b 0) (wd x.a 0)
        | _ => !less (wd x.a 0) (wd x.b 0)
      match bits i.x 5 4 with
      | 0 => r
      | 1 => r && x.ps
      | _ => r || x.ps) ∧
  (∀ s q n gi t d, Issued s q n gi t d → t.i.op = 0x14 → shapeOk (plain 1 0 0 0) t.i = true → t.i.d ≤ 63 →
    exec (.uput q n gi) s = .next (s.issued q n t (setGrp t.k (nextPc t.pc t.mask (if t.act = [] then t.g
      else wrU t.i.d (wd (rdSrc t.g t.i.au t.i.a 1 ((lanes t.mask).headD 0)).1 0)
        ((rdSrc t.g t.i.au t.i.a 1 ((lanes t.mask).headD 0)).2 || (lanes t.mask).any (fun l => (guardOf t.g t.i l).2)) t.g)) d))) ∧
  (∀ s q n gi t d, Issued s q n gi t d → t.i.op = 0x15 →
    shapeOk { plain 0 0 0 0 with x := fun x => decide (bits x 3 0 ≤ 4) && bits x 8 4 == 0 } t.i = true →
    ∃ g, LaneResult t t.act 1 (fun l => [match t.i.x with
        | 0 => l
        | 1 => t.mask
        | 2 => coreClock d t.k % 2 ^ 32
        | 3 => coreClock d t.k / 2 ^ 32
        | _ => n + 8 * q + 32 * t.g.sched]) (fun l => (guardOf t.g t.i l).2) g ∧
      exec (.rdsv q n gi) s = .next (s.issued q n t (setGrp t.k g d)))

/-- For every state in which a shader group's next instruction is FADD, FMUL, FFMA, FMIN or FMAX in a legal form and issues, the row answers a next state in which each element of D in each performing lane is the exact sum, product, or product and sum of the operand elements (after the absolute value and the negation that X selects) rounded once to the type of MOD, or the minimumNumber or maximumNumber. HDOT4 gives the rounded sum of R268, FTWOSUM and FTWOPROD give the rounded result in D and its error in D + 1, and FCMP writes predicate D with its comparison for every element, combined with PS by X[5:4]. Everything else of the group is unchanged. Where it follows a convention of the model's own, that is the model's choice and no rule of the spec: log 48.
(derived; R266, R268, R154, R152, R261, R275.) -/
def Obligations.FloatArithmeticRows : Prop :=
  LaneRow Instr.fadd 0x20 (fpShape 1 0 1 15) (fun _ => true) 1 (perElement (fun f a b _ => fEncode f (a.add b))) ∧
  LaneRow Instr.fmul 0x21 (fpShape 1 0 1 15) (fun _ => true) 1 (perElement (fun f a b _ => fEncode f (a.mul b))) ∧
  LaneRow Instr.ffma 0x22 (fpShape 1 1 0 31) (fun _ => true) 1 (perElement (fun f a b c => fEncode f ((a.mul b).add c))) ∧
  LaneRow Instr.fmin 0x23 (fpShape 1 0 1 15) (fun _ => true) 1 (perElement (fun f a b _ => fEncode f (a.min b))) ∧
  LaneRow Instr.fmax 0x24 (fpShape 1 0 1 15) (fun _ => true) 1 (perElement (fun f a b _ => fEncode f (a.max b))) ∧
  PredRow Instr.fcmp 0x25 { plain 1 1 0 0 with
      md := fun m => decide (m ≤ 2), pred := true, ps := true
      x := fun x => decide (bits x 2 0 ≤ 5) && !bit x 3 && bits x 5 4 != 3 && bits x 8 6 == 0 }
    (fun i => bits i.x 5 4 != 0) (fun i x =>
      let one := fun (a b : FVal) => match bits i.x 2 0 with
        | 0 => !a.isNan && !b.isNan && !a.lt b && !b.lt a
        | 1 => a.isNan || b.isNan || a.lt b || b.lt a
        | 2 => !a.isNan && !b.isNan && a.lt b
        | 3 => !a.isNan && !b.isNan && !b.lt a
        | 4 => !a.isNan && !b.isNan && b.lt a
        | _ => !a.isNan && !b.isNan && !a.lt b
      let r := (fpArgs { i with x := 0 } x).all (fun (a, b, _) => one a b)
      match bits i.x 5 4 with
      | 0 => r
      | 1 => r && x.ps
      | _ => r || x.ps) ∧
  LaneRow Instr.hdot4 0x2D { plain 2 2 1 0 with md := fun m => m == 1 || m == 2 } (fun _ => true) 1 (fun i x =>
    let e := fun (w : List Nat) (j : Nat) => fDecode (fpFmt i.md) ((w.flatMap (fpEls i.md)).getD j 0)
    let p := fun (j : Nat) => fDecode 7 (fEncode 7 ((e x.a j).mul (e x.b j)))
    let s := fun (u v : FVal) => fDecode 7 (fEncode 7 (u.add v))
    [fEncode 7 ((s (s (p 0) (p 1)) (s (p 2) (p 3))).add (fDecode 7 (wd x.c 0)))]) ∧
  LaneRow Instr.ftwosum 0x2E { plain 1 1 0 0 with dst := 2, md := fun m => decide (m ≤ 2) } (fun _ => true) 2 (fun i x =>
    let r := ((fpEls i.md (wd x.a 0)).zip (fpEls i.md (wd x.b 0))).map (fun (a, b) =>
      twoSum (fpFmt i.md) (fDecode (fpFmt i.md) a) (fDecode (fpFmt i.md) b))
    [fpPack i.md (r.map (·.1)), fpPack i.md (r.map (·.2))]) ∧
  LaneRow Instr.ftwoprod 0x2F { plain 1 1 0 0 with dst := 2, md := fun m => decide (m ≤ 2) } (fun _ => true) 2 (fun i x =>
    let r := ((fpEls i.md (wd x.a 0)).zip (fpEls i.md (wd x.b 0))).map (fun (a, b) =>
      twoProd (fpFmt i.md) a b (fDecode (fpFmt i.md) a) (fDecode (fpFmt i.md) b))
    [fpPack i.md (r.map (·.1)), fpPack i.md (r.map (·.2))])

/-- For every state in which a shader group's next instruction is FRCP, FRSQ, FSQRT, FEX2, FLG2, FSIN or FCOS in a legal form and issues, the row answers a next state in which each element of D in each performing lane is the model's function of the element of A (FRCP the reciprocal rounded once, the others the numbered function fpFunction, whose values another statement says), the bits above the elements are zero, and everything else of the group is unchanged. The functions read nothing but their operand. Where it follows a convention of the model's own, that is the model's choice and no rule of the spec: log 45, 46, 47.
(derived; R266, R267, R261, R275.) -/
def Obligations.FloatFunctionRows : Prop :=
  LaneRow Instr.frcp 0x26 (fpShape 0 0 0 3) (fun _ => true) 1 (perElement (fun f a _ _ => fEncode f a.recip)) ∧
  LaneRow Instr.frsq 0x27 (fpShape 0 0 0 3) (fun _ => true) 1 (perElement (fun f a _ _ => fpFunction 1 f a)) ∧
  LaneRow Instr.fsqrt 0x28 (fpShape 0 0 0 3) (fun _ => true) 1 (perElement (fun f a _ _ => fpFunction 2 f a)) ∧
  LaneRow Instr.fex2 0x29 (fpShape 0 0 0 3) (fun _ => true) 1 (perElement (fun f a _ _ => fpFunction 3 f a)) ∧
  LaneRow Instr.flg2 0x2A (fpShape 0 0 0 3) (fun _ => true) 1 (perElement (fun f a _ _ => fpFunction 4 f a)) ∧
  LaneRow Instr.fsin 0x2B (fpShape 0 0 0 3) (fun _ => true) 1 (perElement (fun f a _ _ => fpFunction 5 f a)) ∧
  LaneRow Instr.fcos 0x2C (fpShape 0 0 0 3) (fun _ => true) 1 (perElement (fun f a _ _ => fpFunction 6 f a))

/-- In every element format FSQRT of a finite operand that is not negative is the exact root rounded once, of a zero or an infinity with sign + the operand itself, of a negative operand NaN. FRSQ of a zero is the infinity of its sign, of +infinity +0, of a negative operand NaN; 2 to minus infinity is +0 and to +infinity +infinity; the logarithm of a zero is minus infinity, of +infinity +infinity, of a negative operand NaN; the sine and cosine of an infinity are NaN, of an integer +0 and 1.0; every function of NaN is NaN. In between, FRSQ, FEX2 (for an operand from -200 to 200), FLG2, FSIN and FCOS give a value that in FP32 is the model's evaluation rounded once to nearest even (a result of zero with either sign), or a finite FP32 number within the bound of it (1 unit in the last place, 2 units, and 2^-22), and in the other formats that evaluation rounded once (log 46: which value within the bound is free; the evaluation itself is the model's). Where it follows a convention of the model's own, that is the model's choice and no rule of the spec: log 45, 46, 47.
(derived; R267, R266, R152.) -/
def Obligations.FloatFunctionValues : Prop :=
  ∀ f : Nat,
    (∀ fn, fn < 7 → fpFunction fn f .nan = fNan f) ∧
    (∀ v : Ex, v.isNeg = true → fpFunction 1 f (.fin v) = fNan f ∧ fpFunction 2 f (.fin v) = fNan f ∧ fpFunction 4 f (.fin v) = fNan f) ∧
    (∀ v : Ex, v.isNeg = false → fpFunction 2 f (.fin v) = fRound f false (sqrtEx v)) ∧
    (∀ sg, fpFunction 2 f (.zero sg) = fSign f sg) ∧ fpFunction 2 f (.inf false) = fInf f ∧ fpFunction 2 f (.inf true) = fNan f ∧
    (∀ sg, fpFunction 1 f (.zero sg) = fSign f sg + fInf f) ∧ fpFunction 1 f (.inf false) = 0 ∧ fpFunction 1 f (.inf true) = fNan f ∧
    fpFunction 3 f (.inf true) = 0 ∧ fpFunction 3 f (.inf false) = fInf f ∧
    (∀ sg, fpFunction 4 f (.zero sg) = fSign f true + fInf f) ∧ fpFunction 4 f (.inf false) = fInf f ∧ fpFunction 4 f (.inf true) = fNan f ∧
    (∀ sg, fpFunction 5 f (.inf sg) = fNan f ∧ fpFunction 6 f (.inf sg) = fNan f) ∧
    (∀ sg, fpFunction 5 f (.zero sg) = 0 ∧ fpFunction 6 f (.zero sg) = fEncode f (.fin (Ex.ofInt 1))) ∧
    (∀ v : Ex, v.n % (v.d : Int) = 0 → fpFunction 5 f (.fin v) = 0 ∧ fpFunction 6 f (.fin v) = fEncode f (.fin (Ex.ofInt 1))) ∧
    ∀ v : Ex,
      let within := fun (r : Nat) (bound exact : Ex) =>
        (∃ sg, r = fRound f sg exact) ∨ f = 7 ∧ ∃ w, finOf 7 r = some w ∧ ((w.sub exact).abs).le bound = true
      (v.isNeg = false → within (fpFunction 1 f (.fin v)) (ulp32 (rsqrtEx v)) (rsqrtEx v)) ∧
      ((Ex.ofInt 200).lt v = false → v.lt (Ex.ofInt (-200)) = false →
        within (fpFunction 3 f (.fin v)) ((ulp32 (exp2Ex v)).scale 1) (exp2Ex v)) ∧
      (v.isNeg = false → within (fpFunction 4 f (.fin v)) ((ulp32 (log2Ex v)).scale 1) (log2Ex v)) ∧
      (v.n % (v.d : Int) ≠ 0 → within (fpFunction 5 f (.fin v)) ((Ex.ofInt 1).scale (-22)) (trigEx false v) ∧
        within (fpFunction 6 f (.fin v)) ((Ex.ofInt 1).scale (-22)) (trigEx true v))

/-- For every state in which a shader group's next instruction is LMUL, LADD, LSUB, LNEG, CVT or CVT2 in a legal form and issues, the row answers a next state in which D of each performing lane holds the L16 results of both elements (LSUB the sum of A and the negation of B, LNEG the sign inverted with +0 and NaR unchanged), or the converted elements in the rounding mode of MOD, the bits above them zero; everything else of the group is unchanged. Where it follows a convention of the model's own, that is the model's choice and no rule of the spec: log 49.
(derived; R269, R153, R270, R271, R261, R275.) -/
def Obligations.LogAndConversionRows : Prop :=
  LaneRow Instr.lmul 0x30 (plain 1 1 0 0) (fun _ => true) 1 (fun _ x =>
    [l16mul (wd x.a 0 % 2 ^ 16) (wd x.b 0 % 2 ^ 16) + l16mul (wd x.a 0 / 2 ^ 16) (wd x.b 0 / 2 ^ 16) * 2 ^ 16]) ∧
  LaneRow Instr.ladd 0x31 (plain 1 1 0 0) (fun _ => true) 1 (fun _ x =>
    [l16add (wd x.a 0 % 2 ^ 16) (wd x.b 0 % 2 ^ 16) + l16add (wd x.a 0 / 2 ^ 16) (wd x.b 0 / 2 ^ 16) * 2 ^ 16]) ∧
  LaneRow Instr.lsub 0x32 (plain 1 1 0 0) (fun _ => true) 1 (fun _ x =>
    [l16add (wd x.a 0 % 2 ^ 16) (l16neg (wd x.b 0 % 2 ^ 16)) + l16add (wd x.a 0 / 2 ^ 16) (l16neg (wd x.b 0 / 2 ^ 16)) * 2 ^ 16]) ∧
  LaneRow Instr.lneg 0x33 (plain 1 0 0 0) (fun _ => true) 1 (fun _ x =>
    let neg := fun (e : Nat) => if e % 2 ^ 15 = 0 then e else e ^^^ 0x8000
    [neg (wd x.a 0 % 2 ^ 16) + neg (wd x.a 0 / 2 ^ 16) * 2 ^ 16]) ∧
  LaneRow Instr.cvt 0x38 { plain 1 0 0 0 with md := fun _ => true, x := cvtX } (fun i => i.md == 0 || !inRange (bits i.x 7 4) 5 6) 1 (fun i x =>
    let src := match bits i.x 3 0 with
      | 0 | 1 | 2 => wd x.a 0
      | 3 | 4 | 5 => if bit i.x 8 then wd x.a 0 / 2 ^ 16 else wd x.a 0 % 2 ^ 16
      | _ => wd x.a 0 % 2 ^ 8
    [cvtDest (bits i.x 7 4) i.md (cvtSource (bits i.x 3 0) src)]) ∧
  LaneRow Instr.cvt2 0x39 { plain 1 1 0 0 with md := fun _ => true, x := cvt2X } (fun i => i.md == 0 || bits i.x 7 4 != 5) 1 (fun i x =>
    [cvtDest (bits i.x 7 4) i.md (fDecode 7 (wd x.a 0)) + cvtDest (bits i.x 7 4) i.md (fDecode 7 (wd x.b 0)) * 2 ^ 16])

/-- For every state in which a shader group's next instruction is CLD, CST, LLD, LST, CATOM or LATOM in a legal form and issues, and in which no performing lane's access faults, waits or stalls, the row answers a next state. The lanes that a stall let perform before are not performed again. A load writes the words of its size, extended, to D of each performing lane and leaves the other registers; a store writes the register bytes of every lane (of several lanes at one address the highest remains) and no register; an atomic operation runs lane by lane in ascending order, writes the old value to D and the new value to memory. LST and LATOM change local memory alone, and no byte of it outside the lanes' addresses. Where it follows a convention of the model's own, that is the model's choice and no rule of the spec: log 72, 74, 75, 76.
(derived; R272, R253, R273, R274, R275.) -/
def Obligations.ShaderMemoryRows : Prop :=
  (∀ s q n gi t d ps d', Issued s q n gi t d → inRange t.i.op 0x40 0x46 = true →
    shapeOk { plain 2 1 0 1 with dst := sizeWords (loadSize (t.i.op - 0x40)), md := fun m => decide (m ≤ 1) } t.i = true →
    Accessed s t (loadSize (t.i.op - 0x40)) 1 true (fun _ => none) d ps d' →
    exec (.cld q n gi) s = .next (s.issued q n t
      (let r := ps.foldl (fun (r : Grp × Dev) p =>
          let b := laneRead s.cfg (accRq t p) p.pa (loadSize (t.i.op - 0x40)) r.2
          (putLoad t p.lane (loadWords (t.i.op - 0x40) (pdata b.1)) (ppoison b.1) r.1, b.2)) (t.g, d')
       setGrp t.k (nextPc t.pc t.mask { r.1 with part := aset r.1.part t.pc 0 }) r.2))) ∧
  (∀ s q n gi t d ps d', Issued s q n gi t d → inRange t.i.op 0x48 0x4C = true →
    shapeOk { plain 2 1 0 1 with dst := sizeWords (2 ^ (t.i.op - 0x48)), md := fun m => decide (m ≤ 1) } t.i = true →
    Accessed s t (2 ^ (t.i.op - 0x48)) 2 true (fun p => if ppoison (storeData t (2 ^ (t.i.op - 0x48)) p.lane) then some 6 else none) d ps d' →
    exec (.cst q n gi) s = .next (s.issued q n t
      (setGrp t.k (nextPc t.pc t.mask { t.g with part := aset t.g.part t.pc 0 }) (putStores s.cfg t (2 ^ (t.i.op - 0x48)) ps d')))) ∧
  (∀ s q n gi t d b l, Issued s q n gi t d → inRange t.i.op 0x50 0x56 = true →
    shapeOk { plain 1 1 0 1 with dst := sizeWords (loadSize (t.i.op - 0x50)) } t.i = true →
    LocalAccess t (loadSize (t.i.op - 0x50)) true d b l →
    ∃ g, LaneResult t t.act (sizeWords (loadSize (t.i.op - 0x50)))
        (fun x => loadWords (t.i.op - 0x50) (pdata (localBytes (coreOf d t.k) b
          ((laneLocal t true x).va - if t.g.kind = 2 then b.lo else 0) (loadSize (t.i.op - 0x50)))))
        (fun x => ppoison (localBytes (coreOf d t.k) b ((laneLocal t true x).va - if t.g.kind = 2 then b.lo else 0) (loadSize (t.i.op - 0x50))) ||
          (guardOf t.g t.i x).2) g ∧
      exec (.lld q n gi) s = .next (s.issued q n t (setGrp t.k g d))) ∧
  (∀ s q n gi t d b l, Issued s q n gi t d → inRange t.i.op 0x58 0x5C = true →
    shapeOk { plain 1 1 0 1 with dst := sizeWords (2 ^ (t.i.op - 0x58)) } t.i = true →
    LocalAccess t (2 ^ (t.i.op - 0x58)) true d b l →
    ∃ core, exec (.lst q n gi) s = .next (s.issued q n t (setGrp t.k (nextPc t.pc t.mask t.g) (setCore t.k (fun _ => core) d))) ∧
      core = putLocal b (mergeStores (l.map (fun a => (a.va, storeData t (2 ^ (t.i.op - 0x58)) a.lane)))) (coreOf d t.k) ∧
      ∀ x, (∀ a ∈ l, x < a.va ∨ a.va + 2 ^ (t.i.op - 0x58) ≤ x) → (rdLocal core b x).1 = (rdLocal (coreOf d t.k) b x).1) ∧
  (∀ s q n gi t d ps d', Issued s q n gi t d → t.i.op = 0x60 → shapeOk (atomShape 2 t.i) t.i = true →
    Accessed s t (if bit t.i.x 4 then 8 else 4) 4 false (fun p => some (if (atomArgs t p.lane).2.2 then 6 else 7)) d ps d' →
    exec (.catom q n gi) s = .next (s.issued q n t
      (let size := if bit t.i.x 4 then 8 else 4
       let r := ps.foldl (fun (r : Grp × Dev) p =>
          let o := laneRead s.cfg (accRq t p) p.pa size r.2
          let a := atomArgs t p.lane
          let old := leNat (pdata o.1)
          let new := atomOp (bits t.i.x 3 0) (8 * size) old a.1 a.2.1
          (putLoad t p.lane ((List.range (size / 4)).map (fun j => old / 2 ^ (32 * j) % 2 ^ 32)) (ppoison o.1) r.1,
            if bits t.i.x 3 0 = 9 ∧ old ≠ a.2.1 then o.2
            else (physWrite s.cfg (accRq t p) p.pa (mark (ppoison o.1 || a.2.2) (leBytes size new)) [] o.2).2)) (t.g, d')
       setGrp t.k (nextPc t.pc t.mask { r.1 with part := aset r.1.part t.pc 0 }) r.2))) ∧
  (∀ s q n gi t d b l, Issued s q n gi t d → t.i.op = 0x61 → shapeOk (atomShape 1 t.i) t.i = true →
    LocalAccess t (if bit t.i.x 4 then 8 else 4) false d b l →
    exec (.latom q n gi) s = .next (s.issued q n t
      (let size := if bit t.i.x 4 then 8 else 4
       let r := l.foldl (fun (r : Grp × Core) a =>
          let o := localBytes r.2 b a.va size
          let x := atomArgs t a.lane
          let old := leNat (pdata o)
          let new := atomOp (bits t.i.x 3 0) (8 * size) old x.1 x.2.1
          (putLoad t a.lane ((List.range (size / 4)).map (fun j => old / 2 ^ (32 * j) % 2 ^ 32)) (ppoison o) r.1,
            if bits t.i.x 3 0 = 9 ∧ old ≠ x.2.1 then r.2
            else putLocal b (mergeStores [(a.va, mark (ppoison o || x.2.2) (leBytes size new))]) r.2)) (t.g, coreOf d t.k)
       setGrp t.k (nextPc t.pc t.mask r.1) (setCore t.k (fun _ => r.2) d))))

/-- The new value of an atomic operation on w bits (R274) is, by its code: the sum modulo 2^w, the signed minimum and maximum, the unsigned minimum and maximum, the bitwise and, or and exclusive or, the operand B, and for compare-and-swap B where the old value equals C and else the old value.
(derived; R274.) -/
def Obligations.AtomicOperations : Prop :=
  ∀ w old b c, atomOp 0 w old b c = (old + b) % 2 ^ w ∧
    atomOp 1 w old b c = (if toSigned w old ≤ toSigned w b then old else b) ∧
    atomOp 2 w old b c = (if toSigned w b ≤ toSigned w old then old else b) ∧
    atomOp 3 w old b c = min old b ∧ atomOp 4 w old b c = max old b ∧
    atomOp 5 w old b c = old &&& b ∧ atomOp 6 w old b c = old ||| b ∧ atomOp 7 w old b c = old ^^^ b ∧
    atomOp 8 w old b c = b ∧ atomOp 9 w old b c = (if old = c then b else old)

/-- For every state in which a shader group's next instruction is XLANE, PVOTE or EQMASK in a legal form and issues, the row answers a next state: XLANE gives each issuing lane A of its source lane when that lies in the segment and issues too, else its own A, and says in predicate PS which it was; PVOTE gives every issuing lane whether all or any vote, or the mask of the lanes that vote; EQMASK the mask of the lanes with an equal value. For MMA_L8, MMA_L4L8 and MMA_L16 with all 32 lanes issuing, D to D + 7 of lane l take the elements of row l mod 16 and columns 8 (l / 16) to 8 (l / 16) + 7 of C plus the scaled exact product, rounded once. Nothing else of the group changes but the issuing lanes' program counters. Where it follows a convention of the model's own, that is the model's choice and no rule of the spec: log 71, 72.
(derived; R248, R249, R276, R250, R251, R252, R278.) -/
def Obligations.GroupExchangeRows : Prop :=
  (∀ s q n gi t d, Issued s q n gi t d → t.i.op = 0x70 →
    shapeOk { plain 1 1 0 1 with guard := false, ps := true, md := fun _ => true, x := fun _ => true } t.i = true →
    inRange (bits t.i.x 2 0) 1 5 = true → bits t.i.x 8 3 = 0 → (t.i.imm = true → bits t.i.iv 31 17 = 0) →
    exec (.xlane q n gi) s = .next (s.issued q n t (setGrp t.k (nextPc t.pc t.mask ((lanes t.mask).foldl (fun g l =>
      let b := if t.i.imm then ([bits t.i.iv 16 12], false) else rdSrc t.g t.i.bu t.i.b 1 l
      let src := (xlaneSrc t.i.md (2 ^ bits t.i.x 2 0) l (wd b.1 0)).filter (fun j => bit t.mask j)
      let a := rdSrc t.g t.i.au t.i.a 1 (src.getD l)
      wrP t.i.ps l src.isSome b.2 (wrV t.i.d l (wd a.1 0) (a.2 || b.2) g)) t.g)) d))) ∧
  (∀ s q n gi t d, Issued s q n gi t d → t.i.op = 0x71 →
    shapeOk { plain 0 0 0 0 with guard := false, ps := true, pred := t.i.md != 2, md := fun m => decide (m ≤ 2), x := fun x => decide (x < 2) } t.i = true →
    (t.i.md ≠ 2 → exec (.pvote q n gi) s = .next (s.issued q n t (setGrp t.k (nextPc t.pc t.mask ((lanes t.mask).foldl (fun g l =>
      wrP t.i.d l
        (if t.i.md = 0 then (lanes t.mask).all (fun j => (rdP t.g t.i.ps j).1 != bit t.i.x 0)
         else (lanes t.mask).any (fun j => (rdP t.g t.i.ps j).1 != bit t.i.x 0))
        ((lanes t.mask).any (fun j => (rdP t.g t.i.ps j).2)) g) t.g)) d))) ∧
    (t.i.md = 2 → ∃ g, LaneResult t (lanes t.mask) 1
        (fun _ => [maskOf ((lanes t.mask).filter (fun j => (rdP t.g t.i.ps j).1 != bit t.i.x 0))])
        (fun _ => (lanes t.mask).any (fun j => (rdP t.g t.i.ps j).2)) g ∧
      exec (.pvote q n gi) s = .next (s.issued q n t (setGrp t.k g d)))) ∧
  (∀ s q n gi t d, Issued s q n gi t d → t.i.op = 0x72 → shapeOk { plain 1 0 0 0 with guard := false } t.i = true →
    ∃ g, LaneResult t (lanes t.mask) 1
        (fun l => [maskOf ((lanes t.mask).filter (fun j =>
          wd (rdSrc t.g t.i.au t.i.a 1 j).1 0 == wd (rdSrc t.g t.i.au t.i.a 1 l).1 0))])
        (fun _ => (lanes t.mask).any (fun j => (rdSrc t.g t.i.au t.i.a 1 j).2)) g ∧
      exec (.eqmask q n gi) s = .next (s.issued q n t (setGrp t.k g d))) ∧
  MatrixRow Instr.mmaL8 0x78 1 1 4 4 ∧ MatrixRow Instr.mmaL4l8 0x79 0 1 2 4 ∧ MatrixRow Instr.mmaL16 0x7A 2 2 8 8

/-- For every state in which a shader group's next instruction is BRA, JMPR, CALL or EXIT in a legal form and issues with no marked guard (for JMPR also with unmarked, aligned targets), the row answers a next state. The performing lanes stand at PC + 8 + 8 times the signed immediate (BRA, CALL) or at the address in A (JMPR), modulo 2^48, the other issuing lanes at PC + 8; CALL also writes PC + 8 to D and D + 1 of the performing lanes. EXIT makes the performing threads exited, gives the tiler the outputs of a vertex group's threads, and releases the barriers, groups and blocks that this lets go. Where it follows a convention of the model's own, that is the model's choice and no rule of the spec: log 71.
(derived; R243, R244, R275, R280, R285.) -/
def Obligations.ControlFlowRows : Prop :=
  (∀ s q n gi t d, Issued s q n gi t d → t.i.op = 0x80 → shapeOk { plain 0 0 0 2 with dst := 0 } t.i = true → guardMarked t = false →
    exec (.bra q n gi) s = .next (s.issued q n t (setGrp t.k { t.g with
      pc := t.g.pc.zipIdx.map (fun (p, l) => if bit (maskOf t.act) l then ofSigned 48 ((t.pc : Int) + 8 + toSigned 32 t.i.iv * 8) % 2 ^ 48
        else if bit t.mask l then (t.pc + 8) % 2 ^ 48 else p) } d))) ∧
  (∀ s q n gi t d, Issued s q n gi t d → t.i.op = 0x81 → shapeOk { plain 2 0 0 0 with dst := 0 } t.i = true → guardMarked t = false →
    (∀ l ∈ t.act, (rdSrc t.g t.i.au t.i.a 2 l).2 = false ∧ wd (rdSrc t.g t.i.au t.i.a 2 l).1 0 % 8 = 0) →
    exec (.jmpr q n gi) s = .next (s.issued q n t (setGrp t.k { t.g with
      pc := t.g.pc.zipIdx.map (fun (p, l) => if bit (maskOf t.act) l then
          (wd (rdSrc t.g t.i.au t.i.a 2 l).1 0 + wd (rdSrc t.g t.i.au t.i.a 2 l).1 1 * 2 ^ 32) % 2 ^ 48
        else if bit t.mask l then (t.pc + 8) % 2 ^ 48 else p) } d))) ∧
  (∀ s q n gi t d, Issued s q n gi t d → t.i.op = 0x82 → shapeOk { plain 0 0 0 2 with dst := 2 } t.i = true → guardMarked t = false →
    ∃ g, LaneResult t t.act 2 (fun _ => [(t.pc + 8) % 2 ^ 48 % 2 ^ 32, (t.pc + 8) % 2 ^ 48 / 2 ^ 32]) (fun _ => false) g ∧
      exec (.call q n gi) s = .next (s.issued q n t (setGrp t.k
        (setPc (maskOf t.act) (fun _ => ofSigned 48 ((t.pc : Int) + 8 + toSigned 32 t.i.iv * 8)) g) d))) ∧
  (∀ s q n gi t d, Issued s q n gi t d → t.i.op = 0x83 → shapeOk { plain 0 0 0 0 with dst := 0 } t.i = true →
    exec (.exit q n gi) s = .next (s.issued q n t
      (let g := { nextPc t.pc t.mask t.g with st := t.g.st.zipIdx.map (fun (x, l) => if bit (maskOf t.act) l then 1 else x) }
       let d := if t.g.kind = 1 then vertexExits g t.act (setGrp t.k g d) else setGrp t.k g d
       reapGroups t.k (barriers s.cfg t.k g d))))

/-- For every state in which a shader group's next instruction is SYNC_G, SYNC_B, FENCE, PXLOCK, PXUNLOCK or TRACE in a legal form and issues, the row answers a next state: the issuing set waits at the group barrier of the instruction's address or at block barrier X, and barriers that are complete release; the performing lanes of FENCE hold back their later store accesses; in a pass with INTERLOCK a fragment lane passes PXLOCK when its pixel is free and else waits, and leaves its section at PXUNLOCK; TRACE queues the ray of each performing lane. FENCE_RELEASE lets the fenced lanes go on, PXLOCK_GRANT a lane whose pixel became free, and TRACE_ANSWER writes a ray's answer to its registers and ends its wait. Where it follows a convention of the model's own, that is the model's choice and no rule of the spec: log 79, 83, 84.
(derived; R246, R247, R273, R279, R296, R297, R302.) -/
def Obligations.BarrierFenceAndInterlockRows : Prop :=
  (∀ s q n gi t d, Issued s q n gi t d → t.i.op = 0x73 → t.i.md = 0 →
    shapeOk { plain 0 0 0 0 with dst := 0, guard := false } t.i = true →
    exec (.syncG q n gi) s = .next (s.issued q n t
      (let g := { nextPc t.pc t.mask t.g with
          st := t.g.st.zipIdx.map (fun (x, l) => if bit t.mask l then 2 else x)
          bar := t.g.bar.zipIdx.map (fun (b, l) => if bit t.mask l then t.pc else b)
          barPc := t.pc }
       barriers s.cfg t.k g (setCore t.k (fun k => { k with blocks := k.blocks.map (fun b => if b.id = g.blk then { b with barNo := g.no } else b) })
         (setGrp t.k g d))))) ∧
  (∀ s q n gi t d, Issued s q n gi t d → t.i.op = 0x73 → t.i.md = 1 →
    shapeOk { plain 0 0 0 0 with dst := 0, guard := false, md := (· == 1), x := fun x => decide (x < 4) } t.i = true →
    exec (.syncB q n gi) s = .next (s.issued q n t
      (let g := { nextPc t.pc t.mask t.g with
          st := t.g.st.zipIdx.map (fun (x, l) => if bit t.mask l then 3 + bits t.i.x 1 0 else x)
          bar := t.g.bar.zipIdx.map (fun (b, l) => if bit t.mask l then t.pc else b)
          barPc := t.pc }
       barriers s.cfg t.k g (setCore t.k (fun k => { k with blocks := k.blocks.map (fun b => if b.id = g.blk then { b with barNo := g.no } else b) })
         (setGrp t.k g d))))) ∧
  (∀ s q n gi t d, Issued s q n gi t d → t.i.op = 0x64 → shapeOk { plain 0 0 0 0 with dst := 0 } t.i = true →
    exec (.fence q n gi) s = .next (s.issued q n t (setGrp t.k { nextPc t.pc t.mask t.g with fenced := t.g.fenced ||| maskOf t.act } d))) ∧
  (∀ s q n gi g, Running s → q < 4 → n < 6 → gi < 48 → (coreOf s.dev (coreIdx q n)).groups[gi]? = some g →
    exec (.fenceRelease q n gi) s = .next (s.ended (setGrp (coreIdx q n) { g with fenced := 0 } s.dev))) ∧
  (∀ s q n gi t d, Issued s q n gi t d → t.i.op = 0x7C → shapeOk { plain 0 0 0 0 with dst := 0 } t.i = true → t.g.kind = 2 → interlock d = true →
    exec (.pxlock q n gi) s = .next (s.issued q n t (setGrp t.k { nextPc t.pc t.mask t.g with
      lock := t.g.lock.zipIdx.map (fun (x, l) => if l ∈ t.act ∧ x = 0 then
        (if pixelFree (coreOf d t.k) (nextPc t.pc t.mask t.g) l then 2 else 1) else x) } d))) ∧
  (∀ s q n gi lane g, Running s → q < 4 → n < 6 → gi < 48 → lane < 32 → (coreOf s.dev (coreIdx q n)).groups[gi]? = some g →
    g.lock.getD lane 0 = 1 → pixelFree (coreOf s.dev (coreIdx q n)) g lane = true →
    exec (.pxlockGrant q n gi lane) s = .next (s.ended (setGrp (coreIdx q n) { g with lock := g.lock.set lane 2 } s.dev))) ∧
  (∀ s q n gi t d, Issued s q n gi t d → t.i.op = 0x7D → shapeOk { plain 0 0 0 0 with dst := 0 } t.i = true → t.g.kind = 2 → interlock d = true →
    exec (.pxunlock q n gi) s = .next (s.issued q n t (setGrp t.k { nextPc t.pc t.mask t.g with
      lock := t.g.lock.zipIdx.map (fun (x, l) => if l ∈ t.act ∧ x = 2 then 3 else x) } d))) ∧
  (∀ s q n gi t d, Issued s q n gi t d → t.i.op = 0x7E →
    shapeOk { plain 8 2 0 0 with dst := 4, md := fun m => decide (m ≤ 1) } t.i = true → t.i.bu = true → (rdSrc t.g true t.i.b 2 0).2 = false →
    exec (.trace q n gi) s = .next (s.issued q n t (setGrp t.k (nextPc t.pc t.mask { t.g with rays := t.g.rays ++ t.act.map (fun l =>
      { lane := l, ray := (rdSrc t.g t.i.au t.i.a 8 l).1, marked := (rdSrc t.g t.i.au t.i.a 8 l).2 || (guardOf t.g t.i l).2
        root := (wd (rdSrc t.g true t.i.b 2 0).1 0 + wd (rdSrc t.g true t.i.b 2 0).1 1 * 2 ^ 32) % 2 ^ 48
        query := t.i.md, dst := t.i.d, pc := t.pc }) }) d))) ∧
  (∀ s q n gi lane g r x res d, Running s → q < 4 → n < 6 → gi < 48 → lane < 32 → (coreOf s.dev (coreIdx q n)).groups[gi]? = some g →
    g.rays.find? (fun r => r.lane == lane) = some r → cmdOf s.dev g.serial = some x → x.expired = false → (ctxOf s.dev x.ctx).state = 1 →
    unitStalled s.dev (rqCore s.cfg x (coreIdx q n)) = false → faulted s.dev = false → unitUp s.dev 4 q n = true →
    runEng (rayQuery s.cfg (rqCore s.cfg x (coreIdx q n)) r.ray r.root (r.query == 1)) s.dev = (.ok res, d) →
    exec (.traceAnswer q n gi lane) s = .next (s.ended (setGrp (coreIdx q n)
      { (rayAnswer res).zipIdx.foldl (fun g (v, j) => wrV (r.dst + j) lane v (r.marked || res.marked) g) g with
        rays := g.rays.filter (fun r => r.lane != lane) } d)))

/-- For every running state: TIL_RENDER with its descriptor and draws read and legal makes the pass the one in progress, and an illegal one ends the command INVALID_COMMAND. TIL_TRIANGLE of a binning pass whose next triangle's vertices are all shaded clips, culls, projects and bins it and goes on to the next, or to the next draw; a draw with no triangle left is passed over. TIL_BINNING_DONE with all vertices and triangles done writes the tile list headers and starts tile shading, or with an overflowed pool writes the status and ends the command BIN_OVERFLOW. TILE_HANDOUT reads the tile headers, passes over the tiles that need nothing, and gives the next to the lowest core that fits, with its attachments loaded and its triangles read from the pool; with no tile left it ends the pass once all are complete; TILE_COMPLETE of a tile whose groups have exited writes them back. Where it follows a convention of the model's own, that is the model's choice and no rule of the spec: log 85, 86, 87, 88, 89.
(derived; R281, R283, R284, R285, R286, R288, R289, R290, R293, R294, R295.) -/
def Obligations.TilePassRows : Prop :=
  (∀ s r x b draws d, Running s → runOf s.dev 6 0 0 = some (r, x) → s.dev.til = none → r.stopTb = none →
    unitStalled s.dev (rqUnit s.cfg x 6 0 0) = false → faulted s.dev = false → unitUp s.dev 6 0 0 = true →
    let rq := rqUnit s.cfg x 6 0 0
    (∀ e, runEng (ePayload s.cfg rq x.entry.payload 256) s.dev = (.ok b, e) → passOk b = false →
      exec .tilRender s = .next (s.ended (tilEnd 0x10 e))) ∧
    (∀ e, runEng (ePayload s.cfg rq x.entry.payload 256) s.dev = (.ok b, e) → passOk b = true →
      runEng ((List.range (getLe b 0xC 4)).mapM (fun i => do
        let e ← eRead s.cfg rq (getLe b 0x10 8 + 64 * i) 64
        if ppoison e || !drawOk b (pdata e) then throw .invalid
        pure (pdata e))) e = (.ok draws, d) →
      exec .tilRender s = .next (s.ended (setUnits x 1 { d with til := some { (default : Pass) with
        serial := x.serial, ring := x.ring, ctx := x.ctx, desc := b, draws := draws, pool := 8 * tileCount b } })))) ∧
  (∀ s p q i j k next odd d e, Running s → s.dev.til = some p → p.phase = 0 → p.tDraw < p.draws.length → tilReady s.cfg s.dev p = true →
    let draw := p.draws.getD p.tDraw []
    runEng (nextTriangle s.cfg (rqTil s.cfg p) draw (drawCount draw) p.tElem p.tOdd) s.dev = (.ok (some ((i, j, k), next, odd)), d) →
    runEng (placeVertices s.cfg (rqTil s.cfg p) p) d = (.ok q, e) →
    let vs := [i, j, k].map (fun n => aget q.vtx (vtxKey p.tDraw n))
    vs.any (fun v => v.words == []) = false →
    ∀ t f, runEng (binPolygon s.cfg (rqTil s.cfg p) p.tDraw vs q) e = (.ok t, f) →
    exec .tilTriangle s = .next (s.ended { f with
      til := some (if drawCount draw < next + 3 then { t with tDraw := p.tDraw + 1, tElem := 0, tOdd := false } else { t with tElem := next, tOdd := odd }) })) ∧
  (∀ s p d, Running s → s.dev.til = some p → p.phase = 0 → p.tDraw < p.draws.length → tilReady s.cfg s.dev p = true →
    runEng (nextTriangle s.cfg (rqTil s.cfg p) (p.draws.getD p.tDraw []) (drawCount (p.draws.getD p.tDraw [])) p.tElem p.tOdd) s.dev = (.ok none, d) →
    exec .tilTriangle s = .next (s.ended { d with til := some { p with tDraw := p.tDraw + 1, tElem := 0, tOdd := false } })) ∧
  (∀ s p q d, Running s → s.dev.til = some p → p.phase = 0 → p.draws.length ≤ p.tDraw → verticesDone s.dev p = true → tilReady s.cfg s.dev p = true →
    runEng (placeVertices s.cfg (rqTil s.cfg p) p) s.dev = (.ok q, d) →
    (∀ e, q.overran = true → runEng (writeStatus s.cfg (rqTil s.cfg p) q) d = (.ok (), e) →
      exec .tilBinningDone s = .next (s.ended (tilEnd 0x12 { e with til := some { q with phase := 2 } }))) ∧
    (∀ e, q.overran = false → runEng (eWrite s.cfg (rqTil s.cfg p) (getLe q.desc 0x18 8) (mark false ((List.range (tileCount q.desc)).flatMap (fun t =>
        leBytes 4 (if (aget q.tiles t).prims = [] then 0xFFFFFFFF else (aget q.tiles t).first) ++ leBytes 4 (aget q.tiles t).prims.length)))) d = (.ok (), e) →
      exec .tilBinningDone s = .next (s.ended { e with til := some { q with phase := 1 } }))) ∧
  (∀ s p nx skip head d, Running s → s.dev.til = some p → p.phase = 1 → tilReady s.cfg s.dev p = true →
    runEng (nextTile s.cfg (rqTil s.cfg p) p (tileCount p.desc) p.nextTile) s.dev = (.ok (nx, skip, head), d) →
    let size := tileBytes p.desc
    (tileCount p.desc ≤ nx →
      exec .tileHandout s = .next (s.ended (passEnd s.cfg { d with til := some { p with nextTile := nx, skipped := p.skipped + skip } }))) ∧
    (∀ k x scheds lo ls jobs e, nx < tileCount p.desc →
      (passCores s.cfg d p).find? (fun k => decide ((p.active.filter (fun a => a.core == k)).length < 2) &&
        (fits (coreOf d k) p.ctx 0 8 size false).isSome) = some k →
      cmdOf d p.serial = some x → fits (coreOf d k) p.ctx 0 8 size false = some (scheds, lo) →
      runEng (do
        let ls ← (attList p.desc).mapM (fun a =>
          loadAttachment s.cfg (rqTil s.cfg p) p.desc (attEntry p.desc a) nx (a * attBytes p.desc))
        pure (ls, ← jobsOf s.cfg (rqTil s.cfg p) p nx head)) (takeCore k x.ctx d) = (.ok (ls, jobs), e) →
      let blk : CoreBlk := ⟨(coreOf d k).nextId, p.serial, p.ring, p.ctx, 2, nx, lo, size, false, d.phe.tb, 0⟩
      exec .tileHandout s = .next (s.ended { coreBusy k x (setCore k (fun m => putLocal blk (mergeStores ls.flatten) (putBlock blk [] m)) e) with
        til := some { p with nextTile := nx + 1, skipped := p.skipped + skip, active := p.active ++ [⟨nx, k, blk.id, jobs⟩] } }))) ∧
  (∀ s p a blk d, Running s → s.dev.til = some p → a.tile < 2 ^ 22 → tilReady s.cfg s.dev p = true →
    p.active.find? (fun y => y.tile == a.tile) = some a → (coreOf s.dev a.core).blocks.find? (fun b => b.id == a.blk) = some blk → a.jobs = [] →
    (coreOf s.dev a.core).groups.any (fun g => g.blk == a.blk) = false →
    runEng ((attList p.desc).forM (fun y =>
      storeAttachment s.cfg (rqTil s.cfg p) p.desc (attEntry p.desc y) a.tile (y * attBytes p.desc) (coreOf s.dev a.core) blk)) s.dev = (.ok (), d) →
    exec (.tileComplete a.tile) s = .next (s.ended (passEnd s.cfg (coreSync a.core (setCore a.core
      (fun m => { m with blocks := m.blocks.filter (fun b => b.id != a.blk) })
      { d with til := some { p with active := p.active.filter (fun y => y.tile != a.tile), done := p.done + 1 } })))))

/-- For every running state: COMP_PRESENT with a legal payload makes its command the pipe's pending set, and one that it replaces completes SKIPPED; an illegal one completes INVALID_COMMAND. At REPROJ_ANGLE the pipe takes the pending set when it has no fence or its fence holds, drops one whose fence failed with DEPENDENCY_FAILED, and else counts LATE and shifts the set in force. At A_latch a taken set goes into force and its command completes OK, and the frame's set, mode and shifts are fixed, safe by signature or by S4. A scan-out line is composed, its pixels not fetched in time take BACKGROUND and count UNDERRUN, and its signatures advance, but not in a frame with a blanked line. The compare stores the region's CRC, and a mismatch sets its status, counts source 26 and, where asked, enters safe mode. Where it follows a convention of the model's own, that is the model's choice and no rule of the spec: log 90, 91, 92, 93, 94.
(derived; R306, R308, R312, R313, R315, R317, R318, R319, R320, R321.) -/
def Obligations.CompositionRows : Prop :=
  (∀ s r x b d, Running s → runOf s.dev 7 0 0 = some (r, x) → r.stopTb = none → unitStalled s.dev (rqUnit s.cfg x 7 0 0) = false →
    faulted s.dev = false → unitUp s.dev 7 0 0 = true →
    runEng (ePayload s.cfg (rqUnit s.cfg x 7 0 0) x.entry.payload 416) s.dev = (.ok b, d) →
    (presentOk s.cfg d b = false → exec .compPresent s = .next (s.ended (unitEnd 7 0 0 0x10 false d))) ∧
    (presentOk s.cfg d b = true →
      let e := setInst (chargeUnit 28 r d) (instIdx 7 0 0) (fun m => { m with run := none, lastCtx := some r.ctx })
      let f := retireToken x (setCmd e x.serial (fun x => { x with units := some 1, unitsLeft := [], unitsRunning := 0 }))
      let skipped := (pipeOf f (getLe b 1 1)).pending.bind (fun old => cmdOf f old.serial)
      exec .compPresent s = .next (s.ended (setPipe (getLe b 1 1) (fun m => { m with pending := some ⟨x.serial, x.ctx, b⟩, taken := false })
        (skipped.elim f (fun y => finishUnits y 0x16 f)))))) ∧
  (∀ s p, p < 2 → Running s → pipeOn s.cfg s.dev p = true → refValid (refOf s.dev (8 + p)) = true →
    let t := nextEvent (s.cfg.disp p).reprojAngle (pipeOf s.dev p).decision (refStamp (refOf s.dev (8 + p)))
    let d := setPipe p (fun m => { m with decision := some t }) (advance s.cfg (ticksToStamp s.cfg (8 + p) t s.dev) s.dev)
    ((pipeOf d p).pending = none → exec (.reprojDecision p) s = .next (s.ended (setPipe p (fun m => { m with taken := false, shift := none }) d))) ∧
    (∀ m, (pipeOf d p).pending = some m →
      let f := aget d.fe.fences (getLe m.desc 4 2)
      let reached := decide (getLe m.desc 8 8 ≤ f.v)
      exec (.reprojDecision p) s = .next (s.ended (
        if bit (getLe m.desc 2 1) 0 = false ∨ (f.e = false ∧ reached = true) then setPipe p (fun m => { m with taken := true, shift := none }) d
        else if f.e = true ∧ reached = true then
          let d := setPipe p (fun m => { m with pending := none, taken := false, shift := none }) d
          (cmdOf d m.serial).elim d (fun y => finishUnits y 0x14 d)
        else setPipe p (fun q => { q with
          taken := false
          late := satInc 255 q.late
          shift := some ((List.range 8).map (fun i =>
            if bit (getLe m.desc 6 1) i then (getS16 (layerEntry m.desc i) 0x20, getS16 (layerEntry m.desc i) 0x22) else (0, 0))) }) d)))) ∧
  (∀ s p, p < 2 → Running s → pipeOn s.cfg s.dev p = true → refValid (refOf s.dev (8 + p)) = true →
    let t := nextEvent (latchAngle s.cfg p) (pipeOf s.dev p).latched (refStamp (refOf s.dev (8 + p)))
    let d := setPipe p (fun m => { m with latched := some t }) (advance s.cfg (ticksToStamp s.cfg (8 + p) t s.dev) s.dev)
    let put := fun (set : LayerSet) => setPipe p (fun m => { m with
        inForce := some set
        pending := none
        taken := false
        ctxLost := m.ctxLost && (ctxOf ((cmdOf d set.serial).elim d (fun y => finishUnits y 0 d)) set.ctx).state != 1 })
      ((cmdOf d set.serial).elim d (fun y => finishUnits y 0 d))
    let e := if (pipeOf d p).taken then ((pipeOf d p).pending).elim d put else d
    let m := pipeOf e p
    let sig := m.safeSig && !m.exitReq
    exec (.layerLatch p) s = .next (s.ended (setPipe p (fun q => { q with
      frame := some ⟨m.inForce, m.shift.getD (List.replicate 8 (0, 0)), if sig || decide (4 ≤ e.pwr.stage) then 2 else 1, m.shift.isSome, m.ctxLost,
        false, latchRegions e.comp p⟩
      shift := none, safeSig := sig, exitReq := false, nextLine := 0, compared := 0, sums := List.replicate 16 0xFFFFFFFF }) e))) ∧
  (∀ s p got f px nf np d, p < 2 → Running s → pipeOn s.cfg s.dev p = true → (pipeOf s.dev p).frame = some f →
    (pipeOf s.dev p).nextLine < (s.cfg.disp p).vActive →
    let y := (pipeOf s.dev p).nextLine
    let width := (s.cfg.disp p).hActive
    (if pipeBlank s.dev p then (List.replicate width 0, 0, 0, s.dev) else composeLine s.cfg p y f s.dev) = (px, nf, np, d) →
    let bg := f.set.elim 0 (fun set => getLe set.desc 0x14 4 % 2 ^ 24)
    let missing := decide (got < width) && !pipeBlank s.dev p && f.set.isSome
    let out := if missing then px.take got ++ List.replicate (width - got) bg else px
    exec (.scanoutLine p got) s = .next (s.ended (setPipe p (fun q => { q with
      frame := some { f with blanked := f.blanked || pipeBlank s.dev p }
      nextLine := y + 1, hurt := none, out := out, sums := sumLine s.cfg s.dev p y f out (pipeOf s.dev p).sums
      fault := satAdd 255 q.fault nf, poison := satAdd 255 q.poison np
      underrun := if missing then satInc 255 q.underrun else q.underrun }) d))) ∧
  (∀ s n p f, n < 16 → Running s → (List.range 2).find? (fun p => ((pipeOf s.dev p).frame).any (fun f => pipeOn s.cfg s.dev p &&
      regionCompares s.cfg s.dev p f n && !bit (pipeOf s.dev p).compared n &&
      decide ((f.regions.getD n (0, 0, 0, 0)).2.2.1 / 65536 ≤ (pipeOf s.dev p).nextLine))) = some p → (pipeOf s.dev p).frame = some f →
    let r := f.regions.getD n (0, 0, 0, 0)
    let v := crcCheck (crcPreset 1) ((pipeOf s.dev p).sums.getD n 0)
    let d := setPipe p (fun m => { m with compared := putBit m.compared n true }) s.dev
    let e := { d with comp := { d.comp with sigActual := upd d.comp.sigActual n (fun _ => v) } }
    let g := raise 26 { e with comp := { e.comp with sigStatus := putBit e.comp.sigStatus n true } }
    exec (.signatureCompare n) s = .next (s.ended (if v = r.2.2.2 then e
      else if bit r.1 3 then setPipe p (fun m => { m with safeSig := true, exitReq := false }) g else g)))

/-- For every state whose COMP block answers, a write of SAFE_EXIT with bit 0 set asks for the exit at the next latch and any other changes nothing; a write of DSI_CMD while no packet waits sets type and length, and with GO, a legal type and a length of 1 to 64 queues the packet, while a write with GO during BUSY is ignored. For every running state with pipe 0 on, DSI_PACKET_SENT of a queued packet lets time pass to the blanking and sends its type and bytes. LINK_RETRAIN of a pipe whose link is down lets time pass to 100 ms after the last attempt and takes its outcome. A hot plug, an unplug and an interrupt pulse set HPD and the state of pipe 1's link. Where it follows a convention of the model's own, that is the model's choice and no rule of the spec: log 95, 96.
(derived; R320, R321, R323, R324, R325.) -/
def Obligations.DisplayLinkRows : Prop :=
  (∀ s p v, p < 2 → v < 2 ^ 32 → HostReaches s (0xC0004 + 0x100 * p) →
    exec (.compSafeExit p v) s = .next (s.ended (if v.testBit 0 then setPipe p (fun m => { m with exitReq := true }) s.dev else s.dev))) ∧
  (∀ s v, v < 2 ^ 32 → HostReaches s 0xC0500 →
    exec (.compDsiCmd v) s = .next (s.ended (if v.testBit 31 = true ∧ s.dev.comp.dsiBusy = true then s.dev
      else { s.dev with comp := { s.dev.comp with
        dsiType := bits v 15 8
        dsiLen := bits v 7 0
        dsiBusy := s.dev.comp.dsiBusy || (v.testBit 31 && (bits v 15 8 == 0x05 || bits v 15 8 == 0x15 || bits v 15 8 == 0x39) &&
          decide (1 ≤ bits v 7 0 ∧ bits v 7 0 ≤ 64)) } }))) ∧
  (∀ s, Running s → s.dev.comp.dsiBusy = true → pipeOn s.cfg s.dev 0 = true → refValid (refOf s.dev 8) = true →
    let t := refStamp (refOf s.dev 8)
    let d := if t % 2 ^ 32 < latchAngle s.cfg 0 then advance s.cfg (ticksToStamp s.cfg 8 (nextAngle (latchAngle s.cfg 0) t) s.dev) s.dev else s.dev
    exec .dsiPacketSent s = .next (s.ended { d with comp := { d.comp with
      dsiBusy := false, dsiSent := leBytes 1 d.comp.dsiType ++ (d.comp.dsiData.flatMap (leBytes 4)).take d.comp.dsiLen } })) ∧
  (∀ s p up, p < 2 → Running s → pipeOn s.cfg s.dev p = true → (pipeOf s.dev p).link = false →
    let d := advanceTo s.cfg ((pipeOf s.dev p).linkTb + 50000000) s.dev
    exec (.linkRetrain p up) s = .next (s.ended (setPipe p (fun m => { m with link := up, linkTb := d.phe.tb }) d))) ∧
  (∀ s up, Running s →
    let linked := fun (u : Bool) (d : Dev) => setPipe 1 (fun m => { m with link := u, linkTb := d.phe.tb }) d
    let plug := { s.dev with comp := { s.dev.comp with hpd := true } }
    exec (.edpHpd 0 up) s = .next (s.ended (if pipeOn s.cfg plug 1 then linked up plug else plug)) ∧
    exec (.edpHpd 1 up) s = .next (s.ended (linked false { s.dev with comp := { s.dev.comp with hpd := false } })) ∧
    exec (.edpHpd 2 up) s = .next (s.ended (if s.dev.comp.hpd = true ∧ pipeOn s.cfg s.dev 1 = true then linked up s.dev else s.dev)))

/-- For every running state outside the fault state in which the shader queue of a quarter picks a lane: SC_DISPATCH of a command not yet checked, whose 128-byte payload is read, makes it a dispatch of X x Y x Z blocks, or completes it INVALID_COMMAND when the payload is illegal. BLOCK_ADMIT of a checked dispatch, with a core that fits the block's groups, registers and local memory, reads the uniforms and places the block: the core's memories are zeroed first where it last worked for another context; its groups hold the thread indices and the uniform values of the block's position, the core counts a block, and the dispatch goes on to its next block, or is all handed out. With 4 for the quarter, BLOCK_ADMIT admits the next vertex block of the render pass in progress. Where it follows a convention of the model's own, that is the model's choice and no rule of the spec: log 72.
(derived; R237, R238, R239, R240, R241, R242, R361.) -/
def Obligations.ComputeDispatchRows : Prop :=
  (∀ s q lane d x n b, q < 4 → Running s → faulted s.dev = false →
    pickLane s.cfg (takerSc s.cfg) (16 + q) s.dev = (some lane, d) → laneHead d (16 + q) lane = some x → (allowedSet s.cfg d x).head? = some n →
    dispOf s.dev x.serial = none → unitStalled s.dev (rqCore s.cfg x (coreIdx q n)) = false →
    ∀ e, runEng (ePayload s.cfg (rqCore s.cfg x (coreIdx q n)) x.entry.payload 128) d = (.ok b, e) →
    exec (.scDispatch q) s = .next (s.ended (
      if dispOk b = true then
        let total := getLe b 0x10 4 * getLe b 0x14 4 * getLe b 0x18 4
        setCmd { e with disp := e.disp ++ [⟨x.serial, b, 0, total⟩] } x.serial (fun x => { x with units := some total, unitsLeft := [0] })
      else finishUnits x 0x10 e))) ∧
  (∀ s q lane d x n ds us e scheds lo m1 f, q < 4 → Running s → faulted s.dev = false →
    pickLane s.cfg (takerSc s.cfg) (16 + q) s.dev = (some lane, d) → laneHead d (16 + q) lane = some x →
    dispOf d x.serial = some ds → takerSc s.cfg d x = some n →
    let k := coreIdx q n
    let b := ds.desc
    let i := ds.next
    unitStalled s.dev (rqCore s.cfg x k) = false →
    runEng (readUniforms s.cfg (rqCore s.cfg x k) (getLe b 0x28 8) (getLe b 0x1C 4)) d = (.ok us, e) →
    fits (coreOf e k) x.ctx (ceilDiv (dispThreads b) 32) (dispRegs b) (dispLocal b) true = some (scheds, lo) →
    takeFree (scheds.length * dispRegs b * 32) e = (m1, f) →
    let g := takeCore k x.ctx f
    let uni := fun (w : Nat) => ([i % getLe b 0x10 4, (i / getLe b 0x10 4) % getLe b 0x14 4, i / (getLe b 0x10 4 * getLe b 0x14 4), w,
        getLe b 0x30 8 % 2 ^ 32, getLe b 0x30 8 / 2 ^ 32, i % 2 ^ 32, 0].map (fun v => (v, false))) ++ us
    let blk : CoreBlk := ⟨(coreOf e k).nextId, x.serial, x.ring, x.ctx, 0, i, lo, dispLocal b, true, g.phe.tb, 0⟩
    let gs := blockGroups x 0 (coreOf e k).nextId i (dispThreads b) (dispRegs b) m1 (getLe b 0x20 8) scheds
      (threadIndex (getLe b 8 2) (getLe b 0xA 2)) uni (coreOf e k).nextId
    let h := obsCount 0x24 q n (some x.ctx) 1 (coreBusy k x (setCore k (putBlock blk gs) g))
    let last := decide (ds.total ≤ i + 1)
    let w := setCmd { h with disp := h.disp.map (fun y => if y.serial = x.serial then { y with next := i + 1 } else y) } x.serial (fun x => { x with
      unitsRunning := x.unitsRunning + 1, unitsLeft := if last then [] else [0], ran := true, instNo := 8 * q + n })
    exec (.blockAdmit q) s = .next (s.ended (if last then retireToken x w else w))) ∧
  (∀ s, Running s → exec (.blockAdmit 4) s = .next (s.ended (vertexAdmit s.cfg s.dev)))

/-- For every state out of HOLD whose UPD block answers: a mailbox write of 4 or 8 aligned bytes changes a FREE buffer and is else counted IGNORED; GO of a buffer that is not FREE is counted IGNORED, of an address outside every slot or not a multiple of 4,096 ends RANGE, of a protected slot PROTECTED, each raising UPDATE, and else queues the block. UPD_BLOCK_DONE of the block being written frees its buffer, adds the repeats to RETRIES, raises UPDATE, and stores the 4,096 bytes, or free values and VERIFY_FAIL after three mismatches. A command while one is busy is counted IGNORED. Else SET_TRIAL, CANCEL, CONFIRM, ATTEST and READ_CERT end with the refusal that R490 lists, or queue their set entry, or write the report or the certificate to the mailbox with RESULT OK. A legal OBS_DRAIN_RPTR releases the consumed bytes. Where it follows a convention of the model's own, that is the model's choice and no rule of the spec: log 128, 130, 134, 135.
(derived; R486, R487, R488, R489, R490, R498, R500, R513.) -/
def Obligations.UpdateBlockAndCommandRows : Prop :=
  let ready := fun (s : State) => s.dev.pwr.state ≠ 2 ∧ updOn s.dev = true
  let command := fun (s : State) (op arg : Nat) (e : Dev → Dev) =>
    let d := { s.dev with upd := { s.dev.upd with op := op, arg := arg % 256 } }
    s.ended (if d.upd.busy then { d with upd := { d.upd with ignored := satInc 255 d.upd.ignored } }
      else e { d with upd := { d.upd with busy := true, result := 0 } })
  let result := fun (r : Nat) (d : Dev) => { d with upd := { d.upd with busy := false, result := r } }
  let entry := fun (kind slots tries : Nat) (ok : Bool) (d : Dev) => pumpNvm 18 { d with upd := { d.upd with queue := d.upd.queue ++ [.append kind slots tries ok] } }
  let pending := fun (d : Dev) => d.upd.bufs.any (fun b => b.state != 0)
  (∀ s off data, off < 65536 → data.length = 4 ∨ data.length = 8 → off % data.length = 0 → ready s →
    exec (.updMailboxWrite off data) s = .next (s.ended (if (bufOf s.dev (off / 4096)).state ≠ 0
      then { s.dev with upd := { s.dev.upd with ignored := satInc 255 s.dev.upd.ignored } }
      else setBuf (off / 4096) (fun x => { x with data := memWrite x.data (off % 4096) data }) s.dev))) ∧
  (∀ s v, v < 2 ^ 32 → ready s →
    let b := v % 16
    let a := s.dev.upd.blkHi * 2 ^ 32 + s.dev.upd.blkLo
    let d := { s.dev with upd := { s.dev.upd with blkBuf := b } }
    ((bufOf s.dev b).state ≠ 0 → exec (.updBlockGo v) s = .next (s.ended { d with upd := { d.upd with ignored := satInc 255 d.upd.ignored } })) ∧
    ((bufOf s.dev b).state = 0 → slotAt a = none ∨ a % 4096 ≠ 0 →
      exec (.updBlockGo v) s = .next (s.ended (raise 27 (setBuf b (fun x => { x with result := 2 }) d)))) ∧
    (∀ slot, (bufOf s.dev b).state = 0 → slotAt a = some slot → a % 4096 = 0 →
      exec (.updBlockGo v) s = .next (s.ended (if slotProtected s.dev slot then raise 27 (setBuf b (fun x => { x with result := 3 }) d)
        else pumpNvm 1 (setUpd (fun u => { u with queue := u.queue ++ [.block b a] }) (setBuf b (fun x => { x with state := 1 }) d)))))) ∧
  (∀ s b a rest misses, misses ≤ 3 → s.dev.upd.queue = .block b a :: rest → (bufOf s.dev b).state = 2 →
    (misses < 3 → exec (.updBlockDone misses) s = .next (s.ended (pumpNvm 18 (raise 27 (setBuf b (fun x => { x with state := 0, result := 1 })
      { s.dev with upd := { s.dev.upd with
        nvm := nvmWrite s.dev.upd.nvm a (memRead (bufOf s.dev b).data 0 4096), queue := rest
        retries := satAdd 255 s.dev.upd.retries (Nat.min misses 2), blocks := satInc 65535 s.dev.upd.blocks } }))))) ∧
    (misses = 3 → exec (.updBlockDone misses) s = .next (s.ended (pumpNvm 18 (raise 27 (setBuf b (fun x => { x with state := 0, result := 4 })
      { (freeBytes 4096 s.dev).2 with upd := { (freeBytes 4096 s.dev).2.upd with
        nvm := nvmWrite (freeBytes 4096 s.dev).2.upd.nvm a (freeBytes 4096 s.dev).1, queue := rest
        retries := satAdd 255 (freeBytes 4096 s.dev).2.upd.retries 2 } })))))) ∧
  (∀ s tries ok, tries < 256 → ready s → exec (.setTrial tries ok) s = .next (command s 1 tries (fun d =>
    let slots := confirmedSlots d.upd.nvm ^^^ (d.upd.mask % 128)
    if d.upd.mask % 128 = 0 ∨ tries = 0 ∨ 8 < tries then result 2 d
    else if pending d then result 3 d
    else if (trialEnt d.upd.nvm).isSome then result 5 d
    else if levelsOk (slotLevels d.upd.nvm slots) = false then result 6 d
    else entry 2 slots tries ok d))) ∧
  (∀ s ok, ready s → exec (.cancel ok) s = .next (command s 2 s.dev.upd.arg (fun d =>
    if (trialEnt d.upd.nvm).isNone then result 4 d else entry 1 (confirmedSlots d.upd.nvm) 0 ok d))) ∧
  (∀ s ok, ready s → exec (.confirm ok) s = .next (command s 3 s.dev.upd.arg (fun d =>
    match trialEnt d.upd.nvm with
    | none => result 4 d
    | some t => if pending d then result 3 d
      else if levelsOk (slotLevels d.upd.nvm t.slots) = false then result 6 d else entry 1 t.slots 0 ok d))) ∧
  (∀ s, ready s → exec .attest s = .next (command s 5 s.dev.upd.arg (fun d =>
    if pending d then result 3 d else if d.boot.bootStatus.testBit 13 ∨ d.upd.pufFail then result 13 d
    else result 1 (mailboxPut 0 (attestReport d) d)))) ∧
  (∀ s which, which < 256 → ready s → exec (.readCert which) s = .next (command s 6 which (fun d =>
    if 1 < which then result 2 d else if pending d then result 3 d
    else
      let len := getLe (nvmRead d.upd.nvm (0x42000 + 4 * which) 4) 0 4
      let cert := if which = 0 then nvmRead d.upd.nvm 0x44000 (Nat.min len 0x4000) else nvmRead d.upd.nvm 0x48000 (Nat.min len 0x8000)
      result 1 (mailboxPut 16 cert (mailboxPut 0 (leBytes 4 len) d))))) ∧
  (∀ s v, v < 2 ^ 32 → s.dev.pwr.state ≠ 2 → obsOn s.dev = true →
    let o := s.dev.obs
    exec (.obsDrainRptrWrite v) s = .next (s.ended (if idxLe o.drainW v (obsDrainSize o) ∧ idxLe v o.drainR (obsDrainSize o)
      then obsDrain { s.dev with obs := { o with drainR := v } } else s.dev)))

/-- HANDOVER of a part 0 to 4 with a stage area, every buffer FREE, in RUN with no stage in force and the part's memory present begins PREPARING; each refusal of R490 ends it with its RESULT. HANDOVER_PREPARED lets 52 ms (spine) or 49 ms pass and ends AUTH_FAIL, LEVEL_MISMATCH, or leaves the part waiting for a window with its images; HANDOVER_WINDOW_TIMEOUT lets 10 s pass and ends WINDOW_TIMEOUT. When a window start fits its activity, SPINE_HANDOVER stops posting, and the switch 60 us later swaps the spine cores, posts again and puts the images in force; QUARTER_LEAVE takes the quarter's engines out of every allowed set; with no unit of the quarter running, QUARTER_DRAIN_DONE applies STORE_WAYS and DRAM_CAL of the new image and the start-up test; QUARTER_REJOIN at the next window start applies its CLOCKS and POWER entries, brings the engines back and puts the images in force. Where it follows a convention of the model's own, that is the model's choice and no rule of the spec: log 119, 131, 132.
(derived; R490, R491, R492, R494, R495.) -/
def Obligations.HandOverRows : Prop :=
  (∀ s part, part < 256 → s.dev.pwr.state ≠ 2 → updOn s.dev = true → s.dev.upd.busy = false →
    let d := { s.dev with upd := { s.dev.upd with op := 4, arg := part, busy := true, result := 0 } }
    let result := fun (r : Nat) => { d with upd := { d.upd with busy := false, result := r } }
    let e := { d with upd := { d.upd with hand := some ⟨part, 1, d.phe.tb, [], false⟩ } }
    exec (.handover part) s = .next (s.ended (
      if 4 < part then result 2
      else if d.upd.stageHi = 0 then result 9
      else if d.upd.bufs.any (fun b => b.state != 0) then result 3
      else if d.boot.phase ≠ 2 ∨ d.pwr.state ≠ 0 ∨ d.pwr.stage ≠ 0 ∨ (part ≠ 0 ∧ (sliceOf d (part - 1)).memLost) then result 8
      else if part = 0 then { e with boot := { e.boot with oxsStandbyOk := false } } else e))) ∧
  (∀ s h, Live s → s.dev.upd.hand = some h → h.state = 1 →
    let t := advanceTo s.cfg (h.tb + (if h.part = 0 then 26000000 else 24500000)) s.dev
    let d := if h.part = 0 then { t with boot := { t.boot with oxsStandbyOk := true } } else t
    let read := (partKinds h.part).map (fun k => readImage d.upd.nvm d.upd.imageKey k (slotBit (currentSlots d.upd.nvm) k))
    (read.any (·.isNone) = true → exec .handoverPrepared s = .next (s.ended (handEnd 7 d))) ∧
    (∀ l, read = l.map some → exec .handoverPrepared s = .next (s.ended (
      if levelsOk (mixedLevels d.upd h.part l) = false then handEnd 6 d
      else
        let e := areaWrite s.cfg (stagePa d) (l.map (fun x => (x.body, 8 + x.kind))) d
        pumpNvm 18 { e with upd := { e.upd with hand := some { h with state := 2, tb := e.phe.tb, images := l } } })))) ∧
  (∀ s h, Live s → s.dev.upd.hand = some h → h.state = 2 →
    exec .handoverWindowTimeout s = .next (s.ended (handEnd 10 (advanceTo s.cfg (h.tb + 5000000000) s.dev)))) ∧
  (∀ s h d, Running s → s.dev.upd.hand = some h → h.part = 0 → h.state = 2 → windowStart s.cfg 50000 s.dev = some d →
    let e := areaOwn s.cfg (stagePa d) { d with upd := { d.upd with hand := some { h with state := 3, tb := d.phe.tb } } }
    exec .spineHandover s = .next (s.ended { e with fe := { e.fe with postStop := true } })) ∧
  (∀ s h, Live s → s.dev.upd.hand = some h → h.part = 0 → h.state = 3 →
    let d := advanceTo s.cfg (h.tb + 30000) s.dev
    exec .spineHandoverSwitch s = .next (s.ended (handDone h (oxStopped d.boot.oxsActive { d with
      fe := { d.fe with postStop := false }
      boot := { d.boot with oxsActive := 1 - d.boot.oxsActive, oxsStandbyOk := true } })))) ∧
  (∀ s q h d, q < 4 → Running s → s.dev.upd.hand = some h → h.part = q + 1 → h.state = 2 → windowStart s.cfg 5000 s.dev = some d →
    exec (.quarterLeave q) s = .next (s.ended (setWindow q true { d with upd := { d.upd with hand := some { h with state := 4, tb := d.phe.tb } } }))) ∧
  (∀ s q me sne sc h, q < 4 → me < 256 → sne < 2 → sc < 64 → s.dev.upd.hand = some h → h.part = q + 1 → h.state = 4 → h.tested = false →
    quarterBusy s.dev q = false →
    let rs := imageRecs h.images
    let n := cfgOf rs.1
    let d := newWays s.cfg q (n.ways q) (oxStopped (2 + q)
      (let t := advanceTo s.cfg (s.dev.phe.tb + 3000000) s.dev; areaOwn s.cfg (stagePa t) t))
    let test := fun (cls mask : Nat) (d : Dev) => (List.range (instCount cls)).foldl (fun d i =>
      setInst d (instIdx cls q i) (fun x => { x with katFailed := mask.testBit i, lastCtx := none })) d
    let e := test 4 sc (test 2 sne (test 1 me d))
    exec (.quarterDrainDone q me sne sc) s = .next (State.ended { s with
        cfg := { s.cfg with storeWays := s.cfg.storeWays.set q (n.ways q), dramCal := s.cfg.dramCal.set q (n.dramCal.getD q none) } }
      { e with upd := { logRecs (acceptRecs rs.1) rs.1 e.upd with hand := some { h with tested := true } } })) ∧
  (∀ s q h d, q < 4 → s.dev.upd.hand = some h → h.part = q + 1 → h.state = 4 → h.tested = true → windowStart s.cfg 5000 s.dev = some d →
    let n := cfgOf (imageRecs h.images).1
    let c := { s.cfg with
      clocks := { s.cfg.clocks with aclkMax := s.cfg.clocks.aclkMax.set q (n.clocks.aclkMax.getD q 550) }
      power := { s.cfg.power with
        rails := s.cfg.power.rails.set q (n.power.rails.getD q 0), idleqEn := putBit s.cfg.power.idleqEn q (n.power.idleqEn.testBit q) } }
    let e := handDone h (setWindow q false d)
    exec (.quarterRejoin q) s = .next (State.ended { s with cfg := c } (
      if aclkTop c q < e.clk.step.getD q 0 then changeClock q (aclkTop c q) e else e)))
end

