-- ==== Sys2Proof/Laws/Memory.lean ====
section
/-! SUPPORT. Sparse arrays and memories: what a read finds after a write, and that every operation keeps the canonical form. -/

namespace Sys2Proof.Machine

section
variable {α : Type} [Inhabited α] [DecidableEq α]

omit [DecidableEq α] in
@[simp] theorem aget_nil (i : Nat) : aget ([] : Arr α) i = default := rfl

omit [DecidableEq α] in
theorem aget_cons (k : Nat) (v : α) (l : Arr α) (i : Nat) : aget ((k, v) :: l) i = if k = i then v else aget l i := by
  simp [aget]

omit [DecidableEq α] in
theorem aget_filter_keep (a : Arr α) (p : Nat → Bool) (i : Nat) (h : p i = true) : aget (a.filter (fun x => p x.1)) i = aget a i := by
  induction a with
  | nil => rfl
  | cons x l ih =>
    obtain ⟨k, v⟩ := x
    by_cases hk : k = i
    · subst hk; simp [h, aget_cons]
    · by_cases hp : p k
      · simp [hp, aget_cons, hk, ih]
      · simp [hp, aget_cons, hk, ih]

omit [DecidableEq α] in
theorem aget_filter_drop (a : Arr α) (p : Nat → Bool) (i : Nat) (h : p i = false) : aget (a.filter (fun x => p x.1)) i = default := by
  induction a with
  | nil => rfl
  | cons x l ih =>
    obtain ⟨k, v⟩ := x
    by_cases hp : p k
    · have hk : k ≠ i := by rintro rfl; simp [h] at hp
      simp [hp, aget_cons, hk, ih]
    · simp [hp, ih]

omit [DecidableEq α] in
theorem aget_append_of_absent (a b : Arr α) (i : Nat) (h : ∀ p ∈ a, p.1 ≠ i) : aget (a ++ b) i = aget b i := by
  induction a with
  | nil => rfl
  | cons x l ih =>
    obtain ⟨k, v⟩ := x
    have hk : k ≠ i := h (k, v) (by simp)
    simp [aget_cons, hk, ih (fun p hp => h p (by simp [hp]))]

omit [DecidableEq α] in
theorem aget_append_right_absent (a b : Arr α) (i : Nat) (h : ∀ p ∈ b, p.1 ≠ i) : aget (a ++ b) i = aget a i := by
  induction a with
  | nil =>
    induction b with
    | nil => rfl
    | cons x l ih =>
      obtain ⟨k, v⟩ := x
      have hk : k ≠ i := h (k, v) (by simp)
      simpa [aget_cons, hk] using ih (fun p hp => h p (by simp [hp]))
  | cons x l ih =>
    obtain ⟨k, v⟩ := x
    simp [aget_cons, ih]

omit [DecidableEq α] in
theorem aget_ainsert (i : Nat) (v : α) (l : Arr α) (j : Nat) (h : ∀ p ∈ l, p.1 ≠ i) :
    aget (ainsert i v l) j = if i = j then v else aget l j := by
  induction l with
  | nil => simp [ainsert, aget_cons]
  | cons x l ih =>
    obtain ⟨k, w⟩ := x
    have hk : k ≠ i := h (k, w) (by simp)
    have ih := ih (fun p hp => h p (by simp [hp]))
    by_cases hlt : i < k
    · simp [ainsert, hlt, aget_cons]
    · by_cases hj : k = j
      · subst hj; simp [ainsert, hlt, aget_cons, Ne.symm hk]
      · simp [ainsert, hlt, aget_cons, hj, ih]

/-- A read after a write: the value written at its index, every other index as before. -/
theorem aget_aset (a : Arr α) (i : Nat) (v : α) (j : Nat) : aget (aset a i v) j = if i = j then v else aget a j := by
  unfold aset
  by_cases hv : v = default
  · by_cases hj : i = j
    · subst hj; subst hv
      simpa using aget_filter_drop a (fun k => !(k == i)) i (by simp)
    · have := aget_filter_keep a (fun k => !(k == i)) j (by simp [Ne.symm hj])
      simpa [hv, hj] using this
  · have hn : ∀ p ∈ a.filter (fun p => !(p.1 == i)), p.1 ≠ i := by
      intro p hp; simpa using (List.mem_filter.1 hp).2
    by_cases hj : i = j
    · subst hj; simp [hv, aget_ainsert i v _ i hn]
    · have := aget_filter_keep a (fun k => !(k == i)) j (by simp [Ne.symm hj])
      simp [hv, aget_ainsert i v _ j hn, hj, this]

@[simp] theorem aget_aset_same (a : Arr α) (i : Nat) (v : α) : aget (aset a i v) i = v := by simp [aget_aset]

theorem aget_aset_ne (a : Arr α) (i j : Nat) (v : α) (h : i ≠ j) : aget (aset a i v) j = aget a j := by simp [aget_aset, h]

@[simp] theorem aget_amod_same (a : Arr α) (i : Nat) (f : α → α) : aget (amod a i f) i = f (aget a i) := by simp [amod]

theorem aget_amod_ne (a : Arr α) (i j : Nat) (f : α → α) (h : i ≠ j) : aget (amod a i f) j = aget a j := by
  simp [amod, aget_aset_ne _ _ _ _ h]

/-! ### The canonical form -/

theorem Arr.wf_cons (i : Nat) (v : α) (l : Arr α) : Arr.wf ((i, v) :: l) = true ↔ v ≠ default ∧ (∀ p ∈ l, i < p.1) ∧ Arr.wf l = true := by
  induction l generalizing i v with
  | nil => simp [Arr.wf]
  | cons x l ih =>
    obtain ⟨j, w⟩ := x
    rw [Arr.wf, Bool.and_eq_true, Bool.and_eq_true, ih j w]
    constructor
    · rintro ⟨⟨hv, hij⟩, hw, hl, hwf⟩
      refine ⟨by simpa using hv, ?_, hw, hl, hwf⟩
      intro p hp
      rcases List.mem_cons.1 hp with rfl | hp
      · simpa using hij
      · have := hl p hp; simp at hij; omega
    · rintro ⟨hv, hij, hw, hl, hwf⟩
      exact ⟨⟨by simpa using hv, by simpa using hij (j, w) (by simp)⟩, hw, hl, hwf⟩

theorem Arr.wf_filter (a : Arr α) (p : Nat × α → Bool) (h : Arr.wf a = true) : Arr.wf (a.filter p) = true := by
  induction a with
  | nil => rfl
  | cons x l ih =>
    obtain ⟨i, v⟩ := x
    obtain ⟨hv, hi, hl⟩ := (Arr.wf_cons i v l).1 h
    by_cases hp : p (i, v)
    · rw [List.filter_cons_of_pos hp]
      exact (Arr.wf_cons i v _).2 ⟨hv, fun q hq => hi q (List.mem_filter.1 hq).1, ih hl⟩
    · rw [List.filter_cons_of_neg hp]; exact ih hl

omit [Inhabited α] [DecidableEq α] in
theorem mem_ainsert (i : Nat) (v : α) (l : Arr α) (p : Nat × α) (h : p ∈ ainsert i v l) : p = (i, v) ∨ p ∈ l := by
  induction l with
  | nil => simpa [ainsert] using h
  | cons x l ih =>
    obtain ⟨k, w⟩ := x
    by_cases hlt : i < k
    · simpa [ainsert, hlt] using h
    · rcases List.mem_cons.1 (by simpa [ainsert, hlt] using h) with rfl | h
      · exact .inr (by simp)
      · rcases ih h with h | h
        · exact .inl h
        · exact .inr (by simp [h])

theorem Arr.wf_ainsert (i : Nat) (v : α) (l : Arr α) (hv : v ≠ default) (hn : ∀ p ∈ l, p.1 ≠ i) (h : Arr.wf l = true) :
    Arr.wf (ainsert i v l) = true := by
  induction l with
  | nil => simp [ainsert, Arr.wf, hv]
  | cons x l ih =>
    obtain ⟨k, w⟩ := x
    obtain ⟨hw, hk, hl⟩ := (Arr.wf_cons k w l).1 h
    by_cases hlt : i < k
    · rw [ainsert, if_pos hlt]
      refine (Arr.wf_cons i v _).2 ⟨hv, ?_, h⟩
      intro p hp
      rcases List.mem_cons.1 hp with rfl | hp
      · exact hlt
      · have := hk p hp; omega
    · rw [ainsert, if_neg hlt]
      refine (Arr.wf_cons k w _).2 ⟨hw, ?_, ih (fun p hp => hn p (by simp [hp])) hl⟩
      intro p hp
      rcases mem_ainsert i v l p hp with rfl | hp
      · have := hn (k, w) (by simp); simp at this ⊢; omega
      · exact hk p hp

/-- Setting an index keeps the canonical form. -/
theorem Arr.wf_aset (a : Arr α) (i : Nat) (v : α) (h : Arr.wf a = true) : Arr.wf (aset a i v) = true := by
  unfold aset
  by_cases hv : v = default
  · simpa [hv] using Arr.wf_filter a _ h
  · simp only [hv, if_false]
    exact Arr.wf_ainsert i v _ hv (fun p hp => by simpa using (List.mem_filter.1 hp).2) (Arr.wf_filter a _ h)

theorem Arr.wf_amod (a : Arr α) (i : Nat) (f : α → α) (h : Arr.wf a = true) : Arr.wf (amod a i f) = true := Arr.wf_aset a i _ h

theorem Arr.wf_append (a b : Arr α) (n : Nat) (ha : Arr.wf a = true) (hb : Arr.wf b = true) (h1 : ∀ p ∈ a, p.1 < n) (h2 : ∀ p ∈ b, n ≤ p.1) :
    Arr.wf (a ++ b) = true := by
  induction a with
  | nil => exact hb
  | cons x l ih =>
    obtain ⟨i, v⟩ := x
    obtain ⟨hv, hi, hl⟩ := (Arr.wf_cons i v l).1 ha
    refine (Arr.wf_cons i v _).2 ⟨hv, ?_, ih hl (fun p hp => h1 p (by simp [hp]))⟩
    intro p hp
    rcases List.mem_append.1 hp with hp | hp
    · exact hi p hp
    · have := h1 (i, v) (by simp); have := h2 p hp; simp at this ⊢; omega

end

/-! ### Memories -/

@[simp] theorem memList_zero (a : Nat) (bs : List Byte) : memList a (0 :: bs) = memList (a + 1) bs := if_pos rfl

theorem memList_cons (a : Nat) (b : Byte) (bs : List Byte) (h : b ≠ 0) : memList a (b :: bs) = (a, b) :: memList (a + 1) bs := if_neg h

theorem memList_index (a : Nat) (l : List Byte) (p : Nat × Byte) (h : p ∈ memList a l) : a ≤ p.1 ∧ p.1 < a + l.length := by
  induction l generalizing a with
  | nil => simp [memList] at h
  | cons b bs ih =>
    by_cases hb : b = 0
    · subst hb; have := ih (a + 1) (by rwa [memList_zero] at h); simp; omega
    · rw [memList_cons a b bs hb] at h
      rcases List.mem_cons.1 h with rfl | h
      · simp
      · have := ih (a + 1) h; simp; omega

theorem aget_memList (a : Nat) (l : List Byte) (i : Nat) (h : i < l.length) : aget (memList a l) (a + i) = l.getD i 0 := by
  induction l generalizing a i with
  | nil => simp at h
  | cons b bs ih =>
    cases i with
    | zero =>
      by_cases hb : b = 0
      · subst hb
        rw [memList_zero]
        exact aget_append_right_absent ([] : Mem) (memList (a + 1) bs) a (fun p hp => by have := memList_index _ _ p hp; omega)
      · simp [memList_cons a b bs hb, aget_cons]
    | succ i =>
      have := ih (a + 1) i (by simpa using h)
      rw [show a + 1 + i = a + (i + 1) by omega] at this
      by_cases hb : b = 0
      · subst hb; rw [memList_zero]; simpa using this
      · simpa [memList_cons a b bs hb, aget_cons] using this

theorem memList_wf (a : Nat) (l : List Byte) : Arr.wf (memList a l) = true := by
  induction l generalizing a with
  | nil => rfl
  | cons b bs ih =>
    by_cases hb : b = 0
    · subst hb; rw [memList_zero]; exact ih (a + 1)
    · rw [memList_cons a b bs hb]
      exact (Arr.wf_cons a b _).2 ⟨hb, fun p hp => by have := memList_index _ _ p hp; omega, ih (a + 1)⟩

/-- A byte after a write: the byte written inside the range, the byte before outside it. -/
theorem aget_memWrite (m : Mem) (a : Nat) (l : List Byte) (x : Nat) :
    aget (memWrite m a l) x = if a ≤ x ∧ x < a + l.length then l.getD (x - a) 0 else aget m x := by
  unfold memWrite
  have hlow : ∀ p ∈ m.filter (fun p => decide (p.1 < a)), p.1 < a := fun p hp => by simpa using (List.mem_filter.1 hp).2
  have hhigh : ∀ p ∈ m.filter (fun p => decide (a + l.length ≤ p.1)), a + l.length ≤ p.1 :=
    fun p hp => by simpa using (List.mem_filter.1 hp).2
  by_cases h1 : x < a
  · rw [if_neg (by omega), aget_append_right_absent _ _ _ (fun p hp => by have := hhigh p hp; omega),
      aget_append_right_absent _ _ _ (fun p hp => by have := memList_index _ _ p hp; omega)]
    exact aget_filter_keep m (fun k => decide (k < a)) x (by simpa using h1)
  · by_cases h2 : x < a + l.length
    · rw [if_pos (by omega), aget_append_right_absent _ _ _ (fun p hp => by have := hhigh p hp; omega),
        aget_append_of_absent _ _ _ (fun p hp => by have := hlow p hp; omega)]
      have := aget_memList a l (x - a) (by omega)
      rwa [show a + (x - a) = x by omega] at this
    · rw [if_neg (by omega), List.append_assoc, aget_append_of_absent _ _ _ (fun p hp => by have := hlow p hp; omega),
        aget_append_of_absent _ _ _ (fun p hp => by have := memList_index _ _ p hp; omega)]
      exact aget_filter_keep m (fun k => decide (a + l.length ≤ k)) x (by simpa using by omega)

/-- A write keeps the canonical form. -/
theorem memWrite_wf (m : Mem) (a : Nat) (l : List Byte) (h : Memory.wf m = true) : Memory.wf (memWrite m a l) = true := by
  unfold Memory.wf memWrite at *
  have hlow : ∀ p ∈ m.filter (fun p => decide (p.1 < a)), p.1 < a := fun p hp => by simpa using (List.mem_filter.1 hp).2
  refine Arr.wf_append _ _ (a + l.length) (Arr.wf_append _ _ a (Arr.wf_filter m _ h) (memList_wf a l) hlow ?_) (Arr.wf_filter m _ h) ?_ ?_
  · exact fun p hp => (memList_index _ _ p hp).1
  · intro p hp
    rcases List.mem_append.1 hp with hp | hp
    · have := hlow p hp; omega
    · exact (memList_index _ _ p hp).2
  · exact fun p hp => by simpa using (List.mem_filter.1 hp).2

/-- A byte after a range is returned to the unlisted value. -/
theorem aget_memZero (m : Mem) (lo hi x : Nat) : aget (memZero m lo hi) x = if lo ≤ x ∧ x < hi then 0 else aget m x := by
  unfold memZero
  by_cases h : lo ≤ x ∧ x < hi
  · rw [if_pos h]
    exact aget_filter_drop m (fun k => !(decide (lo ≤ k) && decide (k < hi))) x (by simp [h])
  · rw [if_neg h]
    exact aget_filter_keep m (fun k => !(decide (lo ≤ k) && decide (k < hi))) x (by simp; omega)

/-- Returning a range to the unlisted value keeps the canonical form. -/
theorem memZero_wf (m : Mem) (lo hi : Nat) (h : Memory.wf m = true) : Memory.wf (memZero m lo hi) = true := Arr.wf_filter m _ h

theorem memTake_eq (m : Mem) (a n : Nat) : memTake m a n = (List.range n).map (fun i => aget m (a + i)) := by
  induction n generalizing a with
  | zero => rfl
  | succ n ih =>
    rw [memTake, ih, List.range_succ_eq_map, List.map_cons, List.map_map]
    refine congrArg _ (List.map_congr_left ?_)
    intro i _
    simp only [Function.comp_apply]
    exact congrArg _ (by omega)

/-- A read gives the bytes of its range. -/
theorem memRead_eq (m : Mem) (a n : Nat) : memRead m a n = (List.range n).map (fun i => aget m (a + i)) := by
  rw [memRead, memTake_eq]
  refine List.map_congr_left ?_
  intro i hi
  have hi := List.mem_range.1 hi
  exact aget_filter_keep m (fun k => decide (a ≤ k) && decide (k < a + n)) (a + i) (by simp; omega)

@[simp] theorem memRead_length (m : Mem) (a n : Nat) : (memRead m a n).length = n := by simp [memRead_eq]

/-- A read of the range just written gives the bytes written. -/
theorem memRead_memWrite_same (m : Mem) (a : Nat) (l : List Byte) : memRead (memWrite m a l) a l.length = l := by
  rw [memRead_eq]
  refine List.ext_getElem (by simp) ?_
  intro i h1 h2
  simp [aget_memWrite, h2]

/-- A read outside the range written gives what it gave before. -/
theorem memRead_memWrite_other (m : Mem) (a : Nat) (l : List Byte) (b n : Nat) (h : b + n ≤ a ∨ a + l.length ≤ b) :
    memRead (memWrite m a l) b n = memRead m b n := by
  rw [memRead_eq, memRead_eq]
  refine List.map_congr_left ?_
  intro i hi
  have hi := List.mem_range.1 hi
  rw [aget_memWrite, if_neg (by omega)]

end Sys2Proof.Machine
end

