-- ==== Sys2Proof/Laws/State.lean ====
section
/-! SUPPORT. What each update of the state leaves as it was, field by field. -/

namespace Sys2Proof.Machine

/-! ### `raise` changes `icu` only -/

@[simp] theorem raise_err (s : Nat) (d : Dev) : (raise s d).err = d.err := rfl
@[simp] theorem raise_store (s : Nat) (d : Dev) : (raise s d).store = d.store := rfl
@[simp] theorem raise_mmu (s : Nat) (d : Dev) : (raise s d).mmu = d.mmu := rfl
@[simp] theorem raise_host (s : Nat) (d : Dev) : (raise s d).host = d.host := rfl
@[simp] theorem raise_fe (s : Nat) (d : Dev) : (raise s d).fe = d.fe := rfl
@[simp] theorem raise_sched (s : Nat) (d : Dev) : (raise s d).sched = d.sched := rfl
@[simp] theorem raise_phe (s : Nat) (d : Dev) : (raise s d).phe = d.phe := rfl
@[simp] theorem raise_dlm (s : Nat) (d : Dev) : (raise s d).dlm = d.dlm := rfl
@[simp] theorem raise_obs (s : Nat) (d : Dev) : (raise s d).obs = d.obs := rfl
@[simp] theorem raise_pwr (s : Nat) (d : Dev) : (raise s d).pwr = d.pwr := rfl
@[simp] theorem raise_clk (s : Nat) (d : Dev) : (raise s d).clk = d.clk := rfl
@[simp] theorem raise_boot (s : Nat) (d : Dev) : (raise s d).boot = d.boot := rfl
@[simp] theorem raise_me (s : Nat) (d : Dev) : (raise s d).me = d.me := rfl
@[simp] theorem raise_seq (s : Nat) (d : Dev) : (raise s d).seq = d.seq := rfl
@[simp] theorem raise_cores (s : Nat) (d : Dev) : (raise s d).cores = d.cores := rfl
@[simp] theorem raise_disp (s : Nat) (d : Dev) : (raise s d).disp = d.disp := rfl
@[simp] theorem raise_til (s : Nat) (d : Dev) : (raise s d).til = d.til := rfl
@[simp] theorem raise_pack (s : Nat) (d : Dev) : (raise s d).pack = d.pack := rfl
@[simp] theorem raise_cvu (s : Nat) (d : Dev) : (raise s d).cvu = d.cvu := rfl
@[simp] theorem raise_comp (s : Nat) (d : Dev) : (raise s d).comp = d.comp := rfl
@[simp] theorem raise_upd (s : Nat) (d : Dev) : (raise s d).upd = d.upd := rfl
@[simp] theorem raise_notes (s : Nat) (d : Dev) : (raise s d).notes = d.notes := rfl
@[simp] theorem raise_freeCount (s : Nat) (d : Dev) : (raise s d).freeCount = d.freeCount := rfl

/-! ### `clearMarks` changes `icu` only -/

@[simp] theorem clearMarks_err (d : Dev) : (clearMarks d).err = d.err := rfl
@[simp] theorem clearMarks_store (d : Dev) : (clearMarks d).store = d.store := rfl
@[simp] theorem clearMarks_mmu (d : Dev) : (clearMarks d).mmu = d.mmu := rfl
@[simp] theorem clearMarks_host (d : Dev) : (clearMarks d).host = d.host := rfl
@[simp] theorem clearMarks_fe (d : Dev) : (clearMarks d).fe = d.fe := rfl
@[simp] theorem clearMarks_sched (d : Dev) : (clearMarks d).sched = d.sched := rfl
@[simp] theorem clearMarks_phe (d : Dev) : (clearMarks d).phe = d.phe := rfl
@[simp] theorem clearMarks_dlm (d : Dev) : (clearMarks d).dlm = d.dlm := rfl
@[simp] theorem clearMarks_obs (d : Dev) : (clearMarks d).obs = d.obs := rfl
@[simp] theorem clearMarks_pwr (d : Dev) : (clearMarks d).pwr = d.pwr := rfl
@[simp] theorem clearMarks_clk (d : Dev) : (clearMarks d).clk = d.clk := rfl
@[simp] theorem clearMarks_boot (d : Dev) : (clearMarks d).boot = d.boot := rfl
@[simp] theorem clearMarks_me (d : Dev) : (clearMarks d).me = d.me := rfl
@[simp] theorem clearMarks_seq (d : Dev) : (clearMarks d).seq = d.seq := rfl
@[simp] theorem clearMarks_cores (d : Dev) : (clearMarks d).cores = d.cores := rfl
@[simp] theorem clearMarks_disp (d : Dev) : (clearMarks d).disp = d.disp := rfl
@[simp] theorem clearMarks_til (d : Dev) : (clearMarks d).til = d.til := rfl
@[simp] theorem clearMarks_pack (d : Dev) : (clearMarks d).pack = d.pack := rfl
@[simp] theorem clearMarks_cvu (d : Dev) : (clearMarks d).cvu = d.cvu := rfl
@[simp] theorem clearMarks_comp (d : Dev) : (clearMarks d).comp = d.comp := rfl
@[simp] theorem clearMarks_upd (d : Dev) : (clearMarks d).upd = d.upd := rfl
@[simp] theorem clearMarks_notes (d : Dev) : (clearMarks d).notes = d.notes := rfl
@[simp] theorem clearMarks_freeCount (d : Dev) : (clearMarks d).freeCount = d.freeCount := rfl

/-! ### `setSlice` changes `store` only -/

@[simp] theorem setSlice_icu (d : Dev) (q : Nat) (f : SliceSt → SliceSt) : (setSlice d q f).icu = d.icu := rfl
@[simp] theorem setSlice_err (d : Dev) (q : Nat) (f : SliceSt → SliceSt) : (setSlice d q f).err = d.err := rfl
@[simp] theorem setSlice_mmu (d : Dev) (q : Nat) (f : SliceSt → SliceSt) : (setSlice d q f).mmu = d.mmu := rfl
@[simp] theorem setSlice_host (d : Dev) (q : Nat) (f : SliceSt → SliceSt) : (setSlice d q f).host = d.host := rfl
@[simp] theorem setSlice_fe (d : Dev) (q : Nat) (f : SliceSt → SliceSt) : (setSlice d q f).fe = d.fe := rfl
@[simp] theorem setSlice_sched (d : Dev) (q : Nat) (f : SliceSt → SliceSt) : (setSlice d q f).sched = d.sched := rfl
@[simp] theorem setSlice_phe (d : Dev) (q : Nat) (f : SliceSt → SliceSt) : (setSlice d q f).phe = d.phe := rfl
@[simp] theorem setSlice_dlm (d : Dev) (q : Nat) (f : SliceSt → SliceSt) : (setSlice d q f).dlm = d.dlm := rfl
@[simp] theorem setSlice_obs (d : Dev) (q : Nat) (f : SliceSt → SliceSt) : (setSlice d q f).obs = d.obs := rfl
@[simp] theorem setSlice_pwr (d : Dev) (q : Nat) (f : SliceSt → SliceSt) : (setSlice d q f).pwr = d.pwr := rfl
@[simp] theorem setSlice_clk (d : Dev) (q : Nat) (f : SliceSt → SliceSt) : (setSlice d q f).clk = d.clk := rfl
@[simp] theorem setSlice_boot (d : Dev) (q : Nat) (f : SliceSt → SliceSt) : (setSlice d q f).boot = d.boot := rfl
@[simp] theorem setSlice_me (d : Dev) (q : Nat) (f : SliceSt → SliceSt) : (setSlice d q f).me = d.me := rfl
@[simp] theorem setSlice_seq (d : Dev) (q : Nat) (f : SliceSt → SliceSt) : (setSlice d q f).seq = d.seq := rfl
@[simp] theorem setSlice_cores (d : Dev) (q : Nat) (f : SliceSt → SliceSt) : (setSlice d q f).cores = d.cores := rfl
@[simp] theorem setSlice_disp (d : Dev) (q : Nat) (f : SliceSt → SliceSt) : (setSlice d q f).disp = d.disp := rfl
@[simp] theorem setSlice_til (d : Dev) (q : Nat) (f : SliceSt → SliceSt) : (setSlice d q f).til = d.til := rfl
@[simp] theorem setSlice_pack (d : Dev) (q : Nat) (f : SliceSt → SliceSt) : (setSlice d q f).pack = d.pack := rfl
@[simp] theorem setSlice_cvu (d : Dev) (q : Nat) (f : SliceSt → SliceSt) : (setSlice d q f).cvu = d.cvu := rfl
@[simp] theorem setSlice_comp (d : Dev) (q : Nat) (f : SliceSt → SliceSt) : (setSlice d q f).comp = d.comp := rfl
@[simp] theorem setSlice_upd (d : Dev) (q : Nat) (f : SliceSt → SliceSt) : (setSlice d q f).upd = d.upd := rfl
@[simp] theorem setSlice_notes (d : Dev) (q : Nat) (f : SliceSt → SliceSt) : (setSlice d q f).notes = d.notes := rfl
@[simp] theorem setSlice_freeCount (d : Dev) (q : Nat) (f : SliceSt → SliceSt) : (setSlice d q f).freeCount = d.freeCount := rfl

/-! ### `setRing` changes `fe` only -/

@[simp] theorem setRing_icu (d : Dev) (r : Nat) (f : Ring → Ring) : (setRing d r f).icu = d.icu := rfl
@[simp] theorem setRing_err (d : Dev) (r : Nat) (f : Ring → Ring) : (setRing d r f).err = d.err := rfl
@[simp] theorem setRing_store (d : Dev) (r : Nat) (f : Ring → Ring) : (setRing d r f).store = d.store := rfl
@[simp] theorem setRing_mmu (d : Dev) (r : Nat) (f : Ring → Ring) : (setRing d r f).mmu = d.mmu := rfl
@[simp] theorem setRing_host (d : Dev) (r : Nat) (f : Ring → Ring) : (setRing d r f).host = d.host := rfl
@[simp] theorem setRing_sched (d : Dev) (r : Nat) (f : Ring → Ring) : (setRing d r f).sched = d.sched := rfl
@[simp] theorem setRing_phe (d : Dev) (r : Nat) (f : Ring → Ring) : (setRing d r f).phe = d.phe := rfl
@[simp] theorem setRing_dlm (d : Dev) (r : Nat) (f : Ring → Ring) : (setRing d r f).dlm = d.dlm := rfl
@[simp] theorem setRing_obs (d : Dev) (r : Nat) (f : Ring → Ring) : (setRing d r f).obs = d.obs := rfl
@[simp] theorem setRing_pwr (d : Dev) (r : Nat) (f : Ring → Ring) : (setRing d r f).pwr = d.pwr := rfl
@[simp] theorem setRing_clk (d : Dev) (r : Nat) (f : Ring → Ring) : (setRing d r f).clk = d.clk := rfl
@[simp] theorem setRing_boot (d : Dev) (r : Nat) (f : Ring → Ring) : (setRing d r f).boot = d.boot := rfl
@[simp] theorem setRing_me (d : Dev) (r : Nat) (f : Ring → Ring) : (setRing d r f).me = d.me := rfl
@[simp] theorem setRing_seq (d : Dev) (r : Nat) (f : Ring → Ring) : (setRing d r f).seq = d.seq := rfl
@[simp] theorem setRing_cores (d : Dev) (r : Nat) (f : Ring → Ring) : (setRing d r f).cores = d.cores := rfl
@[simp] theorem setRing_disp (d : Dev) (r : Nat) (f : Ring → Ring) : (setRing d r f).disp = d.disp := rfl
@[simp] theorem setRing_til (d : Dev) (r : Nat) (f : Ring → Ring) : (setRing d r f).til = d.til := rfl
@[simp] theorem setRing_pack (d : Dev) (r : Nat) (f : Ring → Ring) : (setRing d r f).pack = d.pack := rfl
@[simp] theorem setRing_cvu (d : Dev) (r : Nat) (f : Ring → Ring) : (setRing d r f).cvu = d.cvu := rfl
@[simp] theorem setRing_comp (d : Dev) (r : Nat) (f : Ring → Ring) : (setRing d r f).comp = d.comp := rfl
@[simp] theorem setRing_upd (d : Dev) (r : Nat) (f : Ring → Ring) : (setRing d r f).upd = d.upd := rfl
@[simp] theorem setRing_notes (d : Dev) (r : Nat) (f : Ring → Ring) : (setRing d r f).notes = d.notes := rfl
@[simp] theorem setRing_freeCount (d : Dev) (r : Nat) (f : Ring → Ring) : (setRing d r f).freeCount = d.freeCount := rfl

/-! ### `setCmd` changes `fe` only -/

@[simp] theorem setCmd_icu (d : Dev) (n : Nat) (f : Cmd → Cmd) : (setCmd d n f).icu = d.icu := rfl
@[simp] theorem setCmd_err (d : Dev) (n : Nat) (f : Cmd → Cmd) : (setCmd d n f).err = d.err := rfl
@[simp] theorem setCmd_store (d : Dev) (n : Nat) (f : Cmd → Cmd) : (setCmd d n f).store = d.store := rfl
@[simp] theorem setCmd_mmu (d : Dev) (n : Nat) (f : Cmd → Cmd) : (setCmd d n f).mmu = d.mmu := rfl
@[simp] theorem setCmd_host (d : Dev) (n : Nat) (f : Cmd → Cmd) : (setCmd d n f).host = d.host := rfl
@[simp] theorem setCmd_sched (d : Dev) (n : Nat) (f : Cmd → Cmd) : (setCmd d n f).sched = d.sched := rfl
@[simp] theorem setCmd_phe (d : Dev) (n : Nat) (f : Cmd → Cmd) : (setCmd d n f).phe = d.phe := rfl
@[simp] theorem setCmd_dlm (d : Dev) (n : Nat) (f : Cmd → Cmd) : (setCmd d n f).dlm = d.dlm := rfl
@[simp] theorem setCmd_obs (d : Dev) (n : Nat) (f : Cmd → Cmd) : (setCmd d n f).obs = d.obs := rfl
@[simp] theorem setCmd_pwr (d : Dev) (n : Nat) (f : Cmd → Cmd) : (setCmd d n f).pwr = d.pwr := rfl
@[simp] theorem setCmd_clk (d : Dev) (n : Nat) (f : Cmd → Cmd) : (setCmd d n f).clk = d.clk := rfl
@[simp] theorem setCmd_boot (d : Dev) (n : Nat) (f : Cmd → Cmd) : (setCmd d n f).boot = d.boot := rfl
@[simp] theorem setCmd_me (d : Dev) (n : Nat) (f : Cmd → Cmd) : (setCmd d n f).me = d.me := rfl
@[simp] theorem setCmd_seq (d : Dev) (n : Nat) (f : Cmd → Cmd) : (setCmd d n f).seq = d.seq := rfl
@[simp] theorem setCmd_cores (d : Dev) (n : Nat) (f : Cmd → Cmd) : (setCmd d n f).cores = d.cores := rfl
@[simp] theorem setCmd_disp (d : Dev) (n : Nat) (f : Cmd → Cmd) : (setCmd d n f).disp = d.disp := rfl
@[simp] theorem setCmd_til (d : Dev) (n : Nat) (f : Cmd → Cmd) : (setCmd d n f).til = d.til := rfl
@[simp] theorem setCmd_pack (d : Dev) (n : Nat) (f : Cmd → Cmd) : (setCmd d n f).pack = d.pack := rfl
@[simp] theorem setCmd_cvu (d : Dev) (n : Nat) (f : Cmd → Cmd) : (setCmd d n f).cvu = d.cvu := rfl
@[simp] theorem setCmd_comp (d : Dev) (n : Nat) (f : Cmd → Cmd) : (setCmd d n f).comp = d.comp := rfl
@[simp] theorem setCmd_upd (d : Dev) (n : Nat) (f : Cmd → Cmd) : (setCmd d n f).upd = d.upd := rfl
@[simp] theorem setCmd_notes (d : Dev) (n : Nat) (f : Cmd → Cmd) : (setCmd d n f).notes = d.notes := rfl
@[simp] theorem setCmd_freeCount (d : Dev) (n : Nat) (f : Cmd → Cmd) : (setCmd d n f).freeCount = d.freeCount := rfl

/-! ### `setInst` changes `sched` only -/

@[simp] theorem setInst_icu (d : Dev) (k : Nat) (f : Inst → Inst) : (setInst d k f).icu = d.icu := rfl
@[simp] theorem setInst_err (d : Dev) (k : Nat) (f : Inst → Inst) : (setInst d k f).err = d.err := rfl
@[simp] theorem setInst_store (d : Dev) (k : Nat) (f : Inst → Inst) : (setInst d k f).store = d.store := rfl
@[simp] theorem setInst_mmu (d : Dev) (k : Nat) (f : Inst → Inst) : (setInst d k f).mmu = d.mmu := rfl
@[simp] theorem setInst_host (d : Dev) (k : Nat) (f : Inst → Inst) : (setInst d k f).host = d.host := rfl
@[simp] theorem setInst_fe (d : Dev) (k : Nat) (f : Inst → Inst) : (setInst d k f).fe = d.fe := rfl
@[simp] theorem setInst_phe (d : Dev) (k : Nat) (f : Inst → Inst) : (setInst d k f).phe = d.phe := rfl
@[simp] theorem setInst_dlm (d : Dev) (k : Nat) (f : Inst → Inst) : (setInst d k f).dlm = d.dlm := rfl
@[simp] theorem setInst_obs (d : Dev) (k : Nat) (f : Inst → Inst) : (setInst d k f).obs = d.obs := rfl
@[simp] theorem setInst_pwr (d : Dev) (k : Nat) (f : Inst → Inst) : (setInst d k f).pwr = d.pwr := rfl
@[simp] theorem setInst_clk (d : Dev) (k : Nat) (f : Inst → Inst) : (setInst d k f).clk = d.clk := rfl
@[simp] theorem setInst_boot (d : Dev) (k : Nat) (f : Inst → Inst) : (setInst d k f).boot = d.boot := rfl
@[simp] theorem setInst_me (d : Dev) (k : Nat) (f : Inst → Inst) : (setInst d k f).me = d.me := rfl
@[simp] theorem setInst_seq (d : Dev) (k : Nat) (f : Inst → Inst) : (setInst d k f).seq = d.seq := rfl
@[simp] theorem setInst_cores (d : Dev) (k : Nat) (f : Inst → Inst) : (setInst d k f).cores = d.cores := rfl
@[simp] theorem setInst_disp (d : Dev) (k : Nat) (f : Inst → Inst) : (setInst d k f).disp = d.disp := rfl
@[simp] theorem setInst_til (d : Dev) (k : Nat) (f : Inst → Inst) : (setInst d k f).til = d.til := rfl
@[simp] theorem setInst_pack (d : Dev) (k : Nat) (f : Inst → Inst) : (setInst d k f).pack = d.pack := rfl
@[simp] theorem setInst_cvu (d : Dev) (k : Nat) (f : Inst → Inst) : (setInst d k f).cvu = d.cvu := rfl
@[simp] theorem setInst_comp (d : Dev) (k : Nat) (f : Inst → Inst) : (setInst d k f).comp = d.comp := rfl
@[simp] theorem setInst_upd (d : Dev) (k : Nat) (f : Inst → Inst) : (setInst d k f).upd = d.upd := rfl
@[simp] theorem setInst_notes (d : Dev) (k : Nat) (f : Inst → Inst) : (setInst d k f).notes = d.notes := rfl
@[simp] theorem setInst_freeCount (d : Dev) (k : Nat) (f : Inst → Inst) : (setInst d k f).freeCount = d.freeCount := rfl

/-! ### `setDlm` changes `dlm` only -/

@[simp] theorem setDlm_icu (d : Dev) (k : Nat) (f : DlmSt → DlmSt) : (setDlm d k f).icu = d.icu := rfl
@[simp] theorem setDlm_err (d : Dev) (k : Nat) (f : DlmSt → DlmSt) : (setDlm d k f).err = d.err := rfl
@[simp] theorem setDlm_store (d : Dev) (k : Nat) (f : DlmSt → DlmSt) : (setDlm d k f).store = d.store := rfl
@[simp] theorem setDlm_mmu (d : Dev) (k : Nat) (f : DlmSt → DlmSt) : (setDlm d k f).mmu = d.mmu := rfl
@[simp] theorem setDlm_host (d : Dev) (k : Nat) (f : DlmSt → DlmSt) : (setDlm d k f).host = d.host := rfl
@[simp] theorem setDlm_fe (d : Dev) (k : Nat) (f : DlmSt → DlmSt) : (setDlm d k f).fe = d.fe := rfl
@[simp] theorem setDlm_sched (d : Dev) (k : Nat) (f : DlmSt → DlmSt) : (setDlm d k f).sched = d.sched := rfl
@[simp] theorem setDlm_phe (d : Dev) (k : Nat) (f : DlmSt → DlmSt) : (setDlm d k f).phe = d.phe := rfl
@[simp] theorem setDlm_obs (d : Dev) (k : Nat) (f : DlmSt → DlmSt) : (setDlm d k f).obs = d.obs := rfl
@[simp] theorem setDlm_pwr (d : Dev) (k : Nat) (f : DlmSt → DlmSt) : (setDlm d k f).pwr = d.pwr := rfl
@[simp] theorem setDlm_clk (d : Dev) (k : Nat) (f : DlmSt → DlmSt) : (setDlm d k f).clk = d.clk := rfl
@[simp] theorem setDlm_boot (d : Dev) (k : Nat) (f : DlmSt → DlmSt) : (setDlm d k f).boot = d.boot := rfl
@[simp] theorem setDlm_me (d : Dev) (k : Nat) (f : DlmSt → DlmSt) : (setDlm d k f).me = d.me := rfl
@[simp] theorem setDlm_seq (d : Dev) (k : Nat) (f : DlmSt → DlmSt) : (setDlm d k f).seq = d.seq := rfl
@[simp] theorem setDlm_cores (d : Dev) (k : Nat) (f : DlmSt → DlmSt) : (setDlm d k f).cores = d.cores := rfl
@[simp] theorem setDlm_disp (d : Dev) (k : Nat) (f : DlmSt → DlmSt) : (setDlm d k f).disp = d.disp := rfl
@[simp] theorem setDlm_til (d : Dev) (k : Nat) (f : DlmSt → DlmSt) : (setDlm d k f).til = d.til := rfl
@[simp] theorem setDlm_pack (d : Dev) (k : Nat) (f : DlmSt → DlmSt) : (setDlm d k f).pack = d.pack := rfl
@[simp] theorem setDlm_cvu (d : Dev) (k : Nat) (f : DlmSt → DlmSt) : (setDlm d k f).cvu = d.cvu := rfl
@[simp] theorem setDlm_comp (d : Dev) (k : Nat) (f : DlmSt → DlmSt) : (setDlm d k f).comp = d.comp := rfl
@[simp] theorem setDlm_upd (d : Dev) (k : Nat) (f : DlmSt → DlmSt) : (setDlm d k f).upd = d.upd := rfl
@[simp] theorem setDlm_notes (d : Dev) (k : Nat) (f : DlmSt → DlmSt) : (setDlm d k f).notes = d.notes := rfl
@[simp] theorem setDlm_freeCount (d : Dev) (k : Nat) (f : DlmSt → DlmSt) : (setDlm d k f).freeCount = d.freeCount := rfl

/-! ### `setUpd` changes `upd` only -/

@[simp] theorem setUpd_icu (f : UpdSt → UpdSt) (d : Dev) : (setUpd f d).icu = d.icu := rfl
@[simp] theorem setUpd_err (f : UpdSt → UpdSt) (d : Dev) : (setUpd f d).err = d.err := rfl
@[simp] theorem setUpd_store (f : UpdSt → UpdSt) (d : Dev) : (setUpd f d).store = d.store := rfl
@[simp] theorem setUpd_mmu (f : UpdSt → UpdSt) (d : Dev) : (setUpd f d).mmu = d.mmu := rfl
@[simp] theorem setUpd_host (f : UpdSt → UpdSt) (d : Dev) : (setUpd f d).host = d.host := rfl
@[simp] theorem setUpd_fe (f : UpdSt → UpdSt) (d : Dev) : (setUpd f d).fe = d.fe := rfl
@[simp] theorem setUpd_sched (f : UpdSt → UpdSt) (d : Dev) : (setUpd f d).sched = d.sched := rfl
@[simp] theorem setUpd_phe (f : UpdSt → UpdSt) (d : Dev) : (setUpd f d).phe = d.phe := rfl
@[simp] theorem setUpd_dlm (f : UpdSt → UpdSt) (d : Dev) : (setUpd f d).dlm = d.dlm := rfl
@[simp] theorem setUpd_obs (f : UpdSt → UpdSt) (d : Dev) : (setUpd f d).obs = d.obs := rfl
@[simp] theorem setUpd_pwr (f : UpdSt → UpdSt) (d : Dev) : (setUpd f d).pwr = d.pwr := rfl
@[simp] theorem setUpd_clk (f : UpdSt → UpdSt) (d : Dev) : (setUpd f d).clk = d.clk := rfl
@[simp] theorem setUpd_boot (f : UpdSt → UpdSt) (d : Dev) : (setUpd f d).boot = d.boot := rfl
@[simp] theorem setUpd_me (f : UpdSt → UpdSt) (d : Dev) : (setUpd f d).me = d.me := rfl
@[simp] theorem setUpd_seq (f : UpdSt → UpdSt) (d : Dev) : (setUpd f d).seq = d.seq := rfl
@[simp] theorem setUpd_cores (f : UpdSt → UpdSt) (d : Dev) : (setUpd f d).cores = d.cores := rfl
@[simp] theorem setUpd_disp (f : UpdSt → UpdSt) (d : Dev) : (setUpd f d).disp = d.disp := rfl
@[simp] theorem setUpd_til (f : UpdSt → UpdSt) (d : Dev) : (setUpd f d).til = d.til := rfl
@[simp] theorem setUpd_pack (f : UpdSt → UpdSt) (d : Dev) : (setUpd f d).pack = d.pack := rfl
@[simp] theorem setUpd_cvu (f : UpdSt → UpdSt) (d : Dev) : (setUpd f d).cvu = d.cvu := rfl
@[simp] theorem setUpd_comp (f : UpdSt → UpdSt) (d : Dev) : (setUpd f d).comp = d.comp := rfl
@[simp] theorem setUpd_notes (f : UpdSt → UpdSt) (d : Dev) : (setUpd f d).notes = d.notes := rfl
@[simp] theorem setUpd_freeCount (f : UpdSt → UpdSt) (d : Dev) : (setUpd f d).freeCount = d.freeCount := rfl

/-! ### `busWrite` changes `host` only -/

@[simp] theorem busWrite_icu (d : Dev) (a : Nat) (l : List PByte) : (busWrite d a l).icu = d.icu := rfl
@[simp] theorem busWrite_err (d : Dev) (a : Nat) (l : List PByte) : (busWrite d a l).err = d.err := rfl
@[simp] theorem busWrite_store (d : Dev) (a : Nat) (l : List PByte) : (busWrite d a l).store = d.store := rfl
@[simp] theorem busWrite_mmu (d : Dev) (a : Nat) (l : List PByte) : (busWrite d a l).mmu = d.mmu := rfl
@[simp] theorem busWrite_fe (d : Dev) (a : Nat) (l : List PByte) : (busWrite d a l).fe = d.fe := rfl
@[simp] theorem busWrite_sched (d : Dev) (a : Nat) (l : List PByte) : (busWrite d a l).sched = d.sched := rfl
@[simp] theorem busWrite_phe (d : Dev) (a : Nat) (l : List PByte) : (busWrite d a l).phe = d.phe := rfl
@[simp] theorem busWrite_dlm (d : Dev) (a : Nat) (l : List PByte) : (busWrite d a l).dlm = d.dlm := rfl
@[simp] theorem busWrite_obs (d : Dev) (a : Nat) (l : List PByte) : (busWrite d a l).obs = d.obs := rfl
@[simp] theorem busWrite_pwr (d : Dev) (a : Nat) (l : List PByte) : (busWrite d a l).pwr = d.pwr := rfl
@[simp] theorem busWrite_clk (d : Dev) (a : Nat) (l : List PByte) : (busWrite d a l).clk = d.clk := rfl
@[simp] theorem busWrite_boot (d : Dev) (a : Nat) (l : List PByte) : (busWrite d a l).boot = d.boot := rfl
@[simp] theorem busWrite_me (d : Dev) (a : Nat) (l : List PByte) : (busWrite d a l).me = d.me := rfl
@[simp] theorem busWrite_seq (d : Dev) (a : Nat) (l : List PByte) : (busWrite d a l).seq = d.seq := rfl
@[simp] theorem busWrite_cores (d : Dev) (a : Nat) (l : List PByte) : (busWrite d a l).cores = d.cores := rfl
@[simp] theorem busWrite_disp (d : Dev) (a : Nat) (l : List PByte) : (busWrite d a l).disp = d.disp := rfl
@[simp] theorem busWrite_til (d : Dev) (a : Nat) (l : List PByte) : (busWrite d a l).til = d.til := rfl
@[simp] theorem busWrite_pack (d : Dev) (a : Nat) (l : List PByte) : (busWrite d a l).pack = d.pack := rfl
@[simp] theorem busWrite_cvu (d : Dev) (a : Nat) (l : List PByte) : (busWrite d a l).cvu = d.cvu := rfl
@[simp] theorem busWrite_comp (d : Dev) (a : Nat) (l : List PByte) : (busWrite d a l).comp = d.comp := rfl
@[simp] theorem busWrite_upd (d : Dev) (a : Nat) (l : List PByte) : (busWrite d a l).upd = d.upd := rfl
@[simp] theorem busWrite_notes (d : Dev) (a : Nat) (l : List PByte) : (busWrite d a l).notes = d.notes := rfl
@[simp] theorem busWrite_freeCount (d : Dev) (a : Nat) (l : List PByte) : (busWrite d a l).freeCount = d.freeCount := rfl

/-! ### `refAdd` changes `fe` only -/

@[simp] theorem refAdd_icu (o n : Nat) (t : Bool) (d : Dev) : (refAdd o n t d).icu = d.icu := rfl
@[simp] theorem refAdd_err (o n : Nat) (t : Bool) (d : Dev) : (refAdd o n t d).err = d.err := rfl
@[simp] theorem refAdd_store (o n : Nat) (t : Bool) (d : Dev) : (refAdd o n t d).store = d.store := rfl
@[simp] theorem refAdd_mmu (o n : Nat) (t : Bool) (d : Dev) : (refAdd o n t d).mmu = d.mmu := rfl
@[simp] theorem refAdd_host (o n : Nat) (t : Bool) (d : Dev) : (refAdd o n t d).host = d.host := rfl
@[simp] theorem refAdd_sched (o n : Nat) (t : Bool) (d : Dev) : (refAdd o n t d).sched = d.sched := rfl
@[simp] theorem refAdd_phe (o n : Nat) (t : Bool) (d : Dev) : (refAdd o n t d).phe = d.phe := rfl
@[simp] theorem refAdd_dlm (o n : Nat) (t : Bool) (d : Dev) : (refAdd o n t d).dlm = d.dlm := rfl
@[simp] theorem refAdd_obs (o n : Nat) (t : Bool) (d : Dev) : (refAdd o n t d).obs = d.obs := rfl
@[simp] theorem refAdd_pwr (o n : Nat) (t : Bool) (d : Dev) : (refAdd o n t d).pwr = d.pwr := rfl
@[simp] theorem refAdd_clk (o n : Nat) (t : Bool) (d : Dev) : (refAdd o n t d).clk = d.clk := rfl
@[simp] theorem refAdd_boot (o n : Nat) (t : Bool) (d : Dev) : (refAdd o n t d).boot = d.boot := rfl
@[simp] theorem refAdd_me (o n : Nat) (t : Bool) (d : Dev) : (refAdd o n t d).me = d.me := rfl
@[simp] theorem refAdd_seq (o n : Nat) (t : Bool) (d : Dev) : (refAdd o n t d).seq = d.seq := rfl
@[simp] theorem refAdd_cores (o n : Nat) (t : Bool) (d : Dev) : (refAdd o n t d).cores = d.cores := rfl
@[simp] theorem refAdd_disp (o n : Nat) (t : Bool) (d : Dev) : (refAdd o n t d).disp = d.disp := rfl
@[simp] theorem refAdd_til (o n : Nat) (t : Bool) (d : Dev) : (refAdd o n t d).til = d.til := rfl
@[simp] theorem refAdd_pack (o n : Nat) (t : Bool) (d : Dev) : (refAdd o n t d).pack = d.pack := rfl
@[simp] theorem refAdd_cvu (o n : Nat) (t : Bool) (d : Dev) : (refAdd o n t d).cvu = d.cvu := rfl
@[simp] theorem refAdd_comp (o n : Nat) (t : Bool) (d : Dev) : (refAdd o n t d).comp = d.comp := rfl
@[simp] theorem refAdd_upd (o n : Nat) (t : Bool) (d : Dev) : (refAdd o n t d).upd = d.upd := rfl
@[simp] theorem refAdd_notes (o n : Nat) (t : Bool) (d : Dev) : (refAdd o n t d).notes = d.notes := rfl
@[simp] theorem refAdd_freeCount (o n : Nat) (t : Bool) (d : Dev) : (refAdd o n t d).freeCount = d.freeCount := rfl

/-! ### `reevaluate` changes `fe` only -/

@[simp] theorem reevaluate_icu (n : Nat) (d : Dev) : (reevaluate n d).icu = d.icu := rfl
@[simp] theorem reevaluate_err (n : Nat) (d : Dev) : (reevaluate n d).err = d.err := rfl
@[simp] theorem reevaluate_store (n : Nat) (d : Dev) : (reevaluate n d).store = d.store := rfl
@[simp] theorem reevaluate_mmu (n : Nat) (d : Dev) : (reevaluate n d).mmu = d.mmu := rfl
@[simp] theorem reevaluate_host (n : Nat) (d : Dev) : (reevaluate n d).host = d.host := rfl
@[simp] theorem reevaluate_sched (n : Nat) (d : Dev) : (reevaluate n d).sched = d.sched := rfl
@[simp] theorem reevaluate_phe (n : Nat) (d : Dev) : (reevaluate n d).phe = d.phe := rfl
@[simp] theorem reevaluate_dlm (n : Nat) (d : Dev) : (reevaluate n d).dlm = d.dlm := rfl
@[simp] theorem reevaluate_obs (n : Nat) (d : Dev) : (reevaluate n d).obs = d.obs := rfl
@[simp] theorem reevaluate_pwr (n : Nat) (d : Dev) : (reevaluate n d).pwr = d.pwr := rfl
@[simp] theorem reevaluate_clk (n : Nat) (d : Dev) : (reevaluate n d).clk = d.clk := rfl
@[simp] theorem reevaluate_boot (n : Nat) (d : Dev) : (reevaluate n d).boot = d.boot := rfl
@[simp] theorem reevaluate_me (n : Nat) (d : Dev) : (reevaluate n d).me = d.me := rfl
@[simp] theorem reevaluate_seq (n : Nat) (d : Dev) : (reevaluate n d).seq = d.seq := rfl
@[simp] theorem reevaluate_cores (n : Nat) (d : Dev) : (reevaluate n d).cores = d.cores := rfl
@[simp] theorem reevaluate_disp (n : Nat) (d : Dev) : (reevaluate n d).disp = d.disp := rfl
@[simp] theorem reevaluate_til (n : Nat) (d : Dev) : (reevaluate n d).til = d.til := rfl
@[simp] theorem reevaluate_pack (n : Nat) (d : Dev) : (reevaluate n d).pack = d.pack := rfl
@[simp] theorem reevaluate_cvu (n : Nat) (d : Dev) : (reevaluate n d).cvu = d.cvu := rfl
@[simp] theorem reevaluate_comp (n : Nat) (d : Dev) : (reevaluate n d).comp = d.comp := rfl
@[simp] theorem reevaluate_upd (n : Nat) (d : Dev) : (reevaluate n d).upd = d.upd := rfl
@[simp] theorem reevaluate_notes (n : Nat) (d : Dev) : (reevaluate n d).notes = d.notes := rfl
@[simp] theorem reevaluate_freeCount (n : Nat) (d : Dev) : (reevaluate n d).freeCount = d.freeCount := rfl

/-! ### `drawFree` changes `freeCount` only -/

@[simp] theorem drawFree_icu (d : Dev) : ((drawFree d).2).icu = d.icu := rfl
@[simp] theorem drawFree_err (d : Dev) : ((drawFree d).2).err = d.err := rfl
@[simp] theorem drawFree_store (d : Dev) : ((drawFree d).2).store = d.store := rfl
@[simp] theorem drawFree_mmu (d : Dev) : ((drawFree d).2).mmu = d.mmu := rfl
@[simp] theorem drawFree_host (d : Dev) : ((drawFree d).2).host = d.host := rfl
@[simp] theorem drawFree_fe (d : Dev) : ((drawFree d).2).fe = d.fe := rfl
@[simp] theorem drawFree_sched (d : Dev) : ((drawFree d).2).sched = d.sched := rfl
@[simp] theorem drawFree_phe (d : Dev) : ((drawFree d).2).phe = d.phe := rfl
@[simp] theorem drawFree_dlm (d : Dev) : ((drawFree d).2).dlm = d.dlm := rfl
@[simp] theorem drawFree_obs (d : Dev) : ((drawFree d).2).obs = d.obs := rfl
@[simp] theorem drawFree_pwr (d : Dev) : ((drawFree d).2).pwr = d.pwr := rfl
@[simp] theorem drawFree_clk (d : Dev) : ((drawFree d).2).clk = d.clk := rfl
@[simp] theorem drawFree_boot (d : Dev) : ((drawFree d).2).boot = d.boot := rfl
@[simp] theorem drawFree_me (d : Dev) : ((drawFree d).2).me = d.me := rfl
@[simp] theorem drawFree_seq (d : Dev) : ((drawFree d).2).seq = d.seq := rfl
@[simp] theorem drawFree_cores (d : Dev) : ((drawFree d).2).cores = d.cores := rfl
@[simp] theorem drawFree_disp (d : Dev) : ((drawFree d).2).disp = d.disp := rfl
@[simp] theorem drawFree_til (d : Dev) : ((drawFree d).2).til = d.til := rfl
@[simp] theorem drawFree_pack (d : Dev) : ((drawFree d).2).pack = d.pack := rfl
@[simp] theorem drawFree_cvu (d : Dev) : ((drawFree d).2).cvu = d.cvu := rfl
@[simp] theorem drawFree_comp (d : Dev) : ((drawFree d).2).comp = d.comp := rfl
@[simp] theorem drawFree_upd (d : Dev) : ((drawFree d).2).upd = d.upd := rfl
@[simp] theorem drawFree_notes (d : Dev) : ((drawFree d).2).notes = d.notes := rfl

/-! ### The end of a command -/

@[simp] theorem State.ended_cfg (s : State) (d : Dev) : (s.ended d).cfg = s.cfg := rfl
@[simp] theorem State.ended_pending (s : State) (d : Dev) : (s.ended d).pending = s.pending := rfl
@[simp] theorem State.ended_dev (s : State) (d : Dev) : (s.ended d).dev = settle s.cfg d := rfl

/-! ### After reset -/

@[simp] theorem State.reset_pending : State.reset.pending = [] := rfl
@[simp] theorem State.reset_cfg : State.reset.cfg = Cfg.absent := rfl
@[simp] theorem State.reset_dev : State.reset.dev = Dev.init [] 0 := rfl

end Sys2Proof.Machine
end

