-- ==== Sys2Proof/Laws/Ops.lean ====
section
/-! SUPPORT. One lemma per shared operation: what it can do, for proofs to cite in place of its definition. -/

namespace Sys2Proof.Machine

/-! ### How a command runs -/

/-- A well-formed command on the device answers the next state. -/
theorem onDev_next (f : Cfg → Dev → Dev) (s : State) : onDev true f s = .next (s.ended (f s.cfg s.dev)) := rfl

/-- A command whose operands name nothing of the device is ignored. -/
theorem onDev_nothing (f : Cfg → Dev → Dev) (s : State) : onDev false f s = .next s := rfl

/-- A well-formed command on records and device answers the next state. -/
theorem onBoth_next (f : Cfg → Dev → Cfg × Dev) (s : State) :
    onBoth true f s = .next (State.ended { s with cfg := (f s.cfg s.dev).1 } (f s.cfg s.dev).2) := rfl

/-- A start or reset whose operands fit no field of the device is ignored. -/
theorem onBoth_nothing (f : Cfg → Dev → Cfg × Dev) (s : State) : onBoth false f s = .next s := rfl

/-- What a command on the device can answer. -/
theorem onDev_cases (b : Bool) (f : Cfg → Dev → Dev) (s : State) :
    (b = true ∧ onDev b f s = .next (s.ended (f s.cfg s.dev))) ∨ (b = false ∧ onDev b f s = .next s) := by
  cases b
  · exact .inr ⟨rfl, rfl⟩
  · exact .inl ⟨rfl, rfl⟩

/-- What a start or reset can answer. -/
theorem onBoth_cases (b : Bool) (f : Cfg → Dev → Cfg × Dev) (s : State) :
    (b = true ∧ onBoth b f s = .next (State.ended { s with cfg := (f s.cfg s.dev).1 } (f s.cfg s.dev).2)) ∨
      (b = false ∧ onBoth b f s = .next s) := by
  cases b
  · exact .inr ⟨rfl, rfl⟩
  · exact .inl ⟨rfl, rfl⟩

/-! ### The states in which commands act -/

theorem inRun_of {s : State} (h : Running s) (f : Dev → Dev) : inRun f s.dev = f s.dev := if_pos h

theorem live_of {s : State} (h : Live s) (f : Dev → Dev) : live f s.dev = f s.dev := if_pos h

theorem started_of {d : Dev} (h : d.boot.phase = 2) (f : Dev → Dev) : started f d = f d := if_pos h

theorem Running.live {s : State} (h : Running s) : Live s := ⟨h.1, h.2.1⟩

/-- Out of HOLD a host access wakes nothing by itself. -/
theorem hostTouch_of {d : Dev} (h : d.pwr.state ≠ 2) : hostTouch d = d := if_neg (fun e => h e.2.1)

/-- A host write acts where the register's block answers. -/
theorem hostReg_of {s : State} {off : Nat} (h : HostReaches s off) (f : Dev → Dev) : hostReg off f s.dev = f s.dev := by
  simp only [hostReg, hostTouch_of h.1]
  exact if_pos h.2

/-- A register write that is well formed and reaches its block completes with its effect. -/
theorem exec_hostReg {b : Bool} {off : Nat} {f : Cfg → Dev → Dev} {s : State} (hb : b = true) (h : HostReaches s off) :
    onDev b (fun c => hostReg off (f c)) s = .next (s.ended (f s.cfg s.dev)) := by
  rw [hb, onDev_next, hostReg_of h]

/-- A command of an engine that is well formed completes with its effect in RUN. -/
theorem exec_inRun {b : Bool} {f : Cfg → Dev → Dev} {s : State} (hb : b = true) (h : Running s) :
    onDev b (fun c => inRun (f c)) s = .next (s.ended (f s.cfg s.dev)) := by
  rw [hb, onDev_next, inRun_of h]

/-- A command that is well formed completes with its effect while the spine's domain is on. -/
theorem exec_live {b : Bool} {f : Cfg → Dev → Dev} {s : State} (hb : b = true) (h : Live s) :
    onDev b (fun c => live (f c)) s = .next (s.ended (f s.cfg s.dev)) := by
  rw [hb, onDev_next, live_of h]

/-! ### The end of a step -/

/-- A device at rest ends its step with the wake levels alone brought up to date. -/
theorem settle_of_atRest {c : Cfg} {d : Dev} (h : AtRest c d) :
    settle c d = { d with pwr := { d.pwr with wakeLevels := d.pwr.wakeLevels &&& levelMask d } } := by
  have hl : ∀ n, settleLoop c n d = d := by
    intro n
    cases n with
    | zero => rfl
    | succ n => simp [settleLoop, h.1, h.2.1, h.2.2.1]
  simp only [settle, hl, h.2.2.2]

/-! ### Interrupt counts, fences, references -/

/-- An interrupt source counts one event more, to 255 (R445). -/
theorem raise_count (n m : Nat) (d : Dev) : aget (raise n d).icu.count m = if n = m then satInc 255 (aget d.icu.count n) else aget d.icu.count m := by
  simp [raise, amod, aget_aset]

/-- A satisfied comparison of a signal: what each case does (R350). -/
theorem signal_cases (f v : Nat) (e : Bool) (d : Dev) (h : faulted d = false) :
    (v < (aget d.fe.fences f).v → signal f v e d = raise 7 { d with fe := { d.fe with fenceRegress := satInc 255 d.fe.fenceRegress } }) ∧
    (v = (aget d.fe.fences f).v → signal f v e d = d) ∧
    ((aget d.fe.fences f).v < v →
      signal f v e d = reevaluate f { d with fe := { d.fe with fences := aset d.fe.fences f ⟨v, e⟩ } }) := by
  refine ⟨fun h1 => ?_, fun h1 => ?_, fun h1 => ?_⟩
  · simp [signal, h, h1]
  · subst h1; simp [signal, h]
  · have h2 : ¬ v < (aget d.fe.fences f).v := by omega
    have h3 : ¬ v = (aget d.fe.fences f).v := by omega
    simp [signal, h, h2, h3]

/-- A ring after a change of one ring. -/
theorem ringOf_setRing (d : Dev) (r q : Nat) (f : Ring → Ring) : ringOf (setRing d r f) q = if r = q then f (ringOf d r) else ringOf d q := by
  simp [ringOf, setRing, amod, aget_aset]

/-- A context's word after the loss of another is as before. -/
theorem ctxOf_setRing (d : Dev) (r x : Nat) (f : Ring → Ring) : ctxOf (setRing d r f) x = ctxOf d x := rfl

/-! ### The trace -/

/-- Writing trace bytes to memory changes the host's side alone. -/
theorem drainWrite_keeps (base size : Nat) (l : List Byte) (w : Nat) (d : Dev) :
    ∃ h, drainWrite base size w l d = { d with host := h } := by
  induction l generalizing w d with
  | nil => exact ⟨d.host, rfl⟩
  | cons b bs ih =>
    obtain ⟨h, e⟩ := ih (w + 1) (busWrite d (base + w % size) [(b, false)])
    exact ⟨h, by rw [drainWrite, e]; rfl⟩

/-- Draining the store buffer changes the trace and the host's side alone. -/
theorem obsDrain_keeps (d : Dev) : ∃ o h, obsDrain d = { d with obs := o, host := h } := by
  unfold obsDrain
  dsimp only
  split
  · exact ⟨d.obs, d.host, rfl⟩
  · obtain ⟨h, e⟩ := drainWrite_keeps d.obs.drainBase (obsDrainSize d.obs) (d.obs.buf.take
      (Nat.min d.obs.buf.length (obsDrainSize d.obs - (d.obs.drainW + 2 ^ 32 - d.obs.drainR) % 2 ^ 32))) d.obs.drainW d
    rw [e]
    exact ⟨_, _, rfl⟩

/-- A trace packet changes the trace, the host's side and the interrupt counts alone. -/
theorem obsPush_keeps (c : Cfg) (p : List Byte) (d : Dev) : ∃ o h i, obsPush c p d = { d with obs := o, host := h, icu := i } := by
  have key : ∀ (o : ObsSt) (b : Dev → Bool), ∃ o2 h i, (if b (obsDrain { d with obs := o }) then raise 13 (obsDrain { d with obs := o })
      else obsDrain { d with obs := o }) = { d with obs := o2, host := h, icu := i } := by
    intro o b
    obtain ⟨o2, h, e⟩ := obsDrain_keeps { d with obs := o }
    rw [e]
    split
    · exact ⟨o2, h, _, rfl⟩
    · exact ⟨o2, h, d.icu, rfl⟩
  obtain ⟨o2, h, i, e⟩ := key _ (fun e => decide (d.obs.buf.length < e.obs.threshold * 1024 ∧ e.obs.threshold * 1024 ≤ e.obs.buf.length))
  refine ⟨o2, h, i, ?_⟩
  rw [← e]
  unfold obsPush
  simp only [decide_eq_true_eq]
  rfl

/-- A SYNC packet changes the trace, the host's side and the interrupt counts alone. -/
theorem obsSync_keeps (c : Cfg) (d : Dev) : ∃ o h i, obsSync c d = { d with obs := o, host := h, icu := i } := by
  unfold obsSync
  split
  · exact ⟨d.obs, d.host, d.icu, rfl⟩
  · obtain ⟨o, h, i, e⟩ := obsPush_keeps c (obsPacket 0x70 (obsStamp d).2 0xF0 (d.phe.tb % 2 ^ 32) (obsStamp d).1 [])
      { d with obs := { d.obs with sinceSync := 0 } }
    exact ⟨o, h, i, e⟩

/-- An event packet changes the trace, the host's side and the interrupt counts alone. -/
theorem obsEmit_keeps (c : Cfg) (cls ty flags source arg : Nat) (data : List Byte) (d : Dev) :
    ∃ o h i, obsEmit c cls ty flags source arg data d = { d with obs := o, host := h, icu := i } := by
  unfold obsEmit
  split
  · exact ⟨d.obs, d.host, d.icu, rfl⟩
  · obtain ⟨o, h, i, e⟩ := obsPush_keeps c (obsPacket ty (flags + (obsStamp d).2) source (arg % 2 ^ 32) (obsStamp d).1 data) d
    dsimp only
    generalize obsPush c (obsPacket ty (flags + (obsStamp d).2) source (arg % 2 ^ 32) (obsStamp d).1 data) d = x at e ⊢
    subst e
    split
    · obtain ⟨o2, h2, i2, e2⟩ := obsSync_keeps c { d with obs := { o with sinceSync := o.sinceSync + 1 }, host := h, icu := i }
      exact ⟨o2, h2, i2, e2⟩
    · exact ⟨_, h, i, rfl⟩

/-! ### Numbers as bytes -/

/-- A number is written in as many bytes as are asked for. -/
@[simp] theorem leBytes_length (n x : Nat) : (leBytes n x).length = n := by
  induction n generalizing x with
  | zero => rfl
  | succ n ih => simp [leBytes, ih]

/-- Reading back a number that was written in n bytes. -/
theorem leNat_leBytes (n x : Nat) : leNat (leBytes n x) = x % 256 ^ n := by
  induction n generalizing x with
  | zero => simp [leBytes, leNat, Nat.mod_one]
  | succ n ih =>
    simp only [leBytes, leNat, ih, BitVec.toNat_ofNat]
    have h : x % 256 ^ (n + 1) = x % 256 + 256 * (x / 256 % 256 ^ n) := by rw [Nat.pow_succ, Nat.mul_comm, Nat.mod_mul]
    rw [h]

/-- Bytes are those of the number that they spell. -/
theorem leBytes_leNat (l : List Byte) : leBytes l.length (leNat l) = l := by
  induction l with
  | nil => rfl
  | cons b bs ih =>
    have h : b.toNat < 256 := b.isLt
    simp only [List.length_cons, leNat, leBytes]
    rw [show (b.toNat + 256 * leNat bs) / 256 = leNat bs by omega, ih]
    congr 1
    apply BitVec.eq_of_toNat_eq
    simp only [BitVec.toNat_ofNat]
    omega

/-- The number that bytes spell fits their width. -/
theorem leNat_lt (l : List Byte) : leNat l < 256 ^ l.length := by
  induction l with
  | nil => simp [leNat]
  | cons b bs ih =>
    have h : b.toNat < 256 := b.isLt
    simp only [leNat, List.length_cons, Nat.pow_succ]
    omega

/-! ### The host bus -/

/-- A byte of the bus after a posted write. -/
theorem busWrite_mem (d : Dev) (a : Nat) (l : List PByte) (x : Nat) :
    aget (busWrite d a l).host.busMem x = if a ≤ x ∧ x < a + l.length then (pdata l).getD (x - a) 0 else aget d.host.busMem x := by
  simp [busWrite, aget_memWrite, pdata]

end Sys2Proof.Machine
end

