-- ==== Sys2Proof/Laws/Crypto.lean ====
section
/-! SUPPORT. What the cryptographic functions of image authentication can do: the lengths of their results, what the NVM reads after it is programmed,
and that a signature's parts are what verification looks at. -/

namespace Sys2Proof.Machine

/-! ### Lengths -/

@[simp] theorem slice_length (l : List Byte) (o n : Nat) : (slice l o n).length = n := by
  simp only [slice, List.length_append, List.length_replicate, List.length_take]
  omega

@[simp] theorem beBytes_length (n v : Nat) : (beBytes n v).length = n := by simp [beBytes]

@[simp] theorem pieces_length (size n : Nat) (l : List Byte) : (pieces size n l).length = n := by simp [pieces]

theorem flatMap_beBytes_length (n : Nat) (l : List Nat) : (l.flatMap (beBytes n)).length = n * l.length := by
  induction l with
  | nil => rfl
  | cons a l ih => simp [ih, Nat.mul_add, Nat.add_comm]

theorem shaRound_length (s : List Nat × Nat) (k : Nat) (h : s.1.length = 8) : (shaRound s k).1.length = 8 := by
  unfold shaRound
  split
  · rfl
  · exact h

theorem shaRounds_length (ks : List Nat) (s : List Nat × Nat) (h : s.1.length = 8) : (ks.foldl shaRound s).1.length = 8 := by
  induction ks generalizing s with
  | nil => exact h
  | cons k ks ih => exact ih _ (shaRound_length s k h)

theorem shaBlock_length (h : List Nat) (b : List Byte) (hl : h.length = 8) : (shaBlock h b).length = 8 := by
  simp [shaBlock, hl, shaRounds_length shaKeys (h, _) hl]

theorem shaBlocks_length (bs : List (List Byte)) (h : List Nat) (hl : h.length = 8) : (bs.foldl shaBlock h).length = 8 := by
  induction bs generalizing h with
  | nil => exact hl
  | cons b bs ih => exact ih _ (shaBlock_length h b hl)

/-- A SHA-512 hash value has 64 bytes. -/
@[simp] theorem sha512_length (m : List Byte) : (sha512 m).length = 64 := by
  rw [sha512, shaRun, flatMap_beBytes_length, shaBlocks_length _ _ rfl]

/-- The digest of an image has 48 bytes (R45). -/
@[simp] theorem sha384_length (m : List Byte) : (sha384 m).length = 48 := by
  rw [sha384, List.length_take, shaRun, flatMap_beBytes_length, shaBlocks_length _ _ rfl]
  rfl

theorem keccakSqueeze_length (rate n s : Nat) : (keccakSqueeze rate n s).length = rate * n := by
  induction n generalizing s with
  | zero => rfl
  | succ n ih => simp [keccakSqueeze, ih, Nat.mul_add, Nat.add_comm]

theorem shake_length (rate : Nat) (m : List Byte) (len : Nat) (h : 0 < rate) : (shake rate m len).length = len := by
  rw [shake, List.length_take, keccakSqueeze_length]
  refine Nat.min_eq_left ?_
  have := Nat.div_add_mod (len + rate - 1) rate
  have := Nat.mod_lt (len + rate - 1) h
  omega

@[simp] theorem shake128_length (m : List Byte) (len : Nat) : (shake128 m len).length = len := shake_length 168 m len (by decide)

@[simp] theorem shake256_length (m : List Byte) (len : Nat) : (shake256 m len).length = len := shake_length 136 m len (by decide)

/-! ### Slices -/

theorem slice_left (a b : List Byte) (o n : Nat) (h : o + n ≤ a.length) : slice (a ++ b) o n = slice a o n := by
  simp only [slice]
  rw [List.drop_append_of_le_length (by omega), List.take_append_of_le_length (by simp; omega)]

theorem slice_right (a b : List Byte) (n : Nat) (h : n ≤ b.length) : slice (a ++ b) a.length n = b.take n := by
  simp [slice, h]

/-! ### The NVM -/

@[simp] theorem nvmRead_length (m : Mem) (a n : Nat) : (nvmRead m a n).length = n := by simp [nvmRead]

/-- The NVM reads what it was programmed with. -/
theorem nvmRead_nvmWrite_same (m : Mem) (a : Nat) (l : List Byte) (n : Nat) (h : n = l.length) : nvmRead (nvmWrite m a l) a n = l := by
  subst h
  have := memRead_memWrite_same m a (l.map (fun b => ~~~b))
  rw [List.length_map] at this
  rw [nvmRead, nvmWrite, this, List.map_map]
  exact (List.map_congr_left (fun b _ => by simp)).trans (List.map_id l)

/-- Programming leaves every other place as it was. -/
theorem nvmRead_nvmWrite_other (m : Mem) (a : Nat) (l : List Byte) (b n : Nat) (h : b + n ≤ a ∨ a + l.length ≤ b) :
    nvmRead (nvmWrite m a l) b n = nvmRead m b n := by
  rw [nvmRead, nvmRead, nvmWrite, memRead_memWrite_other _ _ _ _ _ (by simpa using h)]

/-! ### Ed25519 -/

theorem edTimes_none (n : Nat) (p acc : EdPoint) : edTimes n 0 p acc = acc := by
  induction n generalizing p with
  | zero => rfl
  | succ n ih =>
    rw [edTimes, Nat.zero_div, Nat.zero_mod, if_neg (by decide)]
    exact ih _

/-- A point that stands for the neutral one, whatever its scale. -/
def EdPoint.Neutral (p : EdPoint) : Prop := p.x = 0 ∧ p.t = 0 ∧ p.y = p.z

theorem edAdd_neutral (p q : EdPoint) (hp : p.Neutral) (hq : q.Neutral) : (edAdd p q).Neutral := by
  obtain ⟨px, py, pz, pt⟩ := p
  obtain ⟨qx, qy, qz, qt⟩ := q
  obtain ⟨hp1, hp2, hp3⟩ := hp
  obtain ⟨hq1, hq2, hq3⟩ := hq
  simp only at hp1 hp2 hp3 hq1 hq2 hq3
  subst hp1 hp2 hp3 hq1 hq2 hq3
  have hP : 0 < edP := by decide
  have ha : (py + (edP - 0)) * (qy + (edP - 0)) % edP = py * qy % edP := by
    rw [Nat.mul_mod]
    simp [Nat.mul_mod]
  have hb : py * qy % edP < edP := Nat.mod_lt _ hP
  have hd : 2 * py * qy % edP = 2 * (py * qy % edP) % edP := by
    rw [Nat.mul_assoc, Nat.mul_mod 2 (py * qy) edP, Nat.mul_mod 2 (py * qy % edP) edP, Nat.mod_mod]
  refine ⟨?_, ?_, ?_⟩
  · simp only [edAdd, ha, Nat.add_zero]
    rw [show py * qy % edP + (edP - py * qy % edP) = edP by omega]
    simp
  · simp only [edAdd, ha, Nat.add_zero]
    rw [show py * qy % edP + (edP - py * qy % edP) = edP by omega]
    simp
  · simp only [edAdd, ha, Nat.add_zero, Nat.mul_zero, Nat.zero_mul, Nat.zero_mod]
    rw [Nat.sub_zero] at ha
    simp only [Nat.sub_zero]
    generalize py * qy % edP = b at *
    rw [hd]
    have h1 : (2 * b % edP + edP) % edP = 2 * b % edP := by simp
    have h2 : (b + b) % edP = 2 * b % edP := by rw [Nat.two_mul]
    rw [Nat.mul_mod, h2, Nat.mul_mod (2 * b % edP + edP), h1, Nat.mod_mod]

theorem edTimes_neutral (n k : Nat) (p acc : EdPoint) (hp : p.Neutral) (ha : acc.Neutral) : (edTimes n k p acc).Neutral := by
  induction n generalizing k p acc with
  | zero => exact ha
  | succ n ih =>
    rw [edTimes]
    refine ih _ _ _ (edAdd_neutral _ _ hp hp) ?_
    split
    · exact edAdd_neutral _ _ ha hp
    · exact ha

theorem edSame_neutral (p q : EdPoint) (hp : p.Neutral) (hq : q.Neutral) : edSame p q = true := by
  obtain ⟨a1, a2, a3⟩ := hp
  obtain ⟨b1, b2, b3⟩ := hq
  simp [edSame, a1, b1, a3, b3, Nat.mul_comm]

theorem edZero_neutral : edZero.Neutral := ⟨rfl, rfl, rfl⟩

/-! ### ML-DSA-65 -/

theorem mlNttAt_zero (n k : Nat) : mlNttAt n k (List.replicate (2 ^ n) 0) = List.replicate (2 ^ n) 0 := by
  induction n generalizing k with
  | zero => rfl
  | succ n ih =>
    have h : 2 ^ (n + 1) - 2 ^ n = 2 ^ n := by rw [Nat.pow_succ]; omega
    have hm : Nat.min (2 ^ n) (2 ^ (n + 1)) = 2 ^ n := Nat.min_eq_left (by rw [Nat.pow_succ]; omega)
    have hz : (0 + (mlQ - 0)) % mlQ = 0 := by decide
    simp only [mlNttAt, List.take_replicate, List.drop_replicate, h, List.map_replicate, Nat.mul_zero, Nat.zero_mod]
    rw [show min (2 ^ n) (2 ^ (n + 1)) = 2 ^ n from hm]
    simp only [List.zipWith_replicate, Nat.min_self, Nat.add_zero, Nat.zero_mod, hz, ih]
    rw [List.replicate_append_replicate, Nat.pow_succ, Nat.mul_two]

theorem mlInvAt_zero (n k : Nat) : mlInvAt n k (List.replicate (2 ^ n) 0) = List.replicate (2 ^ n) 0 := by
  induction n generalizing k with
  | zero => rfl
  | succ n ih =>
    have h : 2 ^ (n + 1) - 2 ^ n = 2 ^ n := by rw [Nat.pow_succ]; omega
    have hm : min (2 ^ n) (2 ^ (n + 1)) = 2 ^ n := Nat.min_eq_left (by rw [Nat.pow_succ]; omega)
    have hz : (0 + (mlQ - 0)) = mlQ := by decide
    simp only [mlInvAt, List.take_replicate, List.drop_replicate, h, hm, ih, List.zipWith_replicate, Nat.min_self, hz, Nat.mul_mod_left, Nat.add_zero,
      Nat.zero_mod]
    rw [List.replicate_append_replicate, Nat.pow_succ, Nat.mul_two]

@[simp] theorem mlNtt_zero : mlNtt mlZero = mlZero := mlNttAt_zero 8 1

@[simp] theorem mlInv_zero : mlInv mlZero = mlZero := by
  rw [mlInv, show mlInvAt 8 1 mlZero = mlZero from mlInvAt_zero 8 1, mlZero, List.map_replicate, Nat.mul_zero, Nat.zero_mod]

@[simp] theorem mlAdd_zero : mlAdd mlZero mlZero = mlZero := by
  rw [mlAdd, mlZero, List.zipWith_replicate]
  rfl

@[simp] theorem mlSub_zero : mlSub mlZero mlZero = mlZero := by
  rw [mlSub, mlZero, List.zipWith_replicate]
  rfl

theorem map_zero_of (n : Nat) (l : List (Nat × Nat)) (f : Nat × Nat → Nat) (hn : l.length = n) (h : ∀ p ∈ l, f p = 0) :
    l.map f = List.replicate n 0 := by
  rw [← hn, ← List.map_const']
  exact List.map_congr_left h

@[simp] theorem mlMul_zero (a : MlPoly) : mlMul a mlZero = mlZero := by
  refine map_zero_of 256 _ _ (by rw [List.length_zipIdx, mlZero, List.length_replicate]) ?_
  intro p hp
  have h1 : p.1 = 0 := by
    have := List.fst_mem_of_mem_zipIdx hp
    exact (List.mem_replicate.1 this).2
  obtain ⟨y, i⟩ := p
  simp only at h1
  subst h1
  simp

theorem mlAdds_zero (l : List MlPoly) (h : ∀ p ∈ l, p = mlZero) : l.foldl mlAdd mlZero = mlZero := by
  induction l with
  | nil => rfl
  | cons p l ih =>
    rw [List.foldl_cons, h p (by simp), mlAdd_zero]
    exact ih (fun q hq => h q (by simp [hq]))

@[simp] theorem mlDot_zero (row : List MlPoly) (n : Nat) : mlDot row (List.replicate n mlZero) = mlZero := by
  refine mlAdds_zero _ (fun p hp => ?_)
  obtain ⟨i, h1, h2⟩ := List.getElem_of_mem hp
  rw [← h2]
  simp

end Sys2Proof.Machine
end

