-- ==== Sys2Proof/Laws/Engine.lean ====
section
/-! SUPPORT. What the shared parts of engine units and of the front end's management commands do. -/

namespace Sys2Proof.Machine

/-- Work that is done, or that stops, before other work. -/
theorem runEng_bind {α β : Type} (e : Eng α) (f : α → Eng β) (d : Dev) :
    runEng (e >>= f) d = match runEng e d with
      | (.ok a, d) => runEng (f a) d
      | (.error x, d) => (.error x, d) := by
  simp only [runEng, bind, ExceptT.bind, ExceptT.mk, StateT.bind]
  generalize (e : StateM Dev (Except Stop α)) d = r
  obtain ⟨x, d⟩ := r
  cases x <;> rfl

/-- Work that has its value already. -/
theorem runEng_pure {α : Type} (a : α) (d : Dev) : runEng (pure a : Eng α) d = (.ok a, d) := rfl

/-- Work that stops at once. -/
theorem runEng_throw {α : Type} (x : Stop) (d : Dev) : runEng (throw x : Eng α) d = (.error x, d) := rfl

/-- A unit that runs, with its payload read: what its row does. -/
theorem payloadUnit_of {s : State} {cls q i len : Nat} {r : Run} {x : Cmd} {b : List Byte} {d : Dev} {ok mine : Cmd → List Byte → Bool}
    {op : Run → Cmd → Rq → List Byte → Eng Unit} (h : UnitRuns s cls q i r x)
    (hp : runEng (ePayload s.cfg (rqUnit s.cfg x cls q i) x.entry.payload len) s.dev = (.ok b, d)) :
    payloadUnit s.cfg cls q i len ok mine op s.dev =
      if ok x b = false then unitEnd cls q i 0x10 false d else if mine x b = false then s.dev else
        workEnd cls q i (fun _ e => unitEnd cls q i 0 (runAt e (instIdx cls q i)).poison e)
          (runEng (do resume s.cfg (rqUnit s.cfg x cls q i) (instIdx cls q i); op r x (rqUnit s.cfg x cls q i) b) (readBuffer cls q i d)) := by
  unfold payloadUnit
  simp only [h.run, h.going, h.able.1, h.able.2.1, h.able.2.2, Option.isSome_none, Bool.not_true, Bool.or_self, Bool.false_eq_true, if_false]
  rw [runEng_bind, hp]
  simp only
  cases ho : ok x b
  · simp [runEng_throw]
  · simp only [runEng_pure, if_true, Bool.true_eq_false, if_false]
    by_cases hm : mine x b = false
    · simp only [hm, if_true]
    · simp only [hm, workEnd]
      generalize runEng _ (readBuffer cls q i d) = w
      obtain ⟨w, e⟩ := w
      cases w with
      | ok a => rfl
      | error x => cases x <;> rfl

/-- The same where the unit's registers took something of the command first. -/
theorem payloadUnit_taken {s : State} {e : Dev} {cls q i len : Nat} {r : Run} {x : Cmd} {b : List Byte} {d : Dev} {ok mine : Cmd → List Byte → Bool}
    {op : Run → Cmd → Rq → List Byte → Eng Unit} (h : UnitRuns { s with dev := e } cls q i r x)
    (hp : runEng (ePayload s.cfg (rqUnit s.cfg x cls q i) x.entry.payload len) e = (.ok b, d)) :
    payloadUnit s.cfg cls q i len ok mine op e =
      if ok x b = false then unitEnd cls q i 0x10 false d else if mine x b = false then e else
        workEnd cls q i (fun _ e => unitEnd cls q i 0 (runAt e (instIdx cls q i)).poison e)
          (runEng (do resume s.cfg (rqUnit s.cfg x cls q i) (instIdx cls q i); op r x (rqUnit s.cfg x cls q i) b) (readBuffer cls q i d)) :=
  payloadUnit_of (s := { s with dev := e }) h hp

/-- A PACK unit goes on running when its registers take its context. -/
theorem packTaken_runs {s : State} {i j : Nat} {r : Run} {x : Cmd} (h : UnitRuns s 8 0 i r x) :
    UnitRuns { s with dev := packTaken j s.dev } 8 0 i r x := by
  unfold packTaken
  split
  · exact ⟨h.running, h.run, h.going, h.able⟩
  · exact h

/-- A check-value unit goes on running when its registers take its context and preset. -/
theorem cvuTaken_runs {s : State} {c : Cfg} {i j : Nat} {r : Run} {x : Cmd} (h : UnitRuns s 9 0 i r x) :
    UnitRuns { s with dev := cvuTaken c j s.dev } 9 0 i r x := by
  unfold cvuTaken
  split
  · exact h
  · dsimp only
    split <;> exact ⟨h.running, h.run, h.going, h.able⟩

/-- A unit that runs a span, with its payload read: what a Mule's row does. -/
theorem muleRun_of {s : State} {op q i : Nat} {r : Run} {x : Cmd} {b : List Byte} {d : Dev} {m : MuleOp} (h : UnitRuns s 3 q i r x)
    (hf : r.formed = false) (ho : x.entry.op = op) (hr : 1 ≤ op ∧ op ≤ 5)
    (hp : runEng (ePayload s.cfg (rqUnit s.cfg x 3 q i) x.entry.payload m.len) (readBuffer 3 q i s.dev) = (.ok b, d)) :
    muleRun s.cfg op q i m s.dev = if m.ok b = false then unitEnd 3 q i 0x10 false d else
      workEnd 3 q i
        (fun _ e => if (cmdOf e x.serial).any (fun y => y.unitsLeft != []) then markFormed 3 q i e
          else unitEnd 3 q i 0 (runAt e (instIdx 3 q i)).poison e)
        (runEng (do resume s.cfg (rqUnit s.cfg x 3 q i) (instIdx 3 q i); m.work (rqUnit s.cfg x 3 q i) (instIdx 3 q i) b r.unitNo)
          (setUnits x (Nat.max 1 (m.spans b)) d)) := by
  unfold muleRun
  simp only [h.run, h.going, hf, h.able.1, h.able.2.1, h.able.2.2, Option.isSome_none, Bool.not_true, Bool.or_self, Bool.false_eq_true, if_false]
  rw [if_neg (by omega), if_neg (by simp [ho]), runEng_bind, hp]
  simp only
  cases hk : m.ok b
  · rfl
  · simp only [Bool.true_eq_false, if_false, workEnd]
    have e1 : ∀ (f : Unit → Eng Unit), runEng (liftDev (setUnits x (Nat.max 1 (m.spans b))) >>= f) d = runEng (f ()) (setUnits x (Nat.max 1 (m.spans b)) d) := fun _ => rfl
    simp only [e1]
    generalize runEng _ (setUnits x (Nat.max 1 (m.spans b)) d) = w
    obtain ⟨w, e⟩ := w
    cases w with
    | ok a =>
      simp only
      cases hc : cmdOf e x.serial with
      | none => simp
      | some y => by_cases hu : y.unitsLeft = [] <;> simp [hu]
    | error x => cases x <;> rfl

/-- A management command at the head, with its payload read: what its row does. -/
theorem mgmtRun_of {s : State} {op : Nat} {x : Cmd} {b : List Byte} {d : Dev} (f : Cmd → List Byte → Dev → MgmtRes) (h : MgmtHead s op x b d)
    (hk : mgmtKnown op = true) :
    mgmtRun s.cfg op f s.dev = match f x b d with
      | .done st d => mgmtEnd s.cfg x st d
      | .wait d => mgmtBegun x d := by
  obtain ⟨p, hp, hq, rfl⟩ := h.payload
  simp only [mgmtRun, h.head, h.oper, hk, h.fetched, h.aligned, hp, hq]
  simp
  all_goals (cases f x (pdata p) d <;> rfl)

end Sys2Proof.Machine
end

