-- ==== Sys2Proof/Laws/PerInstr.lean ====
section
/-! SUPPORT. The laws that hold of each command as syntax, one lemma for each row. -/

namespace Sys2Proof.Laws.QuarterBound

open Sys2Proof Sys2Proof.Machine

/-- The quarter that a command names, if it names one. -/
def quarterOf (i : Instr) : Option Nat :=
  match i with
  | .retrainStart q => some q
  | .retrainForced q => some q
  | .retrainEnd q => some q
  | .storeRequest _ _ q _ _ _ _ _ _ => some q
  | .evictionAccepted q => some q
  | .dramFillComplete q _ => some q
  | .writeDrainExit q => some q
  | .streamTrackerTimeout q => some q
  | .prefetchRequest _ _ q _ _ _ => some q
  | .scratchZeroDone q => some q
  | .csMaintClean q => some q
  | .csMaintInvalidate q => some q
  | .csMaintCleanInvalidate q => some q
  | .csMaintComplete q => some q
  | .csSwClean q _ _ => some q
  | .csSwInvalidate q _ _ => some q
  | .csSwCleanInvalidate q _ _ => some q
  | .csWayOffWrite q _ => some q
  | .wayCleanDone q _ => some q
  | .csErrClear q _ => some q
  | .quarterMemoryLost q => some q
  | .tokenHandout _ h => some h.q
  | .meMatmul q _ => some q
  | .meBatched q _ => some q
  | .meExpert q _ => some q
  | .meAttnScore q _ => some q
  | .meAttnValue q _ => some q
  | .meUnitComplete q _ => some q
  | .sneSoftmax q => some q
  | .sneRmsnorm q => some q
  | .sneLayernorm q => some q
  | .sneAct q => some q
  | .sneGated q => some q
  | .sneRope q => some q
  | .sneCombine q => some q
  | .sneAdd q => some q
  | .muleCopy q _ => some q
  | .muleFill q _ => some q
  | .storeMaint q _ => some q
  | .kvStore q _ => some q
  | .mulePrefetch q _ => some q
  | .muleSpanComplete q _ => some q
  | .scDispatch q => some q
  | .nop q _ _ => some q
  | .iadd q _ _ => some q
  | .isub q _ _ => some q
  | .imul q _ _ => some q
  | .imad q _ _ => some q
  | .imin q _ _ => some q
  | .imax q _ _ => some q
  | .and q _ _ => some q
  | .or q _ _ => some q
  | .xor q _ _ => some q
  | .shl q _ _ => some q
  | .shr q _ _ => some q
  | .popc q _ _ => some q
  | .clz q _ _ => some q
  | .brev q _ _ => some q
  | .bfe q _ _ => some q
  | .bfi q _ _ => some q
  | .icmp q _ _ => some q
  | .sel q _ _ => some q
  | .mov q _ _ => some q
  | .uput q _ _ => some q
  | .rdsv q _ _ => some q
  | .fadd q _ _ => some q
  | .fmul q _ _ => some q
  | .ffma q _ _ => some q
  | .fmin q _ _ => some q
  | .fmax q _ _ => some q
  | .fcmp q _ _ => some q
  | .frcp q _ _ => some q
  | .frsq q _ _ => some q
  | .fsqrt q _ _ => some q
  | .fex2 q _ _ => some q
  | .flg2 q _ _ => some q
  | .fsin q _ _ => some q
  | .fcos q _ _ => some q
  | .hdot4 q _ _ => some q
  | .ftwosum q _ _ => some q
  | .ftwoprod q _ _ => some q
  | .lmul q _ _ => some q
  | .ladd q _ _ => some q
  | .lsub q _ _ => some q
  | .lneg q _ _ => some q
  | .cvt q _ _ => some q
  | .cvt2 q _ _ => some q
  | .cld q _ _ => some q
  | .cst q _ _ => some q
  | .lld q _ _ => some q
  | .lst q _ _ => some q
  | .catom q _ _ => some q
  | .latom q _ _ => some q
  | .fence q _ _ => some q
  | .fenceRelease q _ _ => some q
  | .xlane q _ _ => some q
  | .pvote q _ _ => some q
  | .eqmask q _ _ => some q
  | .syncG q _ _ => some q
  | .syncB q _ _ => some q
  | .mmaL8 q _ _ => some q
  | .mmaL4l8 q _ _ => some q
  | .mmaL16 q _ _ => some q
  | .pxlock q _ _ => some q
  | .pxlockGrant q _ _ _ => some q
  | .pxunlock q _ _ => some q
  | .trace q _ _ => some q
  | .traceAnswer q _ _ _ => some q
  | .bra q _ _ => some q
  | .jmpr q _ _ => some q
  | .call q _ _ => some q
  | .exit q _ _ => some q
  | .scFaultClear q _ _ => some q
  | .drainLimitExpiry _ q _ => some q
  | .instanceResetDone _ q _ => some q
  | .ptwWalk _ q _ _ _ _ => some q
  | .scrubSector q _ => some q
  | .idleqEntry q => some q
  | .throttleDown q _ => some q
  | .throttleUp q _ => some q
  | .clockSwitchDone q => some q
  | .dramRateSwitchDone q => some q
  | .quarterLeave q => some q
  | .quarterDrainDone q _ _ _ => some q
  | .quarterRejoin q => some q
  | _ => none

/-- A well-formed command that names a quarter names one of the four. -/
def Statement (i : Instr) : Prop := i.wf = true → ∀ x ∈ quarterOf i, x < 4

theorem left {a b : Bool} (h : (a && b) = true) : a = true := (Bool.and_eq_true_iff.mp h).1

theorem right {a b : Bool} (h : (a && b) = true) : b = true := (Bool.and_eq_true_iff.mp h).2

theorem sysRstNRelease (st : StartIn) : Statement (.sysRstNRelease st) := fun _ _ hx => nomatch hx

theorem readyTimeout : Statement (.readyTimeout) := fun _ _ hx => nomatch hx

theorem sysRstNAssert : Statement (.sysRstNAssert) := fun _ _ hx => nomatch hx

theorem pwrFailNLow : Statement (.pwrFailNLow) := fun _ _ hx => nomatch hx

theorem brownOut (r : Rail) : Statement (.brownOut r) := fun _ _ hx => nomatch hx

theorem perstNAssert : Statement (.perstNAssert) := fun _ _ hx => nomatch hx

theorem perstNRelease (width : Nat) (rate : Nat) : Statement (.perstNRelease width rate) := fun _ _ hx => nomatch hx

theorem configRequest (r : CfgReq) : Statement (.configRequest r) := fun _ _ hx => nomatch hx

theorem functionLevelReset : Statement (.functionLevelReset) := fun _ _ hx => nomatch hx

theorem linkStateChange (width : Nat) (rate : Nat) : Statement (.linkStateChange width rate) := fun _ _ hx => nomatch hx

theorem pwrFailNRelease (st : StartIn) : Statement (.pwrFailNRelease st) := fun _ _ hx => nomatch hx

theorem brownOutRecovery (st : StartIn) : Statement (.brownOutRecovery st) := fun _ _ hx => nomatch hx

theorem phinLevelChange (pin : Nat) (level : Bool) : Statement (.phinLevelChange pin level) := fun _ _ hx => nomatch hx

theorem phinEdgeAccepted (pin : Nat) : Statement (.phinEdgeAccepted pin) := fun _ _ hx => nomatch hx

theorem acquireTimeout (n : Nat) : Statement (.acquireTimeout n) := fun _ _ hx => nomatch hx

theorem lockTimeout (n : Nat) : Statement (.lockTimeout n) := fun _ _ hx => nomatch hx

theorem interpolatedTurn (n : Nat) : Statement (.interpolatedTurn n) := fun _ _ hx => nomatch hx

theorem displayLineStart (p : Nat) (line : Nat) : Statement (.displayLineStart p line) := fun _ _ hx => nomatch hx

theorem startComparatorFire (ring : Nat) : Statement (.startComparatorFire ring) := fun _ _ hx => nomatch hx

theorem dlmCheck (r : Nat) : Statement (.dlmCheck r) := fun _ _ hx => nomatch hx

theorem cycleMark (ring : Nat) : Statement (.cycleMark ring) := fun _ _ hx => nomatch hx

theorem dlmClear (r : Nat) (v : Nat) : Statement (.dlmClear r v) := fun _ _ hx => nomatch hx

theorem pheClear (v : Nat) : Statement (.pheClear v) := fun _ _ hx => nomatch hx

theorem retrainStart (q : Nat) : Statement (.retrainStart q) := fun h _ hx => Option.some.inj hx ▸ of_decide_eq_true h

theorem retrainForced (q : Nat) : Statement (.retrainForced q) := fun h _ hx => Option.some.inj hx ▸ of_decide_eq_true h

theorem retrainEnd (q : Nat) : Statement (.retrainEnd q) := fun h _ hx => Option.some.inj hx ▸ of_decide_eq_true h

theorem storeRequest (ctx : Option Nat) (cls : Nat) (q : Nat) (i : Nat) (pa : Nat) (len : Nat) (wdata : Option (List (Option PByte))) (noalloc : Bool) (onchip : Option (Bool × Nat)) : Statement (.storeRequest ctx cls q i pa len wdata noalloc onchip) := fun h _ hx => Option.some.inj hx ▸ of_decide_eq_true (right (left (left (left (left (left (left (left (left h)))))))))

theorem evictionAccepted (q : Nat) : Statement (.evictionAccepted q) := fun h _ hx => Option.some.inj hx ▸ of_decide_eq_true h

theorem dramFillComplete (q : Nat) (errs : List SectorErr) : Statement (.dramFillComplete q errs) := fun h _ hx => Option.some.inj hx ▸ of_decide_eq_true (left h)

theorem writeDrainExit (q : Nat) : Statement (.writeDrainExit q) := fun h _ hx => Option.some.inj hx ▸ of_decide_eq_true h

theorem streamTrackerTimeout (q : Nat) : Statement (.streamTrackerTimeout q) := fun h _ hx => Option.some.inj hx ▸ of_decide_eq_true h

theorem prefetchRequest (ctx : Nat) (cls : Nat) (q : Nat) (i : Nat) (pa : Nat) (errs : List SectorErr) : Statement (.prefetchRequest ctx cls q i pa errs) := fun h _ hx => Option.some.inj hx ▸ of_decide_eq_true (right (left (left (left h))))

theorem scratchZeroDone (q : Nat) : Statement (.scratchZeroDone q) := fun h _ hx => Option.some.inj hx ▸ of_decide_eq_true h

theorem csMaintClean (q : Nat) : Statement (.csMaintClean q) := fun h _ hx => Option.some.inj hx ▸ of_decide_eq_true h

theorem csMaintInvalidate (q : Nat) : Statement (.csMaintInvalidate q) := fun h _ hx => Option.some.inj hx ▸ of_decide_eq_true h

theorem csMaintCleanInvalidate (q : Nat) : Statement (.csMaintCleanInvalidate q) := fun h _ hx => Option.some.inj hx ▸ of_decide_eq_true h

theorem csMaintComplete (q : Nat) : Statement (.csMaintComplete q) := fun h _ hx => Option.some.inj hx ▸ of_decide_eq_true h

theorem csSwClean (q : Nat) (set : Nat) (way : Nat) : Statement (.csSwClean q set way) := fun h _ hx => Option.some.inj hx ▸ of_decide_eq_true (left (left h))

theorem csSwInvalidate (q : Nat) (set : Nat) (way : Nat) : Statement (.csSwInvalidate q set way) := fun h _ hx => Option.some.inj hx ▸ of_decide_eq_true (left (left h))

theorem csSwCleanInvalidate (q : Nat) (set : Nat) (way : Nat) : Statement (.csSwCleanInvalidate q set way) := fun h _ hx => Option.some.inj hx ▸ of_decide_eq_true (left (left h))

theorem csWayOffWrite (q : Nat) (v : Nat) : Statement (.csWayOffWrite q v) := fun h _ hx => Option.some.inj hx ▸ of_decide_eq_true (left h)

theorem wayCleanDone (q : Nat) (way : Nat) : Statement (.wayCleanDone q way) := fun h _ hx => Option.some.inj hx ▸ of_decide_eq_true (left h)

theorem csErrClear (q : Nat) (v : Nat) : Statement (.csErrClear q v) := fun h _ hx => Option.some.inj hx ▸ of_decide_eq_true (left h)

theorem quarterMemoryLost (q : Nat) : Statement (.quarterMemoryLost q) := fun h _ hx => Option.some.inj hx ▸ of_decide_eq_true h

theorem tokenHandout (cls : Nat) (h : HandOut) : Statement (.tokenHandout cls h) :=
  fun h _ hx => Option.some.inj hx ▸ of_decide_eq_true (right (left h))

theorem meMatmul (q : Nat) (i : Nat) : Statement (.meMatmul q i) := fun h _ hx => Option.some.inj hx ▸ of_decide_eq_true (left h)

theorem meBatched (q : Nat) (i : Nat) : Statement (.meBatched q i) := fun h _ hx => Option.some.inj hx ▸ of_decide_eq_true (left h)

theorem meExpert (q : Nat) (i : Nat) : Statement (.meExpert q i) := fun h _ hx => Option.some.inj hx ▸ of_decide_eq_true (left h)

theorem meAttnScore (q : Nat) (i : Nat) : Statement (.meAttnScore q i) := fun h _ hx => Option.some.inj hx ▸ of_decide_eq_true (left h)

theorem meAttnValue (q : Nat) (i : Nat) : Statement (.meAttnValue q i) := fun h _ hx => Option.some.inj hx ▸ of_decide_eq_true (left h)

theorem meUnitComplete (q : Nat) (i : Nat) : Statement (.meUnitComplete q i) := fun h _ hx => Option.some.inj hx ▸ of_decide_eq_true (left h)

theorem sneSoftmax (q : Nat) : Statement (.sneSoftmax q) := fun h _ hx => Option.some.inj hx ▸ of_decide_eq_true h

theorem sneRmsnorm (q : Nat) : Statement (.sneRmsnorm q) := fun h _ hx => Option.some.inj hx ▸ of_decide_eq_true h

theorem sneLayernorm (q : Nat) : Statement (.sneLayernorm q) := fun h _ hx => Option.some.inj hx ▸ of_decide_eq_true h

theorem sneAct (q : Nat) : Statement (.sneAct q) := fun h _ hx => Option.some.inj hx ▸ of_decide_eq_true h

theorem sneGated (q : Nat) : Statement (.sneGated q) := fun h _ hx => Option.some.inj hx ▸ of_decide_eq_true h

theorem sneRope (q : Nat) : Statement (.sneRope q) := fun h _ hx => Option.some.inj hx ▸ of_decide_eq_true h

theorem sneCombine (q : Nat) : Statement (.sneCombine q) := fun h _ hx => Option.some.inj hx ▸ of_decide_eq_true h

theorem sneAdd (q : Nat) : Statement (.sneAdd q) := fun h _ hx => Option.some.inj hx ▸ of_decide_eq_true h

theorem tokCommand : Statement (.tokCommand) := fun _ _ hx => nomatch hx

theorem seqAttach : Statement (.seqAttach) := fun _ _ hx => nomatch hx

theorem seqDetach : Statement (.seqDetach) := fun _ _ hx => nomatch hx

theorem seqStepBuild (i : Nat) : Statement (.seqStepBuild i) := fun _ _ hx => nomatch hx

theorem seqCommit (i : Nat) : Statement (.seqCommit i) := fun _ _ hx => nomatch hx

theorem seqStepDrop (i : Nat) : Statement (.seqStepDrop i) := fun _ _ hx => nomatch hx

theorem muleCopy (q : Nat) (i : Nat) : Statement (.muleCopy q i) := fun h _ hx => Option.some.inj hx ▸ of_decide_eq_true (left h)

theorem muleFill (q : Nat) (i : Nat) : Statement (.muleFill q i) := fun h _ hx => Option.some.inj hx ▸ of_decide_eq_true (left h)

theorem storeMaint (q : Nat) (i : Nat) : Statement (.storeMaint q i) := fun h _ hx => Option.some.inj hx ▸ of_decide_eq_true (left h)

theorem kvStore (q : Nat) (i : Nat) : Statement (.kvStore q i) := fun h _ hx => Option.some.inj hx ▸ of_decide_eq_true (left h)

theorem mulePrefetch (q : Nat) (i : Nat) : Statement (.mulePrefetch q i) := fun h _ hx => Option.some.inj hx ▸ of_decide_eq_true (left h)

theorem muleSpanComplete (q : Nat) (i : Nat) : Statement (.muleSpanComplete q i) := fun h _ hx => Option.some.inj hx ▸ of_decide_eq_true (left h)

theorem packCompress (i : Nat) : Statement (.packCompress i) := fun _ _ hx => nomatch hx

theorem packDecompress (i : Nat) : Statement (.packDecompress i) := fun _ _ hx => nomatch hx

theorem cvuScan (i : Nat) : Statement (.cvuScan i) := fun _ _ hx => nomatch hx

theorem packClear (v : Nat) : Statement (.packClear v) := fun _ _ hx => nomatch hx

theorem scDispatch (q : Nat) : Statement (.scDispatch q) := fun h _ hx => Option.some.inj hx ▸ of_decide_eq_true h

theorem blockAdmit (q : Nat) : Statement (.blockAdmit q) := fun _ _ hx => nomatch hx

theorem nop (q : Nat) (n : Nat) (gi : Nat) : Statement (.nop q n gi) := fun h _ hx => Option.some.inj hx ▸ of_decide_eq_true (left (left h))

theorem iadd (q : Nat) (n : Nat) (gi : Nat) : Statement (.iadd q n gi) := fun h _ hx => Option.some.inj hx ▸ of_decide_eq_true (left (left h))

theorem isub (q : Nat) (n : Nat) (gi : Nat) : Statement (.isub q n gi) := fun h _ hx => Option.some.inj hx ▸ of_decide_eq_true (left (left h))

theorem imul (q : Nat) (n : Nat) (gi : Nat) : Statement (.imul q n gi) := fun h _ hx => Option.some.inj hx ▸ of_decide_eq_true (left (left h))

theorem imad (q : Nat) (n : Nat) (gi : Nat) : Statement (.imad q n gi) := fun h _ hx => Option.some.inj hx ▸ of_decide_eq_true (left (left h))

theorem imin (q : Nat) (n : Nat) (gi : Nat) : Statement (.imin q n gi) := fun h _ hx => Option.some.inj hx ▸ of_decide_eq_true (left (left h))

theorem imax (q : Nat) (n : Nat) (gi : Nat) : Statement (.imax q n gi) := fun h _ hx => Option.some.inj hx ▸ of_decide_eq_true (left (left h))

theorem and (q : Nat) (n : Nat) (gi : Nat) : Statement (.and q n gi) := fun h _ hx => Option.some.inj hx ▸ of_decide_eq_true (left (left h))

theorem or (q : Nat) (n : Nat) (gi : Nat) : Statement (.or q n gi) := fun h _ hx => Option.some.inj hx ▸ of_decide_eq_true (left (left h))

theorem xor (q : Nat) (n : Nat) (gi : Nat) : Statement (.xor q n gi) := fun h _ hx => Option.some.inj hx ▸ of_decide_eq_true (left (left h))

theorem shl (q : Nat) (n : Nat) (gi : Nat) : Statement (.shl q n gi) := fun h _ hx => Option.some.inj hx ▸ of_decide_eq_true (left (left h))

theorem shr (q : Nat) (n : Nat) (gi : Nat) : Statement (.shr q n gi) := fun h _ hx => Option.some.inj hx ▸ of_decide_eq_true (left (left h))

theorem popc (q : Nat) (n : Nat) (gi : Nat) : Statement (.popc q n gi) := fun h _ hx => Option.some.inj hx ▸ of_decide_eq_true (left (left h))

theorem clz (q : Nat) (n : Nat) (gi : Nat) : Statement (.clz q n gi) := fun h _ hx => Option.some.inj hx ▸ of_decide_eq_true (left (left h))

theorem brev (q : Nat) (n : Nat) (gi : Nat) : Statement (.brev q n gi) := fun h _ hx => Option.some.inj hx ▸ of_decide_eq_true (left (left h))

theorem bfe (q : Nat) (n : Nat) (gi : Nat) : Statement (.bfe q n gi) := fun h _ hx => Option.some.inj hx ▸ of_decide_eq_true (left (left h))

theorem bfi (q : Nat) (n : Nat) (gi : Nat) : Statement (.bfi q n gi) := fun h _ hx => Option.some.inj hx ▸ of_decide_eq_true (left (left h))

theorem icmp (q : Nat) (n : Nat) (gi : Nat) : Statement (.icmp q n gi) := fun h _ hx => Option.some.inj hx ▸ of_decide_eq_true (left (left h))

theorem sel (q : Nat) (n : Nat) (gi : Nat) : Statement (.sel q n gi) := fun h _ hx => Option.some.inj hx ▸ of_decide_eq_true (left (left h))

theorem mov (q : Nat) (n : Nat) (gi : Nat) : Statement (.mov q n gi) := fun h _ hx => Option.some.inj hx ▸ of_decide_eq_true (left (left h))

theorem uput (q : Nat) (n : Nat) (gi : Nat) : Statement (.uput q n gi) := fun h _ hx => Option.some.inj hx ▸ of_decide_eq_true (left (left h))

theorem rdsv (q : Nat) (n : Nat) (gi : Nat) : Statement (.rdsv q n gi) := fun h _ hx => Option.some.inj hx ▸ of_decide_eq_true (left (left h))

theorem fadd (q : Nat) (n : Nat) (gi : Nat) : Statement (.fadd q n gi) := fun h _ hx => Option.some.inj hx ▸ of_decide_eq_true (left (left h))

theorem fmul (q : Nat) (n : Nat) (gi : Nat) : Statement (.fmul q n gi) := fun h _ hx => Option.some.inj hx ▸ of_decide_eq_true (left (left h))

theorem ffma (q : Nat) (n : Nat) (gi : Nat) : Statement (.ffma q n gi) := fun h _ hx => Option.some.inj hx ▸ of_decide_eq_true (left (left h))

theorem fmin (q : Nat) (n : Nat) (gi : Nat) : Statement (.fmin q n gi) := fun h _ hx => Option.some.inj hx ▸ of_decide_eq_true (left (left h))

theorem fmax (q : Nat) (n : Nat) (gi : Nat) : Statement (.fmax q n gi) := fun h _ hx => Option.some.inj hx ▸ of_decide_eq_true (left (left h))

theorem fcmp (q : Nat) (n : Nat) (gi : Nat) : Statement (.fcmp q n gi) := fun h _ hx => Option.some.inj hx ▸ of_decide_eq_true (left (left h))

theorem frcp (q : Nat) (n : Nat) (gi : Nat) : Statement (.frcp q n gi) := fun h _ hx => Option.some.inj hx ▸ of_decide_eq_true (left (left h))

theorem frsq (q : Nat) (n : Nat) (gi : Nat) : Statement (.frsq q n gi) := fun h _ hx => Option.some.inj hx ▸ of_decide_eq_true (left (left h))

theorem fsqrt (q : Nat) (n : Nat) (gi : Nat) : Statement (.fsqrt q n gi) := fun h _ hx => Option.some.inj hx ▸ of_decide_eq_true (left (left h))

theorem fex2 (q : Nat) (n : Nat) (gi : Nat) : Statement (.fex2 q n gi) := fun h _ hx => Option.some.inj hx ▸ of_decide_eq_true (left (left h))

theorem flg2 (q : Nat) (n : Nat) (gi : Nat) : Statement (.flg2 q n gi) := fun h _ hx => Option.some.inj hx ▸ of_decide_eq_true (left (left h))

theorem fsin (q : Nat) (n : Nat) (gi : Nat) : Statement (.fsin q n gi) := fun h _ hx => Option.some.inj hx ▸ of_decide_eq_true (left (left h))

theorem fcos (q : Nat) (n : Nat) (gi : Nat) : Statement (.fcos q n gi) := fun h _ hx => Option.some.inj hx ▸ of_decide_eq_true (left (left h))

theorem hdot4 (q : Nat) (n : Nat) (gi : Nat) : Statement (.hdot4 q n gi) := fun h _ hx => Option.some.inj hx ▸ of_decide_eq_true (left (left h))

theorem ftwosum (q : Nat) (n : Nat) (gi : Nat) : Statement (.ftwosum q n gi) := fun h _ hx => Option.some.inj hx ▸ of_decide_eq_true (left (left h))

theorem ftwoprod (q : Nat) (n : Nat) (gi : Nat) : Statement (.ftwoprod q n gi) := fun h _ hx => Option.some.inj hx ▸ of_decide_eq_true (left (left h))

theorem lmul (q : Nat) (n : Nat) (gi : Nat) : Statement (.lmul q n gi) := fun h _ hx => Option.some.inj hx ▸ of_decide_eq_true (left (left h))

theorem ladd (q : Nat) (n : Nat) (gi : Nat) : Statement (.ladd q n gi) := fun h _ hx => Option.some.inj hx ▸ of_decide_eq_true (left (left h))

theorem lsub (q : Nat) (n : Nat) (gi : Nat) : Statement (.lsub q n gi) := fun h _ hx => Option.some.inj hx ▸ of_decide_eq_true (left (left h))

theorem lneg (q : Nat) (n : Nat) (gi : Nat) : Statement (.lneg q n gi) := fun h _ hx => Option.some.inj hx ▸ of_decide_eq_true (left (left h))

theorem cvt (q : Nat) (n : Nat) (gi : Nat) : Statement (.cvt q n gi) := fun h _ hx => Option.some.inj hx ▸ of_decide_eq_true (left (left h))

theorem cvt2 (q : Nat) (n : Nat) (gi : Nat) : Statement (.cvt2 q n gi) := fun h _ hx => Option.some.inj hx ▸ of_decide_eq_true (left (left h))

theorem cld (q : Nat) (n : Nat) (gi : Nat) : Statement (.cld q n gi) := fun h _ hx => Option.some.inj hx ▸ of_decide_eq_true (left (left h))

theorem cst (q : Nat) (n : Nat) (gi : Nat) : Statement (.cst q n gi) := fun h _ hx => Option.some.inj hx ▸ of_decide_eq_true (left (left h))

theorem lld (q : Nat) (n : Nat) (gi : Nat) : Statement (.lld q n gi) := fun h _ hx => Option.some.inj hx ▸ of_decide_eq_true (left (left h))

theorem lst (q : Nat) (n : Nat) (gi : Nat) : Statement (.lst q n gi) := fun h _ hx => Option.some.inj hx ▸ of_decide_eq_true (left (left h))

theorem catom (q : Nat) (n : Nat) (gi : Nat) : Statement (.catom q n gi) := fun h _ hx => Option.some.inj hx ▸ of_decide_eq_true (left (left h))

theorem latom (q : Nat) (n : Nat) (gi : Nat) : Statement (.latom q n gi) := fun h _ hx => Option.some.inj hx ▸ of_decide_eq_true (left (left h))

theorem fence (q : Nat) (n : Nat) (gi : Nat) : Statement (.fence q n gi) := fun h _ hx => Option.some.inj hx ▸ of_decide_eq_true (left (left h))

theorem fenceRelease (q : Nat) (n : Nat) (gi : Nat) : Statement (.fenceRelease q n gi) := fun h _ hx => Option.some.inj hx ▸ of_decide_eq_true (left (left h))

theorem xlane (q : Nat) (n : Nat) (gi : Nat) : Statement (.xlane q n gi) := fun h _ hx => Option.some.inj hx ▸ of_decide_eq_true (left (left h))

theorem pvote (q : Nat) (n : Nat) (gi : Nat) : Statement (.pvote q n gi) := fun h _ hx => Option.some.inj hx ▸ of_decide_eq_true (left (left h))

theorem eqmask (q : Nat) (n : Nat) (gi : Nat) : Statement (.eqmask q n gi) := fun h _ hx => Option.some.inj hx ▸ of_decide_eq_true (left (left h))

theorem syncG (q : Nat) (n : Nat) (gi : Nat) : Statement (.syncG q n gi) := fun h _ hx => Option.some.inj hx ▸ of_decide_eq_true (left (left h))

theorem syncB (q : Nat) (n : Nat) (gi : Nat) : Statement (.syncB q n gi) := fun h _ hx => Option.some.inj hx ▸ of_decide_eq_true (left (left h))

theorem mmaL8 (q : Nat) (n : Nat) (gi : Nat) : Statement (.mmaL8 q n gi) := fun h _ hx => Option.some.inj hx ▸ of_decide_eq_true (left (left h))

theorem mmaL4l8 (q : Nat) (n : Nat) (gi : Nat) : Statement (.mmaL4l8 q n gi) := fun h _ hx => Option.some.inj hx ▸ of_decide_eq_true (left (left h))

theorem mmaL16 (q : Nat) (n : Nat) (gi : Nat) : Statement (.mmaL16 q n gi) := fun h _ hx => Option.some.inj hx ▸ of_decide_eq_true (left (left h))

theorem pxlock (q : Nat) (n : Nat) (gi : Nat) : Statement (.pxlock q n gi) := fun h _ hx => Option.some.inj hx ▸ of_decide_eq_true (left (left h))

theorem pxlockGrant (q : Nat) (n : Nat) (gi : Nat) (lane : Nat) : Statement (.pxlockGrant q n gi lane) := fun h _ hx => Option.some.inj hx ▸ of_decide_eq_true (left (left (left h)))

theorem pxunlock (q : Nat) (n : Nat) (gi : Nat) : Statement (.pxunlock q n gi) := fun h _ hx => Option.some.inj hx ▸ of_decide_eq_true (left (left h))

theorem trace (q : Nat) (n : Nat) (gi : Nat) : Statement (.trace q n gi) := fun h _ hx => Option.some.inj hx ▸ of_decide_eq_true (left (left h))

theorem traceAnswer (q : Nat) (n : Nat) (gi : Nat) (lane : Nat) : Statement (.traceAnswer q n gi lane) := fun h _ hx => Option.some.inj hx ▸ of_decide_eq_true (left (left (left h)))

theorem bra (q : Nat) (n : Nat) (gi : Nat) : Statement (.bra q n gi) := fun h _ hx => Option.some.inj hx ▸ of_decide_eq_true (left (left h))

theorem jmpr (q : Nat) (n : Nat) (gi : Nat) : Statement (.jmpr q n gi) := fun h _ hx => Option.some.inj hx ▸ of_decide_eq_true (left (left h))

theorem call (q : Nat) (n : Nat) (gi : Nat) : Statement (.call q n gi) := fun h _ hx => Option.some.inj hx ▸ of_decide_eq_true (left (left h))

theorem exit (q : Nat) (n : Nat) (gi : Nat) : Statement (.exit q n gi) := fun h _ hx => Option.some.inj hx ▸ of_decide_eq_true (left (left h))

theorem scFaultClear (q : Nat) (n : Nat) (v : Nat) : Statement (.scFaultClear q n v) := fun h _ hx => Option.some.inj hx ▸ of_decide_eq_true (left (left h))

theorem tilRender : Statement (.tilRender) := fun _ _ hx => nomatch hx

theorem tilTriangle : Statement (.tilTriangle) := fun _ _ hx => nomatch hx

theorem tilBinningDone : Statement (.tilBinningDone) := fun _ _ hx => nomatch hx

theorem tileHandout : Statement (.tileHandout) := fun _ _ hx => nomatch hx

theorem tileComplete (t : Nat) : Statement (.tileComplete t) := fun _ _ hx => nomatch hx

theorem compPresent : Statement (.compPresent) := fun _ _ hx => nomatch hx

theorem reprojDecision (p : Nat) : Statement (.reprojDecision p) := fun _ _ hx => nomatch hx

theorem layerLatch (p : Nat) : Statement (.layerLatch p) := fun _ _ hx => nomatch hx

theorem scanoutLine (p : Nat) (got : Nat) : Statement (.scanoutLine p got) := fun _ _ hx => nomatch hx

theorem signatureCompare (n : Nat) : Statement (.signatureCompare n) := fun _ _ hx => nomatch hx

theorem compSafeExit (p : Nat) (v : Nat) : Statement (.compSafeExit p v) := fun _ _ hx => nomatch hx

theorem compPipeClear (p : Nat) (v : Nat) : Statement (.compPipeClear p v) := fun _ _ hx => nomatch hx

theorem compDsiCmd (v : Nat) : Statement (.compDsiCmd v) := fun _ _ hx => nomatch hx

theorem dsiPacketSent : Statement (.dsiPacketSent) := fun _ _ hx => nomatch hx

theorem linkRetrain (p : Nat) (up : Bool) : Statement (.linkRetrain p up) := fun _ _ hx => nomatch hx

theorem edpHpd (kind : Nat) (up : Bool) : Statement (.edpHpd kind up) := fun _ _ hx => nomatch hx

theorem bar2Read (off : Nat) (len : Nat) : Statement (.bar2Read off len) := fun _ _ hx => nomatch hx

theorem bar2Write (off : Nat) (data : List Byte) (poison : Bool) : Statement (.bar2Write off data poison) := fun _ _ hx => nomatch hx

theorem registerWrite (off : Nat) (data : List Byte) : Statement (.registerWrite off data) := fun _ _ hx => nomatch hx

theorem pairLoRead (b : BarRead) : Statement (.pairLoRead b) := fun _ _ hx => nomatch hx

theorem dbWptrWrite (ring : Nat) (v : Nat) : Statement (.dbWptrWrite ring v) := fun _ _ hx => nomatch hx

theorem dbCqRptrWrite (ring : Nat) (v : Nat) : Statement (.dbCqRptrWrite ring v) := fun _ _ hx => nomatch hx

theorem doorbellBatchClose : Statement (.doorbellBatchClose) := fun _ _ hx => nomatch hx

theorem ringEntryFetch (ring : Nat) : Statement (.ringEntryFetch ring) := fun _ _ hx => nomatch hx

theorem kqEntryFetch : Statement (.kqEntryFetch) := fun _ _ hx => nomatch hx

theorem feKqWptrWrite (v : Nat) : Statement (.feKqWptrWrite v) := fun _ _ hx => nomatch hx

theorem feKqCqRptrWrite (v : Nat) : Statement (.feKqCqRptrWrite v) := fun _ _ hx => nomatch hx

theorem feKqEnable (v : Nat) : Statement (.feKqEnable v) := fun _ _ hx => nomatch hx

theorem commandDispatch (ring : Nat) : Statement (.commandDispatch ring) := fun _ _ hx => nomatch hx

theorem commandComplete (ring : Nat) (index : Nat) : Statement (.commandComplete ring index) := fun _ _ hx => nomatch hx

theorem cqRecordDrain (queue : Nat) : Statement (.cqRecordDrain queue) := fun _ _ hx => nomatch hx

theorem feRefAdd (obj : Nat) (n : Nat) : Statement (.feRefAdd obj n) := fun _ _ hx => nomatch hx

theorem feRefDrop (obj : Nat) (n : Nat) : Statement (.feRefDrop obj n) := fun _ _ hx => nomatch hx

theorem feFenceSig (v : Nat) : Statement (.feFenceSig v) := fun _ _ hx => nomatch hx

theorem feCountClear (v : Nat) : Statement (.feCountClear v) := fun _ _ hx => nomatch hx

theorem feNop (ring : Nat) : Statement (.feNop ring) := fun _ _ hx => nomatch hx

theorem ctxCreate : Statement (.ctxCreate) := fun _ _ hx => nomatch hx

theorem ctxKill : Statement (.ctxKill) := fun _ _ hx => nomatch hx

theorem ctxRelease : Statement (.ctxRelease) := fun _ _ hx => nomatch hx

theorem ringInit : Statement (.ringInit) := fun _ _ hx => nomatch hx

theorem ringUnbind : Statement (.ringUnbind) := fun _ _ hx => nomatch hx

theorem fenceInit : Statement (.fenceInit) := fun _ _ hx => nomatch hx

theorem invalidate : Statement (.invalidate) := fun _ _ hx => nomatch hx

theorem invalidateComplete : Statement (.invalidateComplete) := fun _ _ hx => nomatch hx

theorem ctxSetRoot : Statement (.ctxSetRoot) := fun _ _ hx => nomatch hx

theorem commandTimeout (ring : Nat) (index : Nat) : Statement (.commandTimeout ring index) := fun _ _ hx => nomatch hx

theorem waitTimeout (ring : Nat) : Statement (.waitTimeout ring) := fun _ _ hx => nomatch hx

theorem drainLimitExpiry (cls : Nat) (q : Nat) (i : Nat) : Statement (.drainLimitExpiry cls q i) := fun h _ hx => Option.some.inj hx ▸ of_decide_eq_true (right (left h))

theorem instanceResetDone (cls : Nat) (q : Nat) (i : Nat) : Statement (.instanceResetDone cls q i) := fun h _ hx => Option.some.inj hx ▸ of_decide_eq_true (right (left h))

theorem feSchedClear (v : Nat) : Statement (.feSchedClear v) := fun _ _ hx => nomatch hx

theorem ptwWalk (cls : Nat) (q : Nat) (i : Nat) (ctx : Nat) (va : Nat) (access : Nat) : Statement (.ptwWalk cls q i ctx va access) := fun h _ hx => Option.some.inj hx ▸ of_decide_eq_true (right (left (left (left (left h)))))

theorem faultBatchHoldoff : Statement (.faultBatchHoldoff) := fun _ _ hx => nomatch hx

theorem faultBatchWrite : Statement (.faultBatchWrite) := fun _ _ hx => nomatch hx

theorem mmuReplay (b : Nat) : Statement (.mmuReplay b) := fun _ _ hx => nomatch hx

theorem mmuFaultRptrWrite (v : Nat) : Statement (.mmuFaultRptrWrite v) := fun _ _ hx => nomatch hx

theorem mmuFaultEnable (v : Nat) : Statement (.mmuFaultEnable v) := fun _ _ hx => nomatch hx

theorem mmuBatchCfgWrite (v : Nat) : Statement (.mmuBatchCfgWrite v) := fun _ _ hx => nomatch hx

theorem mmuCountClear (v : Nat) : Statement (.mmuCountClear v) := fun _ _ hx => nomatch hx

theorem hostReadCompletion (data : List Byte) (bad : Bool) : Statement (.hostReadCompletion data bad) := fun _ _ hx => nomatch hx

theorem completionTimeout : Statement (.completionTimeout) := fun _ _ hx => nomatch hx

theorem scrubSector (q : Nat) (e : SectorErr) : Statement (.scrubSector q e) := fun h _ hx => Option.some.inj hx ▸ of_decide_eq_true (left h)

theorem cwsScrub (fixes : Nat) (split : Bool) : Statement (.cwsScrub fixes split) := fun _ _ hx => nomatch hx

theorem tokenParityError : Statement (.tokenParityError) := fun _ _ hx => nomatch hx

theorem creditParityError : Statement (.creditParityError) := fun _ _ hx => nomatch hx

theorem spineUe (kind : Nat) (cls : Nat) (i : Nat) (loc : Nat) (syn : Nat) : Statement (.spineUe kind cls i loc syn) := fun _ _ hx => nomatch hx

theorem oxCoreFault (core : Nat) : Statement (.oxCoreFault core) := fun _ _ hx => nomatch hx

theorem errLogFree (k : Nat) (e : Nat) (v : Nat) : Statement (.errLogFree k e v) := fun _ _ hx => nomatch hx

theorem errClear (k : Nat) (v : Nat) : Statement (.errClear k v) := fun _ _ hx => nomatch hx

theorem icuDelivery : Statement (.icuDelivery) := fun _ _ hx => nomatch hx

theorem holdoffExpiry (g : Nat) : Statement (.holdoffExpiry g) := fun _ _ hx => nomatch hx

theorem icuEoi (t : Nat) (src : Nat) (ox : Bool) : Statement (.icuEoi t src ox) := fun _ _ hx => nomatch hx

theorem icuTargetReset (t : Nat) (v : Nat) (ox : Bool) : Statement (.icuTargetReset t v ox) := fun _ _ hx => nomatch hx

theorem icSwRaise (v : Nat) : Statement (.icSwRaise v) := fun _ _ hx => nomatch hx

theorem icStatusClear (v : Nat) : Statement (.icStatusClear v) := fun _ _ hx => nomatch hx

theorem msixTableWrite (off : Nat) (v : Nat) : Statement (.msixTableWrite off v) := fun _ _ hx => nomatch hx

theorem pwrReqRest : Statement (.pwrReqRest) := fun _ _ hx => nomatch hx

theorem pwrReqHold : Statement (.pwrReqHold) := fun _ _ hx => nomatch hx

theorem powerEntryDone : Statement (.powerEntryDone) := fun _ _ hx => nomatch hx

theorem wakeEvent (src : Option Nat) : Statement (.wakeEvent src) := fun _ _ hx => nomatch hx

theorem wakeComplete (keepBad : Bool) (links : Nat) : Statement (.wakeComplete keepBad links) := fun _ _ hx => nomatch hx

theorem idleqEntry (q : Nat) : Statement (.idleqEntry q) := fun h _ hx => Option.some.inj hx ▸ of_decide_eq_true h

theorem governorStep (est : Nat) : Statement (.governorStep est) := fun _ _ hx => nomatch hx

theorem throttleDown (q : Nat) (temps : List Int) : Statement (.throttleDown q temps) := fun h _ hx => Option.some.inj hx ▸ of_decide_eq_true (left h)

theorem throttleUp (q : Nat) (temps : List Int) : Statement (.throttleUp q temps) := fun h _ hx => Option.some.inj hx ▸ of_decide_eq_true (left h)

theorem thermalShutdown (temp : Int) : Statement (.thermalShutdown temp) := fun _ _ hx => nomatch hx

theorem dramOvertemp (temp : Int) : Statement (.dramOvertemp temp) := fun _ _ hx => nomatch hx

theorem avsRequestDone (rail : Nat) : Statement (.avsRequestDone rail) := fun _ _ hx => nomatch hx

theorem avsRetry (rail : Nat) (readback : Option Nat) : Statement (.avsRetry rail readback) := fun _ _ hx => nomatch hx

theorem pwrWarnNChange (level : Bool) : Statement (.pwrWarnNChange level) := fun _ _ hx => nomatch hx

theorem droopDetect : Statement (.droopDetect) := fun _ _ hx => nomatch hx

theorem droopHoldExpiry : Statement (.droopHoldExpiry) := fun _ _ hx => nomatch hx

theorem shedS2Entry : Statement (.shedS2Entry) := fun _ _ hx => nomatch hx

theorem shedS3Entry : Statement (.shedS3Entry) := fun _ _ hx => nomatch hx

theorem shedS4Entry : Statement (.shedS4Entry) := fun _ _ hx => nomatch hx

theorem shedRecovery : Statement (.shedRecovery) := fun _ _ hx => nomatch hx

theorem pwrKeepBaseWrite (v : Nat) : Statement (.pwrKeepBaseWrite v) := fun _ _ hx => nomatch hx

theorem keepCopyDone : Statement (.keepCopyDone) := fun _ _ hx => nomatch hx

theorem pwrCountClear (v : Nat) : Statement (.pwrCountClear v) := fun _ _ hx => nomatch hx

theorem clockSwitchDone (q : Nat) : Statement (.clockSwitchDone q) := fun h _ hx => Option.some.inj hx ▸ of_decide_eq_true h

theorem dramRateSwitchDone (q : Nat) : Statement (.dramRateSwitchDone q) := fun h _ hx => Option.some.inj hx ▸ of_decide_eq_true h

theorem updBlockGo (v : Nat) : Statement (.updBlockGo v) := fun _ _ hx => nomatch hx

theorem updBlockDone (misses : Nat) : Statement (.updBlockDone misses) := fun _ _ hx => nomatch hx

theorem setTrial (tries : Nat) (ok : Bool) : Statement (.setTrial tries ok) := fun _ _ hx => nomatch hx

theorem cancel (ok : Bool) : Statement (.cancel ok) := fun _ _ hx => nomatch hx

theorem confirm (ok : Bool) : Statement (.confirm ok) := fun _ _ hx => nomatch hx

theorem handover (part : Nat) : Statement (.handover part) := fun _ _ hx => nomatch hx

theorem handoverPrepared : Statement (.handoverPrepared) := fun _ _ hx => nomatch hx

theorem handoverWindowTimeout : Statement (.handoverWindowTimeout) := fun _ _ hx => nomatch hx

theorem spineHandover : Statement (.spineHandover) := fun _ _ hx => nomatch hx

theorem spineHandoverSwitch : Statement (.spineHandoverSwitch) := fun _ _ hx => nomatch hx

theorem quarterLeave (q : Nat) : Statement (.quarterLeave q) := fun h _ hx => Option.some.inj hx ▸ of_decide_eq_true h

theorem quarterDrainDone (q : Nat) (me : Nat) (sne : Nat) (sc : Nat) : Statement (.quarterDrainDone q me sne sc) := fun h _ hx => Option.some.inj hx ▸ of_decide_eq_true (left (left (left h)))

theorem quarterRejoin (q : Nat) : Statement (.quarterRejoin q) := fun h _ hx => Option.some.inj hx ▸ of_decide_eq_true h

theorem attest : Statement (.attest) := fun _ _ hx => nomatch hx

theorem readCert (which : Nat) : Statement (.readCert which) := fun _ _ hx => nomatch hx

theorem updCountClear (v : Nat) : Statement (.updCountClear v) := fun _ _ hx => nomatch hx

theorem updMailboxWrite (off : Nat) (data : List Byte) : Statement (.updMailboxWrite off data) := fun _ _ hx => nomatch hx

theorem obsSnap (v : Nat) : Statement (.obsSnap v) := fun _ _ hx => nomatch hx

theorem obsCntClear (v : Nat) : Statement (.obsCntClear v) := fun _ _ hx => nomatch hx

theorem obsDropClear (v : Nat) : Statement (.obsDropClear v) := fun _ _ hx => nomatch hx

theorem obsDrainRptrWrite (v : Nat) : Statement (.obsDrainRptrWrite v) := fun _ _ hx => nomatch hx

end Sys2Proof.Laws.QuarterBound
end

