-- ==== Sys2Proof/Laws/Shader.lean ====
section
/-! SUPPORT. Shader instructions: what an issue does, and what a lane-by-lane instruction leaves in the registers. -/

namespace Sys2Proof.Machine

/-- An issue whose instruction is the row's own, assigned and legal, does what its body does, and is counted. -/
theorem issue_of_issued {s : State} {q n gi : Nat} {t : IssueCtx} {d d' : Dev} (h : Issued s q n gi t d) (mine legal : Ins → Bool)
    (body : IssueCtx → Dev → Issue) (ha : opAssigned t.i.op = true) (hm : mine t.i = true) (hl : legal t.i = true)
    (hb : body t d = .ok d') : issue s.cfg q n gi mine legal body s.dev = obsCount 0x20 q n (some t.x.ctx) 1 d' := by
  obtain ⟨w, hw, hi⟩ := h.word
  have hg := h.group
  have hrq := h.core.2
  rw [h.core.1] at hg hrq hw
  have ht : (⟨coreIdx q n, t.g, t.x, t.rq, t.i, t.pc, t.mask⟩ : IssueCtx) = t := by rw [← h.core.1]
  have hst := h.able.1; have hf := h.able.2.1; have hu := h.able.2.2
  rw [hrq] at hst hw
  simp only [issue, hg, h.next, h.cmd.1, h.noneWaits.1, h.noneWaits.2, hst, hf, h.cmd.2.1, h.cmd.2.2, hu, hw, hi, ha, hm, hl]
  rw [← hrq, ht]
  simp [hb]

/-- A vector register after a write of one register in one lane. -/
theorem rdV_wrV (g : Grp) (r l v : Nat) (m : Bool) (r' l' : Nat) (hl : l < 32) (hl' : l' < 32) :
    rdV (wrV r l v m g) r' l' = if r = r' ∧ l = l' ∧ r < g.regs then (v % 2 ^ 32, m) else rdV g r' l' := by
  unfold wrV
  by_cases hr : g.regs ≤ r
  · rw [if_pos hr, if_neg (by omega)]
  · rw [if_neg hr]
    by_cases hr' : g.regs ≤ r'
    · rw [if_neg (by omega)]; simp [rdV, hr']
    · by_cases he : r * 32 + l = r' * 32 + l'
      · have h1 : r = r' := by omega
        have h2 : l = l' := by omega
        subst h1; subst h2
        rw [if_pos ⟨rfl, rfl, by omega⟩]
        simp [rdV, hr]
      · rw [if_neg (by rintro ⟨rfl, rfl, -⟩; exact he rfl)]
        simp [rdV, hr', aget_aset_ne _ _ _ _ he]

@[simp] theorem wrV_regs (r l v : Nat) (m : Bool) (g : Grp) : (wrV r l v m g).regs = g.regs := by unfold wrV; split <;> rfl

theorem wrV_frame (r l v : Nat) (m : Bool) (g : Grp) (vs : Arr RegVal) : { wrV r l v m g with vregs := vs } = { g with vregs := vs } := by
  unfold wrV; split <;> rfl

/-- Write words to consecutive registers of a lane from register `r`. -/
def wrWords (r l : Nat) (m : Bool) (vs : List Nat) (k : Nat) (g : Grp) : Grp := (vs.zipIdx k).foldl (fun g (v, j) => wrV (r + j) l v m g) g

theorem wrWords_cons (r l : Nat) (m : Bool) (v : Nat) (vs : List Nat) (k : Nat) (g : Grp) :
    wrWords r l m (v :: vs) k g = wrWords r l m vs (k + 1) (wrV (r + k) l v m g) := rfl

theorem wrWords_frame (r l : Nat) (m : Bool) (vs : List Nat) (k : Nat) (g : Grp) (x : Arr RegVal) :
    { wrWords r l m vs k g with vregs := x } = { g with vregs := x } := by
  induction vs generalizing k g with
  | nil => rfl
  | cons v vs ih => rw [wrWords_cons, ih, wrV_frame]

@[simp] theorem wrWords_regs (r l : Nat) (m : Bool) (vs : List Nat) (k : Nat) (g : Grp) : (wrWords r l m vs k g).regs = g.regs := by
  have := congrArg Grp.regs (wrWords_frame r l m vs k g [])
  exact this

/-- A vector register after a write of consecutive registers of one lane. -/
theorem rdV_wrWords (r l : Nat) (m : Bool) (vs : List Nat) (k : Nat) (g : Grp) (r' l' : Nat) (hl : l < 32) (hl' : l' < 32) :
    rdV (wrWords r l m vs k g) r' l' =
      if l = l' ∧ r + k ≤ r' ∧ r' < r + k + vs.length ∧ r' < g.regs then (vs.getD (r' - (r + k)) 0 % 2 ^ 32, m) else rdV g r' l' := by
  induction vs generalizing k g with
  | nil =>
    rw [if_neg (by simp only [List.length_nil]; omega)]; rfl
  | cons v vs ih =>
    rw [wrWords_cons, ih, wrV_regs, rdV_wrV _ _ _ _ _ _ _ hl hl']
    by_cases h0 : r + k = r' ∧ l = l' ∧ r + k < g.regs
    · rw [if_neg (by omega), if_pos h0, if_pos (by simp only [List.length_cons]; omega)]
      simp [show r' - (r + k) = 0 by omega]
    · by_cases h1 : l = l' ∧ r + (k + 1) ≤ r' ∧ r' < r + (k + 1) + vs.length ∧ r' < g.regs
      · rw [if_pos h1, if_pos (by simp only [List.length_cons]; omega)]
        rw [show r' - (r + k) = (r' - (r + (k + 1))) + 1 by omega, List.getD_cons_succ]
      · rw [if_neg h1, if_neg h0, if_neg (by simp only [List.length_cons]; omega)]

/-- Write words in several lanes. -/
def wrLanes (r : Nat) (res : Nat → List Nat) (mk : Nat → Bool) (ls : List Nat) (g : Grp) : Grp :=
  ls.foldl (fun g l => wrWords r l (mk l) (res l) 0 g) g

theorem wrLanes_frame (r : Nat) (res : Nat → List Nat) (mk : Nat → Bool) (ls : List Nat) (g : Grp) (x : Arr RegVal) :
    { wrLanes r res mk ls g with vregs := x } = { g with vregs := x } := by
  induction ls generalizing g with
  | nil => rfl
  | cons l ls ih => exact (ih _).trans (wrWords_frame r l (mk l) (res l) 0 g x)

@[simp] theorem wrLanes_regs (r : Nat) (res : Nat → List Nat) (mk : Nat → Bool) (ls : List Nat) (g : Grp) :
    (wrLanes r res mk ls g).regs = g.regs := by
  have := congrArg Grp.regs (wrLanes_frame r res mk ls g [])
  exact this

/-- A vector register after a write in several lanes, each of `k` words. -/
theorem rdV_wrLanes (r : Nat) (res : Nat → List Nat) (mk : Nat → Bool) (k : Nat) (hk : ∀ l, (res l).length = k) (ls : List Nat) (g : Grp)
    (hls : ∀ l ∈ ls, l < 32) (r' l' : Nat) (hl' : l' < 32) :
    rdV (wrLanes r res mk ls g) r' l' =
      if l' ∈ ls ∧ r ≤ r' ∧ r' < r + k ∧ r' < g.regs then ((res l').getD (r' - r) 0 % 2 ^ 32, mk l') else rdV g r' l' := by
  induction ls generalizing g with
  | nil => simp [wrLanes]
  | cons l ls ih =>
    have hrec := ih (wrWords r l (mk l) (res l) 0 g) (fun x hx => hls x (by simp [hx]))
    have hcons : wrLanes r res mk (l :: ls) g = wrLanes r res mk ls (wrWords r l (mk l) (res l) 0 g) := rfl
    rw [hcons, hrec, wrWords_regs, rdV_wrWords _ _ _ _ _ _ _ _ (hls l (by simp)) hl', hk]
    by_cases hm : l' ∈ ls
    · by_cases hr : r ≤ r' ∧ r' < r + k ∧ r' < g.regs
      · rw [if_pos ⟨hm, hr⟩, if_pos ⟨by simp [hm], hr⟩]
      · rw [if_neg (fun h => hr h.2), if_neg (by omega), if_neg (fun h => hr h.2)]
    · rw [if_neg (fun h => hm h.1)]
      by_cases he : l = l'
      · subst he
        by_cases hr : r ≤ r' ∧ r' < r + k ∧ r' < g.regs
        · rw [if_pos (by omega), if_pos ⟨by simp, hr⟩]; simp
        · rw [if_neg (by omega), if_neg (fun h => hr h.2)]
      · rw [if_neg (fun h => he h.1), if_neg (by simp [hm, Ne.symm he])]

theorem rdV_nextPc (pc m : Nat) (g : Grp) (r l : Nat) : rdV (nextPc pc m g) r l = rdV g r l := rfl

/-- A group whose issuing lanes took results in consecutive registers and went on. -/
theorem laneResult_of (t : IssueCtx) (act : List Nat) (k : Nat) (res : Nat → List Nat) (mk : Nat → Bool) (hk : ∀ l, (res l).length = k)
    (ha : ∀ l ∈ act, l < 32) : LaneResult t act k res mk (nextPc t.pc t.mask (wrLanes t.i.d res mk act t.g)) where
  written := by
    intro l hl j hj hr
    rw [rdV_nextPc, rdV_wrLanes _ _ _ k hk _ _ ha _ _ (ha l hl), if_pos ⟨hl, by omega, by omega, hr⟩, show t.i.d + j - t.i.d = j by omega]
  absent := by
    intro r l hr
    have : (wrLanes t.i.d res mk act t.g).regs ≤ r := by rwa [wrLanes_regs]
    rw [rdV_nextPc, rdV, if_pos this]
  kept := by
    intro r l hl hn
    rw [rdV_nextPc, rdV_wrLanes _ _ _ k hk _ _ ha _ _ hl, if_neg (fun h => hn ⟨h.1, h.2.1, h.2.2.1⟩)]
  frame := by
    have h := wrLanes_frame t.i.d res mk act t.g t.g.vregs
    have : { nextPc t.pc t.mask (wrLanes t.i.d res mk act t.g) with vregs := t.g.vregs } =
        nextPc t.pc t.mask { wrLanes t.i.d res mk act t.g with vregs := t.g.vregs } := rfl
    rw [this, h]

/-- The lanes of a mask are below 32. -/
theorem lanes_lt (m l : Nat) (h : l ∈ lanes m) : l < 32 := by
  have := (List.mem_filter.1 h).1
  simpa using this

theorem act_lt (t : IssueCtx) (l : Nat) (h : l ∈ t.act) : l < 32 := lanes_lt t.mask l (List.mem_filter.1 h).1

/-! ### Rows -/

/-- A row that issues an instruction answers the next state that its body leaves. -/
theorem issueRow_of {s : State} {q n gi : Nat} {t : IssueCtx} {d d' : Dev} (x : Instr) (mine legal : Ins → Bool) (body : IssueCtx → Dev → Issue)
    (he : exec x s = onDev (decide (q < 4) && decide (n < 6) && decide (gi < 48)) (fun c => inRun (issue c q n gi mine legal body)) s)
    (h : Issued s q n gi t d) (ha : opAssigned t.i.op = true) (hm : mine t.i = true) (hl : legal t.i = true) (hb : body t d = .ok d') :
    exec x s = .next (s.issued q n t d') := by
  have hw : (decide (q < 4) && decide (n < 6) && decide (gi < 48)) = true := by simp [h.place.1, h.place.2.1, h.place.2.2]
  rw [he, hw, onDev_next, inRun_of h.running, issue_of_issued h mine legal body ha hm hl hb]
  rfl

/-- A lane-by-lane opcode that is assigned and legal performs its operation in the lanes whose guard holds. -/
theorem laneOp_of_issued {s : State} {q n gi : Nat} {t : IssueCtx} {d : Dev} (h : Issued s q n gi t d) (sh : Shape) (more : Ins → Bool)
    (f : Ins → LaneIn → List Nat) (hp : sh.pred = false) (ha : opAssigned t.i.op = true) (hl : shapeOk sh t.i = true) (hm : more t.i = true)
    (hu : sh.ps = false ∨ t.i.op ≠ 0x11 ∧ t.i.op ≠ 0x25) :
    laneOp s.cfg t.i.op q n gi sh more f s.dev = obsCount 0x20 q n (some t.x.ctx) 1 (setGrp t.k (nextPc t.pc t.mask
      (wrLanes t.i.d (fun l => f t.i (laneIn sh t l)) (laneMark sh true t) t.act t.g)) d) := by
  refine issue_of_issued h _ _ _ ha (by simp) (by simp [hl, hm]) ?_
  have hb : ∀ l, (if sh.b = 0 ∧ t.i.imm = false then (([] : List Nat), false) else rdB t.g t.i sh.b l) =
      ((laneIn sh t l).b, if sh.b = 0 ∧ t.i.imm = false then false else (rdB t.g t.i sh.b l).2) := by
    intro l; unfold laneIn; split <;> rfl
  have hc : ∀ l, (if t.i.imm then (([] : List Nat), false) else rdSrc t.g t.i.cu t.i.c sh.c l) =
      ((laneIn sh t l).c, if t.i.imm then false else (rdSrc t.g t.i.cu t.i.c sh.c l).2) := by
    intro l; unfold laneIn; split <;> rfl
  have hps : ∀ l, (if sh.ps = true then rdP t.g t.i.ps l else (false, false)) =
      ((laneIn sh t l).ps, if sh.ps = true then (rdP t.g t.i.ps l).2 else false) := by
    intro l; unfold laneIn; simp only; split <;> rfl
  have hused : ∀ l, (sh.ps && (t.i.op != 0x11 && t.i.op != 0x25 || bits t.i.x 5 4 != 0) && (if sh.ps = true then (rdP t.g t.i.ps l).2 else false)) =
      (sh.ps && true && (rdP t.g t.i.ps l).2) := by
    intro l
    rcases hu with hu | hu
    · simp [hu]
    · simp [hu.1, hu.2]; cases sh.ps <;> simp
  simp only [perform, hp, hb, hc, hps, List.foldl_map, Bool.false_eq_true, if_false, wrLanes, wrWords]
  rw [Issue.ok.injEq]
  congr 2
  refine congrArg (fun F => t.act.foldl F t.g) ?_
  funext g l
  simp only [hused]
  rfl

/-- Reading `n` registers answers `n` words. -/
@[simp] theorem rdSrc_length (g : Grp) (u : Bool) (f n l : Nat) : (rdSrc g u f n l).1.length = n := by simp [rdSrc]

/-- A row whose meaning is a lane-by-lane opcode keeps the promise of `LaneRow`: its result need be the promised one only on what a lane
gives an instruction of the shape. -/
theorem laneRow_of_shape {row : Nat → Nat → Nat → Instr} {op : Nat} {sh : Shape} {more : Ins → Bool} {k : Nat} {res : Ins → LaneIn → List Nat}
    (f : Ins → LaneIn → List Nat)
    (he : ∀ q n gi s, exec (row q n gi) s =
      onDev (decide (q < 4) && decide (n < 6) && decide (gi < 48)) (fun c => inRun (laneOp c op q n gi sh more f)) s)
    (hf : ∀ (t : IssueCtx) (l : Nat), shapeOk sh t.i = true → more t.i = true → f t.i (laneIn sh t l) = res t.i (laneIn sh t l))
    (hk : ∀ i x, (res i x).length = k)
    (hp : sh.pred = false) (ha : opAssigned op = true) (hu : sh.ps = false ∨ op ≠ 0x11 ∧ op ≠ 0x25) :
    LaneRow row op sh more k res := by
  intro s q n gi t d h ho hl hm
  subst ho
  have hf' : (fun l => f t.i (laneIn sh t l)) = (fun l => res t.i (laneIn sh t l)) := funext fun l => hf t l hl hm
  refine ⟨_, laneResult_of t t.act k (fun l => res t.i (laneIn sh t l)) (laneMark sh true t) (fun l => hk _ _) (fun l hl => act_lt t l hl), ?_⟩
  have hw : (decide (q < 4) && decide (n < 6) && decide (gi < 48)) = true := by simp [h.place.1, h.place.2.1, h.place.2.2]
  rw [he, hw, onDev_next, inRun_of h.running, laneOp_of_issued h sh more f hp ha hl hm hu, hf']
  rfl

/-- The same where the two results agree on every input. -/
theorem laneRow_of {row : Nat → Nat → Nat → Instr} {op : Nat} {sh : Shape} {more : Ins → Bool} {k : Nat} {res : Ins → LaneIn → List Nat}
    (f : Ins → LaneIn → List Nat)
    (he : ∀ q n gi s, exec (row q n gi) s =
      onDev (decide (q < 4) && decide (n < 6) && decide (gi < 48)) (fun c => inRun (laneOp c op q n gi sh more f)) s)
    (hf : ∀ i x, f i x = res i x) (hk : ∀ i x, (res i x).length = k)
    (hp : sh.pred = false) (ha : opAssigned op = true) (hu : sh.ps = false ∨ op ≠ 0x11 ∧ op ≠ 0x25) :
    LaneRow row op sh more k res :=
  laneRow_of_shape f he (fun t l _ _ => hf t.i (laneIn sh t l)) hk hp ha hu

/-- The opcode of a comparison performs it in the lanes whose guard holds. -/
theorem predOp_of_issued {s : State} {q n gi : Nat} {t : IssueCtx} {d : Dev} (h : Issued s q n gi t d) (sh : Shape) (more usesPs : Ins → Bool)
    (f : Ins → LaneIn → List Nat) (hp : sh.pred = true) (ha : opAssigned t.i.op = true) (hl : shapeOk sh t.i = true) (hm : more t.i = true)
    (hu : (sh.ps && (t.i.op != 0x11 && t.i.op != 0x25 || bits t.i.x 5 4 != 0)) = (sh.ps && usesPs t.i)) :
    laneOp s.cfg t.i.op q n gi sh more f s.dev = obsCount 0x20 q n (some t.x.ctx) 1 (setGrp t.k (nextPc t.pc t.mask
      (t.act.foldl (fun g l => wrP t.i.d l (wd (f t.i (laneIn sh t l)) 0 != 0) (laneMark sh (usesPs t.i) t l) g) t.g)) d) := by
  refine issue_of_issued h _ _ _ ha (by simp) (by simp [hl, hm]) ?_
  have hb : ∀ l, (if sh.b = 0 ∧ t.i.imm = false then (([] : List Nat), false) else rdB t.g t.i sh.b l) =
      ((laneIn sh t l).b, if sh.b = 0 ∧ t.i.imm = false then false else (rdB t.g t.i sh.b l).2) := by
    intro l; unfold laneIn; split <;> rfl
  have hc : ∀ l, (if t.i.imm then (([] : List Nat), false) else rdSrc t.g t.i.cu t.i.c sh.c l) =
      ((laneIn sh t l).c, if t.i.imm then false else (rdSrc t.g t.i.cu t.i.c sh.c l).2) := by
    intro l; unfold laneIn; split <;> rfl
  have hps : ∀ l, (if sh.ps = true then rdP t.g t.i.ps l else (false, false)) =
      ((laneIn sh t l).ps, if sh.ps = true then (rdP t.g t.i.ps l).2 else false) := by
    intro l; unfold laneIn; simp only; split <;> rfl
  have hused : ∀ l, (sh.ps && (t.i.op != 0x11 && t.i.op != 0x25 || bits t.i.x 5 4 != 0) && (if sh.ps = true then (rdP t.g t.i.ps l).2 else false)) =
      (sh.ps && usesPs t.i && (rdP t.g t.i.ps l).2) := by
    intro l; rw [hu]; cases sh.ps <;> simp
  simp only [perform, hp, hb, hc, hps, List.foldl_map, if_true]
  rw [Issue.ok.injEq]
  congr 2
  refine congrArg (fun F => t.act.foldl F t.g) ?_
  funext g l
  simp only [hused]
  rfl

/-- A row of a comparison keeps the promise of `PredRow`. -/
theorem predRow_of {row : Nat → Nat → Nat → Instr} {op : Nat} {sh : Shape} {usesPs : Ins → Bool} {res : Ins → LaneIn → Bool}
    (f : Ins → LaneIn → List Nat)
    (he : ∀ q n gi s, exec (row q n gi) s =
      onDev (decide (q < 4) && decide (n < 6) && decide (gi < 48)) (fun c => inRun (laneOp c op q n gi sh (fun _ => true) f)) s)
    (hf : ∀ (t : IssueCtx) (l : Nat), shapeOk sh t.i = true → (wd (f t.i (laneIn sh t l)) 0 != 0) = res t.i (laneIn sh t l))
    (hp : sh.pred = true) (ha : opAssigned op = true)
    (hu : ∀ i : Ins, (sh.ps && (op != 0x11 && op != 0x25 || bits i.x 5 4 != 0)) = (sh.ps && usesPs i)) :
    PredRow row op sh usesPs res := by
  intro s q n gi t d h ho hl
  subst ho
  have hf' : (fun (g : Grp) l => wrP t.i.d l (wd (f t.i (laneIn sh t l)) 0 != 0) (laneMark sh (usesPs t.i) t l) g) =
      (fun g l => wrP t.i.d l (res t.i (laneIn sh t l)) (laneMark sh (usesPs t.i) t l) g) := by
    funext g l; rw [hf t l hl]
  have hw : (decide (q < 4) && decide (n < 6) && decide (gi < 48)) = true := by simp [h.place.1, h.place.2.1, h.place.2.2]
  rw [he, hw, onDev_next, inRun_of h.running, predOp_of_issued h sh _ usesPs f hp ha hl rfl (hu t.i), hf']
  rfl

end Sys2Proof.Machine
end

