-- ==== Sys2Proof/Tests/Slice0.lean ====
section
/-! SUPPORT. Tests: ill-formed commands are refused, shader words decode to what they spell, and for every statement a state and operands that meet its
hypotheses. The states are small changes of one ready device. -/

set_option maxRecDepth 100000

namespace Sys2Proof.Tests

open Sys2Proof Sys2Proof.Machine

/-! ### States to test on -/

/-- A list of numbers as bytes. -/
def bytes (l : List Nat) : List Byte := l.map (BitVec.ofNat 8)

/-- A device that is READY and in RUN: every domain on, every microcode in force, the link up. -/
def readyDev : Dev :=
  let d := State.reset.dev
  { d with
    boot := { d.boot with phase := 2, bootStatus := 1, microcode := 0xF7F, oxqRunning := 0xF, oxsStandbyOk := true }
    clk := { d.clk with domains := List.replicate 27 1, step := [20, 20, 20, 20], rail := [650, 650, 650, 650, 750] }
    host := { d.host with linkUp := true, width := 8, rate := 5, perstLow := false, busMaster := true }
    phe := { d.phe with tb := 100000000 } }

/-- The records of R49 with submission in DIRECT mode, both pipes on, a monitor on ring 7 and an input on each pin. -/
def testCfg : Cfg :=
  { Cfg.absent with
    submit := ⟨1, 4, 10⟩
    phaseInput := [⟨1, 0, 1, 20, 4, 1000, 100000, 3⟩, ⟨1, 0, 1, 20, 4, 1000, 100000, 3⟩] ++ (Cfg.absent.phaseInput.drop 2)
    deadlineMon := (List.replicate 7 none) ++ [some ⟨1, 10, 63, 1, 0, 0x80000000, 0x1000, 1, 2⟩]
    display := [⟨1, 4, 1500, 1280, 20, 20, 20, 720, 5, 5, 5, 74250, 0⟩, ⟨1, 4, 2700, 1920, 40, 40, 80, 1080, 5, 5, 10, 148500, 0⟩] }

def ready : State := { cfg := testCfg, dev := readyDev, pending := [] }

def onDevice (f : Dev → Dev) (s : State) : State := { s with dev := f s.dev }

/-- Bytes at a bus address. -/
def busAt (a : Nat) (l : List Byte) : State → State :=
  onDevice (fun d => { d with host := { d.host with busMem := memWrite d.host.busMem a l } })

/-- Context 63 is ACTIVE, and a unit's micro-TLB, or the table that the walk cache names for a unit without one, maps its first GiB to the bus and its second
to DRAM. -/
def mapped (cls q i : Nat) (s : State) : State := busAt 0xE000 (leBytes 8 (2 ^ 47 + 5) ++ leBytes 8 5) <| s |> onDevice (fun d => { d with
  fe := { d.fe with ctxs := aset d.fe.ctxs 63 ⟨1, 0, 2 ^ 40⟩ }
  mmu := { d.mmu with wc := [⟨63, 3, 0, 2 ^ 47 + 0xE000⟩], utlb := aset d.mmu.utlb (cls * 32 + (if q < 4 then q * 8 else 0) + i) [⟨63, 0, 30, 2 ^ 47, true, false⟩, ⟨63, 2 ^ 30, 30, 0, true, false⟩] } })

/-- A dispatched command of context 63 and ring 63. -/
def theCmd : Cmd := { (default : Cmd) with serial := 1, ring := 63, ctx := 63, phase := .dispatched, ready := true, waitRes := 1, dispatchTb := 99999999 }

/-- A ring with its commands. -/
def withRing (r : Nat) (f : Ring → Ring) : State → State := onDevice (fun d => { d with
  fe := { d.fe with rings := amod d.fe.rings r (fun x => f { x with bound := true, ctx := 63, size := 256, base := 0x10000, cqBase := 0x20000, cqSize := 256 }) } })

def withCmd (x : Cmd) : State → State := withRing x.ring (fun r => { r with cmds := [x] })

/-! ### Shader instructions -/

/-- Core 5 of quarter 3 with group 47 at a word; `st` says which lanes are eligible. Lane 31 holds 0x2000 in every even register below 64 but 0x40002000 in V40, and
0 in every odd one. -/
def shader (w kind : Nat) (st : List Nat) : State :=
  let g : Grp := { (default : Grp) with
    serial := 1, kind := kind, regs := 64, preds := List.replicate 8 0, predMarks := List.replicate 8 0
    pc := List.replicate 32 0x1000, st := st, bar := List.replicate 32 0, lock := List.replicate 32 0
    vregs := (List.range 64).flatMap (fun r => if r % 2 = 0 then [(r * 32 + 31, ⟨if r = 40 then 0x40002000 else 0x2000, false, true⟩)] else [(r * 32 + 31, ⟨0, false, true⟩)])
    uni := (List.range 64).map (fun r => (r, ⟨0, false, true⟩)) }
  let k : Core := { (default : Core) with
    blocks := [⟨0, 1, 63, 63, kind, 0, 0, 0x4000, true, 0, 0⟩], groups := List.replicate 47 { g with st := List.replicate 32 1 } ++ [g] }
  busAt 0x1000 (leBytes 8 w) (mapped 4 3 5 (withCmd { theCmd with entry := { (default : Entry) with cls := 4, quarter := 3 } }
    (onDevice (fun d => { d with cores := d.cores.set 23 k }) ready)))

def lane31 : List Nat := List.replicate 31 1 ++ [0]

/-- What an issue knows, as far as the state gives it. -/
def issueOf (s : State) (q n gi w : Nat) : IssueCtx :=
  let k := coreIdx q n
  let g := (coreOf (coreErrors k s.dev) k).groups.getD gi default
  let x := (cmdOf s.dev g.serial).getD default
  let p := (issuing g).getD (0, 0)
  ⟨k, g, x, rqCore s.cfg x k, decodeIns w, p.1, p.2⟩

/-- The device after the word is read. -/
def afterFetch (s : State) (q n gi w : Nat) : Dev :=
  (runEng (fetchWord s.cfg (issueOf s q n gi w).rq (issueOf s q n gi w).pc) (coreErrors (coreIdx q n) s.dev)).2

/-- Whether the group issues the word. -/
def issues (s : State) (q n gi w : Nat) : Bool :=
  let t := issueOf s q n gi w
  s.dev.boot.phase == 2 && s.dev.clk.domains.getD 1 0 == 1 && s.dev.pwr.state == 0 && decide (q < 4 ∧ n < 6 ∧ gi < 48) &&
    decide (gi < (coreOf (coreErrors t.k s.dev) t.k).groups.length) && (issuing t.g).isSome && (cmdOf s.dev t.g.serial).isSome && !t.x.expired &&
    (ctxOf s.dev t.x.ctx).state == 1 && !t.g.rays.any (fun r => bit t.mask r.lane) && !(lanes t.mask).any (fun l => t.g.lock.getD l 0 == 1) &&
    !unitStalled s.dev t.rq && !faulted s.dev && unitUp s.dev 4 q n &&
    (match (runEng (fetchWord s.cfg t.rq t.pc) (coreErrors t.k s.dev)).1 with
     | .ok v => v == w
     | .error _ => false)

theorem some_getD {α : Type} {o : Option α} {x : α} (h : o.isSome = true) : o = some (o.getD x) := by
  cases o with
  | none => cases h
  | some a => rfl

theorem issued_of {s : State} {q n gi w : Nat} (h : issues s q n gi w = true) : Issued s q n gi (issueOf s q n gi w) (afterFetch s q n gi w) := by
  simp only [issues, Bool.and_eq_true, decide_eq_true_eq, beq_iff_eq, Bool.not_eq_true'] at h
  obtain ⟨⟨⟨⟨⟨⟨⟨⟨⟨⟨⟨⟨⟨⟨h1, h2⟩, h3⟩, h4⟩, h5⟩, h6⟩, h7⟩, h8⟩, h9⟩, h10⟩, h11⟩, h12⟩, h13⟩, h14⟩, h15⟩ := h
  refine ⟨⟨h1, h2, h3⟩, h4, ⟨rfl, rfl⟩, ?_, ?_, ⟨?_, h8, h9⟩, ⟨h10, h11⟩, ⟨h12, h13, h14⟩, ?_⟩
  · have h5 : gi < (coreOf (coreErrors (coreIdx q n) s.dev) (coreIdx q n)).groups.length := h5
    show (coreOf (coreErrors (coreIdx q n) s.dev) (coreIdx q n)).groups[gi]? = some ((coreOf (coreErrors (coreIdx q n) s.dev) (coreIdx q n)).groups.getD gi default)
    simp [List.getD_eq_getElem?_getD, List.getElem?_eq_getElem h5]
  · exact some_getD h6
  · exact some_getD h7
  · refine ⟨w, ?_, rfl⟩
    cases hr : (runEng (fetchWord s.cfg (issueOf s q n gi w).rq (issueOf s q n gi w).pc) (coreErrors (issueOf s q n gi w).k s.dev)).1 with
    | ok v => simp only [hr, beq_iff_eq] at h15; subst h15; exact Prod.ext hr rfl
    | error e => simp [hr] at h15

/-- Whether engine work ends. -/
def ends {α : Type} (e : Eng α) (d : Dev) : Bool :=
  match (runEng e d).1 with
  | .ok _ => true
  | .error _ => false

theorem ok_of {α : Type} {e : Eng α} {d : Dev} (h : ends e d = true) : ∃ a d', runEng e d = (.ok a, d') := by
  cases hr : (runEng e d).1 with
  | ok a => exact ⟨a, (runEng e d).2, Prod.ext hr rfl⟩
  | error x => simp [ends, hr] at h

/-- The word of an opcode over registers in range: D is V2, A is V12, B is V22, C is V32. -/
def wordOf (op md x : Nat) (sh : Shape) : Nat :=
  encodeIns { (default : Ins) with
    op := op, md := md, x := x
    d := if sh.pred then 7 else if sh.dst = 0 then 0 else 2
    a := if sh.a = 0 then 0 else 12, b := if sh.b = 0 then 0 else 22, c := if sh.c = 0 then 0 else 32 }

/-- A word issues in a legal form at the last group of the last core. -/
def legalAt (w : Nat) (st : List Nat) (op : Nat) (sh : Shape) : Bool :=
  issues (shader w 0 st) 3 5 47 w && (decodeIns w).op == op && shapeOk sh (decodeIns w)

/-- Forms of rows: opcode, MOD, X, shape. -/
def legalForms (st : List Nat) (l : List (Nat × Nat × Nat × Shape)) : Bool := l.all (fun p => legalAt (wordOf p.1 p.2.1 p.2.2.1 p.2.2.2) st p.1 p.2.2.2)

theorem legal_forms {st : List Nat} {l : List (Nat × Nat × Nat × Shape)} (h : legalForms st l = true) :
    ∀ p ∈ l, ∃ s t d, Issued s 3 5 47 t d ∧ t.i.op = p.1 ∧ shapeOk p.2.2.2 t.i = true ∧ t.i = decodeIns (wordOf p.1 p.2.1 p.2.2.1 p.2.2.2) := by
  intro p hp
  have h := List.all_eq_true.mp h p hp
  simp only [legalAt, Bool.and_eq_true, beq_iff_eq] at h
  exact ⟨_, _, _, issued_of h.1.1, h.1.2, h.2, rfl⟩

/-! IntegerTwoOperandRows. -/

theorem witness_IntegerTwoOperandRows : legalForms lane31
    [(0x01, 2, 0, upTo 2 1 1 0 1), (0x02, 1, 0, upTo 2 1 1 0 1), (0x03, 2, 0, upTo 2 1 1 0 1), (0x05, 1, 0, upTo 1 1 1 0 1),
     (0x06, 1, 0, upTo 1 1 1 0 1), (0x07, 0, 0, plain 1 1 0 1), (0x08, 0, 0, plain 1 1 0 1), (0x09, 0, 0, plain 1 1 0 1),
     (0x0A, 0, 0, plain 1 1 0 1), (0x0B, 1, 0, upTo 1 1 1 0 1), (0x13, 0, 0, plain 0 1 0 1)] = true := by decide

/-! IntegerOneAndThreeOperandRows. -/

theorem witness_IntegerOneAndThreeOperandRows : legalForms lane31
    [(0x00, 0, 0, { plain 0 0 0 0 with dst := 0 }), (0x04, 0, 0, plain 1 1 1 0), (0x0C, 0, 0, plain 1 0 0 0), (0x0D, 0, 0, plain 1 0 0 0),
     (0x0E, 0, 0, plain 1 0 0 0), (0x0F, 1, 0, upTo 1 1 1 0 0), (0x10, 0, 0, plain 1 1 1 0), (0x12, 0, 0, { plain 1 1 0 0 with ps := true }),
     (0x11, 0, 0x2D, { plain 1 1 0 0 with pred := true, ps := true, x := fun x => decide (bits x 2 0 ≤ 5) && bits x 5 4 != 3 && bits x 8 6 == 0 }),
     (0x14, 0, 0, plain 1 0 0 0),
     (0x15, 0, 4, { plain 0 0 0 0 with x := fun x => decide (bits x 3 0 ≤ 4) && bits x 8 4 == 0 })] = true := by decide

/-! FloatArithmeticRows. -/

theorem witness_FloatArithmeticRows : legalForms lane31
    [(0x20, 2, 0, fpShape 1 0 1 15), (0x21, 1, 15, fpShape 1 0 1 15), (0x22, 2, 31, fpShape 1 1 0 31), (0x23, 0, 0, fpShape 1 0 1 15),
     (0x24, 2, 0, fpShape 1 0 1 15),
     (0x25, 2, 0x25, { plain 1 1 0 0 with
        md := fun m => decide (m ≤ 2), pred := true, ps := true
        x := fun x => decide (bits x 2 0 ≤ 5) && !bit x 3 && bits x 5 4 != 3 && bits x 8 6 == 0 }),
     (0x2D, 2, 0, { plain 2 2 1 0 with md := fun m => m == 1 || m == 2 }),
     (0x2E, 2, 0, { plain 1 1 0 0 with dst := 2, md := fun m => decide (m ≤ 2) }),
     (0x2F, 0, 0, { plain 1 1 0 0 with dst := 2, md := fun m => decide (m ≤ 2) })] = true := by decide

/-! FloatFunctionRows. -/

theorem witness_FloatFunctionRows : legalForms lane31
    [(0x26, 2, 3, fpShape 0 0 0 3), (0x27, 1, 0, fpShape 0 0 0 3), (0x28, 0, 0, fpShape 0 0 0 3), (0x29, 2, 0, fpShape 0 0 0 3),
     (0x2A, 0, 0, fpShape 0 0 0 3), (0x2B, 0, 3, fpShape 0 0 0 3), (0x2C, 1, 0, fpShape 0 0 0 3)] = true := by decide

/-! FloatFunctionValues. -/

theorem witness_FloatFunctionValues : (Ex.ofInt (-1)).isNeg = true ∧ (Ex.ofInt 0).isNeg = false ∧ (Ex.ofInt 200).lt (Ex.ofInt 200) = false ∧
    (Ex.ofInt (-200)).lt (Ex.ofInt (-200)) = false ∧ (Ex.ofInt 3).n % ((Ex.ofInt 3).d : Int) = 0 ∧
    ((Ex.ofInt 3).scale (-1)).n % (((Ex.ofInt 3).scale (-1)).d : Int) ≠ 0 ∧ 6 < 7 := by decide

/-! LogAndConversionRows. -/

theorem witness_LogAndConversionRows : legalForms lane31
    [(0x30, 0, 0, plain 1 1 0 0), (0x31, 0, 0, plain 1 1 0 0), (0x32, 0, 0, plain 1 1 0 0), (0x33, 0, 0, plain 1 0 0 0),
     (0x38, 0, 0x58, { plain 1 0 0 0 with md := fun _ => true, x := cvtX }), (0x38, 3, 0x80, { plain 1 0 0 0 with md := fun _ => true, x := cvtX }),
     (0x39, 0, 0x50, { plain 1 1 0 0 with md := fun _ => true, x := cvt2X })] = true ∧
    (!inRange (bits (decodeIns (wordOf 0x38 3 0x80 { plain 1 0 0 0 with md := fun _ => true, x := cvtX })).x 7 4) 5 6) = true := by decide

/-! ShaderMemoryRows. -/

/-- The lanes' accesses go through. -/
def accesses (s : State) (t : IssueCtx) (size access : Nat) (off : Bool) (bus : LanePa → Option Nat) (d : Dev) : Bool :=
  let r := translateLanes s.cfg t.rq t.x.ctx access ((toPerform t).map (laneVa t off)) d
  !t.act.any (fun l => bit t.g.fenced l) && (vaFault size ((toPerform t).map (laneVa t off))).isNone && !r.2.1 && (paFault s.cfg t.rq size r.2.2 bus r.1).isNone

theorem accessed_of {s : State} {t : IssueCtx} {size access : Nat} {off : Bool} {bus : LanePa → Option Nat} {d : Dev}
    (h : accesses s t size access off bus d = true) : ∃ ps d', Accessed s t size access off bus d ps d' := by
  simp only [accesses, Bool.and_eq_true, Bool.not_eq_true', Option.isNone_iff_eq_none] at h
  obtain ⟨⟨⟨h1, h2⟩, h3⟩, h4⟩ := h
  refine ⟨_, _, h1, h2, ?_, h4⟩
  exact Prod.ext rfl (Prod.ext h3 rfl)

/-- A local access of the issuing lanes goes through. -/
def localGoes (s : State) (w : Nat) (size : Nat) (off : Bool) : Bool :=
  let t := issueOf s 3 5 47 w
  let b := blkOf (afterFetch s 3 5 47 w) t.k t.g
  (localFault (if t.g.kind = 2 then b.lo else 0) b size (t.act.map (laneLocal t off))).isNone

/-- A word with its register fields. -/
def wordAt (op md d a b c x : Nat) : Nat := encodeIns { (default : Ins) with op := op, md := md, d := d, a := a, b := b, c := c, x := x }

theorem witness_ShaderMemoryRows_cld : [0x40, 0x46].all (fun op =>
    let w := wordAt op 1 2 12 23 0 0
    let s := shader w 0 lane31
    legalAt w lane31 op { plain 2 1 0 1 with dst := sizeWords (loadSize (op - 0x40)), md := fun m => decide (m ≤ 1) } && inRange op 0x40 0x46 &&
      accesses s (issueOf s 3 5 47 w) (loadSize (op - 0x40)) 1 true (fun _ => none) (afterFetch s 3 5 47 w)) = true := by decide

theorem witness_ShaderMemoryRows_cst : [0x48, 0x4C].all (fun op =>
    let w := wordAt op 0 4 12 23 0 0
    let s := shader w 0 lane31
    let t := issueOf s 3 5 47 w
    legalAt w lane31 op { plain 2 1 0 1 with dst := sizeWords (2 ^ (op - 0x48)), md := fun m => decide (m ≤ 1) } && inRange op 0x48 0x4C &&
      accesses s t (2 ^ (op - 0x48)) 2 true (fun p => if ppoison (storeData t (2 ^ (op - 0x48)) p.lane) then some 6 else none)
        (afterFetch s 3 5 47 w)) = true := by decide

theorem witness_ShaderMemoryRows_local : [0x50, 0x56].all (fun op =>
    let w := wordAt op 0 2 12 23 0 0
    legalAt w lane31 op { plain 1 1 0 1 with dst := sizeWords (loadSize (op - 0x50)) } && inRange op 0x50 0x56 &&
      localGoes (shader w 0 lane31) w (loadSize (op - 0x50)) true) = true ∧ [0x58, 0x5C].all (fun op =>
    let w := wordAt op 0 4 12 23 0 0
    legalAt w lane31 op { plain 1 1 0 1 with dst := sizeWords (2 ^ (op - 0x58)) } && inRange op 0x58 0x5C &&
      localGoes (shader w 0 lane31) w (2 ^ (op - 0x58)) true) = true := by decide

theorem witness_ShaderMemoryRows_atomics : [0, 0x19].all (fun x =>
    let w := wordAt 0x60 0 2 40 22 32 x
    let s := shader w 0 lane31
    let t := issueOf s 3 5 47 w
    legalAt w lane31 0x60 (atomShape 2 (decodeIns w)) &&
      accesses s t (if bit x 4 then 8 else 4) 4 false (fun p => some (if (atomArgs t p.lane).2.2 then 6 else 7)) (afterFetch s 3 5 47 w)) = true ∧
    [0, 0x19].all (fun x =>
    let w := wordAt 0x61 0 2 12 22 32 x
    legalAt w lane31 0x61 (atomShape 1 (decodeIns w)) && localGoes (shader w 0 lane31) w (if bit x 4 then 8 else 4) false) = true := by decide

/-! GroupExchangeRows. -/

theorem witness_GroupExchangeRows_xlane :
    (let w := wordAt 0x70 3 2 12 22 0 5
     legalAt w lane31 0x70 { plain 1 1 0 1 with guard := false, ps := true, md := fun _ => true, x := fun _ => true } &&
       inRange (bits (decodeIns w).x 2 0) 1 5 && bits (decodeIns w).x 8 3 == 0 && !(decodeIns w).imm) = true := by decide

theorem witness_GroupExchangeRows_votes :
    legalForms lane31 [(0x71, 1, 1, { plain 0 0 0 0 with guard := false, ps := true, pred := true, md := fun m => decide (m ≤ 2), x := fun x => decide (x < 2) }),
      (0x71, 2, 0, { plain 0 0 0 0 with guard := false, ps := true, pred := false, md := fun m => decide (m ≤ 2), x := fun x => decide (x < 2) }),
      (0x72, 0, 0, { plain 1 0 0 0 with guard := false })] = true := by decide

theorem witness_GroupExchangeRows_matrix : [(0x78, 4, 4), (0x79, 2, 4), (0x7A, 8, 8)].all (fun p =>
    let w := wordAt p.1 0 0 8 16 40 32
    legalAt w (List.replicate 32 0) p.1 { plain p.2.1 p.2.2 8 0 with dst := 8, guard := false, uni := false, x := fun x => decide (x < 256) } &&
      (issueOf (shader w 0 (List.replicate 32 0)) 3 5 47 w).mask == 2 ^ 32 - 1 &&
      decide ((decodeIns w).d + 8 ≤ (decodeIns w).a ∧ (decodeIns w).d + 8 ≤ (decodeIns w).b ∧ (decodeIns w).d + 8 ≤ (decodeIns w).x)) = true := by decide

/-! ControlFlowRows. -/

/-- A word with an immediate. -/
def wordImm (op d iv : Nat) : Nat := encodeIns { (default : Ins) with op := op, imm := true, d := d, iv := iv }

theorem witness_ControlFlowRows :
    [(wordImm 0x80 0 0xFFFFFFFF, 0x80, { plain 0 0 0 2 with dst := 0 }), (wordAt 0x81 0 0 12 0 0 0, 0x81, { plain 2 0 0 0 with dst := 0 }),
     (wordImm 0x82 2 1, 0x82, { plain 0 0 0 2 with dst := 2 }), (wordAt 0x83 0 0 0 0 0 0, 0x83, { plain 0 0 0 0 with dst := 0 })].all (fun p =>
      let t := issueOf (shader p.1 0 lane31) 3 5 47 p.1
      legalAt p.1 lane31 p.2.1 p.2.2 && !guardMarked t && t.act.all (fun l => !(rdSrc t.g t.i.au t.i.a 2 l).2 && wd (rdSrc t.g t.i.au t.i.a 2 l).1 0 % 8 == 0 || p.2.1 != 0x81))
      = true := by decide

/-! BarrierFenceAndInterlockRows. -/

theorem witness_BarrierFenceAndInterlockRows_issue : legalForms lane31
    [(0x73, 0, 0, { plain 0 0 0 0 with dst := 0, guard := false }),
     (0x73, 1, 3, { plain 0 0 0 0 with dst := 0, guard := false, md := (· == 1), x := fun x => decide (x < 4) }),
     (0x64, 0, 0, { plain 0 0 0 0 with dst := 0 })] = true := by decide

/-- A pass with INTERLOCK is in progress. -/
def withPass (f : Pass → Pass) : State → State := onDevice (fun d => { d with til := some (f { (default : Pass) with
  serial := 1, ring := 63, ctx := 63, desc := bytes [0, 0, 1] ++ List.replicate 253 0 }) })

theorem witness_BarrierFenceAndInterlockRows_lock : [0x7C, 0x7D].all (fun op =>
    let w := wordAt op 0 0 0 0 0 0
    let s := withPass id (shader w 2 lane31)
    issues s 3 5 47 w && (decodeIns w).op == op && shapeOk { plain 0 0 0 0 with dst := 0 } (decodeIns w) && (issueOf s 3 5 47 w).g.kind == 2 &&
      interlock (afterFetch s 3 5 47 w)) = true := by decide

/-- Change the last group of the last core. -/
def withGroup (f : Grp → Grp) : State → State := onDevice (fun d => { d with cores := d.cores.modify 23 (fun k => { k with groups := k.groups.modify 47 f }) })

theorem witness_BarrierFenceAndInterlockRows_release :
    (let s := withGroup (fun g => { g with lock := List.replicate 31 0 ++ [1], fenced := 1 }) (shader 0 2 lane31)
     (coreOf s.dev (coreIdx 3 5)).groups.length == 48 && ((coreOf s.dev 23).groups.getD 47 default).lock.getD 31 0 == 1 &&
       pixelFree (coreOf s.dev 23) ((coreOf s.dev 23).groups.getD 47 default) 31) = true := by decide

theorem witness_BarrierFenceAndInterlockRows_trace :
    (let w := encodeIns { (default : Ins) with op := 0x7E, md := 1, d := 2, a := 12, b := 62, bu := true }
     let t := issueOf (shader w 0 lane31) 3 5 47 w
     legalAt w lane31 0x7E { plain 8 2 0 0 with dst := 4, md := fun m => decide (m ≤ 1) } && t.i.bu && !(rdSrc t.g true t.i.b 2 0).2) = true := by decide

/-- A ray from the origin along x, and an empty node at its root. -/
def rayState : State := withGroup (fun g => { g with rays := [⟨31, [0, 0, 0, 0x3F800000, 0, 0, 0, 0x42C80000], false, 0x3000, 0, 4, 0x1000⟩] }) (shader 0 0 lane31)

theorem witness_BarrierFenceAndInterlockRows_answer :
    (let s := rayState
     let g := (coreOf s.dev 23).groups.getD 47 default
     let r := g.rays.headD default
     let x := (cmdOf s.dev 1).getD default
     (coreOf s.dev 23).groups.length == 48 && g.rays.find? (fun r => r.lane == 31) == some r && (cmdOf s.dev g.serial).isSome && !x.expired && (ctxOf s.dev x.ctx).state == 1 &&
       !unitStalled s.dev (rqCore s.cfg x 23) && !faulted s.dev && unitUp s.dev 4 3 5 &&
       ends (rayQuery s.cfg (rqCore s.cfg x 23) r.ray r.root false) s.dev) = true := by decide

/-! ### The central store -/

/-- The device is in RUN; a register of BAR 0 is reached. -/
def live (s : State) : Bool := s.dev.boot.phase == 2 && s.dev.clk.domains.getD 1 0 == 1
def running (s : State) : Bool := live s && s.dev.pwr.state == 0
def reaches (s : State) (off : Nat) : Bool := s.dev.pwr.state != 2 && blockOn s.dev off

theorem live_of {s : State} (h : live s = true) : Live s := by simpa [live, Live] using h

theorem running_of {s : State} (h : running s = true) : Running s := by simpa [running, live, Running, and_assoc] using h

theorem reaches_of {s : State} {off : Nat} (h : reaches s off = true) : HostReaches s off := by simpa [reaches, HostReaches] using h

def slice3 (f : SliceSt → SliceSt) : State → State := onDevice (fun d => setSlice d 3 f)

/-- Quarter 3 has scratch way 15 of class 0. -/
def scratchCfg : Cfg := { testCfg with storeWays := List.replicate 3 storeWaysAbsent ++ [⟨0x8000, 0x4000, List.replicate 8 0x3FFF, List.replicate 16 0⟩] }

theorem witness_StoreMaintenanceRows :
    reaches ready (csAt 3 0x70) = true ∧ reaches ready (csAt 0 0x70) = true ∧ reaches ready (csAt 3 0x08) = true ∧
    (let s := slice3 (fun m => { m with maintBusy := true, cleaning := 0x8000 }) ready
     running s = true ∧ (sliceOf s.dev 3).maintBusy = true ∧ bit (sliceOf s.dev 3).cleaning 15 = true) ∧
    quarterReg ready.dev 3 0 = true ∧ bit (cacheWays testCfg 3) 15 = true := by decide

/-- A request of the pack unit of quarter 3 in context 63, and one of the spine on its own account. -/
def rq3 : Rq := rqNamed testCfg 63 2 3 0
def rqSpine : Rq := rqOwn testCfg 0 4 0

/-- An address of quarter 3's DRAM, of its first scratch way, of the bus and of nothing. -/
def inDram : Nat := 4 * 2 ^ 40 + dramBytes - 128
def inScratch : Nat := 8 * 2 ^ 40 + 3 * 2 ^ 26 + 3145727
def onBus : Nat := 8 * 2 ^ 44 + 127
def nowhere : Nat := 4 * 2 ^ 40 + dramBytes

theorem witness_StoreRequestRows_places :
    running ready = true ∧
    (Instr.storeRequest (some 63) 2 3 0 onBus 1 (some [some (1, false)]) false none).wf = true ∧ place testCfg ready.dev rq3 onBus 1 = .bus 127 ∧
    (Instr.storeRequest (some 63) 2 3 0 onBus 1 none false none).wf = true ∧
    (Instr.storeRequest (some 63) 2 3 0 inScratch 1 none false none).wf = true ∧ place scratchCfg ready.dev rq3 inScratch 1 = .scratch 3 15 3145727 ∧
    sliceHeld ready.dev 3 = false ∧ bit (sliceOf ready.dev 3).zeroing 15 = false ∧
    (Instr.storeRequest (some 63) 2 3 0 inDram 128 none false none).wf = true ∧ place testCfg ready.dev rq3 inDram 128 = .dram 3 (dramBytes - 128) ∧
    (sliceOf ready.dev 3).waiting = [] ∧
    (Instr.storeRequest none 0 0 0 nowhere 1 none false none).wf = true ∧ place testCfg ready.dev rqSpine nowhere 1 = .bad 7 4 ∧ rqSpine.ctx = none ∧
    (Instr.storeRequest (some 63) 2 3 0 nowhere 1 none false none).wf = true ∧ place testCfg ready.dev rq3 nowhere 1 = .bad 7 4 ∧ rq3.ctx = some 63 := by decide

/-- A read of the last line of quarter 3 waits. -/
def waits3 (stage : Nat) : State := slice3 (fun m => { m with waiting := [⟨rq3, inDram, 128, none, stage, false⟩] }) ready

/-- The device with bus reads outstanding. -/
def reading (l : List OutRead) : State := onDevice (fun d => { d with host := { d.host with outReads := l } }) ready

theorem witness_StoreRequestRows_bus :
    place testCfg ready.dev rq3 onBus 1 = .bus 127 ∧
    (let s := reading [⟨rq3, 0, 127, false⟩]
     running s = true ∧ place s.cfg s.dev rq3 onBus 1 = .bus 127 ∧ s.dev.host.outReads = [] ++ [⟨rq3, 0, 127, false⟩] ∧ 0 + 127 = 127 ∧ 127 + 1 ≤ 512) ∧
    (let s := reading (List.replicate 256 ⟨rq3, 500, 12, false⟩)
     running s = true ∧ place s.cfg s.dev rq3 onBus 1 = .bus 127 ∧ 256 ≤ s.dev.host.outReads.length ∧
     s.dev.host.outReads.getLast? = some ⟨rq3, 500, 12, false⟩ ∧ 500 + 12 ≠ 127) ∧
    (Instr.storeRequest (some 63) 2 3 0 (onBus - 127) 128 (some (List.replicate 127 (some (1, true)) ++ [none])) false none).wf = true := by decide

theorem witness_StoreRequestRows_held :
    (let s := slice3 (fun m => { m with zeroing := 0x8000 }) { ready with cfg := scratchCfg }
     running s = true ∧ place s.cfg s.dev rq3 inScratch 1 = .scratch 3 15 3145727 ∧ bit (sliceOf s.dev 3).zeroing 15 = true) ∧
    (let s := onDevice (fun d => { d with clk := { d.clk with switches := [⟨3, 20, 0⟩] } }) { ready with cfg := scratchCfg }
     running s = true ∧ sliceHeld s.dev 3 = true ∧ place s.cfg s.dev rq3 inScratch 1 = .scratch 3 15 3145727 ∧
     place s.cfg s.dev rq3 inDram 128 = .dram 3 (dramBytes - 128)) ∧
    (Instr.storeRequest (some 63) 2 3 0 (15 * 2 ^ 40) 4 none false none).wf = true ∧ place testCfg ready.dev rq3 (15 * 2 ^ 40) 4 = .regs 0 := by decide

theorem witness_StoreRequestRows_waiting : [0, 1].all (fun stage =>
    let s := waits3 stage
    running s && !sliceHeld s.dev 3 && memServes s.dev 3 && (sliceOf s.dev 3).waiting.find? (fun f => f.stage == stage) == some ⟨rq3, inDram, 128, none, stage, false⟩ &&
      fillLine s.cfg s.dev ⟨rq3, inDram, 128, none, stage, false⟩ == some (3, (dramBytes - 128) / 128, 0)) = true ∧
    (Instr.dramFillComplete 3 []).wf = true := by decide

theorem witness_StoreRequestRows_prefetch :
    (Instr.prefetchRequest 63 2 3 0 inDram []).wf = true ∧ running ready = true ∧ ready.dev.pwr.stage = 0 ∧ place testCfg ready.dev rq3 inDram 1 = .dram 3 (dramBytes - 128) ∧
    (sliceOf ready.dev 3).memLost = false ∧ findWay ready.dev 3 ((dramBytes - 128) / 128) = none ∧
    (stagedAt ready.dev 3 ((dramBytes - 128) / 128)).isSome = false ∧
    (sliceOf ready.dev 3).side = [] ∧ waitersOf testCfg ready.dev 3 ((dramBytes - 128) / 128) = [] := by decide

theorem witness_StoreTimedRows :
    (let s := slice3 (fun m => { m with drain := true, trackers := [⟨5, 0, 3, 99999000⟩] }) ready
     running s = true ∧ (sliceOf s.dev 3).drain = true ∧ (sliceOf s.dev 3).trackers.getLast? = some ⟨5, 0, 3, 99999000⟩ ∧
       s.dev.boot.phase = 2 ∧ (sliceOf s.dev 3).memLost = false) := by decide

/-! ### Commands and rings -/

/-- An MGMT command with this payload at the head of the kernel queue. -/
def mgmt (op : Nat) (b : List Byte) : State :=
  busAt 0x4000 b (onDevice (fun d => { d with fe := { d.fe with
    ctxs := aset d.fe.ctxs 63 ⟨1, 0, 2 ^ 40⟩
    kqCmds := [{ (default : Cmd) with serial := 1, kq := true, waitRes := 1, entry := { (default : Entry) with op := op, payload := 8 * 2 ^ 44 + 0x4000 } }] } }) ready)

def mgmtRead (s : State) (x : Cmd) : (Nat × List PByte) × Dev :=
  let r := physRead s.cfg (rqZero 0) (x.entry.payload % 2 ^ 48) 64 [] s.dev
  ((r.1, r.2.1), r.2.2)

/-- Whether the head command and its payload are there. -/
def mgmtOk (s : State) (op : Nat) : Bool :=
  match s.dev.fe.kqCmds with
  | x :: _ => running s && mgmtHead s.dev == some x && x.entry.op == op && x.phase == .fetched && x.entry.payload % 64 == 0 &&
    (mgmtRead s x).1.1 == 0 && !ppoison (mgmtRead s x).1.2
  | [] => false

theorem mgmt_of {s : State} {op : Nat} (h : mgmtOk s op = true) :
    ∃ x d, MgmtHead s op x (pdata (mgmtRead s x).1.2) d ∧ d = (mgmtRead s x).2 ∧ s.dev.fe.kqCmds.head? = some x := by
  unfold mgmtOk at h
  split at h
  · rename_i x l hx
    simp only [Bool.and_eq_true, beq_iff_eq, Bool.not_eq_true'] at h
    obtain ⟨⟨⟨⟨⟨⟨h1, h2⟩, h3⟩, h4⟩, h5⟩, h6⟩, h7⟩ := h
    exact ⟨x, _, ⟨running_of h1, h2, h3, h4, h5, _, Prod.ext h6 rfl, h7, rfl⟩, rfl, by rw [hx]; rfl⟩
  · cases h

theorem witness_ContextAndRingManagementRows_head :
    [(1, [0]), (2, [63]), (3, [63]), (4, [63, 63]), (5, [63]), (6, [0xFF, 0xF, 1]), (0x10, [0xFF]), (0x11, [63])].all (fun p => mgmtOk (mgmt p.1 (bytes p.2)) p.1) = true := by
  decide

/-- The payload that a command reads, and the device after it. -/
def payloadOf (s : State) : List Byte × Dev :=
  match s.dev.fe.kqCmds with
  | x :: _ => (pdata (mgmtRead s x).1.2, (mgmtRead s x).2)
  | [] => ([], s.dev)

theorem witness_ContextAndRingManagementRows :
    (let p := payloadOf (mgmt 1 (bytes ([0] ++ List.replicate 7 0 ++ [0, 0, 0, 0, 0, 1])))
     getLe p.1 0 1 < 64 ∧ (ctxOf p.2 (getLe p.1 0 1)).state = 0 ∧ tableOk 3 (getLe p.1 8 8) = true ∧ p.2.mmu.enable = false) ∧
    (let s := onDevice (fun d => { d with mmu := { d.mmu with enable := true } }) (mgmt 1 (bytes ([0] ++ List.replicate 7 0 ++ [0, 0, 0, 0, 0, 1])))
     let p := payloadOf s
     mgmtOk s 1 = true ∧ getLe p.1 0 1 < 64 ∧ (ctxOf p.2 (getLe p.1 0 1)).state = 0 ∧ tableOk 3 (getLe p.1 8 8) = true ∧ p.2.mmu.enable = true) ∧
    (let s := onDevice (fun d => { d with fe := { d.fe with ctxs := aset d.fe.ctxs 63 ⟨2, 0x19, 0⟩ } }) (mgmt 3 (bytes [63]))
     mgmtOk s 3 = true ∧ getLe (payloadOf s).1 0 1 = 63 ∧ (ctxOf (payloadOf s).2 63).state = 2) ∧
    (let s := withRing 63 id (mgmt 5 (bytes [63]))
     mgmtOk s 5 = true ∧ getLe (payloadOf s).1 0 1 = 63 ∧ (ringOf (payloadOf s).2 63).bound = true) ∧
    getLe (payloadOf (mgmt 6 (bytes [0xFF, 0xF, 1]))).1 2 1 ≤ 1 := by decide

theorem witness_InvalidationAndRootRows :
    (let s := onDevice (fun d => { d with fe := { d.fe with kqCmds := d.fe.kqCmds.map (fun x => { x with phase := .dispatched }) } }) (mgmt 0x11 (bytes [63]))
     running s = true ∧ (s.dev.fe.kqCmds.map (fun x => (x.phase, x.entry.op))) = [(.dispatched, 0x11)] ∧ s.dev.host.outReads = [] ∧
       (∀ m ∈ s.dev.store, m.waiting = [])) := by decide

/-! ### Submission, fetch and dispatch -/

theorem witness_DoorbellRows :
    ordinary ready.dev = true ∧ ready.dev.pwr.state = 0 ∧ ready.dev.pwr.entering = 0 ∧ faulted ready.dev = false ∧
    reaches ready 0x20030 = true ∧ reaches ready 0x20000 = true ∧
    (let s := onDevice (fun d => { d with fe := { d.fe with batchTb := some 99999999 } }) ready
     live s = true ∧ s.dev.fe.batchTb = some 99999999) := by decide

/-- A bound ring on the bus with an entry to fetch. -/
def fetchable (r : Nat) (b : List Byte) : State :=
  busAt (0x10000 + 255 * 128) b (withRing r (fun x => { x with base := 8 * 2 ^ 44 + 0x10000, rptr := 255, wptr := 256, effWptr := 256 }) ready)

/-- A poisoned entry on the bus is none; one in quarter 0's DRAM is. -/
def fetchPoisoned (r : Nat) : State :=
  onDevice (fun d => setSlice d 0 (fun m => { m with dramPoison := [(0x20000 / 32, 0x3F)] }))
    (withRing r (fun x => { x with base := 2 ^ 40 + 0x20000, rptr := 256, wptr := 257, effWptr := 257 }) ready)

def fetches (s : State) (r : Nat) (poison : Bool) : Bool :=
  let g := ringOf s.dev r
  let a := physRead s.cfg (rqFe s.cfg g.ctx) (g.base + (g.rptr % g.size) * 128) 128 [] s.dev
  running s && !feStopped s.dev && g.bound && !g.fetchStopped && !g.unbinding && g.rptr != g.effWptr && a.1 == 0 && ppoison a.2.1 == poison

theorem witness_FetchAndDispatchRows_fetch :
    fetches (fetchable 63 (bytes [3, 2])) 63 false = true ∧ fetches (fetchPoisoned 0) 0 true = true ∧
    (let s := onDevice (fun d => setRing d 63 (fun r => { r with devWriter := true, foreign := [255] })) (fetchable 63 (bytes [3, 2]))
     fetches s 63 false = true ∧ (ringOf s.dev 63).devWriter = true ∧ (ringOf s.dev 63).foreign.contains ((ringOf s.dev 63).rptr % (ringOf s.dev 63).size) = true) ∧
    (let s := withRing 5 (fun x => { x with base := 2 ^ 40 + dramBytes, rptr := 0, wptr := 1, effWptr := 1 }) ready
     let g := ringOf s.dev 5
     running s = true ∧ feStopped s.dev = false ∧ g.bound = true ∧ g.fetchStopped = false ∧ g.unbinding = false ∧ g.rptr ≠ g.effWptr ∧
     (physRead s.cfg (rqFe s.cfg g.ctx) (g.base + (g.rptr % g.size) * 128) 128 [] s.dev).1 ≠ 0) := by decide

theorem witness_FetchAndDispatchRows_kq :
    (let s := busAt 0x30000 (bytes [15]) (onDevice (fun d => { d with fe := { d.fe with kqEnable := true, kqBase := 0x30000, kqSize := 16, kqRptr := 16, kqWptr := 17 } }) ready)
     running s = true ∧ feStopped s.dev = false ∧ s.dev.fe.kqEnable = true ∧ s.dev.fe.kqRptr ≠ s.dev.fe.kqWptr ∧ s.cfg.submit.mode = 1 ∧
       s.dev.fe.rings.any (fun p => p.2.unbinding) = false ∧ ppoison (busRead s.dev (s.dev.fe.kqBase + (s.dev.fe.kqRptr % s.dev.fe.kqSize) * 128) 128).1 = false) := by decide

/-- A command of context 63 that waits in ring 63, and one in ring 63 that has run. -/
def waitingCmd (cls op : Nat) : Cmd := { theCmd with phase := .fetched, entry := { (default : Entry) with cls := cls, op := op, payload := 0x5000 } }

def active63 : State := onDevice (fun d => { d with fe := { d.fe with ctxs := aset d.fe.ctxs 63 ⟨1, 0, 2 ^ 40⟩ } }) ready

theorem witness_FetchAndDispatchRows_dispatch :
    (let x := waitingCmd 2 1
     let s := withCmd x active63
     running s = true ∧ oldestWaiting (ringOf s.dev 63) = some x ∧ x.ready = true ∧ x.phase = .fetched ∧ x.entry.cls ≠ 0 ∧ mayPost s.cfg s.dev x = true) ∧
    (let x := { waitingCmd 2 1 with phase := .finished, index := 0xFFFFFFFF }
     let s := withCmd x active63
     running s = true ∧ (ringOf s.dev 63).cmds.find? (fun x => x.phase == .finished && x.index == 0xFFFFFFFF) = some x) := by decide

theorem witness_FetchAndDispatchRows_drain :
    (let s := withRing 63 (fun r => { r with waitRecs := [⟨bytes [1], [5], some 9⟩] }) ready
     live s = true ∧ (ringOf s.dev 63).waitRecs = [⟨bytes [1], [5], some 9⟩] ∧ cqRoom (ringOf s.dev 63) = true ∧ faulted s.dev = false) ∧
    (let s := onDevice (fun d => { d with fe := { d.fe with kqEnable := true, kqCqSize := 16, kqRecs := [⟨bytes [1], [5], none⟩] } }) ready
     live s = true ∧ s.dev.fe.kqRecs = [⟨bytes [1], [5], none⟩] ∧ kqRoom s.dev.fe = true ∧ faulted s.dev = false) := by decide

theorem witness_FrontEndCommandRows :
    (let x := waitingCmd 0 1
     let s := withCmd x active63
     running s = true ∧ oldestWaiting (ringOf s.dev 63) = some x ∧ x.entry.cls = 0 ∧ x.entry.op = 1 ∧ feReady s.cfg s.dev x = true) ∧
    (let x := waitingCmd 0 2
     let s := withCmd x (mapped 0 4 0 active63)
     live s = true ∧ oldestWaiting (ringOf s.dev 63) = some x ∧ x.entry.cls = 0 ∧ x.entry.op = 2 ∧ feReady s.cfg s.dev x = true ∧
       unitStalled s.dev { rqFe s.cfg x.ctx with serial := some x.serial } = false ∧
       (virtRead s.cfg { rqFe s.cfg x.ctx with serial := some x.serial } x.ctx x.entry.payload 64 1 s.dev).1.status = 0 ∧
       (virtRead s.cfg { rqFe s.cfg x.ctx with serial := some x.serial } x.ctx x.entry.payload 64 1 s.dev).1.stalled = false) := by
  decide

/-- A command that waits for the next stamp but one of reference 10. -/
def armedCmd : Cmd := { waitingCmd 2 1 with
  phase := .armed, startTarget := some (refStamp (refOf ready.dev 10) + 1)
  entry := { (default : Entry) with cls := 2, op := 1, start := { (default : PhaseSpec) with ref := 10 } } }

theorem witness_FrontEndCommandRows_comparator :
    (let x := armedCmd
     let s := onDevice (fun d => setRef d 10 (fun r => { r with state := 2 })) (withCmd x active63)
     let a := advance s.cfg (ticksToStamp s.cfg x.entry.start.ref (refStamp (refOf ready.dev 10) + 1) s.dev) s.dev
     let d := ((List.range 63).filter (fun k => (oldestWaiting (ringOf a k)).any (fun z => queueOf z.entry == queueOf x.entry))).foldl (fun d k => fireNow s.cfg k d) a
     live s = true ∧ oldestWaiting (ringOf s.dev 63) = some x ∧ x.startTarget = some (refStamp (refOf ready.dev 10) + 1) ∧ x.phase = .armed ∧ x.entry.cls ≠ 0 ∧
       refValid (refOf s.dev x.entry.start.ref) = true ∧ mayPost s.cfg s.dev x = true ∧
       (oldestWaiting (ringOf d 63)).any (fun y => y.phase == .armed && mayPost s.cfg d y && targetReached d y && y.entry.cls != 0) = true) := by decide

theorem witness_ReferenceCountRules :
    reaches ready 0x20050 = true ∧
    (let d := { ready.dev with fe := { ready.dev.fe with refs := [(65535, 255)] } }
     faulted d = false ∧ aget d.fe.refs 65535 = 255 ∧ aget d.fe.refs 0 = 0) := by decide

theorem witness_FenceSignals :
    reaches ready 0x20068 = true ∧ faulted ready.dev = false ∧ (aget ready.dev.fe.fences 4095).v < 1 ∧
    (let d := { ready.dev with fe := { ready.dev.fe with fences := [(4095, ⟨2 ^ 63, true⟩)] } }
     1 < (aget d.fe.fences 4095).v) ∧ { waitingCmd 2 1 with waitRes := 0 }.waitRes = 0 := by decide

/-! ### Timeouts and hand-out -/

theorem witness_TimeoutAndHandOutRows_timeouts :
    (let x := { theCmd with index := 0xFFFFFFFF, entry := { (default : Entry) with cls := 2, op := 1 } }
     let s := withCmd x active63
     running s = true ∧ (ringOf s.dev 63).cmds.find? (fun x => x.phase == .dispatched && x.index == 0xFFFFFFFF && !x.expired) = some x ∧
       timeoutPaused s.dev x = false ∧ faulted s.dev = false ∧ (ctxOf s.dev x.ctx).state = 1 ∧
       (match ticksToAge s.cfg s.dev 63 ((timeoutLimit s.cfg 63 : Int) - x.age).toNat with
        | some k =>
          let e := expireBelow s.cfg 63 (advance s.cfg k s.dev)
          (cmdOf e x.serial).any (fun y => timeoutDue s.cfg e y) && !faulted e
        | none => false) = true) ∧
    (let x := { waitingCmd 2 1 with waitRes := 0 }
     let s := withCmd x active63
     running s = true ∧ oldestWaiting (ringOf s.dev 63) = some x ∧ waitPaused s.cfg s.dev x = false ∧ faulted s.dev = false ∧
       (let e := ringTimeouts s.cfg 63 (expireBelow s.cfg 63 (advance s.cfg ((s.cfg.ring 63).waitTimeoutUs * 500 - x.waitAge) s.dev))
        ((cmdOf e x.serial).any (fun y => waitDue s.cfg e y) && !faulted e) = true)) := by decide

theorem witness_TimeoutAndHandOutRows_reset :
    (let r := { (default : Run) with serial := 1, stopTb := some 99999000 }
     let s := onDevice (fun d => setInst d (instIdx 15 3 7) (fun m => { m with run := some r, resetEnd := some 100000000 })) ready
     running s = true ∧ (instOf s.dev (instIdx 15 3 7)).run = some r ∧ (instOf s.dev (instIdx 15 3 7)).resetEnd = some 100000000) := by decide

/-- A command of class 9 whose token is posted. -/
def posted : State :=
  let x := { waitingCmd 9 1 with entry := { (default : Entry) with cls := 9, op := 1, mask := 0xFF } }
  let s := withCmd x active63
  { s with dev := postToken s.cfg x s.dev }

theorem witness_TimeoutAndHandOutRows_handout :
    (let s := posted
     let p := pickLane s.cfg (takerOf [(63, 1)] s.cfg) (9 * 4) s.dev
     running s = true ∧ faulted s.dev = false ∧ p.1 = some 63 ∧ (laneHead p.2 36 63).isSome = true ∧ ((laneHead p.2 36 63).bind (takerOf [(63, 1)] s.cfg p.2)).isSome = true ∧
     (Instr.tokenHandout 9 ⟨0, [(63, 1)]⟩).wf = true) := by
  decide

/-! ### Translation -/

theorem witness_TranslationRows :
    (let s := mapped 2 3 0 active63
     (Instr.ptwWalk 2 3 0 63 0x5000 3).wf = true ∧ running s = true ∧ (ctxOf s.dev 63).state = 1 ∧
       (translate s.cfg (rqNamed s.cfg 63 2 3 0) 63 0x5000 true s.dev).1 = .leaf ⟨63, 0, 30, 2 ^ 47, true, false⟩) ∧
    (match (translate active63.cfg (rqNamed testCfg 63 2 3 0) 63 0x5000 true active63.dev).1 with
     | .fault .. => true
     | _ => false) = true ∧
    (let s := onDevice (fun d => { d with mmu := { d.mmu with openRecs := [default], openTb := 99999000, enable := true, waitq := [(1, [default])] } }) ready
     live s = true ∧ s.dev.mmu.openRecs ≠ [] ∧ s.dev.mmu.waitq = [(1, [default])] ∧ faultRoom s.dev.mmu 1 = true) ∧
    [0x50020, 0x50014, 0x50000, 0x50018].all (reaches ready) = true := by decide

/-! ### The host's accesses and interrupts -/

theorem witness_CounterClearsOfUnits :
    [0x3040C + 0x20 * 7, 0x30020, csAt 3 0x84, 0x20078, 0x20800, 0x50034, 0x200040, scAt 3 5 0x10, scAt 0 0 0x10].all (reaches ready) = true := by decide

theorem witness_CounterClearsOfTheSpine :
    [errAt 0 0x14, errAt 4 0x14, 0x10008, 0xC000C, 0xC010C, 0x4002C, 0x60018, 0xA0050, 0xA0000].all (reaches ready) = true := by decide

theorem witness_PairReads : isLo 0x20008 = true ∧ isLo 0x2000C = false ∧ ready.dev.pwr.state ≠ 2 := by decide

theorem witness_HostAccessRows :
    bar2Fits ready.dev 0 512 = true ∧ bar2Fits ready.dev (2 ^ ready.dev.host.bar2Log - 1) 1 = true ∧ ready.dev.boot.phase = 2 ∧ ready.dev.pwr.state = 0 ∧
    ready.dev.pwr.entering = 0 ∧ reaches ready 0x10000 = true ∧ reaches ready (csAt 3 0x60) = true ∧
    ready.dev.host.linkUp = true ∧ cfgReady ready.dev = true ∧ ready.dev.clk.domains.getD 2 0 = 1 ∧ live ready = true ∧
    (reading [⟨rq3, 127, 1, false⟩]).dev.host.outReads = [⟨rq3, 127, 1, false⟩] ∧
    isDoorbell 0x100000 = true ∧ isDoorbell 0x13F008 = true ∧ isDoorbell 0x20010 = false ∧ isDoorbell (0x20010 + 4) = true ∧ isDoorbell 0x10000 = false := by decide

/-- Source 480 and the level 3 are pending, group 30 is routed to vector 0, which is open. -/
def pendingIrq : State := onDevice (fun d => { d with
  icu := { d.icu with count := [(480, 255)], en := d.icu.en.set 30 0xFFFF }
  host := { d.host with msixEnable := true, funcMask := false, msix := [(0, ⟨0xFEE00000, 5, true⟩)] } }) ready

theorem witness_InterruptControllerRows :
    reaches ready 0x1000C = true ∧ ordinary ready.dev = true ∧ reaches ready (0x12004 + 0x20 * 69) = true ∧ reaches ready (0x1200C + 0x20 * 69) = true ∧
    reaches ready (errAt 4 (0x100 + 0x10 * 15)) = true ∧ reaches ready (errAt 0 0x100) = true ∧ running ready = true ∧
    (let s := onDevice (fun d => { d with icu := { d.icu with holdEnd := d.icu.holdEnd.set 31 (some 100000001) } }) ready
     live s = true ∧ s.dev.icu.holdEnd.getD 31 none = some 100000001) := by decide

theorem witness_DeliveryOrder :
    bestSource ready.cfg ready.dev = none ∧ running pendingIrq = true ∧ bestSource pendingIrq.cfg pendingIrq.dev = some 480 ∧
    chooseTarget pendingIrq.cfg pendingIrq.dev 480 = some 0 := by decide

/-! ### Integrity and phases -/

theorem witness_IntegrityRows :
    (let s := onDevice (fun d => { d with err := { d.err with tabs := d.err.tabs.modify 3 (fun t => { t with scrubEn := true, scrubPos := dramBytes - 32 }) } }) ready
     SectorErr.wf ⟨63, 2, [0, 1], 1023⟩ = true ∧ SectorErr.wf noErr = true ∧ running s = true ∧ s.dev.clk.domains.getD 26 0 = 1 ∧ (sliceOf s.dev 3).memLost = false ∧
       (s.dev.err.tabs.getD 3 ErrTab.init).scrubEn = true ∧ (s.dev.err.tabs.getD 3 ErrTab.init).scrubPos / 32 = dramBytes / 32 - 1) ∧
    live ready = true ∧ faulted ready.dev = false ∧ ready.dev.upd.hand = none := by decide

/-- A reference in a state, with a period and a place in its turn. -/
def withRef (n : Nat) (f : RefSt → RefSt) : State → State := onDevice (fun d => setRef d n f)

theorem witness_PhaseInputRows :
    (let s := onDevice (fun d => { d with phe := { d.phe with pins := d.phe.pins.set 1 ⟨false, true, 99999990⟩ } }) ready
     live s = true ∧ pinUse s.cfg 1 = some (1, 0) ∧ (s.dev.phe.pins.getD 1 default).raw ≠ (s.dev.phe.pins.getD 1 default).level) ∧
    (let s := withRef 1 (fun r => { r with state := 1 }) ready
     live s = true ∧ (refOf s.dev 1).state = 1 ∧ refMode s.cfg 1 = 1) ∧
    (let s := withRef 0 (fun r => { r with state := 2, period := 500000, edgeTb := 99999999, acc := 2 ^ 48 - 1, hold := 5 }) ready
     live s = true ∧ (refOf s.dev 0).state = 2 ∧ refMode s.cfg 0 = 1 ∧ refValid (refOf s.dev 0) = true ∧ 0 < refInc s.cfg 0 (refOf s.dev 0)) ∧
    (let s := withRef 9 (fun r => { r with state := 3, period := 500000, coastLeft := 1 }) ready
     refValid (refOf s.dev 9) = true ∧ refMode s.cfg 9 ≠ 3 ∧ 0 < refInc s.cfg 9 (refOf s.dev 9)) ∧
    running ready = true ∧ (ready.cfg.disp 1).enable ≠ 0 ∧ totalLines ready.cfg 1 = 1100 ∧ ready.dev.clk.domains.getD 3 0 = 1 ∧ (refOf ready.dev 9).state = 0 ∧
    (refOf (withRef 9 (fun r => { r with state := 2 }) ready).dev 9).state ≠ 0 := by decide

theorem witness_RetrainingRows :
    (let s := onDevice (fun d => { d with phe := { d.phe with nextRetrain := 3 } }) (withRef 10 (fun r => { r with state := 2, period := 500000 }) ready)
     running s = true ∧ windowFits s.cfg 750 s.dev = some 0 ∧ s.dev.phe.retraining = none ∧ s.dev.phe.windowUsed = none ∧ retrainDue s.dev 3 = true ∧
       s.dev.phe.nextRetrain % 4 = 3 ∧ s.dev.clk.domains.getD 26 0 = 1 ∧ s.dev.clk.switches.any (fun w => w.quarter == 3) = false) ∧
    (let s := onDevice (fun d => { d with phe := { d.phe with retraining := some (3, 99999500) } }) ready
     live s = true ∧ s.dev.phe.retraining = some (3, 99999500)) := by decide

/-! ### Engine units -/

/-- `n` bytes of zeros but for some little-endian fields (offset, length, value). -/
def fields (n : Nat) (l : List (Nat × Nat × Nat)) : List Byte :=
  l.foldl (fun b f => b.take f.1 ++ leBytes f.2.1 f.2.2 ++ b.drop (f.1 + f.2.1)) (List.replicate n 0)

/-- A unit of a command of context 63 whose payload these bytes are. -/
def unitState (cls q i op : Nat) (formed : Bool) (b : List Byte) : State :=
  let x := { theCmd with entry := { (default : Entry) with cls := cls, quarter := if quarterClass cls then q else 0, op := op, payload := 0x4000 } }
  busAt 0x4000 b (onDevice (fun d => setInst d (instIdx cls (if quarterClass cls then q else 0) i) (fun m => { m with
    run := some { (default : Run) with serial := 1, ring := 63, ctx := 63, tb := 99999999, formed := formed } }))
    (mapped cls (if quarterClass cls then q else 4) i (withCmd x active63)))

/-- Whether the instance runs a unit of the command and acts. -/
def unitRuns (s : State) (cls q i : Nat) : Bool :=
  match runOf s.dev cls q i with
  | some (r, x) => running s && r.stopTb == none && !unitStalled s.dev (rqUnit s.cfg x cls q i) && !faulted s.dev && unitUp s.dev cls q i
  | none => false

/-- The device that a unit of a class reads its payload on: a Mule's buffer is read first, and a PACK or check-value unit's registers show its command. -/
def readDev (s : State) (cls q i : Nat) : Dev :=
  if cls = 3 then readBuffer 3 q i s.dev
  else if cls = 8 then packTaken i s.dev
  else if cls = 9 then cvuTaken s.cfg i s.dev
  else s.dev

/-- The payload that the unit reads. -/
def unitReads (s : State) (cls q i len : Nat) : Option (List Byte) :=
  match runOf s.dev cls q i with
  | some (_, x) =>
    match (runEng (ePayload s.cfg (rqUnit s.cfg x cls q i) x.entry.payload len) (readDev s cls q i)).1 with
    | .ok b => some b
    | .error _ => none
  | none => none

theorem unit_of {s : State} {cls q i : Nat} (h : unitRuns s cls q i = true) : ∃ r x, UnitRuns s cls q i r x := by
  unfold unitRuns at h
  split at h
  · rename_i r x hr
    simp only [Bool.and_eq_true, beq_iff_eq, Bool.not_eq_true'] at h
    obtain ⟨⟨⟨⟨h1, h2⟩, h3⟩, h4⟩, h5⟩ := h
    exact ⟨r, x, running_of h1, hr, h2, h3, h4, h5⟩
  · cases h

/-- A matrix descriptor of an operation: one row, one column. -/
def meBytes (op : Nat) : List Byte := fields 128 [(0, 1, op), (1, 1, 1), (2, 1, 1), (3, 1, 5), (6, 1, 1), (7, 1, 1), (0xE, 2, 0x3C00), (0x10, 4, 1), (0x14, 4, 1),
  (0x18, 4, if 4 ≤ op then 64 else 1), (0x1C, 4, 1), (0x20, 8, 0x8000), (0x30, 8, 0x9000), (0x40, 8, 0xA000), (0x50, 8, 0xB000)]

theorem witness_MatrixEngineRows_start : [1, 2, 3, 4, 5].all (fun op =>
    let s := unitState 1 3 7 op false (meBytes op)
    unitRuns s 1 3 7 && (unitReads s 1 3 7 128).any (fun b => meOk (parseMe b) && (parseMe b).op == op)) = true ∧
    (let s := unitState 1 0 0 1 false []
     unitRuns s 1 0 0 = true ∧ (unitReads s 1 0 0 128).any (fun b => !meOk (parseMe b)) = true) := by decide

/-- A formed tile of one row and one column. -/
def tiled : State := onDevice (fun d => setTile 3 7 { (default : MeTile) with desc := meBytes 1 } d) (unitState 1 3 7 1 true (meBytes 1))

theorem witness_MatrixEngineRows_complete : unitRuns tiled 1 3 7 = true ∧
    (match runOf tiled.dev 1 3 7 with
     | some (r, x) =>
       let rq := rqUnit testCfg x 1 3 7
       let a := readBuffer 1 3 7 tiled.dev
       let t := { meTile a 3 7 with poison := (meTile a 3 7).poison || ((instOf a (instIdx 1 3 7)).run.map (fun r => r.taint)).getD false }
       let m := parseMe t.desc
       r.formed && ends (do
         let aux ← loadAux testCfg rq m
         match (meUnits m (pdata aux))[r.unitNo]? with
         | none => pure (false, 0)
         | some u =>
           let p ← writeTile testCfg rq 3 7 m (pdata aux) u t
           pure (p, Nat.min m.kb (u.s * m.kc + m.kc) - u.s * m.kc)) a
     | none => false) = true := by decide

/-- An elementwise descriptor: one row of two columns. -/
def sneBytes (op : Nat) : List Byte := fields 128 [(0, 1, op), (1, 1, 5), (2, 1, 5), (7, 1, 1), (8, 4, 1), (0xC, 4, 2), (0x10, 8, 0x8000), (0x30, 8, 0x9000)]

theorem witness_SoftmaxAndTokenRows_sne : [1, 2, 3, 4, 5, 6, 7, 8].all (fun op =>
    let s := unitState 2 3 0 op false (sneBytes op)
    unitRuns s 2 3 0 && (unitReads s 2 3 0 128).any (fun b => sneOk (parseSne b) && (parseSne b).op == op)) = true ∧
    (let s := unitState 2 0 0 1 false []
     unitRuns s 2 0 0 = true ∧ (unitReads s 2 0 0 128).any (fun b => !sneOk (parseSne b)) = true) := by decide

theorem witness_SoftmaxAndTokenRows_tok : [0, 1, 512, 513].all (fun n =>
    let s := unitState 5 0 0 1 false (fields 128 [(0, 4, n)])
    unitRuns s 5 0 0 && (unitReads s 5 0 0 128).any (fun b => getLe b 0 4 == n)) = true := by decide

theorem witness_DataMoverRows_spans :
    [(1, copyOp testCfg, fields 128 [(16, 8, 1)]), (2, fillOp testCfg, fields 128 [(8, 8, 65537)]), (3, maintOp testCfg, fields 128 [(0, 1, 3), (16, 8, 4096)]),
     (4, kvStoreOp testCfg, fields 128 [(0, 1, 1), (1, 1, 1), (2, 1, 64), (4, 4, 1)]), (5, prefetchOp testCfg, fields 128 [(8, 8, 128)])].all (fun p =>
      let s := unitState 3 3 3 p.1 false p.2.2
      unitRuns s 3 3 3 && (unitReads s 3 3 3 p.2.1.len).any p.2.1.ok) = true ∧
    (let s := unitState 3 0 0 4 false []
     unitRuns s 3 0 0 = true ∧ (unitReads s 3 0 0 48).any (fun b => !(kvStoreOp testCfg).ok b) = true) ∧
    (let s := unitState 3 3 3 1 true []
     running s = true ∧ (runOf s.dev 3 3 3).any (fun p => p.1.formed) = true) := by decide

theorem witness_DataMoverRows_whole :
    [(1, fields 128 [(0, 1, 1), (2, 1, 1), (8, 8, 256)]), (2, fields 128 [(0, 1, 2), (2, 1, 2), (8, 8, 1)])].all (fun p =>
      let s := unitState 8 0 1 p.1 false p.2
      unitRuns s 8 0 1 && (unitReads s 8 0 1 128).any (fun b => packOk b && getLe b 0 1 == p.1)) = true ∧
    (let s := unitState 8 0 0 1 false []
     unitRuns s 8 0 0 = true ∧ (unitReads s 8 0 0 128).any (fun b => !packOk b) = true) ∧
    (let s := unitState 9 0 3 1 false (fields 64 [(0, 1, 1), (1, 1, 9), (0x28, 8, 16)])
     unitRuns s 9 0 3 = true ∧ (unitReads s 9 0 3 64).any cvuOk = true) ∧
    (let s := unitState 9 0 0 1 false []
     unitRuns s 9 0 0 = true ∧ (unitReads s 9 0 0 64).any (fun b => !cvuOk b) = true) := by decide

/-- A sequencer descriptor. -/
def seqBytes : List Byte := fields 256 [(0, 1, 63), (1, 1, 63), (0xA, 2, 1), (0xC, 2, 64), (0xE, 2, 1), (0x16, 1, 5), (0x28, 4, 1), (0x6C, 4, 2), (0x70, 2, 1), (0x72, 1, 1),
  (0x73, 1, 64), (0x74, 1, 1)]

/-- SEQ_ATTACH of sequencer `i` with this descriptor. -/
def attach (i : Nat) (b : List Byte) : State := busAt 0x6000 b (mgmt 7 (fields 64 [(0, 1, i), (8, 8, 8 * 2 ^ 44 + 0x6000)]))

theorem witness_StepSequencerRows_attach :
    (let s := attach 4 []
     mgmtOk s 7 = true ∧ getLe (payloadOf s).1 0 1 = 4) ∧
    (let s := attach 3 seqBytes
     let p := payloadOf s
     let r := physRead s.cfg (rqZero 14) (getLe p.1 8 8 % 2 ^ 48) 256 [] p.2
     mgmtOk s 7 = true ∧ getLe p.1 0 1 = 3 ∧ s.cfg.submit.mode ≠ 0 ∧ (seqOf p.2 3).attached = false ∧ r.1 = 0 ∧
       seqDescOk { (default : SeqSt) with attached := true, desc := pdata r.2.1 } = true) ∧
    mgmtOk (mgmt 8 (bytes [3])) 8 = true := by decide

/-- Sequencer 3 is attached and its context active. -/
def sequencing (f : SeqSt → SeqSt) : State := onDevice (fun d => setSeq d 3 (fun _ => f { (default : SeqSt) with attached := true, desc := seqBytes, state := 1 })) active63

theorem witness_StepSequencerRows_steps :
    [(fun m => m), (fun m => { m with phase := 2 }), (fun m => { m with phase := 1 }), (fun m => { m with failed := true })].all (fun f =>
      let s := sequencing f
      running s && seqRuns s.cfg 3 s.dev && !(seqOf s.dev 3).detaching && ((seqOf s.dev 3).quiet || (seqOf s.dev 3).failed) && (seqOf s.dev 3).pend == []) = true := by decide

/-! ### Graphics and composition -/

/-- A pass of one tile of 32 by 4 pixels with one attachment that is neither loaded nor stored, and a draw of three vertices. -/
def passBytes : List Byte := fields 256 [(0, 1, 1), (1, 1, 1), (4, 2, 32), (6, 2, 4), (8, 4, 0x3F3F3F3F), (0xC, 4, 1), (0x10, 8, 0x5000), (0x18, 8, 0x9000), (0x20, 4, 1024),
  (0x40, 1, 1), (0x41, 1, 2)]
def drawBytes : List Byte := fields 64 [(4, 4, 3), (0xC, 2, 16), (0xE, 2, 8), (0x38, 2, 32), (0x3A, 2, 4)]

/-- The tile engine runs the command's unit. -/
def tilState (b : List Byte) : State := busAt 0x5000 drawBytes (unitState 6 0 0 1 false b)

theorem witness_TilePassRows_render :
    (let s := tilState passBytes
     unitRuns s 6 0 0 = true ∧ s.dev.til = none ∧ (unitReads s 6 0 0 256).any (fun b => passOk b && ends ((List.range (getLe b 0xC 4)).mapM (fun i => do
        let e ← eRead s.cfg (rqCmd s.cfg 63 6 4 0) (getLe b 0x10 8 + 64 * i) 64
        if ppoison e || !drawOk b (pdata e) then throw .invalid
        pure (pdata e))) s.dev) = true) ∧
    (unitReads (tilState []) 6 0 0 256).any (fun b => !passOk b) = true := by decide

/-- A pass in progress whose three vertices have their records. -/
def onePass : Pass := { (default : Pass) with
  serial := 1, ring := 63, ctx := 63, desc := passBytes, draws := [drawBytes], pool := 8
  vtx := [(0, ⟨8, [0, 0, 0, 0x3F800000, 0, 0, 0, 0], false⟩), (1, ⟨40, [0x3F800000, 0, 0, 0x3F800000, 0, 0, 0, 0], false⟩),
    (2, ⟨72, [0, 0x3F800000, 0, 0x3F800000, 0, 0, 0, 0], false⟩)] }
def passing (p : Pass) : State := onDevice (fun d => { d with til := some p }) (tilState passBytes)

theorem witness_TilePassRows_triangle :
    (let s := passing onePass
     running s && onePass.phase == 0 && decide (onePass.tDraw < onePass.draws.length) && tilReady s.cfg s.dev onePass) = true ∧
    (match (runEng (nextTriangle testCfg (rqTil testCfg onePass) drawBytes (drawCount drawBytes) 0 false) (passing onePass).dev).1 with
     | .ok (some (c, _, _)) => c == (0, 1, 2)
     | _ => false) = true := by decide

/-- The vertices of the triangle after they are placed, and the device. -/
def placed : Pass × Dev :=
  match runEng (placeVertices testCfg (rqTil testCfg onePass) onePass) (runEng (nextTriangle testCfg (rqTil testCfg onePass) drawBytes 3 0 false) (passing onePass).dev).2 with
  | (.ok q, d) => (q, d)
  | (.error _, d) => (default, d)

def corners : List Vtx := [0, 1, 2].map (fun n => aget placed.1.vtx (vtxKey 0 n))

theorem witness_TilePassRows_bins :
    (corners.any (fun v => v.words == []) = false) ∧ ends (binPolygon testCfg (rqTil testCfg onePass) 0 corners placed.1) placed.2 = true := by decide +kernel

theorem witness_TilePassRows_draw :
    (let p := { onePass with tElem := 1 }
     running (passing p) && tilReady testCfg (passing p).dev p) = true ∧
    (match (runEng (nextTriangle testCfg (rqTil testCfg onePass) drawBytes (drawCount drawBytes) 1 false) (passing { onePass with tElem := 1 }).dev).1 with
     | .ok none => true
     | _ => false) = true := by decide

theorem witness_TilePassRows_binning : [true, false].all (fun v =>
    let p := { onePass with tDraw := 1, vDraw := 1, overran := v }
    let s := passing p
    let rq := rqTil s.cfg p
    let a := runEng (placeVertices s.cfg rq p) s.dev
    running s && p.phase == 0 && decide (p.draws.length ≤ p.tDraw) && verticesDone s.dev p && tilReady s.cfg s.dev p &&
      (match a.1 with
       | .ok q => q.overran == v && ends (if v then writeStatus s.cfg rq q else eWrite s.cfg rq (getLe q.desc 0x18 8) (mark false ((List.range (tileCount q.desc)).flatMap (fun t =>
           leBytes 4 (if (aget q.tiles t).prims = [] then 0xFFFFFFFF else (aget q.tiles t).first) ++ leBytes 4 (aget q.tiles t).prims.length)))) a.2
       | .error _ => false)) = true := by decide

/-- The tile has work: a primitive is in its list. -/
def tiling (n : Nat) : Pass := { onePass with phase := 1, nextTile := n, tiles := [(0, ⟨136, 136, [0]⟩)], prims := [⟨0, true, 104, []⟩] }

/-- Its pool as memory holds it: the tile's header, the vertices' records, the primitive's and the list's one chunk. -/
def pooled (s : State) : State := busAt 0x9000 (fields 264 [(0, 4, 136), (4, 4, 1), (104, 4, 8), (108, 4, 40), (112, 4, 72), (114, 1, 1), (260, 4, 0xFFFFFFFF)]) s

theorem witness_TilePassRows_handout :
    (let p := tiling 1
     running (passing p) = true ∧ tilReady testCfg (passing p).dev p = true ∧ tileCount p.desc = 1 ∧
     (match (runEng (nextTile testCfg (rqTil testCfg p) p (tileCount p.desc) p.nextTile) (passing p).dev).1 with
      | .ok (nx, skip, _) => (nx, skip) == (1, 0)
      | .error _ => false) = true) ∧
    (let p := tiling 0
     let s := pooled (passing p)
     let size := tileBytes p.desc
     running s && tilReady s.cfg s.dev p &&
       (match runEng (nextTile s.cfg (rqTil s.cfg p) p (tileCount p.desc) p.nextTile) s.dev with
        | (.ok (nx, skip, head), d) => (nx, skip, head) == (0, 0, 136, 1, false) &&
          (match (passCores s.cfg d p).find? (fun k => decide ((p.active.filter (fun a => a.core == k)).length < 2) && (fits (coreOf d k) p.ctx 0 8 size false).isSome), cmdOf d p.serial with
           | some k, some x => (fits (coreOf d k) p.ctx 0 8 size false).isSome && ends (do
             let ls ← (attList p.desc).mapM (fun a => loadAttachment s.cfg (rqTil s.cfg p) p.desc (attEntry p.desc a) nx (a * attBytes p.desc))
             pure (ls, ← jobsOf s.cfg (rqTil s.cfg p) p nx head)) (takeCore k x.ctx d)
           | _, _ => false)
        | (.error _, _) => false)) = true := by
  decide

theorem witness_TilePassRows_complete :
    (let a : TileAct := ⟨0, 23, 7, []⟩
     let p := { tiling 1 with active := [a] }
     let blk : CoreBlk := ⟨7, 1, 63, 63, 2, 0, 0, 4096, false, 99999999, 0⟩
     let s := onDevice (setCore 23 (fun m => { m with blocks := [blk] })) (passing p)
     running s && tilReady s.cfg s.dev p && p.active.find? (fun y => y.tile == 0) == some a && (coreOf s.dev 23).blocks.find? (fun b => b.id == 7) == some blk &&
       !(coreOf s.dev 23).groups.any (fun g => g.blk == 7) && a.jobs == [] && ends ((attList p.desc).forM (fun y =>
         storeAttachment s.cfg (rqTil s.cfg p) p.desc (attEntry p.desc y) 0 (y * attBytes p.desc) (coreOf s.dev 23) blk)) s.dev) = true := by decide

/-- A present of two layers on pipe 1. -/
def presentBytes : List Byte := fields 416 [(0, 1, 1), (1, 1, 1), (3, 1, 3),
  (0x20, 1, 1), (0x28, 2, 1), (0x2A, 2, 1), (0x2C, 4, 32), (0x50, 1, 1), (0x58, 2, 1), (0x5A, 2, 1), (0x5C, 4, 32)]

theorem witness_CompositionRows_present :
    (let s := unitState 7 0 0 1 false presentBytes
     unitRuns s 7 0 0 = true ∧ (unitReads s 7 0 0 416).any (presentOk s.cfg s.dev) = true) ∧
    (let s := unitState 7 0 0 1 false []
     unitRuns s 7 0 0 = true ∧ (unitReads s 7 0 0 416).any (fun b => !presentOk s.cfg s.dev b) = true) := by decide

/-- Pipe 1 with its reference locked. -/
def piped (f : Pipe → Pipe) : State := onDevice (setPipe 1 f) (withRef 9 (fun r => { r with state := 2, period := 8250000 }) ready)

def aFrame : Frame := ⟨none, List.replicate 8 (0, 0), 1, false, false, false, List.replicate 16 (5, 0, 20 * 65536 + 20, 0)⟩

theorem witness_CompositionRows_pipe : [(fun m : Pipe => m), (fun m => { m with pending := some ⟨1, 63, presentBytes⟩ })].all (fun f =>
    let s := piped f
    let t := nextEvent (s.cfg.disp 1).reprojAngle (pipeOf s.dev 1).decision (refStamp (refOf s.dev 9))
    let d := setPipe 1 (fun m => { m with decision := some t }) (advance s.cfg (ticksToStamp s.cfg 9 t s.dev) s.dev)
    running s && pipeOn s.cfg s.dev 1 && refValid (refOf s.dev 9) && (pipeOf d 1).pending == (pipeOf s.dev 1).pending) = true := by decide

theorem witness_CompositionRows_lines :
    (let s := piped (fun m => { m with frame := some aFrame, nextLine := 1079 })
     running s = true ∧ pipeOn s.cfg s.dev 1 = true ∧ (pipeOf s.dev 1).frame = some aFrame ∧ (pipeOf s.dev 1).nextLine < (s.cfg.disp 1).vActive) ∧
    (let s := piped (fun m => { m with frame := some aFrame, nextLine := 20 })
     (List.range 2).find? (fun p => ((pipeOf s.dev p).frame).any (fun f => pipeOn s.cfg s.dev p && regionCompares s.cfg s.dev p f 15 &&
       !bit (pipeOf s.dev p).compared 15 && decide ((f.regions.getD 15 (0, 0, 0, 0)).2.2.1 / 65536 ≤ (pipeOf s.dev p).nextLine))) = some 1) := by decide

theorem witness_DisplayLinkRows :
    reaches ready 0xC0004 = true ∧ reaches ready 0xC0104 = true ∧ reaches ready 0xC0500 = true ∧ running ready = true ∧ pipeOn ready.cfg ready.dev 1 = true ∧
    (pipeOf ready.dev 1).link = false ∧
    (let s := onDevice (fun d => { d with comp := { d.comp with dsiBusy := true } }) (withRef 8 (fun r => { r with state := 2, period := 8250000 }) ready)
     running s = true ∧ s.dev.comp.dsiBusy = true ∧ pipeOn s.cfg s.dev 0 = true ∧ refValid (refOf s.dev 8) = true) := by decide

/-- A dispatch of one block of one thread. -/
def dispBytes : List Byte := fields 128 [(0, 1, 1), (2, 2, 8), (8, 2, 1), (0xA, 2, 1), (0xC, 2, 1), (0x10, 4, 1), (0x14, 4, 1), (0x18, 4, 1)]

/-- The command's token is posted to quarter 3's cores. -/
def dispatching (b : List Byte) : State :=
  let x := { waitingCmd 4 1 with entry := { (default : Entry) with cls := 4, quarter := 3, op := 1, mask := 0x20, payload := 0x4000 } }
  let s := busAt 0x4000 b (mapped 4 3 5 (withCmd x active63))
  { s with dev := postToken s.cfg x s.dev }

theorem witness_ComputeDispatchRows_dispatch : [(dispBytes, true), (List.replicate 128 0, false)].all (fun t =>
    let s := dispatching t.1
    let p := pickLane s.cfg (takerSc s.cfg) 19 s.dev
    running s && !faulted s.dev && p.1 == some 63 && (dispOf s.dev 1).isNone &&
      (match laneHead p.2 19 63 with
       | some x => (allowedSet s.cfg p.2 x).head? == some 5 && x.serial == 1 && !unitStalled s.dev (rqCore s.cfg x 23) &&
         (match (runEng (ePayload s.cfg (rqCore s.cfg x 23) x.entry.payload 128) p.2).1 with
          | .ok b => dispOk b == t.2
          | .error _ => false)
       | none => false)) = true := by decide

theorem witness_ComputeDispatchRows_admit :
    (let s := onDevice (fun d => { d with disp := [⟨1, dispBytes, 0, 1⟩] }) (dispatching dispBytes)
     let p := pickLane s.cfg (takerSc s.cfg) 19 s.dev
     running s && p.1 == some 63 && (dispOf p.2 1).isSome &&
       (match laneHead p.2 19 63 with
        | some x => takerSc s.cfg p.2 x == some 5 && x.serial == 1 &&
          (match runEng (readUniforms s.cfg (rqCore s.cfg x 23) (getLe dispBytes 0x28 8) (getLe dispBytes 0x1C 4)) p.2 with
           | (.ok _, e) => (fits (coreOf e 23) x.ctx (ceilDiv (dispThreads dispBytes) 32) (dispRegs dispBytes) (dispLocal dispBytes) true).isSome
           | (.error _, _) => false)
        | none => false)) = true := by decide

/-! ### Power -/

theorem witness_DeviceStateRows_request :
    reaches ready 0x40004 = true ∧ running ready = true ∧ ready.dev.pwr.entering = 0 ∧ reaches ready 0x40014 = true ∧ ready.dev.pwr.keepSet = false ∧
    (onDevice (fun d => { d with pwr := { d.pwr with keepReady := true } }) ready).dev.pwr.keepReady = true ∧ live ready = true := by decide

theorem witness_DeviceStateRows_entry : [1, 2].all (fun st =>
    let s := onDevice (fun d => { d with pwr := { d.pwr with entering := st, entryTb := 99999000 } }) ready
    live s && s.dev.upd.hand.isNone && !s.dev.upd.bufs.any (fun b => b.state == 2) && s.dev.pwr.entering == st) = true := by decide

def gooseCfg : Cfg := { testCfg with irq := { testCfg.irq with goose := [480, 4] } }

theorem witness_DeviceStateRows_wake :
    (let s : State := { pendingIrq with cfg := gooseCfg }
     s.dev.boot.phase = 2 ∧ s.cfg.irq.goose.contains 480 = true ∧ aget s.dev.pwr.wakeCounts 480 < aget s.dev.icu.count 480) ∧
    (let s : State := onDevice (fun d => { d with phe := { d.phe with irqEn := 1 } }) { withRef 0 (fun r => { r with state := 4 }) ready with cfg := gooseCfg }
     s.cfg.irq.goose.contains 4 = true ∧ levelCond s.dev 4 = true ∧ s.dev.pwr.wakeLevels.testBit 4 = false) ∧
    (let s := onDevice (fun d => { d with pwr := { d.pwr with state := 2 } }) ready
     s.dev.pwr.state = 2 ∧ s.dev.pwr.entering = 0 ∧ s.dev.host.perstLow = false) ∧
    (onDevice (fun d => { d with pwr := { d.pwr with state := 3 } }) ready).dev.pwr.state = 3 := by decide

theorem witness_DeviceStateRows_keep :
    (let s := onDevice (fun d => { d with pwr := { d.pwr with keepSet := true, keepReady := false } }) ready
     running s = true ∧ reaches s 0x40014 = true ∧ s.dev.pwr.keepSet = true ∧ s.dev.pwr.keepReady = false ∧ (sliceOf s.dev 0).memLost = false) ∧
    ready.cfg.power.idleqEn.testBit 3 = true ∧ quarterOn ready.dev 3 = true ∧ quarterBusy ready.dev 3 = false ∧ armedFor ready.dev 3 = false ∧
    ready.dev.pwr.idleq.testBit 3 = false := by decide

/-- Sensor readings in quarter degrees: quarter 3 is hot, and the spine is not. -/
def hot3 : List Int := [200, 200, 200, 400, 200]
def cool : List Int := [200, 200, 200, 200, 200]

theorem witness_ClockAndRailRows_thermal :
    running ready = true ∧ quarterOn ready.dev 3 = true ∧ thermLimit ready.cfg 100 ≤ hot3.getD 3 0 ∧ hot3.length = 5 ∧
    (let s := onDevice (fun d => { d with clk := { d.clk with throttling := 8 } }) ready
     live s = true ∧ s.dev.clk.throttling.testBit 3 = true ∧ cool.getD 3 0 < thermLimit s.cfg 97 ∧ cool.getD 4 0 < thermLimit s.cfg 97 ∧
       hotterBy (readSensors cool s.dev) 3 30 = false) := by decide

theorem witness_ClockAndRailRows_governor : workWaits ready.dev = false ∧ workWaits posted.dev = true ∧ running posted = true ∧ posted.cfg.power.capW = 60 := by decide

theorem witness_ClockAndRailRows_changes :
    (let s := onDevice (fun d => { d with clk := { d.clk with avs := [⟨4, 700, 99999000, 3, none⟩, ⟨3, 700, 99999000, 0, some 21⟩] } }) ready
     live s = true ∧ s.dev.clk.avs.find? (fun r => r.rail == 4) = some ⟨4, 700, 99999000, 3, none⟩ ∧
       s.dev.clk.avs.find? (fun r => r.rail == 3) = some ⟨3, 700, 99999000, 0, some 21⟩ ∧ s.dev.phe.tb ≤ 99999000 + 25000) ∧
    (let s := onDevice (fun d => { d with clk := { d.clk with switches := [⟨3, 21, 99999500⟩], rateSwitch := some ⟨3, 4266, 99999500⟩ } }) ready
     running s = true ∧ s.dev.clk.switches.find? (fun w => w.quarter == 3) = some ⟨3, 21, 99999500⟩ ∧ s.dev.clk.rateSwitch = some ⟨3, 4266, 99999500⟩) := by decide

def sagging (stage : Nat) (low : Bool) (droop : Option Nat) : State :=
  onDevice (fun d => { d with pwr := { d.pwr with stage := stage, pinLow := low, droopTb := droop, warnTb := 99999900 } }) ready

theorem witness_SupplySagRows :
    warnActive ready.dev = false ∧ ready.dev.pwr.stage = 0 ∧ (sagging 1 false none).dev.pwr.stage ≠ 0 ∧ warnActive (sagging 1 false none).dev = false ∧
    warnActive (sagging 1 true none).dev = true ∧ (sagging 1 true none).dev.pwr.droopTb = none ∧ warnActive (sagging 1 true none).dev = !false ∧
    (sagging 1 false (some 99999900)).dev.pwr.droopTb = some 99999900 ∧ warnActive (sagging 1 false (some 99999900)).dev = true ∧
    [1, 2, 3].all (fun k => (sagging k true none).dev.pwr.stage + 1 == k + 1 && (sagging k true none).dev.pwr.pinLow && (sagging k true none).dev.boot.phase == 2) = true ∧
    (sagging 1 false (some 99999900)).dev.pwr.warnTb + 200 * 500 ≤ 99999900 + 100000 := by decide

/-- The monitor of ring 7 with its reference locked in turn `n`. -/
def monitored (n : Nat) (f : State → State) : State := f (withRef 10 (fun r => { r with state := 2, period := 500000, turn := n, acc := 0 }) ready)

/-- The cycle of a turn is checked. -/
def checkedIn (n : Nat) : State → State := onDevice (fun d => setDlm d 7 (fun x => setCycle n (refOf d 10).epoch (fun y => { y with checked := true }) x))

def monitor7 : DeadlineMonRec := ⟨1, 10, 63, 1, 0, 0x80000000, 0x1000, 1, 2⟩

theorem witness_DeadlineCheckRow :
    (let s := monitored 5 id
     running s = true ∧ faulted s.dev = false ∧ s.cfg.dlm 7 = some monitor7 ∧ refValid (refOf s.dev 10) = true ∧ lastCheckTurn monitor7 (refStamp (refOf s.dev 10)) = some 5 ∧
       (cycleOf (dlmOf s.dev 7) 5 (refOf s.dev 10).epoch).any (fun y => y.checked) = false) ∧
    (let s := monitored 5 (checkedIn 5)
     running s = true ∧ lastCheckTurn monitor7 (refStamp (refOf s.dev 10)) = some 5 ∧ (cycleOf (dlmOf s.dev 7) 5 (refOf s.dev 10).epoch).any (fun y => y.checked) = true ∧
       stampAfter ((6 * 2 ^ 32 + monitor7.checkAngle) % 2 ^ 64) (refStamp (refOf (advance s.cfg (ticksToStamp s.cfg 10 ((6 * 2 ^ 32 + monitor7.checkAngle) % 2 ^ 64) s.dev) s.dev) 10)) = false ∧
       refStamp (refOf s.dev 10) / 2 ^ 32 + (if monitor7.checkAngle ≤ refStamp (refOf s.dev 10) % 2 ^ 32 then 1 else 0) = 6) ∧
    (cycleOf (dlmOf ready.dev 7) 5 0).all (fun y => !y.delivered && !y.dispatched) = true ∧ stagedChains (ringOf ready.dev 63) = [] ∧ ready.dev.pwr.state = 0 := by decide

/-! ### Update, start and reset -/

theorem witness_UpdateBlockAndCommandRows :
    ready.dev.pwr.state ≠ 2 ∧ updOn ready.dev = true ∧ obsOn ready.dev = true ∧ (bufOf ready.dev 15).state = 0 ∧
    (let s := onDevice (fun d => setBuf 15 (fun x => { x with state := 2 }) { d with upd := { d.upd with queue := [.block 15 0x480000], blkHi := 0, blkLo := 0x480000 } }) ready
     s.dev.upd.queue = [.block 15 0x480000] ∧ (bufOf s.dev 15).state = 2 ∧ slotAt (s.dev.upd.blkHi * 2 ^ 32 + s.dev.upd.blkLo) = some (7, 0)) ∧
    slotAt 0 = none ∧ slotAt 0x481000 = some (7, 0) ∧ slotAt 0x480001 = some (7, 0) := by decide

def handing (part state : Nat) (tested : Bool) : State :=
  onDevice (fun d => { d with upd := { d.upd with hand := some ⟨part, state, 99999000, [], tested⟩, stageHi := 1 } })
    (withRef 10 (fun r => { r with state := 2, period := 500000 }) ready)

theorem witness_HandOverRows :
    ready.dev.pwr.state ≠ 2 ∧ updOn ready.dev = true ∧ ready.dev.upd.busy = false ∧
    [(0, 1), (4, 1), (4, 2), (0, 3)].all (fun p => live (handing p.1 p.2 false) && (handing p.1 p.2 false).dev.upd.hand == some ⟨p.1, p.2, 99999000, [], false⟩) = true ∧
    (running (handing 0 2 false) = true ∧ (windowStart testCfg 50000 (handing 0 2 false).dev).isSome = true) ∧
    (running (handing 4 2 false) = true ∧ (windowStart testCfg 5000 (handing 4 2 false).dev).isSome = true) ∧
    ((handing 4 4 false).dev.upd.hand = some ⟨4, 4, 99999000, [], false⟩ ∧ quarterBusy (handing 4 4 false).dev 3 = false) ∧
    ((handing 4 4 true).dev.upd.hand = some ⟨4, 4, 99999000, [], true⟩ ∧ (windowStart testCfg 5000 (handing 4 4 true).dev).isSome = true) := by decide

/-! ### Known answers of the standards that the spec names -/

/-- SHA-384 of "abc" (FIPS 180-4, example). -/
theorem test_sha384 : sha384 [0x61, 0x62, 0x63] =
    [0xCB, 0x00, 0x75, 0x3F, 0x45, 0xA3, 0x5E, 0x8B, 0xB5, 0xA0, 0x3D, 0x69, 0x9A, 0xC6, 0x50, 0x07] ++
    [0x27, 0x2C, 0x32, 0xAB, 0x0E, 0xDE, 0xD1, 0x63, 0x1A, 0x8B, 0x60, 0x5A, 0x43, 0xFF, 0x5B, 0xED] ++
    [0x80, 0x86, 0x07, 0x2B, 0xA1, 0xE7, 0xCC, 0x23, 0x58, 0xBA, 0xEC, 0xA1, 0x34, 0xC8, 0x25, 0xA7] := by decide +kernel

/-- SHAKE256 of the empty message (FIPS 202, example). -/
theorem test_shake256 : shake256 [] 16 = [0x46, 0xB9, 0xDD, 0x2B, 0x0B, 0xA8, 0x8D, 0x13, 0x23, 0x3B, 0x3F, 0xEB, 0x74, 0x3E, 0xEB, 0x24] := by decide +kernel

/-- AES-256 of FIPS 197, C.3. -/
theorem test_aes : aesEncrypt (roundKeys ((List.range 32).map (BitVec.ofNat 8))) ((List.range 16).map (fun i => BitVec.ofNat 8 (17 * i))) =
    [0x8E, 0xA2, 0xB7, 0xCA, 0x51, 0x67, 0x45, 0xBF, 0xEA, 0xFC, 0x49, 0x90, 0x4B, 0x49, 0x60, 0x89] := by decide +kernel

/-- AES-256-GCM, test case 14 of its specification. -/
theorem test_gcm : gcmDecrypt (List.replicate 32 0) (List.replicate 12 0) [] [0xCE, 0xA7, 0x40, 0x3D, 0x4D, 0x60, 0x6B, 0x6E, 0x07, 0x4E, 0xC5, 0xD3, 0xBA, 0xF3, 0x9D, 0x18]
    [0xD0, 0xD1, 0xC8, 0xA7, 0x99, 0x99, 0x6B, 0xF0, 0x26, 0x5B, 0x98, 0xB5, 0xD4, 0x8A, 0xB9, 0x19] = some (List.replicate 16 0) := by decide +kernel

/-- Ed25519, test 1 of RFC 8032: the signature of the empty message. -/
theorem test_edVerify : edVerify ([0xD7, 0x5A, 0x98, 0x01, 0x82, 0xB1, 0x0A, 0xB7, 0xD5, 0x4B, 0xFE, 0xD3, 0xC9, 0x64, 0x07, 0x3A] ++
    [0x0E, 0xE1, 0x72, 0xF3, 0xDA, 0xA6, 0x23, 0x25, 0xAF, 0x02, 0x1A, 0x68, 0xF7, 0x07, 0x51, 0x1A]) []
    ([0xE5, 0x56, 0x43, 0x00, 0xC3, 0x60, 0xAC, 0x72, 0x90, 0x86, 0xE2, 0xCC, 0x80, 0x6E, 0x82, 0x8A] ++
    [0x84, 0x87, 0x7F, 0x1E, 0xB8, 0xE5, 0xD9, 0x74, 0xD8, 0x73, 0xE0, 0x65, 0x22, 0x49, 0x01, 0x55] ++
    [0x5F, 0xB8, 0x82, 0x15, 0x90, 0xA3, 0x3B, 0xAC, 0xC6, 0x1E, 0x39, 0x70, 0x1C, 0xF9, 0xB4, 0x6B] ++
    [0xD2, 0x5B, 0xF5, 0xF0, 0x59, 0x5B, 0xBE, 0x24, 0x65, 0x51, 0x41, 0x43, 0x8E, 0x7A, 0x10, 0x0B]) = true := by
  decide +kernel

/-! ### Images that authenticate

The keys are chosen so that a signature can be written out for any digest: the neutral point, and a vector t1 of zeros. The tag and the hashes stay
what the functions give. -/

/-- A public key and a signature under which every message verifies: the key is the neutral point. -/
def anyEdKey : List Byte := leBytes 32 1

theorem any_edVerify (m sig : List Byte) (h1 : slice sig 0 32 = anyEdKey) (h2 : slice sig 32 32 = List.replicate 32 0) : edVerify anyEdKey m sig = true := by
  have hd : edDecode anyEdKey = some edZero := by decide +kernel
  have hz : leNat (List.replicate 32 0) = 0 := by decide
  unfold edVerify
  simp only [h1, h2, hd, hz, edTimes_none, Bool.and_eq_true, decide_eq_true_eq]
  exact ⟨by decide, edSame_neutral _ _ (edTimes_neutral _ _ _ _ edZero_neutral edZero_neutral)
    (edTimes_neutral _ _ _ _ (edAdd_neutral _ _ edZero_neutral (edTimes_neutral _ _ _ _ edZero_neutral edZero_neutral)) edZero_neutral)⟩

/-- An ML-DSA-65 public key whose vector t1 is zero. -/
def anyMlKey : List Byte := List.replicate 1952 0

/-- The response that is zero. -/
def zeroResponse : List Byte := (List.replicate 640 [0, 0, 8, 0, 0x80]).flatten

/-- The first bytes of a signature of `m` under that key. -/
def anyMlSeed (m : List Byte) : List Byte := shake256 (mlMessage (shake256 anyMlKey 64) m ++ List.replicate 768 0) 48

theorem any_mlVerify (m sig : List Byte) (h : sig = anyMlSeed m ++ (zeroResponse ++ List.replicate 61 0)) : mlVerify anyMlKey m sig = true := by
  have hl : (anyMlSeed m).length = 48 := shake256_length _ _
  have hr : zeroResponse.length = 3200 := by decide +kernel
  have h1 : sig.take 48 = anyMlSeed m := by rw [h, ← hl, List.take_left']; rfl
  have h2 : sig.drop 48 = zeroResponse ++ List.replicate 61 0 := by rw [h, ← hl, List.drop_left']; rfl
  have h3 : slice sig 3248 61 = List.replicate 61 0 := by
    have : sig.drop 3248 = List.replicate 61 0 := by
      rw [show 3248 = 48 + 3200 from rfl, ← List.drop_drop, h2, ← hr, List.drop_left']; rfl
    simp only [slice, this, List.take_replicate]
    rfl
  have h4 : (pieces 640 5 (zeroResponse ++ List.replicate 61 0)).map mlUnpackZ = List.replicate 5 mlZero := by decide +kernel
  have h5 : mlUnpackHints (List.replicate 61 0) = some (List.replicate 6 mlZero) := by decide +kernel
  have h6 : (pieces 320 6 (anyMlKey.drop 32)).map (fun b => mlNtt ((mlUnpack 10 b).map (fun x => 8192 * x % mlQ))) = List.replicate 6 mlZero := by
    have : (pieces 320 6 (anyMlKey.drop 32)) = List.replicate 6 (List.replicate 320 0) := by decide +kernel
    have h : (mlUnpack 10 (List.replicate 320 0)).map (fun x => 8192 * x % mlQ) = mlZero := by decide +kernel
    rw [this, List.map_replicate, h, mlNtt_zero]
  have h7 : ∀ (c : MlPoly) (rows : List (List MlPoly)), rows.length = 6 →
      List.zipWith (fun row t => mlInv (mlSub (mlDot row (List.replicate 5 mlZero)) (mlMul c t))) rows (List.replicate 6 mlZero) = List.replicate 6 mlZero := by
    intro c rows hn
    rw [List.eq_replicate_iff]
    constructor
    · simp [hn]
    · intro p hp
      obtain ⟨i, h1, h2⟩ := List.getElem_of_mem hp
      rw [← h2, List.getElem_zipWith, List.getElem_replicate, mlDot_zero, mlMul_zero, mlSub_zero, mlInv_zero]
  have h8 : mlHighBytes (List.zipWith (fun h p => List.zipWith mlUseHint h p) (List.replicate 6 mlZero) (List.replicate 6 mlZero)) = List.replicate 768 0 := by
    decide +kernel
  have h9 : mlBelow (524288 - 196) (List.replicate 5 mlZero) = true := by decide +kernel
  unfold mlVerify
  simp only [h1, h2, h3, h4, h5, h6, List.map_replicate, mlNtt_zero]
  rw [h7 _ _ (by simp [mlMatrix]), h8, h9]
  rw [← anyMlSeed]
  simp only [beq_self_eq_true, Bool.and_self]

/-- The first 32 bytes of the header of an image of a kind with no body: MAGIC, KIND, zeros. -/
def envelopeHead (kind : Nat) : List Byte := leBytes 4 0x49394E56 ++ leBytes 1 kind ++ List.replicate 27 0

/-- The tag of the empty body under a key. -/
def envelopeTag (key : List Byte) (kind : Nat) : List Byte :=
  let keys := roundKeys key
  xorBytes (beBytes 16 (ghash (beNat (aesEncrypt keys (List.replicate 16 0))) ((envelopeHead kind).take 20) []))
    (aesEncrypt keys (List.replicate 12 0 ++ beBytes 4 1))

/-- The part of the header that is signed. -/
def envelopeSigned (key : List Byte) (kind : Nat) : List Byte := envelopeHead kind ++ envelopeTag key kind ++ List.replicate 16 0

/-- The header, signed with the keys above, filled up to 4,096 bytes. -/
def envelope (key : List Byte) (kind : Nat) : List Byte :=
  envelopeSigned key kind ++ (anyEdKey ++ List.replicate 32 0 ++ (anyMlSeed (sha384 (envelopeSigned key kind)) ++
    (zeroResponse ++ List.replicate 61 0))) ++ List.replicate 659 0

theorem envelopeHead_length (kind : Nat) : (envelopeHead kind).length = 32 := by simp [envelopeHead]

theorem envelopeTag_length (key : List Byte) (kind : Nat) : (envelopeTag key kind).length = 16 := by
  simp [envelopeTag, xorBytes, aesEncrypt]

theorem envelopeSigned_length (key : List Byte) (kind : Nat) : (envelopeSigned key kind).length = 64 := by
  simp only [envelopeSigned, List.length_append, envelopeHead_length, envelopeTag_length, List.length_replicate]

theorem zeroResponse_length : zeroResponse.length = 3200 := by decide +kernel

theorem anyMlSeed_length (m : List Byte) : (anyMlSeed m).length = 48 := shake256_length _ _

theorem envelope_length (key : List Byte) (kind : Nat) : (envelope key kind).length = 4096 := by
  simp only [envelope, List.length_append, envelopeSigned_length, anyMlSeed_length, zeroResponse_length, List.length_replicate, anyEdKey, leBytes_length]

/-- The key area that holds the two keys above, and a wrapped image key. -/
def keyArea (wrapped : List Byte) (m : Mem) : Mem := nvmWrite (nvmWrite (nvmWrite m 0x40010 wrapped) 0x40040 anyEdKey) 0x40060 anyMlKey

/-- An NVM that holds the key area and images of some kinds in slot A. -/
def imagesAt (key : List Byte) (kinds : List Nat) (m : Mem) : Mem := kinds.foldl (fun m k => nvmWrite m (slotOf k 0).1 (envelope key k)) m

/-- The image that such an envelope gives. -/
def imageOf (key : List Byte) (kind : Nat) : Image := ⟨kind, 0, 0, 0, 0, sha384 (envelopeSigned key kind), []⟩

theorem image_read {m : Mem} {key : List Byte} {kind : Nat} (hk : kind ∈ [1, 2, 3, 4, 5])
    (h0 : nvmRead m 0x40040 32 = anyEdKey) (h1 : nvmRead m 0x40060 1952 = anyMlKey)
    (h2 : nvmRead m (slotOf kind 0).1 4096 = envelope key kind) : readImage m key kind 0 = some (imageOf key kind) := by
  have hn : nvmRead m ((slotOf kind 0).1 + 4096) 0 = [] := rfl
  have left : ∀ o n, o + n ≤ 32 → slice (envelope key kind) o n = slice (envelopeHead kind) o n := by
    intro o n h
    rw [envelope, List.append_assoc, slice_left _ _ _ _ (by rw [envelopeSigned_length]; omega), envelopeSigned, List.append_assoc,
      slice_left _ _ _ _ (by rw [envelopeHead_length]; omega)]
  have hg : ∀ o n, o + n ≤ 32 → getLe (envelope key kind) o n = getLe (envelopeHead kind) o n := fun o n h => by rw [getLe, left o n h, getLe]
  have g : ∀ k ∈ [1, 2, 3, 4, 5], getLe (envelopeHead k) 0 4 = 0x49394E56 ∧ getLe (envelopeHead k) 4 1 = k ∧ getLe (envelopeHead k) 0x10 4 = 0 ∧
      getLe (envelopeHead k) 8 4 = 0 ∧ getLe (envelopeHead k) 0xC 2 = 0 ∧ getLe (envelopeHead k) 0xE 2 = 0 ∧ 4096 ≤ (slotOf k 0).2 ∧
      slice (envelopeHead k) 0x14 12 = List.replicate 12 0 ∧ k ≠ 6 ∧ k ≠ 7 := by decide
  obtain ⟨g1, g2, g3, g4, g5, g6, g7, g8, g9, g10⟩ := g kind hk
  have t64 : (envelope key kind).take 64 = envelopeSigned key kind := by
    rw [envelope, List.append_assoc, ← envelopeSigned_length key kind, List.take_left']
    rfl
  have t20 : (envelope key kind).take 20 = (envelopeHead kind).take 20 := by
    rw [envelope, List.append_assoc, List.take_append_of_le_length (by rw [envelopeSigned_length]; omega), envelopeSigned, List.append_assoc,
      List.take_append_of_le_length (by rw [envelopeHead_length]; omega)]
  have tag : slice (envelope key kind) 0x20 16 = envelopeTag key kind := by
    rw [envelope, List.append_assoc, slice_left _ _ _ _ (by rw [envelopeSigned_length]; omega), envelopeSigned, List.append_assoc]
    rw [← envelopeHead_length kind, slice_right _ _ _ (by simp [envelopeTag_length])]
    rw [← envelopeTag_length key kind, List.take_left']
    rfl
  have sigs : ∀ o n, o + n ≤ 3373 → slice (envelope key kind) (64 + o) n = slice (anyEdKey ++ List.replicate 32 0 ++ (anyMlSeed (sha384 (envelopeSigned key kind)) ++
      (zeroResponse ++ List.replicate 61 0))) o n := by
    intro o n h
    have hx : (anyEdKey ++ List.replicate 32 0 ++ (anyMlSeed (sha384 (envelopeSigned key kind)) ++ (zeroResponse ++ List.replicate 61 0))).length = 3373 := by
      simp only [List.length_append, anyMlSeed_length, zeroResponse_length, List.length_replicate, anyEdKey, leBytes_length]
    rw [envelope]
    rw [slice_left _ _ _ _ (by rw [List.length_append, envelopeSigned_length, hx]; omega)]
    simp only [slice]
    rw [← List.drop_drop, ← envelopeSigned_length key kind, List.drop_left']
    rfl
  have ed : ∀ m, edVerify anyEdKey m (slice (envelope key kind) 0x40 64) = true := by
    intro m
    have := sigs 0 64 (by omega)
    rw [show 0x40 = 64 + 0 from rfl, this]
    have hs : slice (anyEdKey ++ List.replicate 32 0 ++ (anyMlSeed (sha384 (envelopeSigned key kind)) ++ (zeroResponse ++ List.replicate 61 0))) 0 64 =
        anyEdKey ++ List.replicate 32 0 := by
      rw [slice_left _ _ _ _ (by simp [anyEdKey])]
      decide
    rw [hs]
    exact any_edVerify _ _ (by decide) (by decide)
  have ml : slice (envelope key kind) 0x80 3309 = anyMlSeed (sha384 (envelopeSigned key kind)) ++ (zeroResponse ++ List.replicate 61 0) := by
    have := sigs 64 3309 (by omega)
    rw [show 0x80 = 64 + 64 from rfl, this]
    have he : (anyEdKey ++ List.replicate 32 0).length = 64 := by simp [anyEdKey]
    rw [← he, slice_right _ _ _ (by simp only [List.length_append, anyMlSeed_length, zeroResponse_length, List.length_replicate]; omega)]
    rw [List.take_of_length_le]
    simp only [List.length_append, anyMlSeed_length, zeroResponse_length, List.length_replicate]
    omega
  have gcm : gcmDecrypt key (List.replicate 12 0) ((envelopeHead kind).take 20) [] (envelopeTag key kind) = some [] := by
    unfold gcmDecrypt
    exact if_pos rfl
  simp only [readImage, h0, h1, h2, hg _ _ (show 0 + 4 ≤ 32 by omega), hg _ _ (show 4 + 1 ≤ 32 by omega), hg _ _ (show 0x10 + 4 ≤ 32 by omega),
    hg _ _ (show 8 + 4 ≤ 32 by omega), hg _ _ (show 0xC + 2 ≤ 32 by omega), hg _ _ (show 0xE + 2 ≤ 32 by omega), left _ _ (show 0x14 + 12 ≤ 32 by omega),
    g1, g2, g3, g4, g5, g6, g8, hn, t64, t20, tag, ed, ml, List.append_nil, any_mlVerify _ _ rfl, gcm]
  rw [if_neg (by simp; omega)]
  simp [g9, g10, imageOf]

/-- The wrap key of the secret of zeros, as Python's hmac and hashlib give it. -/
def zeroKek : List Byte :=
  [0x85, 0x52, 0x3B, 0x3E, 0x98, 0xD8, 0x0B, 0xD0, 0x42, 0xCE, 0xC5, 0x97, 0x1E, 0xDF, 0xEC, 0x13] ++
  [0xBE, 0xB9, 0xE4, 0x1C, 0xDF, 0x5B, 0x53, 0x87, 0xB5, 0xB2, 0xA9, 0x6D, 0x72, 0xCA, 0xD9, 0xE7]

/-- The image key of zeros wrapped under it, as OpenSSL's AES_wrap_key gives it. -/
def zeroWrapped : List Byte :=
  [0x5F, 0xC2, 0x3C, 0x7B, 0x92, 0xB9, 0xBF, 0xB8, 0xF4, 0x39, 0x71, 0xC9, 0xEA, 0x7F, 0x4D, 0xB9] ++
  [0x1F, 0x56, 0x22, 0x3A, 0xEB, 0xD9, 0xE7, 0xA7, 0x4C, 0x4B, 0x20, 0x1B, 0x41, 0x43, 0x36, 0xA7] ++
  [0x70, 0x47, 0x18, 0x56, 0x04, 0x09, 0x4F, 0x61]

theorem test_hkdf : hkdf384 (List.replicate 32 0) (keyLabel [0x77, 0x72, 0x61, 0x70]) 32 = zeroKek := by decide +kernel

theorem test_keyUnwrap : keyUnwrap zeroKek zeroWrapped = some (List.replicate 32 0) := by decide +kernel

def signedKey : List Byte := List.replicate 32 0

def handMem : Mem := imagesAt signedKey [1, 3, 4, 5] (keyArea zeroWrapped [])

theorem imagesAt_other (key : List Byte) (kinds : List Nat) (m : Mem) (b n : Nat)
    (h : ∀ k ∈ kinds, b + n ≤ (slotOf k 0).1 ∨ (slotOf k 0).1 + 4096 ≤ b) : nvmRead (imagesAt key kinds m) b n = nvmRead m b n := by
  induction kinds generalizing m with
  | nil => rfl
  | cons k ks ih =>
    rw [imagesAt, List.foldl_cons]
    exact (ih _ (fun x hx => h x (by simp [hx]))).trans (nvmRead_nvmWrite_other _ _ _ _ _ (by rw [envelope_length]; exact h k (by simp)))

theorem imagesAt_image (key : List Byte) (kinds : List Nat) (m : Mem) (k : Nat) (hk : k ∈ kinds)
    (h : ∀ j ∈ kinds, j ≠ k → (slotOf k 0).1 + 4096 ≤ (slotOf j 0).1 ∨ (slotOf j 0).1 + 4096 ≤ (slotOf k 0).1) :
    nvmRead (imagesAt key kinds m) (slotOf k 0).1 4096 = envelope key k := by
  induction kinds generalizing m with
  | nil => cases hk
  | cons j js ih =>
    rw [imagesAt, List.foldl_cons]
    by_cases hj : k ∈ js
    · exact ih _ hj (fun x hx => h x (by simp [hx]))
    · have hk : k = j := (List.mem_cons.1 hk).resolve_right hj
      subst hk
      refine (imagesAt_other key js _ _ _ (fun x hx => h x (by simp [hx]) (fun e => hj (e ▸ hx)))).trans ?_
      exact nvmRead_nvmWrite_same _ _ _ _ (envelope_length key k).symm

theorem keyArea_ed (w : List Byte) (m : Mem) : nvmRead (keyArea w m) 0x40040 32 = anyEdKey := by
  rw [keyArea, nvmRead_nvmWrite_other _ _ _ _ _ (Or.inl (by decide)), nvmRead_nvmWrite_same _ _ _ _ (by decide)]

theorem keyArea_ml (w : List Byte) (m : Mem) : nvmRead (keyArea w m) 0x40060 1952 = anyMlKey :=
  nvmRead_nvmWrite_same _ _ _ _ (by rw [anyMlKey, List.length_replicate])

theorem keyArea_wrapped (m : Mem) : nvmRead (keyArea zeroWrapped m) 0x40010 40 = zeroWrapped := by
  rw [keyArea, nvmRead_nvmWrite_other _ _ _ _ _ (Or.inl (by decide)), nvmRead_nvmWrite_other _ _ _ _ _ (Or.inl (by decide)),
    nvmRead_nvmWrite_same _ _ _ _ (by decide)]

theorem keyArea_other (w : List Byte) (m : Mem) (b n : Nat) (hw : w.length = 40) (h : b + n ≤ 0x40010 ∨ 0x40800 ≤ b) : nvmRead (keyArea w m) b n = nvmRead m b n := by
  have h1 : anyEdKey.length = 32 := by decide
  have h2 : anyMlKey.length = 1952 := by rw [anyMlKey, List.length_replicate]
  rw [keyArea, nvmRead_nvmWrite_other _ _ _ _ _ (by omega), nvmRead_nvmWrite_other _ _ _ _ _ (by omega), nvmRead_nvmWrite_other _ _ _ _ _ (by omega)]

/-- Every kind's image that the NVM holds is read. -/
theorem images_read (kinds : List Nat) (hs : ∀ k ∈ kinds, k ∈ [1, 2, 3, 4, 5]) (k : Nat) (hk : k ∈ kinds) :
    readImage (imagesAt signedKey kinds (keyArea zeroWrapped [])) signedKey k 0 = some (imageOf signedKey k) := by
  have far : ∀ k ∈ [1, 2, 3, 4, 5], 0x40800 ≤ (slotOf k 0).1 := by decide
  have apart : ∀ k ∈ [1, 2, 3, 4, 5], ∀ j ∈ [1, 2, 3, 4, 5], j ≠ k → (slotOf k 0).1 + 4096 ≤ (slotOf j 0).1 ∨ (slotOf j 0).1 + 4096 ≤ (slotOf k 0).1 := by decide
  refine image_read (hs k hk) ?_ ?_ (imagesAt_image _ _ _ _ hk (fun j hj => apart k (hs k hk) j (hs j hj)))
  · rw [imagesAt_other _ _ _ _ _ (fun j hj => Or.inl (by have := far j (hs j hj); omega)), keyArea_ed]
  · rw [imagesAt_other _ _ _ _ _ (fun j hj => Or.inl (by have := far j (hs j hj); omega)), keyArea_ml]

/-- The set log is empty: no trial, and slot A for every kind. -/
theorem images_set (kinds : List Nat) (hs : ∀ k ∈ kinds, k ∈ [1, 2, 3, 4, 5]) :
    trialEnt (imagesAt signedKey kinds (keyArea zeroWrapped [])) = none ∧ confirmedSlots (imagesAt signedKey kinds (keyArea zeroWrapped [])) = 0 := by
  have far : ∀ k ∈ [1, 2, 3, 4, 5], 0x40800 ≤ (slotOf k 0).1 := by decide
  have empty : ∀ a, a + 1 ≤ 0x40010 → nvmRead (imagesAt signedKey kinds (keyArea zeroWrapped [])) a 1 = [0xFF] := by
    intro a ha
    rw [imagesAt_other _ _ _ _ _ (fun j hj => Or.inl (by have := far j (hs j hj); omega)), keyArea_other _ _ _ _ (by decide) (Or.inl ha)]
    simp [nvmRead, memRead_eq, aget]
    decide
  have hf : ∀ s, s < 2 → sectorEntries (imagesAt signedKey kinds (keyArea zeroWrapped [])) s = [] := by
    intro s hs
    have : freeEntry (imagesAt signedKey kinds (keyArea zeroWrapped [])) s = 0 := by
      rw [freeEntry, show List.range 256 = 0 :: (List.range 255).map (· + 1) from List.range_succ_eq_map, List.find?_cons_of_pos]
      · rfl
      · rw [Nat.mul_zero, Nat.add_zero, empty _ (by simp only [sectorAddr]; omega)]
        rfl
    rw [sectorEntries, this]
    rfl
  have he : setEntries (imagesAt signedKey kinds (keyArea zeroWrapped [])) = [] := by
    rw [setEntries, hf 0 (by omega), hf 1 (by omega)]
    rfl
  exact ⟨by simp [trialEnt, he, newestEnt], by simp [confirmedSlots, confirmedEnt, he, newestEnt]⟩

theorem slotBit_zero (k : Nat) : slotBit 0 k = 0 := by simp [slotBit, bit, b2n]

theorem witness_HandOverRows_prepared :
    (partKinds 0).map (fun k => readImage handMem signedKey k (slotBit (currentSlots handMem) k)) = ([1, 3, 4, 5].map (imageOf signedKey)).map some := by
  have hs : currentSlots handMem = 0 := by
    obtain ⟨h1, h2⟩ := images_set [1, 3, 4, 5] (by decide)
    rw [currentSlots, handMem, h1, h2]
  rw [List.map_map]
  refine List.map_congr_left (fun k hk => ?_)
  rw [hs, slotBit_zero]
  exact images_read [1, 3, 4, 5] (by decide) k hk

theorem witness_HandOverRows_unprepared (key : List Byte) : readImage [] key 2 (slotBit (currentSlots []) 2) = none := by
  simp only [readImage]
  rw [if_pos (by decide)]

/-- What is programmed before the start: a key area and signed images of two kinds. -/
def signedNvm : List (Nat × List Byte) :=
  [(0x40010, zeroWrapped), (0x40040, anyEdKey), (0x40060, anyMlKey)] ++ [1, 3].map (fun k => ((slotOf k 0).1, envelope signedKey k))

def signedStart : StartIn := { (default : StartIn) with
  nvm := signedNvm
  puf := some (List.replicate 32 0), dramFail := 15, rate := 5, width := 8 }

def startMem : Mem := imagesAt signedKey [1, 3] (keyArea zeroWrapped [])

theorem programs (f : Mem → Nat → List Byte → Mem) : signedStart.nvm.foldl (fun m p => f m p.1 p.2) [] =
    [1, 3].foldl (fun m k => f m (slotOf k 0).1 (envelope signedKey k)) (f (f (f [] 0x40010 zeroWrapped) 0x40040 anyEdKey) 0x40060 anyMlKey) := rfl

theorem startMem_of_start : signedStart.nvm.foldl (fun m p => nvmWrite m p.1 p.2) [] = startMem := by
  rw [startMem, imagesAt, keyArea]
  exact programs nvmWrite

theorem start_images : (chooseSet startMem signedStart.puf).images = [imageOf signedKey 1, imageOf signedKey 3] ∧
    (chooseSet startMem signedStart.puf).mismatch = false := by
  obtain ⟨ht, hc⟩ := images_set [1, 3] (by decide)
  rw [← startMem] at ht hc
  have h1 := images_read [1, 3] (by decide) 1 (by decide)
  have h3 := images_read [1, 3] (by decide) 3 (by decide)
  rw [← startMem] at h1 h3
  have hn : ∀ k ∈ [2, 4, 5, 6, 7], readImage startMem signedKey k 0 = none := by
    intro k hk
    have far : ∀ k ∈ [2, 4, 5, 6, 7], ∀ j ∈ [1, 3], (slotOf k 0).1 + 4096 ≤ (slotOf j 0).1 ∨ (slotOf j 0).1 + 4096 ≤ (slotOf k 0).1 := by decide
    have away : ∀ k ∈ [2, 4, 5, 6, 7], 0x40800 ≤ (slotOf k 0).1 ∧ getLe (nvmRead [] (slotOf k 0).1 4096) 0 4 ≠ 0x49394E56 := by decide
    have : nvmRead startMem (slotOf k 0).1 4096 = nvmRead [] (slotOf k 0).1 4096 := by
      rw [startMem, imagesAt_other _ _ _ _ _ (far k hk), keyArea_other _ _ _ _ (by decide) (Or.inr (away k hk).1)]
    simp only [readImage]
    rw [this, if_pos (Or.inl (away k hk).2)]
  have hk : imageKeyOf startMem (List.replicate 32 0) = some signedKey := by
    have : nvmRead startMem 0x40010 40 = zeroWrapped := by
      rw [startMem, imagesAt_other _ _ _ _ _ (by decide), keyArea_wrapped]
    rw [imageKeyOf, test_hkdf, this, test_keyUnwrap]
    rfl
  have hl : readSet startMem (some signedKey) 0 = [imageOf signedKey 1, imageOf signedKey 3] := by
    simp [readSet, bootOrder, slotBit_zero, h1, h3, hn]
  have hx : levelsOk (imageLevels [imageOf signedKey 1, imageOf signedKey 3]) = true := rfl
  have hp : signedStart.puf = some (List.replicate 32 0) := rfl
  constructor
  · simp only [chooseSet, ht, hc, hp, Option.bind_some, hk, hl]
  · simp only [chooseSet, ht, hc, hp, Option.bind_some, hk, hl, hx]
    rfl

theorem witness_StartOutcomes : signedStart.wf = true ∧ signedStart.hang = false ∧ signedStart.nvm.foldl (fun m p => nvmWrite m p.1 p.2) [] = startMem ∧
    (chooseSet startMem signedStart.puf).mismatch = false ∧
    [1, 3].all (fun k => (chooseSet startMem signedStart.puf).images.any (fun i => i.kind == k)) = true := by
  have h1 : zeroWrapped.length = 40 := by decide
  have h2 : anyEdKey.length = 32 := by decide
  have h3 : anyMlKey.length = 1952 := by rw [anyMlKey, List.length_replicate]
  refine ⟨?_, rfl, startMem_of_start, start_images.2, ?_⟩
  · simp only [StartIn.wf, signedStart, signedNvm, List.map_cons, List.map_nil, List.cons_append, List.nil_append, List.all_cons, List.all_nil, envelope_length, h1, h2, h3]
    decide
  · rw [start_images.1]
    rfl

def aStart : StartIn := { (default : StartIn) with puf := some (List.replicate 32 0), dramFail := 15, rate := 5, width := 8 }

theorem witness_StartOutcomes_recovery : { aStart with hang := true }.hang = true ∧ { aStart with hang := true }.wf = true := by decide

theorem witness_ResetRows :
    Rail.wf .ao = true ∧ railWatched ready.dev .ao = true ∧ (∀ q, Rail.ao ≠ .quarter q) ∧ railWatched ready.dev (.quarter 3) = true ∧
    Rail.wf (.quarter 3) = true ∧ railWatched State.reset.dev (.quarter 3) = false ∧
    ready.dev.boot.phase ≠ 0 ∧ ready.cfg.trims.isSome = false ∧ State.reset.dev.boot.phase = 0 ∧ ready.dev.boot.phase = 2 := by
  refine ⟨by decide, by decide, fun q => Rail.noConfusion, by decide, by decide, by decide, by decide, by decide, by decide, by decide⟩

/-- The device in reset, with what holds it there. -/
def held (sys pf bo : Bool) : State := onDevice (fun d => { d with boot := { d.boot with sysRstLow := sys, pwrFailLow := pf, brownOut := bo } }) State.reset

theorem witness_StartAndLinkRows_starts :
    aStart.wf = true ∧ aStart.testEn = false ∧ ({ aStart with testEn := true } : StartIn).wf = true ∧ (held true false false).dev.boot.sysRstLow = true ∧ (held true false false).dev.boot.phase = 0 ∧
    (held true false false).dev.clk.shutdown = false ∧ (held false true false).dev.boot.pwrFailLow = true ∧ (held false true false).dev.boot.sysRstLow = false ∧
    (held false false true).dev.boot.brownOut = true ∧ (held false false true).dev.boot.pwrFailLow = false ∧
    (held true true false).dev.boot.pwrFailLow = true ∧ (held true true false).dev.boot.sysRstLow = true := by decide

theorem witness_StartAndLinkRows_link :
    (let s := onDevice (fun d => { d with boot := { d.boot with phase := 1 } }) ready
     s.dev.boot.phase = 1 ∧ s.dev.host.cfgOpen = false ∧ s.dev.host.perstLow = false) ∧
    ready.dev.host.perstLow = false ∧ ready.dev.boot.phase ≠ 0 ∧ ready.dev.host.linkUp = true ∧ ready.dev.clk.domains.getD 2 0 = 1 ∧
    ready.dev.clk.shutdown = false ∧ ready.dev.pwr.state = 0 ∧
    (onDevice (fun d => { d with host := { d.host with perstLow := true } }) ready).dev.host.perstLow = true := by decide

/-! ### The machine -/

theorem witness_IdleStep : ready.pending = [] ∧ ready.dev.boot.phase ≠ 0 ∧ State.reset.pending = [] ∧ State.reset.dev.boot.phase = 0 := by decide

theorem witness_WellFormedCommandsComplete : (Instr.wayCleanDone 3 15).wf = true ∧ (Instr.wayCleanDone 4 15).wf = false := by decide

/-- The records of the tests are legal together. -/
theorem witness_EveryStepKeepsLegalRecords : CfgLegal ready.cfg ∧ ∃ t, step ready = .next t := by
  refine ⟨?_, _, rfl⟩
  have hw : ∀ q, testCfg.ways q = storeWaysAbsent := by
    intro q
    match q with
    | 0 | 1 | 2 | 3 => rfl
    | q + 4 => rfl
  have hp : ∀ q, (testCfg.phin q).mode = if q < 2 then 1 else 0 := by
    intro q
    match q with
    | 0 | 1 | 2 | 3 | 4 | 5 | 6 | 7 => rfl
    | q + 8 => simp [Cfg.phin, testCfg, Cfg.absent, phaseInputAbsent]
  have hs : ∀ q, testCfg.share q = none := by
    intro q
    match q with
    | 0 | 1 | 2 | 3 | 4 | 5 | 6 | 7 => rfl
    | q + 8 => rfl
  have hd : ∀ q, testCfg.dlm q = if q = 7 then some monitor7 else none := by
    intro q
    match q with
    | 0 | 1 | 2 | 3 | 4 | 5 | 6 | 7 => rfl
    | q + 8 => simp [Cfg.dlm, testCfg]
  have hr : ∀ q, testCfg.ring q = ringAbsent := by
    intro q
    simp only [Cfg.ring, testCfg, Cfg.absent, List.getD_eq_getElem?_getD, List.getElem?_replicate]
    split <;> rfl
  have hc : ∀ q, testCfg.contextRc q = 0 := by
    intro q
    simp only [Cfg.contextRc, testCfg, Cfg.absent, List.getD_eq_getElem?_getD, List.getElem?_replicate]
    split <;> rfl
  have he : ∀ q, testCfg.engineRc q = 0 := by
    intro q
    simp only [Cfg.engineRc, testCfg, Cfg.absent, List.getD_eq_getElem?_getD, List.getElem?_replicate]
    split <;> rfl
  constructor
  all_goals show _
  · intro q
    rw [show ready.cfg = testCfg from rfl, hw]
    exact ⟨rfl, fun i _ => by simp [storeWaysAbsent]⟩
  · intro i j h hi hj
    rw [show ready.cfg = testCfg from rfl, hp] at *
    split at hi
    · rename_i h0
      rw [if_pos h0]; omega
    · exact absurd rfl hi
  · intro r r' a b _ h
    rw [show ready.cfg = testCfg from rfl, hs] at h
    cases h
  · decide
  · intro r m h
    rw [show ready.cfg = testCfg from rfl, hd] at h
    split at h
    · cases h
      rename_i hr
      subst hr
      refine ⟨by decide, hd 63, fun r' m' hne hm => ?_⟩
      rw [show ready.cfg = testCfg from rfl, hd, if_neg hne] at hm
      cases hm
    · cases h
  · exact ⟨fun x => by rw [show ready.cfg = testCfg from rfl, hc]; omega, fun x => by rw [show ready.cfg = testCfg from rfl, he]; omega⟩
  · intro r
    rw [show ready.cfg = testCfg from rfl, hr]
    decide
  · decide

theorem witness_RecordsChangeOnlyAtStarts : (∀ i ∈ ready.pending.head?, False) ∧ ∃ t, step ready = .next t := ⟨by decide, _, rfl⟩

theorem witness_ShaderWordsRoundTrip : (0xFFFFFFFFFFFFFFFF : Nat) < 2 ^ 64 ∧
    (let i := decodeIns 0xFFFFFFFFFFFFFFFF
     i.op = 255 ∧ i.gp = 7 ∧ i.md = 3 ∧ i.d = 255 ∧ i.a = 255 ∧ i.imm = true) ∧ (decodeIns 0xFF7FFFFFFFFFFFFF).imm = false := by decide

theorem witness_InterleavedPlacement : 4 * dramBytes - 1 < 2 ^ 40 ∧ 4 * dramBytes - 1 + 1 ≤ 4 * dramBytes ∧ dramBytes - 1 + 1 ≤ dramBytes := by decide

theorem witness_SetIndexAndNextAngle : 2 ^ 28 - 1 < 2 ^ 28 ∧ 0xFFFFFFFF < 2 ^ 32 ∧ 2 ^ 64 - 2 ^ 32 - 1 < 2 ^ 64 - 2 ^ 32 := by decide

/-! ### Commands within and beyond their operands' ranges -/

theorem smoke_wellformed_0 : ([.sysRstNRelease (default : StartIn), .readyTimeout, .sysRstNAssert, .pwrFailNLow,
    .brownOut .ao, .perstNAssert, .perstNRelease 0 0, .configRequest (.read 0),
    .functionLevelReset, .linkStateChange 0 0, .pwrFailNRelease (default : StartIn), .brownOutRecovery (default : StartIn),
    .phinLevelChange 0 false, .phinEdgeAccepted 0, .acquireTimeout 0, .lockTimeout 0,
    .interpolatedTurn 0, .displayLineStart 0 0, .startComparatorFire 0, .dlmCheck 0,
    .cycleMark 0, .dlmClear 0 0, .pheClear 0, .retrainStart 0,
    .retrainForced 0, .retrainEnd 0, .storeRequest none 0 0 0 0 1 none false none, .evictionAccepted 0,
    .dramFillComplete 0 [], .writeDrainExit 0] : List Instr).all (fun i => i.wf == true) = true := by decide

theorem smoke_wellformed_1 : ([.streamTrackerTimeout 0, .prefetchRequest 0 0 0 0 0 [], .scratchZeroDone 0, .csMaintClean 0,
    .csMaintInvalidate 0, .csMaintCleanInvalidate 0, .csMaintComplete 0, .csSwClean 0 0 0,
    .csSwInvalidate 0 0 0, .csSwCleanInvalidate 0 0 0, .csWayOffWrite 0 0, .wayCleanDone 0 0,
    .csErrClear 0 0, .quarterMemoryLost 0, .tokenHandout 0 ⟨0, []⟩, .meMatmul 0 0,
    .meBatched 0 0, .meExpert 0 0, .meAttnScore 0 0, .meAttnValue 0 0,
    .meUnitComplete 0 0, .sneSoftmax 0, .sneRmsnorm 0, .sneLayernorm 0,
    .sneAct 0, .sneGated 0, .sneRope 0, .sneCombine 0,
    .sneAdd 0, .tokCommand] : List Instr).all (fun i => i.wf == true) = true := by decide

theorem smoke_wellformed_2 : ([.seqAttach, .seqDetach, .seqStepBuild 0, .seqCommit 0,
    .seqStepDrop 0, .muleCopy 0 0, .muleFill 0 0, .storeMaint 0 0,
    .kvStore 0 0, .mulePrefetch 0 0, .muleSpanComplete 0 0, .packCompress 0,
    .packDecompress 0, .cvuScan 0, .packClear 0, .scDispatch 0,
    .blockAdmit 0, .nop 0 0 0, .iadd 0 0 0, .isub 0 0 0,
    .imul 0 0 0, .imad 0 0 0, .imin 0 0 0, .imax 0 0 0,
    .and 0 0 0, .or 0 0 0, .xor 0 0 0, .shl 0 0 0,
    .shr 0 0 0, .popc 0 0 0] : List Instr).all (fun i => i.wf == true) = true := by decide

theorem smoke_wellformed_3 : ([.clz 0 0 0, .brev 0 0 0, .bfe 0 0 0, .bfi 0 0 0,
    .icmp 0 0 0, .sel 0 0 0, .mov 0 0 0, .uput 0 0 0,
    .rdsv 0 0 0, .fadd 0 0 0, .fmul 0 0 0, .ffma 0 0 0,
    .fmin 0 0 0, .fmax 0 0 0, .fcmp 0 0 0, .frcp 0 0 0,
    .frsq 0 0 0, .fsqrt 0 0 0, .fex2 0 0 0, .flg2 0 0 0,
    .fsin 0 0 0, .fcos 0 0 0, .hdot4 0 0 0, .ftwosum 0 0 0,
    .ftwoprod 0 0 0, .lmul 0 0 0, .ladd 0 0 0, .lsub 0 0 0,
    .lneg 0 0 0, .cvt 0 0 0] : List Instr).all (fun i => i.wf == true) = true := by decide

theorem smoke_wellformed_4 : ([.cvt2 0 0 0, .cld 0 0 0, .cst 0 0 0, .lld 0 0 0,
    .lst 0 0 0, .catom 0 0 0, .latom 0 0 0, .fence 0 0 0,
    .fenceRelease 0 0 0, .xlane 0 0 0, .pvote 0 0 0, .eqmask 0 0 0,
    .syncG 0 0 0, .syncB 0 0 0, .mmaL8 0 0 0, .mmaL4l8 0 0 0,
    .mmaL16 0 0 0, .pxlock 0 0 0, .pxlockGrant 0 0 0 0, .pxunlock 0 0 0,
    .trace 0 0 0, .traceAnswer 0 0 0 0, .bra 0 0 0, .jmpr 0 0 0,
    .call 0 0 0, .exit 0 0 0, .scFaultClear 0 0 0, .tilRender,
    .tilTriangle, .tilBinningDone] : List Instr).all (fun i => i.wf == true) = true := by decide

theorem smoke_wellformed_5 : ([.tileHandout, .tileComplete 0, .compPresent, .reprojDecision 0,
    .layerLatch 0, .scanoutLine 0 0, .signatureCompare 0, .compSafeExit 0 0,
    .compPipeClear 0 0, .compDsiCmd 0, .dsiPacketSent, .linkRetrain 0 false,
    .edpHpd 0 false, .bar2Read 0 1, .bar2Write 0 [0] false, .registerWrite 0 (List.replicate 4 0),
    .pairLoRead ⟨0, 1⟩, .dbWptrWrite 0 0, .dbCqRptrWrite 0 0, .doorbellBatchClose,
    .ringEntryFetch 0, .kqEntryFetch, .feKqWptrWrite 0, .feKqCqRptrWrite 0,
    .feKqEnable 0, .commandDispatch 0, .commandComplete 0 0, .cqRecordDrain 0,
    .feRefAdd 0 0, .feRefDrop 0 0] : List Instr).all (fun i => i.wf == true) = true := by decide

theorem smoke_wellformed_6 : ([.feFenceSig 0, .feCountClear 0, .feNop 0, .ctxCreate,
    .ctxKill, .ctxRelease, .ringInit, .ringUnbind,
    .fenceInit, .invalidate, .invalidateComplete, .ctxSetRoot,
    .commandTimeout 0 0, .waitTimeout 0, .drainLimitExpiry 0 0 0, .instanceResetDone 0 0 0,
    .feSchedClear 0, .ptwWalk 0 0 0 0 0 0, .faultBatchHoldoff, .faultBatchWrite,
    .mmuReplay 0, .mmuFaultRptrWrite 0, .mmuFaultEnable 0, .mmuBatchCfgWrite 0,
    .mmuCountClear 0, .hostReadCompletion [] false, .completionTimeout, .scrubSector 0 ⟨0, 0, [], 0⟩,
    .cwsScrub 0 false, .tokenParityError] : List Instr).all (fun i => i.wf == true) = true := by decide

theorem smoke_wellformed_7 : ([.creditParityError, .spineUe 0 0 0 0 0, .oxCoreFault 0, .errLogFree 0 0 0,
    .errClear 0 0, .icuDelivery, .holdoffExpiry 0, .icuEoi 0 0 false,
    .icuTargetReset 0 0 false, .icSwRaise 0, .icStatusClear 0, .msixTableWrite 0 0,
    .pwrReqRest, .pwrReqHold, .powerEntryDone, .wakeEvent none,
    .wakeComplete false 0, .idleqEntry 0, .governorStep 0, .throttleDown 0 [0, 0, 0, 0, 0],
    .throttleUp 0 [0, 0, 0, 0, 0], .thermalShutdown 0, .dramOvertemp 0, .avsRequestDone 0,
    .avsRetry 0 none, .pwrWarnNChange false, .droopDetect, .droopHoldExpiry,
    .shedS2Entry, .shedS3Entry] : List Instr).all (fun i => i.wf == true) = true := by decide

theorem smoke_wellformed_8 : ([.shedS4Entry, .shedRecovery, .pwrKeepBaseWrite 0, .keepCopyDone,
    .pwrCountClear 0, .clockSwitchDone 0, .dramRateSwitchDone 0, .updBlockGo 0,
    .updBlockDone 0, .setTrial 0 false, .cancel false, .confirm false,
    .handover 0, .handoverPrepared, .handoverWindowTimeout, .spineHandover,
    .spineHandoverSwitch, .quarterLeave 0, .quarterDrainDone 0 0 0 0, .quarterRejoin 0,
    .attest, .readCert 0, .updCountClear 0, .updMailboxWrite 0 (List.replicate 4 0),
    .obsSnap 0, .obsCntClear 0, .obsDropClear 0, .obsDrainRptrWrite 0] : List Instr).all (fun i => i.wf == true) = true := by decide

theorem smoke_illformed_0 : ([.sysRstNRelease ({ (default : StartIn) with links := 4 }), .brownOut (.quarter 4), .perstNRelease 3 0, .perstNRelease 0 6,
    .configRequest (.read 1), .linkStateChange 3 0, .linkStateChange 0 6, .pwrFailNRelease ({ (default : StartIn) with links := 4 }),
    .brownOutRecovery ({ (default : StartIn) with links := 4 }), .phinLevelChange 8 false, .phinEdgeAccepted 8, .acquireTimeout 8,
    .lockTimeout 8, .interpolatedTurn 11, .displayLineStart 2 0, .displayLineStart 0 65536,
    .startComparatorFire 64, .dlmCheck 8, .cycleMark 64, .dlmClear 8 0,
    .dlmClear 0 (2 ^ 32), .pheClear (2 ^ 32), .retrainStart 4, .retrainForced 4,
    .retrainEnd 4, .storeRequest (some 64) 0 0 0 0 1 none false none, .storeRequest none 16 0 0 0 1 none false none, .storeRequest none 0 4 0 0 1 none false none,
    .storeRequest none 0 0 8 0 1 none false none, .storeRequest none 0 0 0 (2 ^ 48) 1 none false none] : List Instr).all (fun i => i.wf == false) = true := by decide

theorem smoke_illformed_1 : ([.storeRequest none 0 0 0 0 129 none false none, .storeRequest none 0 0 0 0 1 (some (List.replicate 129 (some (0, false)))) false none, .storeRequest none 0 0 0 0 1 none false (some (true, 32)), .evictionAccepted 4,
    .dramFillComplete 4 [], .dramFillComplete 0 [⟨64, 0, [], 0⟩], .writeDrainExit 4, .streamTrackerTimeout 4,
    .prefetchRequest 64 0 0 0 0 [], .prefetchRequest 0 16 0 0 0 [], .prefetchRequest 0 0 4 0 0 [], .prefetchRequest 0 0 0 8 0 [],
    .prefetchRequest 0 0 0 0 (2 ^ 48) [], .prefetchRequest 0 0 0 0 0 [⟨64, 0, [], 0⟩], .scratchZeroDone 4, .csMaintClean 4,
    .csMaintInvalidate 4, .csMaintCleanInvalidate 4, .csMaintComplete 4, .csSwClean 4 0 0,
    .csSwClean 0 24576 0, .csSwClean 0 0 16, .csSwInvalidate 4 0 0, .csSwInvalidate 0 24576 0,
    .csSwInvalidate 0 0 16, .csSwCleanInvalidate 4 0 0, .csSwCleanInvalidate 0 24576 0, .csSwCleanInvalidate 0 0 16,
    .csWayOffWrite 4 0, .csWayOffWrite 0 (2 ^ 32)] : List Instr).all (fun i => i.wf == false) = true := by decide

theorem smoke_illformed_2 : ([.wayCleanDone 4 0, .wayCleanDone 0 16, .csErrClear 4 0, .csErrClear 0 (2 ^ 32),
    .quarterMemoryLost 4, .tokenHandout 16 ⟨0, []⟩, .tokenHandout 0 ⟨4, []⟩, .tokenHandout 0 ⟨0, [(64, 0)]⟩,
    .meMatmul 4 0, .meMatmul 0 8, .meBatched 4 0, .meBatched 0 8,
    .meExpert 4 0, .meExpert 0 8, .meAttnScore 4 0, .meAttnScore 0 8,
    .meAttnValue 4 0, .meAttnValue 0 8, .meUnitComplete 4 0, .meUnitComplete 0 8,
    .sneSoftmax 4, .sneRmsnorm 4, .sneLayernorm 4, .sneAct 4,
    .sneGated 4, .sneRope 4, .sneCombine 4, .sneAdd 4,
    .seqStepBuild 4, .seqCommit 4] : List Instr).all (fun i => i.wf == false) = true := by decide

theorem smoke_illformed_3 : ([.seqStepDrop 4, .muleCopy 4 0, .muleCopy 0 4, .muleFill 4 0,
    .muleFill 0 4, .storeMaint 4 0, .storeMaint 0 4, .kvStore 4 0,
    .kvStore 0 4, .mulePrefetch 4 0, .mulePrefetch 0 4, .muleSpanComplete 4 0,
    .muleSpanComplete 0 4, .packCompress 2, .packDecompress 2, .cvuScan 4,
    .packClear (2 ^ 32), .scDispatch 4, .blockAdmit 5, .nop 4 0 0,
    .nop 0 6 0, .nop 0 0 48, .iadd 4 0 0, .iadd 0 6 0,
    .iadd 0 0 48, .isub 4 0 0, .isub 0 6 0, .isub 0 0 48,
    .imul 4 0 0, .imul 0 6 0] : List Instr).all (fun i => i.wf == false) = true := by decide

theorem smoke_illformed_4 : ([.imul 0 0 48, .imad 4 0 0, .imad 0 6 0, .imad 0 0 48,
    .imin 4 0 0, .imin 0 6 0, .imin 0 0 48, .imax 4 0 0,
    .imax 0 6 0, .imax 0 0 48, .and 4 0 0, .and 0 6 0,
    .and 0 0 48, .or 4 0 0, .or 0 6 0, .or 0 0 48,
    .xor 4 0 0, .xor 0 6 0, .xor 0 0 48, .shl 4 0 0,
    .shl 0 6 0, .shl 0 0 48, .shr 4 0 0, .shr 0 6 0,
    .shr 0 0 48, .popc 4 0 0, .popc 0 6 0, .popc 0 0 48,
    .clz 4 0 0, .clz 0 6 0] : List Instr).all (fun i => i.wf == false) = true := by decide

theorem smoke_illformed_5 : ([.clz 0 0 48, .brev 4 0 0, .brev 0 6 0, .brev 0 0 48,
    .bfe 4 0 0, .bfe 0 6 0, .bfe 0 0 48, .bfi 4 0 0,
    .bfi 0 6 0, .bfi 0 0 48, .icmp 4 0 0, .icmp 0 6 0,
    .icmp 0 0 48, .sel 4 0 0, .sel 0 6 0, .sel 0 0 48,
    .mov 4 0 0, .mov 0 6 0, .mov 0 0 48, .uput 4 0 0,
    .uput 0 6 0, .uput 0 0 48, .rdsv 4 0 0, .rdsv 0 6 0,
    .rdsv 0 0 48, .fadd 4 0 0, .fadd 0 6 0, .fadd 0 0 48,
    .fmul 4 0 0, .fmul 0 6 0] : List Instr).all (fun i => i.wf == false) = true := by decide

theorem smoke_illformed_6 : ([.fmul 0 0 48, .ffma 4 0 0, .ffma 0 6 0, .ffma 0 0 48,
    .fmin 4 0 0, .fmin 0 6 0, .fmin 0 0 48, .fmax 4 0 0,
    .fmax 0 6 0, .fmax 0 0 48, .fcmp 4 0 0, .fcmp 0 6 0,
    .fcmp 0 0 48, .frcp 4 0 0, .frcp 0 6 0, .frcp 0 0 48,
    .frsq 4 0 0, .frsq 0 6 0, .frsq 0 0 48, .fsqrt 4 0 0,
    .fsqrt 0 6 0, .fsqrt 0 0 48, .fex2 4 0 0, .fex2 0 6 0,
    .fex2 0 0 48, .flg2 4 0 0, .flg2 0 6 0, .flg2 0 0 48,
    .fsin 4 0 0, .fsin 0 6 0] : List Instr).all (fun i => i.wf == false) = true := by decide

theorem smoke_illformed_7 : ([.fsin 0 0 48, .fcos 4 0 0, .fcos 0 6 0, .fcos 0 0 48,
    .hdot4 4 0 0, .hdot4 0 6 0, .hdot4 0 0 48, .ftwosum 4 0 0,
    .ftwosum 0 6 0, .ftwosum 0 0 48, .ftwoprod 4 0 0, .ftwoprod 0 6 0,
    .ftwoprod 0 0 48, .lmul 4 0 0, .lmul 0 6 0, .lmul 0 0 48,
    .ladd 4 0 0, .ladd 0 6 0, .ladd 0 0 48, .lsub 4 0 0,
    .lsub 0 6 0, .lsub 0 0 48, .lneg 4 0 0, .lneg 0 6 0,
    .lneg 0 0 48, .cvt 4 0 0, .cvt 0 6 0, .cvt 0 0 48,
    .cvt2 4 0 0, .cvt2 0 6 0] : List Instr).all (fun i => i.wf == false) = true := by decide

theorem smoke_illformed_8 : ([.cvt2 0 0 48, .cld 4 0 0, .cld 0 6 0, .cld 0 0 48,
    .cst 4 0 0, .cst 0 6 0, .cst 0 0 48, .lld 4 0 0,
    .lld 0 6 0, .lld 0 0 48, .lst 4 0 0, .lst 0 6 0,
    .lst 0 0 48, .catom 4 0 0, .catom 0 6 0, .catom 0 0 48,
    .latom 4 0 0, .latom 0 6 0, .latom 0 0 48, .fence 4 0 0,
    .fence 0 6 0, .fence 0 0 48, .fenceRelease 4 0 0, .fenceRelease 0 6 0,
    .fenceRelease 0 0 48, .xlane 4 0 0, .xlane 0 6 0, .xlane 0 0 48,
    .pvote 4 0 0, .pvote 0 6 0] : List Instr).all (fun i => i.wf == false) = true := by decide

theorem smoke_illformed_9 : ([.pvote 0 0 48, .eqmask 4 0 0, .eqmask 0 6 0, .eqmask 0 0 48,
    .syncG 4 0 0, .syncG 0 6 0, .syncG 0 0 48, .syncB 4 0 0,
    .syncB 0 6 0, .syncB 0 0 48, .mmaL8 4 0 0, .mmaL8 0 6 0,
    .mmaL8 0 0 48, .mmaL4l8 4 0 0, .mmaL4l8 0 6 0, .mmaL4l8 0 0 48,
    .mmaL16 4 0 0, .mmaL16 0 6 0, .mmaL16 0 0 48, .pxlock 4 0 0,
    .pxlock 0 6 0, .pxlock 0 0 48, .pxlockGrant 4 0 0 0, .pxlockGrant 0 6 0 0,
    .pxlockGrant 0 0 48 0, .pxlockGrant 0 0 0 32, .pxunlock 4 0 0, .pxunlock 0 6 0,
    .pxunlock 0 0 48, .trace 4 0 0] : List Instr).all (fun i => i.wf == false) = true := by decide

theorem smoke_illformed_10 : ([.trace 0 6 0, .trace 0 0 48, .traceAnswer 4 0 0 0, .traceAnswer 0 6 0 0,
    .traceAnswer 0 0 48 0, .traceAnswer 0 0 0 32, .bra 4 0 0, .bra 0 6 0,
    .bra 0 0 48, .jmpr 4 0 0, .jmpr 0 6 0, .jmpr 0 0 48,
    .call 4 0 0, .call 0 6 0, .call 0 0 48, .exit 4 0 0,
    .exit 0 6 0, .exit 0 0 48, .scFaultClear 4 0 0, .scFaultClear 0 6 0,
    .scFaultClear 0 0 (2 ^ 32), .tileComplete (2 ^ 22), .reprojDecision 2, .layerLatch 2,
    .scanoutLine 2 0, .signatureCompare 16, .compSafeExit 2 0, .compSafeExit 0 (2 ^ 32),
    .compPipeClear 2 0, .compPipeClear 0 (2 ^ 32)] : List Instr).all (fun i => i.wf == false) = true := by decide

theorem smoke_illformed_11 : ([.compDsiCmd (2 ^ 32), .linkRetrain 2 false, .edpHpd 3 false, .bar2Read (2 ^ 37) 1,
    .bar2Read 0 513, .bar2Write (2 ^ 37) [0] false, .bar2Write 0 [] false, .registerWrite (2 ^ 26) (List.replicate 4 0),
    .registerWrite 0 [], .pairLoRead ⟨(2 ^ 26), 1⟩, .pairLoRead ⟨0, 513⟩, .dbWptrWrite 64 0,
    .dbWptrWrite 0 (2 ^ 32), .dbCqRptrWrite 64 0, .dbCqRptrWrite 0 (2 ^ 32), .ringEntryFetch 64,
    .feKqWptrWrite (2 ^ 32), .feKqCqRptrWrite (2 ^ 32), .feKqEnable (2 ^ 32), .commandDispatch 64,
    .commandComplete 64 0, .commandComplete 0 (2 ^ 32), .cqRecordDrain 65, .feRefAdd 65536 0,
    .feRefAdd 0 256, .feRefDrop 65536 0, .feRefDrop 0 256, .feFenceSig (2 ^ 64),
    .feCountClear (2 ^ 32), .feNop 64] : List Instr).all (fun i => i.wf == false) = true := by decide

theorem smoke_illformed_12 : ([.commandTimeout 64 0, .commandTimeout 0 (2 ^ 32), .waitTimeout 64, .drainLimitExpiry 16 0 0,
    .drainLimitExpiry 0 4 0, .drainLimitExpiry 0 0 8, .instanceResetDone 16 0 0, .instanceResetDone 0 4 0,
    .instanceResetDone 0 0 8, .feSchedClear (2 ^ 32), .ptwWalk 16 0 0 0 0 0, .ptwWalk 0 4 0 0 0 0,
    .ptwWalk 0 0 8 0 0 0, .ptwWalk 0 0 0 64 0 0, .ptwWalk 0 0 0 0 (2 ^ 64) 0, .ptwWalk 0 0 0 0 0 16,
    .mmuReplay (2 ^ 32), .mmuFaultRptrWrite (2 ^ 32), .mmuFaultEnable (2 ^ 32), .mmuBatchCfgWrite (2 ^ 32),
    .mmuCountClear (2 ^ 32), .hostReadCompletion (List.replicate 513 0) false, .scrubSector 4 ⟨0, 0, [], 0⟩, .scrubSector 0 ⟨64, 0, [], 0⟩,
    .spineUe 4 0 0 0 0, .spineUe 0 16 0 0 0, .spineUe 0 0 8 0 0, .spineUe 0 0 0 (2 ^ 64) 0,
    .spineUe 0 0 0 0 32, .oxCoreFault 2] : List Instr).all (fun i => i.wf == false) = true := by decide

theorem smoke_illformed_13 : ([.errLogFree 5 0 0, .errLogFree 0 16 0, .errLogFree 0 0 (2 ^ 32), .errClear 5 0,
    .errClear 0 (2 ^ 32), .holdoffExpiry 32, .icuEoi 70 0 false, .icuEoi 0 512 false,
    .icuTargetReset 70 0 false, .icuTargetReset 0 (2 ^ 32) false, .icSwRaise (2 ^ 32), .icStatusClear (2 ^ 32),
    .msixTableWrite 1024 0, .msixTableWrite 0 (2 ^ 32), .wakeEvent (some 512), .wakeComplete false 4,
    .idleqEntry 4, .governorStep 65536, .throttleDown 4 [0, 0, 0, 0, 0], .throttleDown 0 [],
    .throttleUp 4 [0, 0, 0, 0, 0], .throttleUp 0 [], .avsRequestDone 5, .avsRetry 5 none,
    .avsRetry 0 (some 1024), .pwrKeepBaseWrite (2 ^ 32), .pwrCountClear (2 ^ 32), .clockSwitchDone 4,
    .dramRateSwitchDone 4, .updBlockGo (2 ^ 32)] : List Instr).all (fun i => i.wf == false) = true := by decide

theorem smoke_illformed_14 : ([.updBlockDone 4, .setTrial 256 false, .handover 256, .quarterLeave 4,
    .quarterDrainDone 4 0 0 0, .quarterDrainDone 0 256 0 0, .quarterDrainDone 0 0 2 0, .quarterDrainDone 0 0 0 64,
    .quarterRejoin 4, .readCert 256, .updCountClear (2 ^ 32), .updMailboxWrite 65536 (List.replicate 4 0),
    .updMailboxWrite 0 [], .obsSnap (2 ^ 32), .obsCntClear (2 ^ 32), .obsDropClear (2 ^ 32),
    .obsDrainRptrWrite (2 ^ 32), .storeRequest none 0 0 0 0 0 none false none, .storeRequest none 0 0 0 127 2 none false none, .storeRequest none 0 0 0 0 1 (some []) false none] : List Instr).all (fun i => i.wf == false) = true := by decide

/-- A command outside its operands' ranges is none that anyone can send, and changes nothing. -/
theorem smoke_ignored : exec (.wayCleanDone 4 0) ready = .next ready ∧ exec (.configRequest (.read 1)) ready = .next ready ∧
    exec (.iadd 3 5 48) ready = .next ready := ⟨rfl, rfl, rfl⟩

/-! ### Worked examples of the spec -/

/-- The check column of R415's presets. -/
theorem test_check_values : (List.range 9).map (fun n => crcCheck (crcPreset (n + 1)) (crcRun (crcPreset (n + 1)) (crcPreset (n + 1)).init ((List.range 9).map (fun i => BitVec.ofNat 8 (49 + i))))) =
    [0xE3069283, 0xCBF43926, 0x0376E6E7, 0x29B1, 0xBB3D, 0xF4, 0x21CF02, 0x995DC9BBDF1939FA, 0x6C40DF5F0B497347] := by decide

/-- "Worked example: one interleaved address" of 04_central_store.md. -/
theorem test_interleaved_address : interleave 0x1234567880 = (0, 0x48D159880) ∧ 0x48D159880 / 128 = 152709937 := by decide

/-- "Worked example: one block of L4 weights against L8 activations" of 05_number_formats.md: the accumulated sum, its scale, and the output code. -/
theorem test_one_block :
    (let ps := [(0x6, 0x4C), (0xB, 0x3D), (0x1, 0x07)].map (fun p : Nat × Nat => lMul (lDecode 0 p.1) (lDecode 1 p.2))
     let x := accBlock 0 0x7C 0x81 false ps ⟨0, false, false, false⟩
     blockSum ps = some (5623048885888, 3) ∧ x.v = 5623048885888 * 2 ^ 55 ∧ (accValue 0 x).map (fun v => (roundL 1 v).code) = some 0x4B ∧ (accValue 0 x).map maxLogOf = some 347) := by decide

/-- "Worked example: two encodings" of 09_shader_instructions.md. -/
theorem test_two_encodings :
    decodeIns 0x22690C04090C4000 = { (default : Ins) with
      op := 0x22, ge := true, gn := true, gp := 2, md := 1, d := 0x0C, a := 4, b := 9, c := 0x0C, bu := true, iv := 0x090C4000 } ∧
    encodeIns { (default : Ins) with op := 0x80, imm := true, ge := true, gp := 1, iv := 0xFFFFFFFB } = 0x80C40000FFFFFFFB := by decide

/-- "Worked example: occupancy" of 08_thread_groups.md: one more block of 256 threads fits beside three, none beside four; 1,024 threads of 128 registers never fit. -/
theorem test_occupancy :
    (let core := fun (n : Nat) => { (default : Core) with
       blocks := (List.range n).map (fun i => ⟨i, 1, 63, 63, 0, i, 16384 * i, 16384, true, 0, 0⟩)
       groups := (List.range (8 * n)).map (fun i => { (default : Grp) with serial := 1, blk := i / 8, regs := 64, sched := i % 4 }) }
     (fits (core 3) 63 8 64 16384 true).isSome = true ∧ (fits (core 4) 63 8 64 16384 true).isSome = false ∧ (fits (core 0) 63 32 64 65536 true).isSome = true ∧
       (fits (core 0) 63 32 128 0 true).isSome = false) := by decide

/-- "Worked example: the start of a QUANT block" of 15_compression_and_check_values.md: symbols and what they decode to. -/
theorem test_quant_start : pkQuantRun 0 3 1 [20] [23, 27, 26, 19] = ([5, 5, 3, 0], [23, 26, 25, 18], true) := by decide

/-- No row of the command table gives bits, so a word spells no command. -/
theorem test_no_words : decodeTableWord 0 0 = none ∧ decodeTableWord 64 1 = none := by decide

theorem test_front_command_runs : (match step { ready with pending := [.pheClear 1, .obsSnap 0] } with
    | .next t => t.pending == [.obsSnap 0]
    | _ => false) = true := by decide

/-- R525: WAKE_N is low while WOKE is set and PERST_N is low, and is released with PERST_N. -/
theorem test_wake_n :
    (let d := ready.dev
     let low := { d with icu := { d.icu with woke := true }, host := { d.host with perstLow := true } }
     wakeNLow d = false ∧ wakeNLow low = true ∧ wakeNLow { low with host := d.host } = false) := by decide

/-- R253, R273: of several threads that store the same byte the highest-numbered one's value remains, and each address is listed once. -/
theorem test_merge_stores : mergeStores [(4, [(1, false), (2, true)]), (5, [(3, false)]), (4, [(9, false)])] = [(4, 9, false), (5, 3, false)] ∧
    byteRuns (mergeStores [(4, [(1, false), (2, true)]), (5, [(3, false)])]) = [(4, [(1, false), (3, false)])] := by decide

end Sys2Proof.Tests
end

/-! PROOFS. The statements of the scope (00): every command answers, the device right after reset, reads of register pairs, and
the host's accesses. -/

namespace Sys2Proof.Machine

/-! ### How commands run -/

/-- The rows that act on the records in force too: resets and starts, shutdowns, and a quarter's restart (R55, R495). -/
def actsOnRecords : Instr → Bool
  | .sysRstNRelease _ | .sysRstNAssert | .pwrFailNLow | .brownOut _ | .pwrFailNRelease _ | .brownOutRecovery _ | .thermalShutdown _
  | .dramOvertemp _ | .quarterDrainDone _ _ _ _ | .quarterRejoin _ => true
  | _ => false

/-- Every other row acts on the device alone, if its operands fit. `exec` is unfolded by name first: left to itself, the unifier opens
`onDev` and cannot find `f`. -/
theorem exec_eq_onDev {i : Instr} (h : actsOnRecords i = false) : ∃ f, ∀ s, exec i s = onDev i.wf f s := by
  cases i with
  | sysRstNRelease | sysRstNAssert | pwrFailNLow | brownOut | pwrFailNRelease | brownOutRecovery | thermalShutdown | dramOvertemp
  | quarterDrainDone | quarterRejoin => exact absurd h.symm Bool.false_ne_true
  | _ => exact ⟨_, fun s => by delta exec; exact rfl⟩

theorem exec_eq_onBoth {i : Instr} (h : actsOnRecords i = true) : ∃ f, ∀ s, exec i s = onBoth i.wf f s := by
  cases i with
  | sysRstNRelease | sysRstNAssert | pwrFailNLow | brownOut | pwrFailNRelease | brownOutRecovery | thermalShutdown | dramOvertemp
  | quarterDrainDone | quarterRejoin => exact ⟨_, fun s => by delta exec; exact rfl⟩
  | _ => exact absurd h Bool.false_ne_true

/-- A command on the device alone, with operands that fit, completes with its effect. -/
theorem exec_of_wf {i : Instr} {f : Cfg → Dev → Dev} {s : State} (hf : exec i s = onDev i.wf f s) (h : i.wf = true) :
    exec i s = .next (s.ended (f s.cfg s.dev)) := by rw [hf, h, onDev_next]

/-- Settles O28: a row is `onDev` or `onBoth` of its own well-formedness, and both answer a next state. -/
theorem wellFormedCommandsComplete : Obligations.WellFormedCommandsComplete := by
  intro i s
  cases h : actsOnRecords i with
  | false =>
    obtain ⟨f, hf⟩ := exec_eq_onDev h
    rw [hf]
    exact ⟨fun hw => ⟨s.cfg, _, by rw [hw]; rfl⟩, fun hw => by rw [hw, onDev_nothing]⟩
  | true =>
    obtain ⟨f, hf⟩ := exec_eq_onBoth h
    rw [hf]
    exact ⟨fun hw => ⟨_, _, by rw [hw]; rfl⟩, fun hw => by rw [hw, onBoth_nothing]⟩

/-! ### Right after reset -/

/-- Every domain but AO is off after reset. -/
theorem domains_init (k : Nat) : ClkSt.init.domains.getD (k + 1) 0 = 0 := by
  show (List.replicate 26 0).getD k 0 = 0
  rw [List.getD_eq_getElem?_getD, List.getElem?_getD_replicate_default_eq]

/-- Settles O32: each field is at the value that the reset state and the absent records write out. -/
theorem resetLeaves : Obligations.ResetLeaves := by
  have href : ∀ n, n < 11 → (refOf State.reset.dev n).state = 0 := by decide
  have hphin : ∀ n, n < 8 → (State.reset.cfg.phin n).mode = 0 := by decide
  have hrings : ∀ r, r < 8 → State.reset.cfg.share r = none ∧ State.reset.cfg.dlm r = none := by decide
  exact ⟨rfl, rfl, rfl, domains_init, fun _ => rfl, fun _ => rfl, fun _ => rfl, fun _ => rfl, rfl, fun _ => rfl, href, rfl, rfl, rfl, rfl, hphin,
    hrings, rfl⟩

/-! ### Reads of registers (R12, R13) -/

theorem bar0Read_four {c : Cfg} {off : Nat} {d : Dev} (h : off % 4 = 0) :
    bar0Read c off 4 d = (leBytes 4 (regRead32 c off d).1, (regRead32 c off d).2) := if_pos ⟨rfl, h⟩

theorem bar0Read_eight {c : Cfg} {off : Nat} {d : Dev} (h : off % 8 = 0) :
    bar0Read c off 8 d = (leBytes 4 (regValue c d off) ++ leBytes 4 (regValue c d (off + 4)), d) := by
  simp [bar0Read, h]

/-- A read of _LO latches the value of _HI, stored plus one since 0 stands for no latch. -/
theorem regRead32_lo {c : Cfg} {off : Nat} {d : Dev} (h : isLo off = true) :
    regRead32 c off d = (regValue c d off,
      { d with host := { d.host with latch := aset d.host.latch (off + 4) (regValue c d (off + 4) + 1) } }) := if_pos h

/-- A read of a register with a latched value answers it and ends the latch. -/
theorem regRead32_latched {c : Cfg} {off v : Nat} {d : Dev} (h : isLo off = false) (hl : aget d.host.latch off = v + 1) :
    regRead32 c off d = (v, { d with host := { d.host with latch := aset d.host.latch off 0 } }) := by
  simp [regRead32, h, hl]

/-- A latched value is read by the next 32-bit read of _HI, whatever else the device did since. -/
theorem bar0Read_hi_latched {c : Cfg} {off v : Nat} {d : Dev} (h4 : off % 4 = 0) (h : isLo off = false) (hl : aget d.host.latch off = v + 1) :
    ∃ g, bar0Read c off 4 d = (leBytes 4 v, g) ∧ aget g.host.latch off = 0 := by
  rw [bar0Read_four h4, regRead32_latched h hl]
  exact ⟨_, rfl, aget_aset_same d.host.latch off 0⟩

/-- Settles O18: the latch is an entry of `host.latch` at _HI's offset, set by the read of _LO and emptied by that of _HI. -/
theorem pairReads : Obligations.PairReads := by
  refine ⟨fun c d off hlo h4 hhi => ?_, fun c d off h8 => bar0Read_eight h8, fun s off len r d hoff hpos hlen hp hr => ?_⟩
  · rw [bar0Read_four h4, regRead32_lo hlo]
    refine ⟨_, rfl, rfl, fun f hf => ?_⟩
    exact bar0Read_hi_latched (by omega) hhi (hf.trans (aget_aset_same d.host.latch (off + 4) (regValue c d (off + 4) + 1)))
  · have hw : (Instr.pairLoRead ⟨off, len⟩).wf = true := by simpa [Instr.wf, hpos, hlen] using hoff
    rw [exec_of_wf (f := fun c => pairLoRead c off len) rfl hw]
    simp only [pairLoRead, hostTouch_of hp, hr]

/-! ### BAR 2 (R328) -/

/-- A request that fits the aperture has 1 to 512 bytes. -/
theorem bar2Fits_size {d : Dev} {off len : Nat} (h : bar2Fits d off len = true) : 0 < len ∧ len ≤ 512 := by
  simp only [bar2Fits, Bool.and_eq_true, decide_eq_true_eq] at h
  exact h.1

theorem bar2Read_inRun {c : Cfg} {d : Dev} {off len : Nat} (hf : bar2Fits d off len = true) (hb : d.boot.phase = 2) (hp : d.pwr.state = 0) :
    bar2Read c off len d = wakeBy (bar2Get c off len d) := by
  have ht : hostTouch d = d := hostTouch_of (by omega)
  simp [bar2Read, ht, hf, hb, hp]

theorem bar2Write_inRun {c : Cfg} {d : Dev} {off : Nat} {data : List Byte} {p : Bool} (hf : bar2Fits d off data.length = true)
    (hb : d.boot.phase = 2) (hp : d.pwr.state = 0) : bar2Write c off data p d = wakeBy (bar2Put c off data p d) := by
  have ht : hostTouch d = d := hostTouch_of (by omega)
  simp [bar2Write, ht, hf, hb, hp]

theorem exec_bar2Read {s : State} {off len : Nat} (ho : off < 2 ^ 37) (hf : bar2Fits s.dev off len = true) (hb : s.dev.boot.phase = 2)
    (hp : s.dev.pwr.state = 0) : exec (.bar2Read off len) s = .next (s.ended (wakeBy (bar2Get s.cfg off len s.dev))) := by
  have hw : (Instr.bar2Read off len).wf = true := by simpa [Instr.wf, bar2Fits_size hf] using ho
  rw [exec_of_wf (f := fun c => bar2Read c off len) rfl hw, bar2Read_inRun hf hb hp]

theorem exec_bar2Write {s : State} {off : Nat} {data : List Byte} {p : Bool} (ho : off < 2 ^ 37) (hf : bar2Fits s.dev off data.length = true)
    (hb : s.dev.boot.phase = 2) (hp : s.dev.pwr.state = 0) :
    exec (.bar2Write off data p) s = .next (s.ended (wakeBy (bar2Put s.cfg off data p s.dev))) := by
  have hw : (Instr.bar2Write off data p).wf = true := by simpa [Instr.wf, bar2Fits_size hf] using ho
  rw [exec_of_wf (f := fun c => bar2Write c off data p) rfl hw, bar2Write_inRun hf hb hp]

/-! ### Register writes (R9, R12) -/

/-- Four bytes written as a word are those bytes. -/
theorem hostWord_plain {c : Cfg} {off : Nat} {data : List Byte} {d : Dev} (hd : isDoorbell off = false) (h4 : data.length = 4)
    (hp : d.pwr.state ≠ 2) : hostWord c off (leNat data) d = bar0Write c off data d := by
  have hk : off ≠ 0x20014 := by rintro rfl; exact absurd hd (by decide)
  have hb : leBytes 4 (leNat data) = data := by rw [← h4, leBytes_leNat]
  simp [hostWord, hk, hd, hb, hostTouch_of hp]

/-- A write that meets no doorbell has BAR 0's effect, whatever its size. -/
theorem registerWrite_plain {c : Cfg} {off : Nat} {data : List Byte} {d : Dev} (hp : d.pwr.state ≠ 2) (h0 : isDoorbell off = false)
    (h1 : data.length = 8 → isDoorbell (off + 4) = false) : registerWrite c off data d = bar0Write c off data d := by
  unfold registerWrite
  split
  next h => exact hostWord_plain h0 h.1 hp
  next =>
    rw [if_neg (by rintro ⟨h8, _, hb⟩; simp [h0, h1 h8] at hb), hostTouch_of hp]

/-- An aligned 8-byte write over a doorbell is its two halves in order. -/
theorem registerWrite_halves {c : Cfg} {off : Nat} {data : List Byte} {d : Dev} (h8 : data.length = 8) (ha : off % 8 = 0)
    (hb : isDoorbell off = true ∨ isDoorbell (off + 4) = true) :
    registerWrite c off data d = hostWord c (off + 4) (leNat (data.drop 4)) (hostWord c off (leNat (data.take 4)) d) := by
  rw [registerWrite, if_neg (by omega), if_pos ⟨h8, ha, hb⟩]

theorem exec_registerWrite {s : State} {off : Nat} {data : List Byte} (ho : off < 2 ^ 26) (h0 : 0 < data.length) (hl : data.length ≤ 512) :
    exec (.registerWrite off data) s = .next (s.ended (registerWrite s.cfg off data s.dev)) :=
  exec_of_wf (f := fun c => registerWrite c off data) rfl (by simpa [Instr.wf, h0, hl] using ho)

/-- A 32-bit word of BAR 0 outside the mailbox. -/
theorem bar0Write_word {c : Cfg} {off v : Nat} {d : Dev} (ha : off % 4 = 0) (hm : ¬(0x80000 ≤ off ∧ off < 0x90000)) (hv : v < 2 ^ 32) :
    bar0Write c off (leBytes 4 v) d = regWrite32 c off v d := by
  have hn : leNat (leBytes 4 v) = v := by rw [leNat_leBytes]; exact Nat.mod_eq_of_lt hv
  simp only [bar0Write, leBytes_length, hn]
  simp [ha, hm]

/-- A 32-bit write of a register with no doorbell, outside the mailbox. -/
theorem exec_registerWord {s : State} {off v : Nat} (ho : off < 2 ^ 26) (ha : off % 4 = 0) (hm : ¬(0x80000 ≤ off ∧ off < 0x90000))
    (hd : isDoorbell off = false) (hv : v < 2 ^ 32) (hp : s.dev.pwr.state ≠ 2) :
    exec (.registerWrite off (leBytes 4 v)) s = .next (s.ended (regWrite32 s.cfg off v s.dev)) := by
  rw [exec_registerWrite ho (by simp) (by simp), registerWrite_plain hp hd (by simp), bar0Write_word ha hm hv]

theorem regWrite32_icCtrl {c : Cfg} {v : Nat} {d : Dev} (hb : blockOn d 0x10000 = true) :
    regWrite32 c 0x10000 v d = { d with icu := { d.icu with globalHold := v.testBit 0, marks := [] } } := by
  simp [regWrite32, hb, icuWrite, clearMarks, bit]

/-- The quarter and the offset in its window that a slice register's BAR 0 offset names. -/
theorem csAt_window {q o : Nat} (ho : o < 0x400000) : (csAt q o - 0x1000000) / 0x400000 = q ∧ csAt q o % 0x400000 = o := by
  unfold csAt
  omega

theorem csAt_range {q o : Nat} (hq : q < 4) (ho : o < 0x400000) : 0x1000000 ≤ csAt q o ∧ csAt q o < 0x2000000 := by
  unfold csAt
  omega

/-- A write of a register in a quarter's window. -/
theorem regWrite32_csAt {c : Cfg} {q o v : Nat} {d : Dev} (hq : q < 4) (ho : o < 0x400000) (hv : v < 2 ^ 32) (hb : blockOn d (csAt q o) = true) :
    regWrite32 c (csAt q o) v d = quarterWrite c q o v d := by
  obtain ⟨hlo, hhi⟩ := csAt_range hq ho
  obtain ⟨hwq, hwo⟩ := csAt_window (q := q) ho
  have hge : ∀ n, n ≤ 0x1000000 → ¬ csAt q o < n := fun n hn => by omega
  simp only [regWrite32, hb, Nat.mod_eq_of_lt hv, hwq, hwo]
  simp [hge, hlo, hhi]

theorem isDoorbell_csAt (q o : Nat) : isDoorbell (csAt q o) = false := by
  have hlo : 0x1000000 ≤ csAt q o := by unfold csAt; omega
  have h1 : ¬ csAt q o < 0x140000 := by omega
  have h2 : csAt q o ≠ 0x20014 := by omega
  simp [isDoorbell, h1, h2]

/-! ### Configuration requests (R56) -/

/-- Configuration space is open on a trained link in RUN. -/
structure ConfigOpen (d : Dev) : Prop where
  run : d.pwr.state = 0
  begun : d.boot.phase ≠ 0
  up : d.host.linkUp = true
  ready : cfgReady d = true

section
variable {d : Dev} (h : ConfigOpen d)
include h

theorem ConfigOpen.touch : hostTouch d = d := hostTouch_of (by rw [h.run]; decide)

theorem ConfigOpen.reached : ¬(d.boot.phase = 0 ∨ d.host.linkUp = false ∧ d.pwr.state ≠ 3) := by simp [h.begun, h.up]

theorem ConfigOpen.answers : ¬ cfgReady d = false := by simp [h.ready]

theorem configRequest_read (off : Nat) : configRequest (.read off) d =
    { (cfgValue off d).2 with host := { (cfgValue off d).2.host with cfgAnswer := some (cfgValue off d).1 } } := by
  simp only [configRequest, h.touch, if_neg h.reached, if_neg h.answers]

theorem configRequest_command (b : Bool) : configRequest (.command b) d =
    clearMarks { d with host := { d.host with busMaster := b, cfgAnswer := some 0 } } := by
  simp only [configRequest, h.touch, if_neg h.reached, if_neg h.answers]

theorem configRequest_msixControl (e m : Bool) : configRequest (.msixControl e m) d =
    clearMarks { d with host := { d.host with msixEnable := e, funcMask := m, cfgAnswer := some 0 } } := by
  simp only [configRequest, h.touch, if_neg h.reached, if_neg h.answers]

theorem configRequest_resizeBar {n : Nat} (h0 : 28 ≤ n) (h1 : n ≤ 37) : configRequest (.resizeBar n) d =
    { d with host := { d.host with bar2Log := n, cfgAnswer := some 0 } } := by
  have hr : inRange n 28 37 = true := by simp [inRange, h0, h1]
  simp only [configRequest, h.touch, if_neg h.reached, if_neg h.answers, if_pos hr]

theorem configRequest_power (p : Bool) : configRequest (.power p) d =
    { d with host := { d.host with d3hot := p, cfgAnswer := some 0 } } := by
  simp only [configRequest, h.touch, if_neg h.reached, if_neg h.answers]

theorem configRequest_clearErrors : configRequest .clearErrors d =
    { d with host := { d.host with cfgAnswer := some 0 }, err := { d.err with aerInternal := false } } := by
  simp only [configRequest, h.touch, if_neg h.reached, if_neg h.answers]

end

theorem exec_configRequest {s : State} {r : CfgReq} (hw : r.wf = true) :
    exec (.configRequest r) s = .next (s.ended (configRequest r s.dev)) :=
  exec_of_wf (f := fun _ => configRequest r) rfl hw

/-! ### Reads that left the device (R381) -/

/-- The oldest outstanding read is answered: its data goes to the requester, a bad end is counted, and requests that waited for room go on. -/
def readAnswered (c : Cfg) (d : Dev) (r : OutRead) (rest : List OutRead) (data : List Byte) (bad : Bool) : Dev :=
  (List.range 4).foldl (fun d q => retryWaiting c q d) { d with
    host := { d.host with outReads := rest, storeRead := ⟨slice data 0 r.len, bad, true⟩ }
    mmu := { d.mmu with hostCplErr := if bad then satInc 255 d.mmu.hostCplErr else d.mmu.hostCplErr } }

theorem hostReadCompletion_cons {c : Cfg} {d : Dev} {r : OutRead} {rest : List OutRead} (h : d.host.outReads = r :: rest) (data : List Byte)
    (bad : Bool) : hostReadCompletion c data bad d = readAnswered c d r rest data bad := by
  cases bad <;> simp only [hostReadCompletion, h, readAnswered] <;> rfl

theorem completionTimeout_cons {c : Cfg} {d : Dev} {r : OutRead} {rest : List OutRead} (h : d.host.outReads = r :: rest) :
    completionTimeout c d = readAnswered c d r rest (List.replicate r.len 0) true := by
  rw [← hostReadCompletion_cons h]
  simp only [completionTimeout, h]

/-! ### The MSI-X table (R447) -/

/-- A table entry with the word at `o` of it written: address, data or Mask. -/
def msixEntryWritten (m : MsixEnt) (o v : Nat) : MsixEnt :=
  if o = 0 then { m with addr := putBits m.addr 31 0 (v - v % 4) }
  else if o = 4 then { m with addr := putBits m.addr 63 32 v }
  else if o = 8 then { m with data := v } else { m with unmasked := !v.testBit 0 }

theorem msixTableWrite_word {off v : Nat} {d : Dev} (ho : off < 1024) (ha : off % 4 = 0) (hv : v < 2 ^ 32) (hd : d.clk.domains.getD 2 0 = 1) :
    msixTableWrite off v d = clearMarks { d with host := { d.host with
      msix := aset d.host.msix (off / 16) (msixEntryWritten (aget d.host.msix (off / 16)) (off % 16) v) } } := by
  have hn : ¬(1024 ≤ off ∨ off % 4 ≠ 0 ∨ d.clk.domains.getD 2 0 ≠ 1) := by omega
  have hk : off % 16 = 0 ∨ off % 16 = 4 ∨ off % 16 = 8 ∨ off % 16 = 12 := by omega
  simp only [msixTableWrite, if_neg hn, Nat.mod_eq_of_lt hv]
  obtain h | h | h | h := hk <;> simp [h, msixEntryWritten, bit]

/-! ### The host's accesses together -/

/-- Settles O19, row by row. -/
theorem hostAccessRows : Obligations.HostAccessRows := by
  refine ⟨fun s off len ho hf hb hp _ => exec_bar2Read ho hf hb hp, fun s off data p ho hf hb hp _ => exec_bar2Write ho hf hb hp,
    fun s off data ho h0 hl hp hd hd4 => ?_, fun s off data ho h8 ha hd => ?_, fun s v hv hr => ?_, fun s q v hq hv hr => ?_,
    fun s hp hb hl hr => ?_, fun s r rest data bad hl hr hd => ?_, fun s off v ho ha hv hp hd => ?_⟩
  · rw [exec_registerWrite ho h0 hl, registerWrite_plain hp hd hd4]
  · rw [exec_registerWrite ho (by omega) (by omega), registerWrite_halves h8 ha hd]
  · rw [exec_registerWord (by decide) (by decide) (by decide) (by decide) hv hr.1, regWrite32_icCtrl hr.2]
  · obtain ⟨hlo, hhi⟩ := csAt_range (o := 0x60) hq (by decide)
    have ha : csAt q 0x60 % 4 = 0 := by unfold csAt; omega
    rw [exec_registerWord (by omega) ha (by omega) (isDoorbell_csAt q 0x60) hv hr.1, regWrite32_csAt hq (by decide) hv hr.2]
    rfl
  · have h : ConfigOpen s.dev := ⟨hp, hb, hl, hr⟩
    refine ⟨fun off ho ha => ⟨(cfgValue off s.dev).1, (cfgValue off s.dev).2, rfl, ?_⟩, fun b => ?_, fun e m => ?_, fun n h0 h1 => ?_, fun p => ?_, ?_⟩
    · rw [exec_configRequest (by simp [CfgReq.wf, ho, ha]), configRequest_read h]
    · rw [exec_configRequest rfl, configRequest_command h]
    · rw [exec_configRequest rfl, configRequest_msixControl h]
    · rw [exec_configRequest (by simp only [CfgReq.wf, decide_eq_true_eq]; omega), configRequest_resizeBar h h0 h1]
    · rw [exec_configRequest rfl, configRequest_power h]
    · rw [exec_configRequest rfl, configRequest_clearErrors h]
  · have hw : (Instr.hostReadCompletion data bad).wf = true := by simpa [Instr.wf] using hd
    constructor
    · exact (exec_live (f := fun c => hostReadCompletion c data bad) hw hl).trans (by rw [hostReadCompletion_cons hr]; rfl)
    · exact (exec_live (f := fun c => completionTimeout c) rfl hl).trans (by rw [completionTimeout_cons hr]; rfl)
  · have hw : (Instr.msixTableWrite off v).wf = true := by simpa [Instr.wf, ho] using hv
    rw [exec_of_wf (f := fun _ d => msixTableWrite off v (hostTouch d)) rfl hw, hostTouch_of hp, msixTableWrite_word ho ha hv hd]
    rfl

end Sys2Proof.Machine

/-! PROOFS. The statements of the architecture (01): the store's timed events and the loss of a memory, the scrubs, parity and spine
errors, core faults and the entry into the fault state. -/

namespace Sys2Proof.Machine

/-! ### Timed events of the store (R98, R106, R110) -/

theorem writeDrainExit_of_drain {c : Cfg} {q : Nat} {d : Dev} (h : (sliceOf d q).drain = true) :
    writeDrainExit c q d =
      let e := setSlice d q (fun m => { m with wq := 64, drain := false })
      retryWaiting c q ((sliceOf e q).staged.foldl (fun d x => acceptLine q x d) e) := if_pos h

/-- The tracker missed longest ago is the last of its list. -/
theorem trackerTimeout_of_last {c : Cfg} {q : Nat} {d : Dev} {t : StreamTrk} (h : (sliceOf d q).trackers.getLast? = some t) :
    trackerTimeout c q d =
      let e := advanceTo c (t.tb + 500) d
      setSlice e q (fun m => { m with trackers := m.trackers.filter (fun t => decide (e.phe.tb < t.tb + 500)) }) := by
  simp only [trackerTimeout, h]

/-! ### The loss of a memory (R29, R112) -/

/-- Of the power state only KEEP_READY can change: the keep area lies in Q0. -/
theorem loseMemory_eq (q : Nat) (d : Dev) :
    loseMemory q d =
      { setSlice d q (fun m => { m with memLost := true, lines := [], side := [], staged := [], recency := [] }) with
        pwr := { d.pwr with keepReady := decide (q ≠ 0) && d.pwr.keepReady } } := by
  by_cases hq : q = 0
  · subst hq; rfl
  · simp only [loseMemory, if_neg hq, decide_eq_true hq, Bool.true_and, ne_eq]
    rfl

theorem quarterMemoryLost_of_kept {q : Nat} {d : Dev} (hq : q < 4) (h : (sliceOf d q).memLost = false) :
    quarterMemoryLost q d = { loseMemory q d with notes := (loseMemory q d).notes ++ [.quarterOut q] } :=
  if_neg (by simp [h, hq])

/-- Settles O5: each row by the equation of its meaning in the state that the row names. -/
theorem storeTimedRows : Obligations.StoreTimedRows := by
  refine ⟨fun s q hq hr hd => ⟨_, rfl, ?_⟩, fun s q t hq hr ht => ⟨_, rfl, ?_⟩, fun s q hq hr => ?_, fun s q hq hp hm => ?_⟩
  · have hw : (Instr.writeDrainExit q).wf = true := decide_eq_true hq
    exact (exec_inRun (f := fun c => writeDrainExit c q) hw hr).trans (by rw [writeDrainExit_of_drain hd]; rfl)
  · have hw : (Instr.streamTrackerTimeout q).wf = true := decide_eq_true hq
    exact (exec_inRun (f := fun c => trackerTimeout c q) hw hr).trans (by rw [trackerTimeout_of_last ht]; rfl)
  · have hw : (Instr.scratchZeroDone q).wf = true := decide_eq_true hq
    exact exec_inRun (f := fun c => scratchZeroDone c q) hw hr
  · have hw : (Instr.quarterMemoryLost q).wf = true := decide_eq_true hq
    rw [exec_of_wf (f := fun _ => started (quarterMemoryLost q)) rfl hw, started_of hp, quarterMemoryLost_of_kept hq hm, loseMemory_eq]
    rfl

/-! ### The patrol scrub (R426) -/

/-- A sector that a scrub has read is written back when its code or its poison field holds something to correct, and it can be (R424). -/
def scrubWriteBack (q sec field code : Nat) (r : (List Byte × Bool) × Dev) : Dev :=
  if popcount 6 field < 4 ∧ code ≠ 2 ∧ (field ≠ 0 ∨ code ≠ 0) then dramPut q sec r.1.1 false r.2 else r.2

theorem scrubWriteBack_eq (q sec field code : Nat) (r : (List Byte × Bool) × Dev) :
    scrubWriteBack q sec field code r =
      if decide (popcount 6 field < 4) && (code != 2) && (field != 0 || code != 0) then dramPut q sec r.1.1 false r.2 else r.2 := by
  simp only [scrubWriteBack, Bool.and_eq_true, Bool.or_eq_true, decide_eq_true_eq, bne_iff_ne, and_assoc]

/-- The scrub's place moves on to `pos`, or past the memory's end back to its start with a pass counted. -/
def scrubAdvance (q pos : Nat) (d : Dev) : Dev :=
  { d with err := { d.err with tabs := upd d.err.tabs q (fun t => { t with
    scrubPos := if decide (dramBytes ≤ pos) then 0 else pos
    passes := if decide (dramBytes ≤ pos) then satInc 65535 t.passes else t.passes }) } }

theorem scrubAdvance_eq (q pos : Nat) (d : Dev) :
    scrubAdvance q pos d = { d with err := { d.err with tabs := d.err.tabs.modify q (fun t => { t with
      scrubPos := if dramBytes ≤ pos then 0 else pos, passes := if dramBytes ≤ pos then satInc 65535 t.passes else t.passes }) } } := by
  simp only [scrubAdvance, decide_eq_true_eq, upd]

/-- With the scrub on and the memory serving, a step reads the sector at hand with the error given, or else with what lies latent in it. -/
theorem scrubSector_of_serving {q : Nat} {e : SectorErr} {d : Dev} (hq : q < 4) (hc : d.clk.domains.getD (11 + 5 * q) 0 = 1)
    (hm : (sliceOf d q).memLost = false) (hs : (d.err.tabs.getD q ErrTab.init).scrubEn = true) :
    scrubSector q e d =
      let pos := (d.err.tabs.getD q ErrTab.init).scrubPos
      let f := if e = noErr then aget (sliceOf d q).latent (pos / 32) else e
      scrubAdvance q (pos + 32) (scrubWriteBack q (pos / 32) (aget (sliceOf d q).dramPoison (pos / 32) ^^^ (f.flips % 64)) f.code
        (dramSector q (pos / 32) f d)) := by
  refine if_neg ?_
  rintro (h | h | h | h)
  · omega
  · exact Bool.false_ne_true (h.symm.trans hs)
  · exact Bool.false_ne_true (hm.symm.trans h)
  · exact h hc

/-! ### Control words, parity and spine memories (R434, R435, R437) -/

theorem Live.answers {s : State} (h : Live s) : ¬(s.dev.boot.phase ≠ 2 ∨ s.dev.clk.domains.getD 1 0 ≠ 1) :=
  fun e => e.elim (· h.1) (· h.2)

theorem cwsScrub_of_live {s : State} (h : Live s) (k : Nat) (split : Bool) :
    cwsScrub s.cfg k split s.dev =
      let d := { s.dev with err := { s.dev.err with voteFix := satAdd 65535 s.dev.err.voteFix k, cwsPasses := satInc 65535 s.dev.err.cwsPasses } }
      if split then enterDevFault s.cfg 1 d else d := if_neg h.answers

theorem tokenParity_of_live {s : State} (h : Live s) : tokenParity s.cfg s.dev = enterDevFault s.cfg 2 s.dev := if_neg (not_not_intro h.1)

theorem creditParity_of_live {s : State} (h : Live s) : creditParity s.cfg s.dev = enterDevFault s.cfg 3 s.dev := if_neg (not_not_intro h.1)

/-- What an error of a data memory marks: the sector that a pipe shows next, or the command that runs there and what it writes. -/
def dataUe (cls i loc : Nat) (d : Dev) : Dev :=
  if cls = 7 then setPipe (i % 2) (fun m => { m with hurt := some (loc / 2 ^ 48 % 8, loc % 2 ^ 32) }) d
  else ((instOf d (instIdx cls 0 i)).run).elim d (fun r => setInst (setCmd d r.serial (fun x => { x with poisoned := true }))
    (instIdx cls 0 i) (fun m => { m with run := some { r with taint := true } }))

theorem spineUe_of_live {s : State} (h : Live s) {k cls i loc syn : Nat} (hs : syn < 32) :
    spineUe s.cfg k cls i loc syn s.dev =
      let d := logError 4 true (if k = 3 then 7 else 6) loc syn s.dev
      if k = 0 then enterDevFault s.cfg 4 d
      else if k = 1 then { d with mmu := { d.mmu with wc := d.mmu.wc.eraseIdx (loc % 1024) } }
      else if k = 2 then dataUe cls i loc d
      else saveDamage loc d := by
  simp only [spineUe, if_neg h.answers, Nat.mod_eq_of_lt hs, dataUe]
  cases (instOf (logError 4 true (if k = 3 then 7 else 6) loc syn s.dev) (instIdx cls 0 i)).run <;> rfl

/-! ### Faults of the spine cores (R30) -/

/-- Outside a hand-over a fault takes the standby away, or hands over to it, or with none left enters the fault state. -/
theorem oxCoreFault_of_live {s : State} {k : Nat} (h : Live s) (hk : k < 2) (hf : faulted s.dev = false) (hh : s.dev.upd.hand = none) :
    oxCoreFault s.cfg k s.dev =
      if (k == s.dev.boot.oxsActive) = false then { s.dev with boot := { s.dev.boot with oxsStandbyOk := false } }
      else if s.dev.boot.oxsStandbyOk = false then enterDevFault s.cfg 5 s.dev
      else resetTarget (64 + k) { s.dev with boot := { s.dev.boot with oxsActive := 1 - k, oxsStandbyOk := false } } := by
  have hn : ¬(s.dev.boot.phase ≠ 2 ∨ 1 < k ∨ s.dev.clk.domains.getD 1 0 ≠ 1 ∨ faulted s.dev = true) := by
    rintro (e | e | e | e)
    · exact e h.1
    · omega
    · exact e h.2
    · exact Bool.false_ne_true (hf.symm.trans e)
  simp only [oxCoreFault, if_neg hn, hh, oxStopped]

/-! ### Entry into the fault state (R437) -/

/-- Every context LOST, whatever its cause was. -/
theorem aget_foldl_amod_lost (n : Nat) (a : Arr CtxSt) {x : Nat} (hx : x < n) :
    (aget ((List.range n).foldl (fun a i => amod a i (fun y => { y with state := 2 })) a) x).state = 2 := by
  induction n with
  | zero => exact absurd hx (Nat.not_lt_zero x)
  | succ n ih =>
    rw [List.range_succ, List.foldl_append, List.foldl_cons, List.foldl_nil]
    by_cases hn : n = x
    · rw [hn, aget_amod_same]
    · rw [aget_amod_ne _ _ _ _ hn]
      exact ih (by omega)

/-- The device as its entry into the fault state leaves the contexts and the record of the cause. -/
def faultEntered (k : Nat) (d : Dev) : Dev :=
  { d with
    fe := { d.fe with ctxs := (List.range 64).foldl (fun a i => amod a i (fun x => { x with state := 2 })) d.fe.ctxs }
    err := { d.err with devFault := k, aerInternal := true } }

theorem ctxOf_faultEntered (k : Nat) (d : Dev) {x : Nat} (hx : x < 64) : (ctxOf (faultEntered k d) x).state = 2 := by
  simp only [ctxOf, faultEntered, aget_foldl_amod_lost 64 d.fe.ctxs hx]

/-- The trace packet of the entry touches neither the contexts nor the cause. -/
theorem enterDevFault_keeps {c : Cfg} {k : Nat} {d : Dev} (h : faulted d = false) :
    ∃ o m i n, enterDevFault c k d = { faultEntered k d with obs := o, host := m, icu := i, notes := n } := by
  have he : enterDevFault c k d =
      let e := obsEmit c 3 0x33 0 0 k [] (faultEntered k d)
      { e with notes := e.notes ++ [.devFault] } := if_neg (by simp [h])
  obtain ⟨o, m, i, hk⟩ := obsEmit_keeps c 3 0x33 0 0 k [] (faultEntered k d)
  rw [he, hk]
  exact ⟨o, m, i, _, rfl⟩

/-! ### Integrity together -/

/-- Settles O15, row by row; the fault state from its entry. -/
theorem integrityRows : Obligations.IntegrityRows := by
  refine ⟨fun s q e hq he hr hc hm hs => ?_, fun s k split hl => ?_, fun s hl => ⟨?_, ?_⟩, fun s k cls i loc syn hk hcls hi hloc hsyn hl => ?_,
    fun s k hk hl hf hh => ?_, fun c k d hf h0 => ?_⟩
  · have hw : (Instr.scrubSector q e).wf = true := by simpa [Instr.wf, hq] using he
    refine ⟨_, _, _, rfl, _, rfl, ?_⟩
    exact (exec_inRun (f := fun _ => scrubSector q e) hw hr).trans (by
      rw [scrubSector_of_serving hq hc hm hs, scrubAdvance_eq, scrubWriteBack_eq]; rfl)
  · exact (exec_live (f := fun c => cwsScrub c k split) rfl hl).trans (by rw [cwsScrub_of_live hl])
  · exact (exec_live (f := fun c => tokenParity c) rfl hl).trans (by rw [tokenParity_of_live hl])
  · exact (exec_live (f := fun c => creditParity c) rfl hl).trans (by rw [creditParity_of_live hl])
  · have hw : (Instr.spineUe k cls i loc syn).wf = true := by simpa [Instr.wf, hk, hcls, hi, hsyn] using hloc
    exact (exec_live (f := fun c => spineUe c k cls i loc syn) hw hl).trans (by rw [spineUe_of_live hl hsyn]; rfl)
  · have hw : (Instr.oxCoreFault k).wf = true := decide_eq_true hk
    exact (exec_live (f := fun c => oxCoreFault c k) hw hl).trans (by rw [oxCoreFault_of_live hl hk hf hh])
  · obtain ⟨o, m, i, n, h⟩ := enterDevFault_keeps (c := c) (k := k) hf
    rw [h]
    exact ⟨bne_iff_ne.2 h0, rfl, fun x hx => ctxOf_faultEntered k d hx⟩

end Sys2Proof.Machine

/-! PROOFS. The statements of configuration and start (02): the records in force and their legality, the outcomes of a start, the reset
inputs, the releases and the link. -/

namespace Sys2Proof.Machine

/-! ### Which rows act on the records in force (R53 to R55, R495) -/

theorem onDev_cfg {b : Bool} {f : Cfg → Dev → Dev} {s t : State} (h : onDev b f s = .next t) : t.cfg = s.cfg := by
  cases h
  cases b <;> rfl

/-- A row on the records too leaves them as they were, where its operands fit nothing, or as its meaning gives them. -/
theorem onBoth_cfg {b : Bool} {f : Cfg → Dev → Cfg × Dev} {s t : State} (h : onBoth b f s = .next t) :
    t.cfg = s.cfg ∨ t.cfg = (f s.cfg s.dev).1 := by
  cases h
  cases b
  · exact .inl rfl
  · exact .inr rfl

/-- A row on the records and the device, with operands that fit, completes with its effect. -/
theorem exec_onBoth {i : Instr} {f : Cfg → Dev → Cfg × Dev} {s : State} (hf : exec i s = onBoth i.wf f s) (h : i.wf = true) :
    exec i s = .next (State.ended { s with cfg := (f s.cfg s.dev).1 } (f s.cfg s.dev).2) := by rw [hf, h, onBoth_next]

theorem idle_cfg (s : State) : (idle s).cfg = s.cfg := by
  unfold idle
  split <;> rfl

/-- A row outside `actsOnRecords` leaves the records in force as they were. -/
theorem exec_cfg_of_device {i : Instr} {s t : State} (hi : actsOnRecords i = false) (h : exec i s = .next t) : t.cfg = s.cfg := by
  obtain ⟨f, hf⟩ := exec_eq_onDev hi
  exact onDev_cfg ((hf s).symm.trans h)

/-- A step runs the idle period or the front command. -/
theorem step_next_cases {s t : State} (h : step s = .next t) :
    (s.pending = [] ∧ t = idle s) ∨ ∃ i rest, s.pending = i :: rest ∧ exec i { s with pending := rest } = .next t := by
  unfold step at h
  split at h
  next hp =>
    cases h
    exact .inl ⟨hp, rfl⟩
  next i rest hp => exact .inr ⟨i, rest, hp, h⟩

/-- Settles O29: the rows that it excepts are those that act on the records. -/
theorem recordsChangeOnlyAtStarts : Obligations.RecordsChangeOnlyAtStarts := by
  intro s t hq h
  obtain ⟨-, rfl⟩ | ⟨i, rest, hp, he⟩ := step_next_cases h
  · exact idle_cfg s
  · have hi : actsOnRecords i = false := by
      rw [← hq i (by rw [hp]; rfl)]
      cases i <;> rfl
    exact exec_cfg_of_device (s := { s with pending := rest }) hi he

/-! ### Lists of records -/

/-- What is read of a list with one element replaced. -/
theorem getD_set_cases {α : Type} (l : List α) (n i : Nat) (x e : α) :
    (l.set n x).getD i e = l.getD i e ∨ n = i ∧ (l.set n x).getD i e = x := by
  simp only [List.getD_eq_getElem?_getD, List.getElem?_set]
  by_cases h : n = i
  · subst h
    by_cases hl : n < l.length
    · exact .inr ⟨rfl, by simp [hl]⟩
    · exact .inl (by simp [hl])
  · exact .inl (by simp [h])

/-- Replacing one element of a list adds at most the new element's share to a sum over its places. -/
theorem sum_getD_set_le {α : Type} (g : α → Nat) (l : List α) (n : Nat) (x e : α) (k : Nat) :
    ((List.range k).map (fun r => g ((l.set n x).getD r e))).sum ≤ ((List.range k).map (fun r => g (l.getD r e))).sum + (if n < k then g x else 0) := by
  induction k with
  | zero => simp
  | succ k ih =>
    simp only [List.range_succ, List.map_append, List.sum_append, List.map_cons, List.map_nil, List.sum_cons, List.sum_nil]
    obtain h | ⟨rfl, h⟩ := getD_set_cases l n k x e
    · rw [h]
      split at ih <;> split <;> omega
    · rw [h, if_pos (Nat.lt_succ_self n)]
      rw [if_neg (Nat.lt_irrefl n)] at ih
      omega

/-! ### What an accepted record puts into force (R49)

Each field of the configuration is as it was, or the record is of the field's type and gives it its value. -/

/-- PHASE_INPUT as its payload gives it. -/
def phaseInputOf (p : List Byte) : PhaseInputRec :=
  if getLe p 0 1 = 0 then phaseInputAbsent
  else ⟨getLe p 0 1, getLe p 1 1, getLe p 2 2, getLe p 4 2, getLe p 6 1, getLe p 8 4, getLe p 12 4, getLe p 16 2⟩

/-- STORE_WAYS as its payload gives it. -/
def storeWaysOf (p : List Byte) : StoreWaysRec :=
  ⟨getLe p 0 2, getLe p 2 2, (List.range 8).map (fun i => getLe p (4 + 2 * i) 2), (List.range 16).map (fun i => getLe p (0x14 + i) 1)⟩

/-- The entry of ring `r` as the payload of RINGS gives it. -/
def ringEntryOf (p : List Byte) (r : Nat) : RingRec :=
  let o := 16 * r
  let t := getLe p o 4
  ⟨if t = 0 then 20000 else t, if t = 0 then 0 else getLe p (o + 4) 1, getLe p (o + 5) 1, getLe p (o + 6) 2, getLe p (o + 8) 4⟩

/-- RT_SHARE as its payload gives it. -/
def rtShareOf (p : List Byte) : RtShareRec :=
  ⟨(List.range 4).map (fun i => getLe p (0 + i) 1), (List.range 4).map (fun i => getLe p (4 + i) 1), getLe p 8 1, getLe p 9 1⟩

/-- DEADLINE_MON as its payload gives it. -/
def deadlineMonOf (p : List Byte) : DeadlineMonRec :=
  ⟨getLe p 0 1, getLe p 1 1, getLe p 2 1, getLe p 3 1, getLe p 4 4, getLe p 8 4, getLe p 12 4, getLe p 16 1, getLe p 17 1⟩

/-- SUBMIT as its payload gives it. -/
def submitOf (p : List Byte) : SubmitRec := ⟨getLe p 0 1, getLe p 1 1, getLe p 2 2⟩

/-- ISOLATION as its payload gives it. -/
def isolationOf (p : List Byte) : IsolationRec :=
  ⟨(List.range 64).map (fun i => getLe p (0 + i) 1), (List.range 9).map (fun i => getLe p (0x40 + i) 1), getLe p 0x50 1⟩

theorem applyRec_phaseInput (c : Cfg) (a : Accepted) : (applyRec c a).phaseInput = c.phaseInput ∨
    a.type = 3 ∧ (applyRec c a).phaseInput = c.phaseInput.set a.inst (phaseInputOf a.payload) := by
  unfold applyRec
  split
  case h_3 h => exact .inr ⟨h, rfl⟩
  all_goals exact .inl rfl

theorem applyRec_storeWays (c : Cfg) (a : Accepted) : (applyRec c a).storeWays = c.storeWays ∨
    a.type = 4 ∧ (applyRec c a).storeWays = c.storeWays.set a.inst (storeWaysOf a.payload) := by
  unfold applyRec
  split
  case h_4 h => exact .inr ⟨h, rfl⟩
  all_goals exact .inl rfl

theorem applyRec_rings (c : Cfg) (a : Accepted) : (applyRec c a).rings = c.rings ∨
    a.type = 5 ∧ (applyRec c a).rings = (List.range 64).map (ringEntryOf a.payload) := by
  unfold applyRec
  split
  case h_5 h => exact .inr ⟨h, rfl⟩
  all_goals exact .inl rfl

theorem applyRec_rtShare (c : Cfg) (a : Accepted) : (applyRec c a).rtShare = c.rtShare ∨
    a.type = 6 ∧ (applyRec c a).rtShare = c.rtShare.set a.inst (some (rtShareOf a.payload)) := by
  unfold applyRec
  split
  case h_6 h => exact .inr ⟨h, rfl⟩
  all_goals exact .inl rfl

theorem applyRec_deadlineMon (c : Cfg) (a : Accepted) : (applyRec c a).deadlineMon = c.deadlineMon ∨
    a.type = 7 ∧ (applyRec c a).deadlineMon = c.deadlineMon.set a.inst (some (deadlineMonOf a.payload)) := by
  unfold applyRec
  split
  case h_7 h => exact .inr ⟨h, rfl⟩
  all_goals exact .inl rfl

theorem applyRec_submit (c : Cfg) (a : Accepted) : (applyRec c a).submit = c.submit ∨
    a.type = 8 ∧ (applyRec c a).submit = submitOf a.payload := by
  unfold applyRec
  split
  case h_8 h => exact .inr ⟨h, rfl⟩
  all_goals exact .inl rfl

theorem applyRec_isolation (c : Cfg) (a : Accepted) : (applyRec c a).isolation = c.isolation ∨
    a.type = 13 ∧ (applyRec c a).isolation = isolationOf a.payload := by
  unfold applyRec
  split
  case h_13 h => exact .inr ⟨h, rfl⟩
  all_goals exact .inl rfl

/-- The configuration that accepted records give. -/
def inForce (acc : List Accepted) : Cfg := acc.foldl applyRec Cfg.absent

theorem inForce_snoc (acc : List Accepted) (a : Accepted) : inForce (acc ++ [a]) = applyRec (inForce acc) a := by
  simp [inForce]

theorem cfgOf_eq_inForce (rs : List RawRec) : cfgOf rs = inForce (acceptRecs rs) := rfl

/-! ### What acceptance gives (R50, R52) -/

/-- The lists of records that acceptance gives: each record in range on its own and beside those before it, the instances of a type ascending. -/
inductive Accepts : List Accepted → Prop
  | nil : Accepts []
  | snoc {acc : List Accepted} {a : Accepted} : Accepts acc → recOk a.type a.inst a.payload = true → recFits acc a.type a.inst a.payload = true →
      (∀ b ∈ acc, b.type = a.type → b.inst < a.inst) → Accepts (acc ++ [a])

/-- Records taken up in the order of ascending places, each one in range and fitting, are accepted. -/
theorem accepts_foldl (f : List Accepted → Nat × Nat → List Accepted)
    (hf : ∀ acc s, f acc s = acc ∨ ∃ i p, f acc s = acc ++ [⟨s.1, s.2, i, p⟩] ∧ recOk s.1 s.2 p = true ∧ recFits acc s.1 s.2 p = true)
    (slots : List (Nat × Nat)) (acc : List Accepted) (ho : slots.Pairwise (fun s u => s.1 = u.1 → s.2 < u.2))
    (hb : ∀ b ∈ acc, ∀ s ∈ slots, b.type = s.1 → b.inst < s.2) (ha : Accepts acc) : Accepts (slots.foldl f acc) := by
  induction slots generalizing acc with
  | nil => exact ha
  | cons s rest ih =>
    obtain ⟨hs, hrest⟩ := List.pairwise_cons.1 ho
    have hold : ∀ b ∈ acc, ∀ u ∈ rest, b.type = u.1 → b.inst < u.2 := fun b m u n => hb b m u (List.mem_cons_of_mem s n)
    obtain h | ⟨i, p, h, hok, hfit⟩ := hf acc s
    · rw [List.foldl_cons, h]
      exact ih acc hrest hold ha
    · rw [List.foldl_cons, h]
      refine ih _ hrest (fun b m u n => ?_) (.snoc ha hok hfit (fun b m e => hb b m s List.mem_cons_self e))
      obtain m | m := List.mem_append.1 m
      · exact hold b m u n
      · cases List.mem_singleton.1 m
        exact hs u n

theorem recSlots_ascend : recSlots.Pairwise (fun s u => s.1 = u.1 → s.2 < u.2) := by decide

theorem acceptRecs_accepts (rs : List RawRec) : Accepts (acceptRecs rs) := by
  refine accepts_foldl _ (fun acc s => ?_) recSlots [] recSlots_ascend (fun b m => absurd m (List.not_mem_nil)) .nil
  split
  next r i h =>
    have hr := List.find?_some h
    simp only [Bool.and_eq_true] at hr
    obtain ⟨⟨-, hok⟩, hfit⟩ := hr
    exact .inr ⟨i, r.payload, rfl, hok, hfit⟩
  next => exact .inl rfl

theorem Accepts.inRange {acc : List Accepted} (h : Accepts acc) : ∀ a ∈ acc, recOk a.type a.inst a.payload = true := by
  induction h with
  | nil => exact fun a m => absurd m List.not_mem_nil
  | snoc _ hok _ _ ih =>
    intro a m
    obtain m | m := List.mem_append.1 m
    · exact ih a m
    · obtain rfl := List.mem_singleton.1 m
      exact hok

/-- What a fitting record has to do with each record before it holds of every two accepted records of a type, in the order of their instances. -/
theorem Accepts.pair {R : Accepted → Accepted → Prop} (hR : ∀ acc b, recFits acc b.type b.inst b.payload = true → ∀ a ∈ acc, a.type = b.type → R a b)
    {acc : List Accepted} (h : Accepts acc) : ∀ a ∈ acc, ∀ b ∈ acc, a.type = b.type → a.inst < b.inst → R a b := by
  induction h with
  | nil => exact fun a m => absurd m List.not_mem_nil
  | @snoc acc x _ _ hfit hlast ih =>
    intro a ma b mb ht hi
    obtain oa | na := List.mem_append.1 ma <;> obtain ob | nb := List.mem_append.1 mb
    · exact ih a oa b ob ht hi
    · obtain rfl := List.mem_singleton.1 nb
      exact hR acc b hfit a oa ht
    · obtain rfl := List.mem_singleton.1 na
      have := hlast b ob ht.symm
      omega
    · obtain rfl := List.mem_singleton.1 na
      obtain rfl := List.mem_singleton.1 nb
      omega

/-- What the absent records have and every record in range keeps, the records in force have. -/
theorem Accepts.inForce_of {P : Cfg → Prop} (h0 : P Cfg.absent) (hs : ∀ c a, recOk a.type a.inst a.payload = true → P c → P (applyRec c a))
    {acc : List Accepted} (h : Accepts acc) : P (inForce acc) := by
  induction h with
  | nil => exact h0
  | snoc _ hok _ _ ih =>
    rw [inForce_snoc]
    exact hs _ _ hok ih

/-! ### Records legal by themselves: ways, rings, submission, classes (R49, R95, R100) -/

theorem getD_map_range {α : Type} (f : Nat → α) (k i : Nat) (e : α) : ((List.range k).map f).getD i e = if i < k then f i else e := by
  by_cases h : i < k <;> simp [List.getD_eq_getElem?_getD, h]

theorem getD_replicate_self {α : Type} (n i : Nat) (e : α) : (List.replicate n e).getD i e = e := by
  rw [List.getD_eq_getElem?_getD, List.getElem?_getD_replicate_default_eq]

/-- The scratch, trace and cache ways of a slice are disjoint (R95). -/
def WaysLegal (w : StoreWaysRec) : Prop := w.scratch &&& w.trace = 0 ∧ ∀ i < 8, w.rcMask.getD i 0 &&& (w.scratch ||| w.trace) = 0

/-- A ring's times are not 0 (R49). -/
def RingLegal (r : RingRec) : Prop := 0 < r.timeout ∧ 0 < r.waitTimeoutUs ∧ 0 < r.sliceUs

/-- The submission settings are in range (R49). -/
def SubmitLegal (m : SubmitRec) : Prop := m.mode ≤ 1 ∧ 1 ≤ m.coalesceK ∧ m.coalesceK ≤ 64 ∧ m.coalesceUs ≤ 10

theorem ringAbsent_legal : RingLegal ringAbsent := by
  unfold RingLegal
  decide

theorem submitAbsent_legal : SubmitLegal Cfg.absent.submit := by
  unfold SubmitLegal
  decide

/-- Context and engine classes are 0 to 7 (R100). -/
def ClassesLegal (l : IsolationRec) : Prop := (∀ x, l.contextRc.getD x 0 ≤ 7) ∧ ∀ e, l.engineRc.getD e 0 ≤ 7

theorem storeWaysOf_legal {n : Nat} {p : List Byte} (h : recOk 4 n p = true) : WaysLegal (storeWaysOf p) := by
  have hw : storeWaysOk p = true := (Bool.and_eq_true_iff.1 h).2
  simp only [storeWaysOk, Bool.and_eq_true, List.all_eq_true, beq_iff_eq, List.mem_range] at hw
  obtain ⟨⟨⟨hst, hm⟩, -⟩, -⟩ := hw
  refine ⟨hst, fun i hi => ?_⟩
  simp only [storeWaysOf, getD_map_range, if_pos hi]
  exact hm i hi

theorem slice_eq_map (l : List Byte) (o n : Nat) : slice l o n = (List.range n).map (fun i => l.getD (o + i) 0) := by
  refine List.ext_getElem (by simp) (fun i hi _ => ?_)
  rw [slice_length] at hi
  simp only [slice, List.getElem_append, List.getElem_take, List.getElem_drop, List.getElem_replicate, List.getElem_map, List.getElem_range,
    List.getD_eq_getElem?_getD]
  split
  next h =>
    rw [List.length_take, List.length_drop] at h
    rw [List.getElem?_eq_getElem (by omega), Option.getD_some]
  next h =>
    rw [List.length_take, List.length_drop] at h
    rw [List.getElem?_eq_none (by omega), Option.getD_none]

/-- A field of a part of a payload is the payload's field at its place. -/
theorem getLe_slice {p : List Byte} {o k i n : Nat} (h : i + n ≤ k) : getLe (slice p o k) i n = getLe p (o + i) n := by
  simp only [getLe, slice_eq_map]
  refine congrArg leNat (List.map_congr_left (fun j hj => ?_))
  rw [List.mem_range] at hj
  rw [getD_map_range, if_pos (by omega), Nat.add_assoc]

theorem ringEntryOf_legal {n : Nat} {p : List Byte} (h : recOk 5 n p = true) {r : Nat} (hr : r < 64) : RingLegal (ringEntryOf p r) := by
  have hw : ringsOk p = true := (Bool.and_eq_true_iff.1 h).2
  simp only [ringsOk, List.all_eq_true, List.mem_range, Bool.and_eq_true, decide_eq_true_eq] at hw
  obtain ⟨⟨⟨-, hslice⟩, hwait⟩, -⟩ := hw r hr
  rw [getLe_slice (by decide)] at hslice hwait
  refine ⟨?_, hwait, hslice⟩
  dsimp only [ringEntryOf]
  split <;> omega

theorem submitOf_legal {n : Nat} {p : List Byte} (h : recOk 8 n p = true) : SubmitLegal (submitOf p) := by
  have hw : submitOk p = true := (Bool.and_eq_true_iff.1 h).2
  simp only [submitOk, inRange, Bool.and_eq_true, decide_eq_true_eq] at hw
  obtain ⟨⟨⟨hmode, hk⟩, hus⟩, -⟩ := hw
  exact ⟨hmode, hk.1, hk.2, hus⟩

theorem isolationOf_legal {n : Nat} {p : List Byte} (h : recOk 13 n p = true) : ClassesLegal (isolationOf p) := by
  have hw : isolationOk p = true := (Bool.and_eq_true_iff.1 h).2
  simp only [isolationOk, Bool.and_eq_true, List.all_eq_true, List.mem_range, decide_eq_true_eq] at hw
  obtain ⟨⟨⟨⟨hctx, heng⟩, -⟩, -⟩, -⟩ := hw
  constructor
  · intro x
    simp only [isolationOf, getD_map_range, Nat.zero_add]
    split
    next hx => exact hctx x hx
    next => exact Nat.zero_le 7
  · intro e
    simp only [isolationOf, getD_map_range]
    split
    next he => exact heng e he
    next => exact Nat.zero_le 7

section
variable {acc : List Accepted} (h : Accepts acc)
include h

theorem Accepts.ways (q : Nat) : WaysLegal ((inForce acc).ways q) := by
  refine h.inForce_of (P := fun c => WaysLegal (c.ways q)) ?_ (fun c a hok hc => ?_)
  · rw [Cfg.ways, Cfg.absent, getD_replicate_self]
    exact ⟨rfl, fun i _ => Nat.and_zero _⟩
  · obtain e | ⟨ht, e⟩ := applyRec_storeWays c a
    · rwa [Cfg.ways, e]
    · rw [Cfg.ways, e]
      obtain e | ⟨-, e⟩ := getD_set_cases c.storeWays a.inst q (storeWaysOf a.payload) storeWaysAbsent
      · rwa [e]
      · rw [e]
        exact storeWaysOf_legal (ht ▸ hok)

theorem Accepts.rings (r : Nat) : RingLegal ((inForce acc).ring r) := by
  refine h.inForce_of (P := fun c => RingLegal (c.ring r)) ?_ (fun c a hok hc => ?_)
  · rw [Cfg.ring, Cfg.absent, getD_replicate_self]
    exact ringAbsent_legal
  · obtain e | ⟨ht, e⟩ := applyRec_rings c a
    · rwa [Cfg.ring, e]
    · rw [Cfg.ring, e, getD_map_range]
      split
      next hr => exact ringEntryOf_legal (ht ▸ hok) hr
      next => exact ringAbsent_legal

theorem Accepts.submit : SubmitLegal (inForce acc).submit := by
  refine h.inForce_of (P := fun c => SubmitLegal c.submit) submitAbsent_legal (fun c a hok hc => ?_)
  obtain e | ⟨ht, e⟩ := applyRec_submit c a
  · rwa [e]
  · rw [e]
    exact submitOf_legal (ht ▸ hok)

theorem Accepts.classes : ClassesLegal (inForce acc).isolation := by
  refine h.inForce_of (P := fun c => ClassesLegal c.isolation) ?_ (fun c a hok hc => ?_)
  · exact ⟨fun x => (getD_replicate_self 64 x 0).le.trans (Nat.zero_le 7), fun e => (getD_replicate_self 9 e 0).le.trans (Nat.zero_le 7)⟩
  · obtain e | ⟨ht, e⟩ := applyRec_isolation c a
    · rwa [e]
    · rw [e]
      exact isolationOf_legal (ht ▸ hok)

end

/-! ### Records legal beside each other: pins, shares, monitors (R52, R66, R532) -/

/-- What stands in force is the absent value, or an accepted record put it there. -/
theorem inForce_from {α : Type} (f : Cfg → α) (R : Accepted → α → Prop)
    (hs : ∀ c a, f (applyRec c a) = f c ∨ R a (f (applyRec c a))) (acc : List Accepted) :
    f (inForce acc) = f Cfg.absent ∨ ∃ a ∈ acc, R a (f (inForce acc)) := by
  induction acc using List.reverseRecOn with
  | nil => exact .inl rfl
  | append_singleton acc a ih =>
    rw [inForce_snoc]
    obtain h | h := hs (inForce acc) a
    · rw [h]
      exact ih.imp_right (fun ⟨b, hb, hr⟩ => ⟨b, List.mem_append_left _ hb, hr⟩)
    · exact .inr ⟨a, List.mem_append_right _ List.mem_cons_self, h⟩

theorem phaseInputOf_mode (p : List Byte) : (phaseInputOf p).mode = getLe p 0 1 := by
  unfold phaseInputOf
  split
  next h => exact h.symm
  next => rfl

/-- A phase input that is on comes from an accepted record of its own place. -/
theorem phin_from {acc : List Accepted} {i : Nat} (hi : ((inForce acc).phin i).mode ≠ 0) :
    ∃ a ∈ acc, a.type = 3 ∧ a.inst = i ∧ ((inForce acc).phin i).mode = getLe a.payload 0 1 := by
  refine (inForce_from (fun c => (c.phin i).mode) (fun a m => a.type = 3 ∧ a.inst = i ∧ m = getLe a.payload 0 1) (fun c a => ?_) acc).resolve_left
    (fun h => hi (h.trans ?_))
  · simp only [Cfg.phin]
    obtain e | ⟨ht, e⟩ := applyRec_phaseInput c a
    · exact .inl (by rw [e])
    · rw [e]
      obtain e | ⟨hn, e⟩ := getD_set_cases c.phaseInput a.inst i (phaseInputOf a.payload) phaseInputAbsent
      · exact .inl (by rw [e])
      · exact .inr ⟨ht, hn, by rw [e, phaseInputOf_mode]⟩
  · rw [Cfg.phin, Cfg.absent, getD_replicate_self]
    rfl

/-- A ring's reservation comes from an accepted record of its own place. -/
theorem share_from {acc : List Accepted} {r : Nat} {x : RtShareRec} (hx : (inForce acc).share r = some x) :
    ∃ a ∈ acc, a.type = 6 ∧ a.inst = r ∧ x = rtShareOf a.payload := by
  have h := inForce_from (fun c => c.share r) (fun a m => a.type = 6 ∧ a.inst = r ∧ m = some (rtShareOf a.payload)) (fun c a => ?_) acc
  · obtain h | ⟨a, ha, ht, hn, e⟩ := h
    · rw [hx, Cfg.share, Cfg.absent, getD_replicate_self] at h
      cases h
    · exact ⟨a, ha, ht, hn, Option.some.inj (hx.symm.trans e)⟩
  · simp only [Cfg.share]
    obtain e | ⟨ht, e⟩ := applyRec_rtShare c a
    · exact .inl (by rw [e])
    · rw [e]
      exact (getD_set_cases c.rtShare a.inst r (some (rtShareOf a.payload)) none).imp_right (fun ⟨hn, e⟩ => ⟨ht, hn, e⟩)

theorem dlm_of_getD {c : Cfg} {r : Nat} {m : DeadlineMonRec} (h : c.dlm r = some m) : c.deadlineMon.getD r none = some m ∧ m.enable = 1 := by
  unfold Cfg.dlm at h
  split at h
  next x hx =>
    split at h
    next hen =>
      cases h
      exact ⟨hx, hen⟩
    next => cases h
  next => cases h

/-- A monitor comes from an accepted record of its ring that enables it. -/
theorem dlm_from {acc : List Accepted} {r : Nat} {m : DeadlineMonRec} (hm : (inForce acc).dlm r = some m) :
    ∃ a ∈ acc, a.type = 7 ∧ a.inst = r ∧ getLe a.payload 0 1 = 1 ∧ m.fallbackRing = getLe a.payload 2 1 := by
  obtain ⟨hx, hen⟩ := dlm_of_getD hm
  have h := inForce_from (fun c => c.deadlineMon.getD r none) (fun a m => a.type = 7 ∧ a.inst = r ∧ m = some (deadlineMonOf a.payload))
    (fun c a => ?_) acc
  · obtain h | ⟨a, ha, ht, hn, e⟩ := h
    · rw [hx, Cfg.absent, getD_replicate_self] at h
      cases h
    · obtain rfl := Option.some.inj (hx.symm.trans e)
      exact ⟨a, ha, ht, hn, hen, rfl⟩
  · obtain e | ⟨ht, e⟩ := applyRec_deadlineMon c a
    · exact .inl (by rw [e])
    · rw [e]
      exact (getD_set_cases c.deadlineMon a.inst r (some (deadlineMonOf a.payload)) none).imp_right (fun ⟨hn, e⟩ => ⟨ht, hn, e⟩)

theorem mem_acceptedOf {acc : List Accepted} {a : Accepted} {t : Nat} : a ∈ acceptedOf acc t ↔ a ∈ acc ∧ a.type = t := by
  simp [acceptedOf]

theorem recFits_pins {acc : List Accepted} {n : Nat} {p : List Byte} (h : recFits acc 3 n p = true) (hp : getLe p 0 1 ≠ 0) {a : Accepted}
    (ha : a ∈ acc) (ht : a.type = 3) : n ∉ pinsOf a := by
  simp only [recFits, Bool.or_eq_true, beq_iff_eq, hp, false_or, Bool.not_eq_true', List.contains_eq_mem, decide_eq_false_iff_not,
    List.mem_flatMap, not_exists, not_and] at h
  exact h a (mem_acceptedOf.2 ⟨ha, ht⟩)

theorem recFits_share {acc : List Accepted} {n : Nat} {p : List Byte} (h : recFits acc 6 n p = true) :
    (∀ a ∈ acc, a.type = 6 → ∀ i < 8, getLe a.payload i 1 &&& getLe p i 1 = 0) ∧
    ((acceptedOf acc 6).map (fun a => getLe a.payload 8 1)).sum + getLe p 8 1 ≤ 100 ∧
    ((acceptedOf acc 6).map (fun a => getLe a.payload 9 1)).sum + getLe p 9 1 ≤ 100 := by
  simp only [recFits, Bool.and_eq_true, List.all_eq_true, List.mem_range, beq_iff_eq, decide_eq_true_eq] at h
  obtain ⟨⟨hm, h8⟩, h9⟩ := h
  exact ⟨fun a ha ht => hm a (mem_acceptedOf.2 ⟨ha, ht⟩), h8, h9⟩

theorem recFits_monitor {acc : List Accepted} {n : Nat} {p : List Byte} (h : recFits acc 7 n p = true) (hp : getLe p 0 1 = 1) {a : Accepted}
    (ha : a ∈ acc) (ht : a.type = 7) (hen : getLe a.payload 0 1 = 1) :
    getLe a.payload 2 1 ≠ getLe p 2 1 ∧ a.inst ≠ getLe p 2 1 ∧ getLe a.payload 2 1 ≠ n := by
  simp only [recFits, Bool.or_eq_true, beq_iff_eq, hp, one_ne_zero, false_or, List.all_eq_true, List.mem_filter, Bool.and_eq_true,
    bne_iff_ne] at h
  obtain ⟨⟨h1, h2⟩, h3⟩ := h a ⟨mem_acceptedOf.2 ⟨ha, ht⟩, hen⟩
  exact ⟨h1, h2, h3⟩

theorem mem_pinsOf {a : Accepted} {j : Nat} (h3 : getLe a.payload 0 1 ≤ 3) (h : a.inst ≤ j) (hj : j < a.inst + getLe a.payload 0 1) : j ∈ pinsOf a := by
  have hk : (if getLe a.payload 0 1 = 1 then 1 else if getLe a.payload 0 1 = 2 then 2 else 3) = getLe a.payload 0 1 := by
    split <;> [omega; split <;> omega]
  simp only [pinsOf, hk, if_neg (show ¬getLe a.payload 0 1 = 0 by omega), List.mem_map, List.mem_range]
  exact ⟨j - a.inst, by omega, by omega⟩

section
variable {acc : List Accepted} (h : Accepts acc)
include h

theorem Accepts.pins {i j : Nat} (hij : i < j) (hi : ((inForce acc).phin i).mode ≠ 0) (hj : ((inForce acc).phin j).mode ≠ 0) :
    i + ((inForce acc).phin i).mode ≤ j := by
  obtain ⟨a, ha, hta, rfl, hma⟩ := phin_from hi
  obtain ⟨b, hb, htb, rfl, hmb⟩ := phin_from hj
  have hfree : b.inst ∉ pinsOf a := h.pair (R := fun a b => a.type = 3 → getLe b.payload 0 1 ≠ 0 → b.inst ∉ pinsOf a)
    (fun acc b hf a ha ht h3 hm => recFits_pins (acc := acc) (by rwa [ht.symm.trans h3] at hf) hm ha h3) a ha b hb (by omega) hij hta (by omega)
  have hok : phaseInputOk a.inst a.payload = true := (Bool.and_eq_true_iff.1 (hta ▸ h.inRange a ha)).2
  simp only [phaseInputOk, Bool.and_eq_true, decide_eq_true_eq] at hok
  obtain ⟨⟨-, hmode⟩, -⟩ := hok
  by_contra hlt
  exact hfree (mem_pinsOf hmode hij.le (by omega))

theorem Accepts.shares {r r' : Nat} {a b : RtShareRec} (hr : r < r') (ha : (inForce acc).share r = some a) (hb : (inForce acc).share r' = some b) (q : Nat) :
    a.meMask.getD q 0 &&& b.meMask.getD q 0 = 0 ∧ a.scMask.getD q 0 &&& b.scMask.getD q 0 = 0 := by
  obtain ⟨x, hx, htx, rfl, rfl⟩ := share_from ha
  obtain ⟨y, hy, hty, rfl, rfl⟩ := share_from hb
  have hd := h.pair (R := fun a b => a.type = 6 → ∀ i < 8, getLe a.payload i 1 &&& getLe b.payload i 1 = 0)
    (fun acc b hf a ha ht h6 => (recFits_share (acc := acc) (n := b.inst) (by rwa [ht.symm.trans h6] at hf)).1 a ha h6) x hx y hy (by omega) hr htx
  simp only [rtShareOf, getD_map_range]
  split
  · exact ⟨hd _ (by omega), hd _ (by omega)⟩
  · exact ⟨rfl, rfl⟩

end

/-! ### Promised shares and fall-back rings (R52, R532) -/

theorem acceptedOf_append (l m : List Accepted) (t : Nat) : acceptedOf (l ++ m) t = acceptedOf l t ++ acceptedOf m t := List.filter_append ..

/-- A percentage that the rings reserve is no more than what the accepted records promise together. -/
theorem sum_share_le {f : RtShareRec → Nat} {o : Nat} (hf : ∀ p, f (rtShareOf p) = getLe p o 1) (acc : List Accepted) :
    ((List.range 8).map (fun r => (((inForce acc).share r).map f).getD 0)).sum ≤ ((acceptedOf acc 6).map (fun a => getLe a.payload o 1)).sum := by
  induction acc using List.reverseRecOn with
  | nil => exact Nat.le_of_eq rfl
  | append_singleton acc a ih =>
    rw [inForce_snoc, acceptedOf_append, List.map_append, List.sum_append]
    simp only [Cfg.share] at ih ⊢
    obtain e | ⟨ht, e⟩ := applyRec_rtShare (inForce acc) a
    · rw [e]
      exact Nat.le_add_right_of_le ih
    · have hone : acceptedOf [a] 6 = [a] := by simp [acceptedOf, ht]
      rw [e, hone]
      refine (sum_getD_set_le (fun x => (x.map f).getD 0) (inForce acc).rtShare a.inst (some (rtShareOf a.payload)) none 8).trans (Nat.add_le_add ih ?_)
      split <;> simp [hf]

section
variable {acc : List Accepted} (h : Accepts acc)
include h

/-- The accepted records promise no more than the whole. -/
theorem Accepts.promised : ((acceptedOf acc 6).map (fun a => getLe a.payload 8 1)).sum ≤ 100 ∧
    ((acceptedOf acc 6).map (fun a => getLe a.payload 9 1)).sum ≤ 100 := by
  induction h with
  | nil => exact ⟨Nat.zero_le _, Nat.zero_le _⟩
  | @snoc acc a _ _ hfit _ ih =>
    rw [acceptedOf_append]
    by_cases ht : a.type = 6
    · have hone : acceptedOf [a] 6 = [a] := by simp [acceptedOf, ht]
      obtain ⟨-, h8, h9⟩ := recFits_share (acc := acc) (n := a.inst) (by rwa [ht] at hfit)
      simpa [hone] using ⟨h8, h9⟩
    · have hnone : acceptedOf [a] 6 = [] := by simp [acceptedOf, ht]
      simpa [hnone] using ih

/-- Two monitors fall back to different rings, and neither to the other's ring. -/
theorem Accepts.monitors {a b : Accepted} (ha : a ∈ acc) (hb : b ∈ acc) (hta : a.type = 7) (htb : b.type = 7) (hea : getLe a.payload 0 1 = 1)
    (heb : getLe b.payload 0 1 = 1) (hn : a.inst ≠ b.inst) : getLe a.payload 2 1 ≠ getLe b.payload 2 1 ∧ getLe a.payload 2 1 ≠ b.inst := by
  have hpair := h.pair (R := fun a b => a.type = 7 → getLe a.payload 0 1 = 1 → getLe b.payload 0 1 = 1 →
      getLe a.payload 2 1 ≠ getLe b.payload 2 1 ∧ a.inst ≠ getLe b.payload 2 1 ∧ getLe a.payload 2 1 ≠ b.inst)
    (fun acc b hf a ha ht h7 hea heb => recFits_monitor (acc := acc) (by rwa [ht.symm.trans h7] at hf) heb ha h7 hea)
  obtain hlt | hlt := Nat.lt_or_gt_of_ne hn
  · obtain ⟨hne, -, hb⟩ := hpair a ha b hb (by omega) hlt hta hea heb
    exact ⟨hne, hb⟩
  · obtain ⟨hne, hi, -⟩ := hpair b hb a ha (by omega) hlt htb heb hea
    exact ⟨hne.symm, hi.symm⟩

theorem Accepts.fallback {r : Nat} {m : DeadlineMonRec} (hm : (inForce acc).dlm r = some m) : m.fallbackRing ≠ r ∧
    (inForce acc).dlm m.fallbackRing = none ∧ ∀ r' m', r' ≠ r → (inForce acc).dlm r' = some m' → m'.fallbackRing ≠ m.fallbackRing := by
  obtain ⟨a, ha, hta, rfl, hea, hfa⟩ := dlm_from hm
  have hown : m.fallbackRing ≠ a.inst := by
    have hok : deadlineOk a.inst a.payload = true := (Bool.and_eq_true_iff.1 (hta ▸ h.inRange a ha)).2
    simp only [deadlineOk, hea, Bool.and_eq_true, Bool.or_eq_true, bne_iff_ne] at hok
    obtain ⟨-, h0 | ⟨⟨⟨⟨-, hne⟩, -⟩, -⟩, -⟩⟩ := hok
    · exact absurd h0 (by decide)
    · rwa [hfa]
  refine ⟨hown, ?_, fun r' m' hr hm' => ?_⟩
  · rw [Option.eq_none_iff_forall_ne_some]
    intro m' hm'
    obtain ⟨b, hb, htb, hbr, heb, -⟩ := dlm_from hm'
    exact (h.monitors ha hb hta htb hea heb (by rw [hbr]; exact hown.symm)).2 (by rw [hbr, hfa])
  · obtain ⟨b, hb, htb, rfl, heb, hfb⟩ := dlm_from hm'
    rw [hfa, hfb]
    exact (h.monitors hb ha htb hta heb hea hr).1

/-- The records that acceptance lets into force are legal together. -/
theorem Accepts.legal : CfgLegal (inForce acc) where
  ways := h.ways
  pins _ _ hij hi hj := h.pins hij hi hj
  shares r r' a b hn ha hb q := by
    obtain hr | hr := Nat.lt_or_gt_of_ne hn
    · exact h.shares hr ha hb q
    · rw [Nat.and_comm, Nat.and_comm (a.scMask.getD q 0)]
      exact h.shares hr hb ha q
  promised := ⟨(sum_share_le (fun _ => rfl) acc).trans h.promised.1, (sum_share_le (fun _ => rfl) acc).trans h.promised.2⟩
  fallback _ _ hm := h.fallback hm
  classes := h.classes
  times := h.rings
  coalesce := h.submit

end

theorem absent_legal : CfgLegal Cfg.absent := Accepts.nil.legal

/-- Whatever the images hold, the records of theirs that go into force are legal together. -/
theorem cfgOf_legal (rs : List RawRec) : CfgLegal (cfgOf rs) := (acceptRecs_accepts rs).legal

/-- Settles O31: the records of reset are those of no accepted record. -/
theorem recordsOfResetAreLegal : Obligations.RecordsOfResetAreLegal := ⟨State.reset_cfg, absent_legal⟩

/-! ### Legality through resets, starts and the restart of a quarter (R55, R495) -/

theorem startDev_legal (st : StartIn) (d : Dev) : CfgLegal (startDev st d).1 := by
  unfold startDev
  dsimp only
  split
  · exact absent_legal
  split
  · exact absent_legal
  · exact cfgOf_legal _

theorem shutdownDev_legal (d : Dev) : CfgLegal (shutdownDev d).1 := absent_legal

section
variable {c : Cfg} (h : CfgLegal c)
include h

theorem startIfFree_legal (st : StartIn) (d : Dev) : CfgLegal (startIfFree st c d).1 := by
  unfold startIfFree
  split
  · exact startDev_legal st d
  · exact h

theorem sysRstRelease_legal (st : StartIn) (d : Dev) : CfgLegal (sysRstRelease st c d).1 := by
  unfold sysRstRelease
  split
  · exact h
  dsimp only
  split
  · exact h
  · exact startDev_legal st _

theorem pwrFailRelease_legal (st : StartIn) (d : Dev) : CfgLegal (pwrFailRelease st c d).1 := by
  unfold pwrFailRelease
  split
  · exact h
  · exact startIfFree_legal h st _

theorem brownOut_legal (r : Rail) (d : Dev) : CfgLegal (brownOut r c d).1 := by
  unfold brownOut
  split
  · exact h
  · cases r with
    | quarter q => exact h
    | ao | io18 | spine | sram => exact absent_legal

theorem brownOutRecovery_legal (st : StartIn) (d : Dev) : CfgLegal (brownOutRecovery st c d).1 := by
  unfold brownOutRecovery
  split
  · exact h
  · exact startIfFree_legal h st _

theorem thermalShutdown_legal (temp : Int) (d : Dev) : CfgLegal (thermalShutdown temp c d).1 := by
  unfold thermalShutdown
  split
  · exact h
  · exact shutdownDev_legal d

theorem dramOvertemp_legal (temp : Int) (d : Dev) : CfgLegal (dramOvertemp temp c d).1 := by
  unfold dramOvertemp
  split
  · exact h
  · exact shutdownDev_legal d

/-- One slice's STORE_WAYS, legal on their own, may change under way (R495). -/
theorem CfgLegal.setWays {w : StoreWaysRec} (hw : WaysLegal w) (q : Nat) (cal : List (Option (List Byte))) :
    CfgLegal { c with storeWays := c.storeWays.set q w, dramCal := cal } where
  ways k := by
    simp only [Cfg.ways]
    obtain e | ⟨-, e⟩ := getD_set_cases c.storeWays q k w storeWaysAbsent
    · rw [e]
      exact h.ways k
    · rw [e]
      exact hw
  pins := h.pins
  shares := h.shares
  promised := h.promised
  fallback := h.fallback
  classes := h.classes
  times := h.times
  coalesce := h.coalesce

/-- CLOCKS and POWER stand beside every other record. -/
theorem CfgLegal.setClocks (k : ClocksRec) (p : PowerRec) : CfgLegal { c with clocks := k, power := p } where
  ways := h.ways
  pins := h.pins
  shares := h.shares
  promised := h.promised
  fallback := h.fallback
  classes := h.classes
  times := h.times
  coalesce := h.coalesce

theorem quarterDrained_legal (q me sne sc : Nat) (d : Dev) : CfgLegal (quarterDrained c q me sne sc d).1 := by
  unfold quarterDrained
  split
  · exact h
  split
  · exact h
  · exact h.setWays ((cfgOf_legal _).ways q) q _

theorem quarterRejoin_legal (q : Nat) (d : Dev) : CfgLegal (quarterRejoin c q d).1 := by
  unfold quarterRejoin
  split
  · exact h
  split
  · exact h
  split
  · exact h
  · exact h.setClocks _ _

end

theorem legal_of_onBoth {b : Bool} {f : Cfg → Dev → Cfg × Dev} {s t : State} (hs : CfgLegal s.cfg) (hf : CfgLegal (f s.cfg s.dev).1)
    (h : onBoth b f s = .next t) : CfgLegal t.cfg := by
  obtain e | e := onBoth_cfg h
  · rwa [e]
  · rwa [e]

theorem exec_legal {i : Instr} {s t : State} (hs : CfgLegal s.cfg) (h : exec i s = .next t) : CfgLegal t.cfg := by
  cases hi : actsOnRecords i with
  | false => rwa [exec_cfg_of_device hi h]
  | true =>
    cases i with
    | sysRstNRelease st => exact legal_of_onBoth (f := fun c => sysRstRelease st c) hs (sysRstRelease_legal hs st s.dev) h
    | sysRstNAssert => exact legal_of_onBoth (f := fun _ => sysRstAssert) hs absent_legal h
    | pwrFailNLow => exact legal_of_onBoth (f := fun _ => pwrFailLow) hs absent_legal h
    | brownOut r => exact legal_of_onBoth (f := fun c => brownOut r c) hs (brownOut_legal hs r s.dev) h
    | pwrFailNRelease st => exact legal_of_onBoth (f := fun c => pwrFailRelease st c) hs (pwrFailRelease_legal hs st s.dev) h
    | brownOutRecovery st => exact legal_of_onBoth (f := fun c => brownOutRecovery st c) hs (brownOutRecovery_legal hs st s.dev) h
    | thermalShutdown temp => exact legal_of_onBoth (f := fun c => thermalShutdown temp c) hs (thermalShutdown_legal hs temp s.dev) h
    | dramOvertemp temp => exact legal_of_onBoth (f := fun c => dramOvertemp temp c) hs (dramOvertemp_legal hs temp s.dev) h
    | quarterDrainDone q me sne sc =>
      exact legal_of_onBoth (f := fun c => quarterDrained c q me sne sc) hs (quarterDrained_legal hs q me sne sc s.dev) h
    | quarterRejoin q => exact legal_of_onBoth (f := fun c => quarterRejoin c q) hs (quarterRejoin_legal hs q s.dev) h
    | _ => exact absurd hi Bool.false_ne_true

/-- Settles O30: the records that a start or a restart brings into force were accepted beside each other, and no other row changes any. -/
theorem everyStepKeepsLegalRecords : Obligations.EveryStepKeepsLegalRecords := by
  intro s t hs h
  obtain ⟨-, rfl⟩ | ⟨i, rest, -, he⟩ := step_next_cases h
  · rwa [idle_cfg]
  · exact exec_legal (s := { s with pending := rest }) hs he

/-! ### The reset inputs, brown-out and shutdown (R475, R478, R523, R526, R530) -/

/-- The shutdown level in quarter degrees: 120 degrees, or 112 on an untrimmed part. -/
theorem thermLimit_shutdown (c : Cfg) : thermLimit c 120 = if c.trims.isSome then 480 else 448 := rfl

theorem thermalShutdown_of_hot {temp : Int} {c : Cfg} {d : Dev} (hp : d.boot.phase ≠ 0) (ht : (if c.trims.isSome then 480 else 448) ≤ temp) :
    thermalShutdown temp c d = shutdownDev d := by
  refine if_neg ?_
  rw [thermLimit_shutdown, not_or, Int.not_lt]
  exact ⟨hp, ht⟩

theorem thermalShutdown_of_cool {temp : Int} {c : Cfg} {d : Dev} (h : d.boot.phase = 0 ∨ temp < (if c.trims.isSome then 480 else 448)) :
    thermalShutdown temp c d = (c, d) := if_pos h

theorem dramOvertemp_of_hot {temp : Int} {c : Cfg} {d : Dev} (hp : d.boot.phase = 2) (ht : 105 < temp) : dramOvertemp temp c d = shutdownDev d :=
  if_neg (by rintro (h | h) <;> omega)

theorem dramOvertemp_of_cool {temp : Int} {c : Cfg} {d : Dev} (h : d.boot.phase ≠ 2 ∨ temp ≤ 105) : dramOvertemp temp c d = (c, d) := if_pos h

theorem brownOut_of_unwatched {r : Rail} {c : Cfg} {d : Dev} (h : railWatched d r = false) : brownOut r c d = (c, d) := if_pos h

/-- A monitored rail of the whole device resets it. -/
theorem brownOut_of_shared {r : Rail} {c : Cfg} {d : Dev} (h : railWatched d r = true) (hq : ∀ q, r ≠ .quarter q) :
    brownOut r c d = (Cfg.absent, resetDev { d with boot := { d.boot with brownOut := true } }) := by
  have hn : ¬railWatched d r = false := by simp [h]
  cases r with
  | quarter q => exact absurd rfl (hq q)
  | ao | io18 | spine | sram => exact if_neg hn

theorem brownOut_of_quarter {q : Nat} {c : Cfg} {d : Dev} (h : railWatched d (.quarter q) = true) :
    brownOut (.quarter q) c d = (c, quarterBrownOut c q d) := if_neg (by simp [h])

/-- A quarter of the device loses its memory with its supply, unless that was lost before. -/
theorem quarterMemoryLost_eq {q : Nat} (hq : q < 4) (d : Dev) :
    quarterMemoryLost q d = if (sliceOf d q).memLost then d else { loseMemory q d with notes := (loseMemory q d).notes ++ [.quarterOut q] } := by
  split
  next h => exact if_pos (.inr h)
  next h => exact quarterMemoryLost_of_kept hq (Bool.eq_false_iff.2 h)

/-- Settles O42, row by row. -/
theorem resetRows : Obligations.ResetRows := by
  refine ⟨fun s => rfl, fun s => rfl, fun s r hw hr hq => ?_, fun s q hq hr => ?_, fun s r hw hr => ?_, fun s temp hp ht => ?_, fun s temp h => ?_,
    fun s temp hp ht => ?_, fun s temp h => ?_⟩
  · exact (exec_onBoth (i := .brownOut r) (f := fun c => brownOut r c) rfl hw).trans (by rw [brownOut_of_shared hr hq]; rfl)
  · have hw : (Instr.brownOut (.quarter q)).wf = true := decide_eq_true hq
    refine (exec_onBoth (f := fun c => brownOut (.quarter q) c) rfl hw).trans ?_
    rw [brownOut_of_quarter hr, quarterBrownOut, quarterMemoryLost_eq hq]
  · exact (exec_onBoth (i := .brownOut r) (f := fun c => brownOut r c) rfl hw).trans (by rw [brownOut_of_unwatched hr])
  · exact (exec_onBoth (f := fun c => thermalShutdown temp c) rfl rfl).trans (by rw [thermalShutdown_of_hot hp ht]; rfl)
  · exact (exec_onBoth (f := fun c => thermalShutdown temp c) rfl rfl).trans (by rw [thermalShutdown_of_cool h])
  · exact (exec_onBoth (f := fun c => dramOvertemp temp c) rfl rfl).trans (by rw [dramOvertemp_of_hot hp ht]; rfl)
  · exact (exec_onBoth (f := fun c => dramOvertemp temp c) rfl rfl).trans (by rw [dramOvertemp_of_cool h])

/-! ### Releases and starts (R55, R523, R526) -/

/-- Nothing holds the device in reset, and no start is under way. -/
def FreeToStart (d : Dev) : Prop :=
  d.boot.sysRstLow = false ∧ d.boot.pwrFailLow = false ∧ d.boot.brownOut = false ∧ d.clk.shutdown = false ∧ d.boot.phase = 0

theorem freeToStart_iff {d : Dev} : FreeToStart d ↔ mayStart d = true ∧ d.boot.phase = 0 := by
  simp [FreeToStart, mayStart, and_assoc]

theorem startIfFree_of_free {st : StartIn} {c : Cfg} {d : Dev} (h : FreeToStart d) : startIfFree st c d = startDev st d := if_pos (freeToStart_iff.1 h)

theorem startIfFree_of_held {st : StartIn} {c : Cfg} {d : Dev} (h : ¬FreeToStart d) : startIfFree st c d = (c, d) :=
  if_neg (mt freeToStart_iff.2 h)

theorem sysRstRelease_of_test {st : StartIn} {c : Cfg} {d : Dev} (h : st.testEn = true) : sysRstRelease st c d = (c, d) := if_pos (.inr h)

/-- A release outside test mode starts a device that no other input holds, also after a shutdown. -/
theorem sysRstRelease_of_free {st : StartIn} {c : Cfg} {d : Dev} (ht : st.testEn = false) (hl : d.boot.sysRstLow = true)
    (hf : d.boot.pwrFailLow = false) (hb : d.boot.brownOut = false) (hp : d.boot.phase = 0) :
    sysRstRelease st c d = startDev st { d with boot := { d.boot with sysRstLow := false } } := by
  rw [sysRstRelease, if_neg (by simp [ht, hl])]
  exact if_neg (by simp [hf, hb, hp])

/-- A release while another input holds the device ends a shutdown alone. -/
theorem sysRstRelease_of_held {st : StartIn} {c : Cfg} {d : Dev} (ht : st.testEn = false) (hl : d.boot.sysRstLow = true)
    (h : d.boot.pwrFailLow = true ∨ d.boot.brownOut = true) :
    sysRstRelease st c d =
      (c, { d with
        boot := { d.boot with sysRstLow := false }
        pwr := { d.pwr with thermLast := d.pwr.thermLast || d.clk.shutdown }, clk := { d.clk with shutdown := false } }) := by
  rw [sysRstRelease, if_neg (by simp [ht, hl])]
  exact if_pos (h.imp_right .inl)

theorem pwrFailRelease_of_low {st : StartIn} {c : Cfg} {d : Dev} (h : d.boot.pwrFailLow = true) :
    pwrFailRelease st c d = startIfFree st c { d with boot := { d.boot with pwrFailLow := false } } := if_neg (by simp [h])

theorem brownOutRecovery_of_high {st : StartIn} {c : Cfg} {d : Dev} (h : d.boot.brownOut = true) (hs : d.boot.sysRstLow = false)
    (hp : d.boot.pwrFailLow = false) : brownOutRecovery st c d = startIfFree st c { d with boot := { d.boot with brownOut := false } } :=
  if_neg (by simp [h, hs, hp])

theorem readyTimeout_of_closed {c : Cfg} {d : Dev} (hp : d.boot.phase = 1) (ho : d.host.cfgOpen = false) (hl : d.host.perstLow = false) :
    readyTimeout c d =
      let e := advanceTo c (d.boot.relTb + 450000000) d
      { e with host := { e.host with cfgOpen := true } } := if_neg (by simp [hp, ho, hl])

/-! ### The link (R524, R529) and Function Level Reset (R330) -/

/-- PERST_N low takes the link and the PCIe registers with it, and in RUN performs the reset's steps. -/
theorem perstAssert_of_high {c : Cfg} {d : Dev} (hl : d.host.perstLow = false) (hp : d.boot.phase ≠ 0) :
    perstAssert c d =
      let e := pcieReset { d with host := { d.host with perstLow := true } }
      if d.boot.phase = 2 ∧ d.pwr.state = 0 then flrSteps c e else e := by
  rw [perstAssert, if_neg (by simp [hl])]
  exact if_neg hp

theorem perstRelease_of_low {width rate : Nat} {d : Dev} (hl : d.host.perstLow = true) (hp : d.boot.phase ≠ 0) :
    perstRelease width rate d =
      let e := { d with
        host := { d.host with perstLow := false }
        boot := { d.boot with relTb := if d.boot.phase = 1 ∧ d.host.cfgOpen = false then d.phe.tb else d.boot.relTb } }
      if d.clk.domains.getD 2 0 = 1 then setLink width rate e else e := by
  rw [perstRelease, if_neg (by simp [hl])]
  dsimp only
  rw [if_neg hp]
  by_cases h : d.boot.phase = 1 ∧ d.host.cfgOpen = false
  · simp only [if_pos h]
  · simp only [if_neg h]

theorem functionLevelReset_of_ready {c : Cfg} {d : Dev} (hp : d.pwr.state ≠ 2) (hr : d.boot.phase = 2 ∨ d.host.cfgOpen = true) (hl : d.host.linkUp = true) :
    functionLevelReset c d = flrSteps c { d with host := { d.host with
      msixEnable := false, funcMask := false, busMaster := false, bar2Log := 28, d3hot := false, msix := [] } } := by
  have hready : cfgReady d = true := by simpa [cfgReady] using hr
  simp only [functionLevelReset, hostTouch_of hp]
  exact if_neg (by simp [hready, hl])

theorem linkChange_of_up {width rate : Nat} {d : Dev} (hp : d.boot.phase ≠ 0) (hl : d.host.perstLow = false) (hd : d.clk.domains.getD 2 0 = 1)
    (hs : d.clk.shutdown = false) : linkChange width rate d = setLink width rate d := if_neg (by simp [hp, hl, hs, ← hd])

/-- The link takes a legal format, and is down in any other. -/
theorem setLink_eq (width rate : Nat) (d : Dev) : setLink width rate d =
    let up := decide (width = 1 ∨ width = 2 ∨ width = 4 ∨ width = 8) && decide (1 ≤ rate ∧ rate ≤ 5)
    { d with host := { d.host with linkUp := up, width := if up then width else 0, rate := if up then rate else 0 } } := by
  have h : linkFormat width rate = (decide (width = 1 ∨ width = 2 ∨ width = 4 ∨ width = 8) && decide (1 ≤ rate ∧ rate ≤ 5)) := by
    simp [linkFormat, inRange, Bool.decide_or, Bool.decide_and, Bool.or_assoc, beq_eq_decide]
  rw [setLink, h]

/-- Settles O43, row by row. -/
theorem startAndLinkRows : Obligations.StartAndLinkRows := by
  refine ⟨fun s st hw ht => ?_, fun s st hw ht hl => ⟨fun hf hb hp => ?_, fun h => ?_⟩, fun s st row d hw hrow => ?_, fun s hp ho hl => ?_,
    fun s hl hp => ?_, fun s width rate hw hr hl hp => ?_, fun s hp hr hl => ?_, fun s width rate hw hr hl hp hd hs => ?_⟩
  · exact (exec_onBoth (i := .sysRstNRelease st) (f := fun c => sysRstRelease st c) rfl hw).trans (by rw [sysRstRelease_of_test ht])
  · exact (exec_onBoth (i := .sysRstNRelease st) (f := fun c => sysRstRelease st c) rfl hw).trans (by rw [sysRstRelease_of_free ht hl hf hb hp])
  · exact (exec_onBoth (i := .sysRstNRelease st) (f := fun c => sysRstRelease st c) rfl hw).trans (by rw [sysRstRelease_of_held ht hl h])
  · have he : exec row s = .next (State.ended { s with cfg := (startIfFree st s.cfg d).1 } (startIfFree st s.cfg d).2) := by
      obtain ⟨rfl, hp, rfl⟩ | ⟨rfl, hb, hs, hp, rfl⟩ := hrow
      · exact (exec_onBoth (i := .pwrFailNRelease st) (f := fun c => pwrFailRelease st c) rfl hw).trans (by rw [pwrFailRelease_of_low hp])
      · exact (exec_onBoth (i := .brownOutRecovery st) (f := fun c => brownOutRecovery st c) rfl hw).trans (by rw [brownOutRecovery_of_high hb hs hp])
    exact ⟨fun hf => he.trans (by rw [startIfFree_of_free hf]), fun hf => he.trans (by rw [startIfFree_of_held hf])⟩
  · exact (exec_of_wf (f := fun c => readyTimeout c) rfl rfl).trans (by rw [readyTimeout_of_closed hp ho hl])
  · exact (exec_of_wf (f := fun c => perstAssert c) rfl rfl).trans (by rw [perstAssert_of_high hl hp]; rfl)
  · have hwf : (Instr.perstNRelease width rate).wf = true := by simp [Instr.wf, hw, hr]
    refine (exec_of_wf (f := fun _ => perstRelease width rate) rfl hwf).trans ?_
    rw [perstRelease_of_low hl hp]
    simp only [setLink_eq]
  · exact (exec_of_wf (f := fun c => functionLevelReset c) rfl rfl).trans (by rw [functionLevelReset_of_ready hp hr hl]; rfl)
  · have hwf : (Instr.linkStateChange width rate).wf = true := by simp [Instr.wf, hw, hr]
    exact (exec_of_wf (f := fun _ => linkChange width rate) rfl hwf).trans (by rw [linkChange_of_up hp hl hd hs, setLink_eq])

/-! ### What a start writes into the boot registers (R55 to R60, R485)

The steps of a start that touch other parts of the device leave `boot` as it was. -/

theorem foldl_boot {α : Type} {f : Dev → α → Dev} (h : ∀ d x, (f d x).boot = d.boot) (l : List α) (d : Dev) : (l.foldl f d).boot = d.boot := by
  induction l generalizing d with
  | nil => rfl
  | cons x l ih => rw [List.foldl_cons, ih, h]

theorem obsSync_boot (c : Cfg) (d : Dev) : (obsSync c d).boot = d.boot := by
  obtain ⟨o, m, i, h⟩ := obsSync_keeps c d
  rw [h]

theorem obsEmit_boot (c : Cfg) (cls ty flags source arg : Nat) (data : List Byte) (d : Dev) :
    (obsEmit c cls ty flags source arg data d).boot = d.boot := by
  obtain ⟨o, m, i, h⟩ := obsEmit_keeps c cls ty flags source arg data d
  rw [h]

theorem enterAcquiring_boot (c : Cfg) (n : Nat) (d : Dev) : (enterAcquiring c n d).boot = d.boot := by
  unfold enterAcquiring refTrace
  dsimp only
  split
  · rw [obsSync_boot, obsEmit_boot]
    rfl
  · rw [obsEmit_boot]
    rfl

theorem bootPhase_boot (c : Cfg) (d : Dev) : (bootPhase c d).boot = d.boot := by
  unfold bootPhase dlmArm
  refine foldl_boot (fun d n => ?_) _ _
  split
  · rfl
  · exact enterAcquiring_boot c n d

theorem bootLink_boot (s : StartIn) (d : Dev) : (bootLink s d).boot = d.boot := by
  unfold bootLink
  split <;> rfl

theorem bootLink_clk (s : StartIn) (d : Dev) : (bootLink s d).clk = d.clk := by
  unfold bootLink
  split <;> rfl

theorem staleDram_boot (s : StartIn) (d : Dev) : (staleDram s d).boot = d.boot := by
  unfold staleDram
  dsimp only
  rw [foldl_boot (fun d p => setSlice_boot d _ _), foldl_boot (fun d p => setSlice_boot d _ _)]

theorem applyKat_boot (d : Dev) : (applyKat d).boot = d.boot := by
  have put : ∀ (b : Bool) (e : Dev) (k : Nat) (f : Inst → Inst), (if b then setInst e k f else e).boot = e.boot := by
    intro b e k f
    cases b <;> rfl
  unfold applyKat
  refine foldl_boot (fun d q => (put _ _ _ _).trans ?_) _ _
  exact (foldl_boot (fun d i => put _ _ _ _) _ _).trans (foldl_boot (fun d i => put _ _ _ _) _ _)

/-- A one-bit field of a register. -/
theorem fld_b2n (k : Nat) (b : Bool) : fld k (b2n b) = if b then 2 ^ k else 0 := by
  cases b <;> simp [fld, b2n]

theorem startFails_boot (s : StartIn) (x : Chosen) (hang bad : Bool) (d : Dev) : (startFails s x hang bad d).boot = { d.boot with
    phase := 1, bootTime := 0, bootSlots := x.trial * 2 ^ 8 + x.slots
    bootStatus := (if bad then 2 ^ 15 else 0) + 2 ^ 14 + (if hang then 0 else 2 ^ 13) + 2 ^ 12 } := by
  rw [startFails, bootLink_boot]
  cases bad <;> cases hang <;> rfl

theorem startFails_domains (s : StartIn) (x : Chosen) (hang bad : Bool) (d : Dev) :
    (startFails s x hang bad d).clk.domains = [1, 1, 1] ++ List.replicate 24 0 := by
  rw [startFails, bootLink_clk]

theorem startReady_cfg (s : StartIn) (x : Chosen) (bad : Bool) (d : Dev) : (startReady s x bad d).1 = cfgOf (imageRecs x.images).1 := rfl

theorem startReady_boot (s : StartIn) (x : Chosen) (bad : Bool) (d : Dev) :
    let has := fun (k : Nat) => x.images.any (fun i => i.kind == k)
    let recs := imageRecs x.images
    let k := countRecs (acceptRecs recs.1) recs.1
    let run := if has 2 then 15 else 0
    (startReady s x bad d).2.boot = { d.boot with
      phase := 2
      bootStatus := (if bad then 2 ^ 15 else 0) + (if has 6 then 0 else 2 ^ 14) + (if (startReady s x bad d).1.trims.isNone then 2 ^ 12 else 0) +
        (if has 2 then s.dramFail % 16 else 15) * 2 ^ 8 + 1
      cfgStatus := k.crcFail * 2 ^ 24 + k.reject * 2 ^ 16 + k.unknown * 2 ^ 8 + k.dup * 2 + b2n recs.2
      cfgFaulted := k.faulted
      katFail0 := if has 4 then katBits run 8 s.kat0 else 0
      katFail1 := if has 4 then katBits run 6 (s.kat1 % 2 ^ 24) + katBits run 1 (s.kat1 / 2 ^ 24) * 2 ^ 24 else 0
      bootSlots := x.trial * 2 ^ 8 + x.slots, bootTime := Nat.min 65535 s.ms, oxsActive := 0, oxsStandbyOk := true, oxqRunning := run
      microcode := maskOf ((List.range 7).filter (fun i => has (i + 1))) + (if has 4 then 15 * 2 ^ 8 else 0)
      parts := [3, 4, 5].map (fun j => ((x.images.find? (fun i => i.kind == j)).map (fun i => i.body)).getD []) } := by
  intro has recs k run
  have h6 : fld 14 (b2n (!has 6)) = if has 6 then 0 else 2 ^ 14 := by
    rw [fld_b2n]
    cases has 6 <;> rfl
  simp only [startReady, obsSync_boot, bootPhase_boot, bootLink_boot, staleDram_boot, trainLinks, bootClocks, runDomains, applyKat_boot]
  rw [fld_b2n 15, fld_b2n 12, h6]
  rfl

/-- The NVM that a start meets: what the board has put into it stands in it. -/
def startNvm (st : StartIn) (d : Dev) : Mem := st.nvm.foldl (fun m p => nvmWrite m p.1 p.2) d.upd.nvm

/-- The device once the NVM's header is read: AO's note of a shutdown goes to THERM_LAST, and the read mode is the header's. -/
def startBegun (m : Mem) (d : Dev) : Dev :=
  { d with
    pwr := { d.pwr with thermLast := d.pwr.thermLast || d.clk.shutdown }, clk := { d.clk with shutdown := false }
    boot := { d.boot with readOpcode := (readMode m).1, dummy := (readMode m).2.1, enables := (readMode m).2.2 } }

theorem startDev_eq (st : StartIn) (d : Dev) : startDev st d =
    let m := startNvm st d
    let x := chooseSet m st.puf
    if st.hang then (Cfg.absent, startFails st x true (headersBad m) (startBegun m d))
    else if x.mismatch = true ∨ x.images.any (fun i => i.kind == 1) = false ∨ x.images.any (fun i => i.kind == 3) = false then
      (Cfg.absent, startFails st x false (headersBad m) (startBegun m d))
    else startReady st x (headersBad m) (startBegun m d) := by
  unfold startDev startNvm startBegun
  rfl

/-- A start that hangs, or that lacks an image or a set that it cannot do without, puts no record into force (R59, R485). -/
theorem startDev_of_failing {st : StartIn} {d : Dev} {m : Mem} {x : Chosen} (em : startNvm st d = m) (ex : chooseSet m st.puf = x)
    (h : st.hang = true ∨ x.mismatch = true ∨ x.images.any (fun i => i.kind == 1) = false ∨ x.images.any (fun i => i.kind == 3) = false) :
    startDev st d = (Cfg.absent, startFails st x st.hang (headersBad m) (startBegun m d)) := by
  rw [startDev_eq, em]
  dsimp only
  rw [ex]
  cases hh : st.hang with
  | true => rw [if_pos rfl]
  | false => rw [if_neg Bool.false_ne_true, if_pos (h.resolve_left (by simp [hh]))]

theorem startDev_of_ready {st : StartIn} {d : Dev} {m : Mem} {x : Chosen} (em : startNvm st d = m) (ex : chooseSet m st.puf = x)
    (hh : st.hang = false) (hm : x.mismatch = false) (h1 : x.images.any (fun i => i.kind == 1) = true)
    (h3 : x.images.any (fun i => i.kind == 3) = true) : startDev st d = startReady st x (headersBad m) (startBegun m d) := by
  rw [startDev_eq, em]
  dsimp only
  rw [ex, hh, if_neg Bool.false_ne_true, if_neg (by simp [hm, h1, h3])]

/-- Settles O37: a start fails or is READY, and the steps after the boot registers are written leave them. -/
theorem startOutcomes : Obligations.StartOutcomes := by
  intro st d m x has r
  refine ⟨fun h => ?_, fun ⟨hh, hm, h1, h3⟩ => ?_⟩
  · have hr : r = (Cfg.absent, startFails st x st.hang (headersBad m) (startBegun m d)) := startDev_of_failing rfl rfl h
    clear_value r
    subst hr
    clear_value x m
    exact ⟨rfl, by simp only [startFails_boot, startBegun], startFails_domains ..⟩
  · have hr : r = startReady st x (headersBad m) (startBegun m d) := startDev_of_ready rfl rfl hh hm h1 h3
    clear_value r
    subst hr
    clear_value x m
    exact ⟨startReady_cfg .., by simp only [startReady_boot, startBegun]; rfl⟩

end Sys2Proof.Machine

/-! PROOFS. The statements of phase and time (03): the passing of time, phase inputs, retraining, front-end commands, counters' clears and deadline
checks. -/

namespace Sys2Proof.Machine

/-! ### Formulas (R75, R93) -/

theorem nextAngle_of_lt {a s : Nat} (ha : a < 2 ^ 32) (hs : s < 2 ^ 64 - 2 ^ 32) :
    nextAngle a s = if s % 2 ^ 32 ≤ a then s / 2 ^ 32 * 2 ^ 32 + a else s / 2 ^ 32 * 2 ^ 32 + a + 0x100000000 := by
  have hlast : s / 2 ^ 32 * 2 ^ 32 + a + 2 ^ 32 < 2 ^ 64 := by omega
  simp only [nextAngle, Nat.mod_eq_of_lt ha, Nat.mod_eq_of_lt hlast]
  rfl

/-- Settles O36: the two masks that the formulas leave out change nothing in the ranges given. -/
theorem setIndexAndNextAngle : Obligations.SetIndexAndNextAngle := by
  refine ⟨fun l hl => ?_, fun a s ha hs => nextAngle_of_lt ha hs⟩
  have htop : l / 2 ^ 26 < 4 := by omega
  have hset : storeSet l = 8192 * (l % 3) + ((l % 8192) ^^^ (l / 8192 % 8192) ^^^ (l / 2 ^ 26)) := by rw [storeSet, Nat.mod_eq_of_lt htop]
  exact hset

/-! ### The passing of time (R61, R70) -/

theorem foldl_keeps {α β : Type} (p : Dev → β) {f : Dev → α → Dev} (h : ∀ d x, p (f d x) = p d) (l : List α) (d : Dev) : p (l.foldl f d) = p d := by
  induction l generalizing d with
  | nil => rfl
  | cons x l ih => rw [List.foldl_cons, ih, h]

theorem phe_ite {P : Prop} [Decidable P] {a b : Dev} {p : PheSt} (ha : a.phe = p) (hb : b.phe = p) : (if P then a else b).phe = p := by
  rw [apply_ite Dev.phe, ha, hb, ite_self]

theorem obsCount_phe (ev q inst : Nat) (ctx : Option Nat) (k : Nat) (d : Dev) : (obsCount ev q inst ctx k d).phe = d.phe := by
  unfold obsCount
  split <;> rfl

theorem unitPeriods_phe (ev0 evStall evIdle cls q i n : Nat) (d : Dev) : (unitPeriods ev0 evStall evIdle cls q i n d).phe = d.phe := by
  unfold unitPeriods
  split
  · dsimp only
    split <;> simp only [obsCount_phe]
  · split
    · rfl
    · exact obsCount_phe ..

theorem corePeriods_phe (q i n : Nat) (d : Dev) : (corePeriods q i n d).phe = d.phe := by
  unfold corePeriods
  dsimp only
  split <;> simp only [obsCount_phe]

theorem memoryPeriods_phe (q n sclk : Nat) (d : Dev) : (memoryPeriods q n sclk d).phe = d.phe := by
  simp only [memoryPeriods, obsCount_phe]

/-- Counting the periods of the units leaves the phase engine as it was. -/
theorem ageCounters_phe (k : Nat) (d : Dev) : (ageCounters k d).phe = d.phe := by
  unfold ageCounters
  dsimp only
  rw [foldl_keeps Dev.phe, foldl_keeps Dev.phe, obsCount_phe]
  · exact fun d i => phe_ite (obsCount_phe ..) rfl
  · intro d q
    refine (phe_ite (memoryPeriods_phe ..) rfl).trans ((foldl_keeps Dev.phe (fun d i => phe_ite (corePeriods_phe ..) rfl) _ _).trans ?_)
    refine (phe_ite ((foldl_keeps Dev.phe (fun d i => unitPeriods_phe ..) _ _).trans ((unitPeriods_phe ..).trans
      (foldl_keeps Dev.phe (fun d i => unitPeriods_phe ..) _ _))) rfl).trans ?_
    exact (phe_ite (obsCount_phe ..) rfl).trans (obsCount_phe ..)

theorem ageCmds_phe (c : Cfg) (k : Nat) (d : Dev) : (ageCmds c k d).phe = d.phe := rfl

/-- PHE_TB counts the TBCLK periods that pass, whether the spine's domain is on or not. -/
theorem advance_tb (c : Cfg) (k : Nat) (d : Dev) : (advance c k d).phe.tb = d.phe.tb + k := by
  unfold advance
  split
  · next h => rw [h]; rfl
  · split
    · rfl
    · simp only [ageCounters_phe, ageCmds_phe]

theorem step_of_empty {s : State} (h : s.pending = []) : step s = .next (idle s) := by rw [step, h]

/-- Settles O27. -/
theorem idleStep : Obligations.IdleStep := by
  refine ⟨fun s hq hp => ?_, fun s hq hp => ?_, fun c d => advance_tb c 1 d⟩
  · rw [step_of_empty hq, idle, if_pos hp]
  · rw [step_of_empty hq, idle, if_neg hp]
    rfl

/-! ### Clears of counters (R87, R121, R233, R258, R358, R377, R399, R419)

Each clear as one update of the device, with the old value kept where the bit is 0. -/

theorem dlmClear_eq (r v : Nat) (d : Dev) : dlmClear r v d = { d with
    dlm := if v.testBit 0 then d.dlm.modify r (fun m => { m with fallbacks := 0, latePrimary := 0, missing := 0, none_ := 0 }) else d.dlm } := by
  unfold dlmClear bit
  split <;> rfl

/-- There are eleven references, so bits from 11 up select none. -/
theorem pheClear_eq (v : Nat) (d : Dev) : pheClear v d = { d with phe := { d.phe with
    refs := d.phe.refs.mapIdx (fun n r => if n < 11 ∧ v.testBit n then
      { r with glitch := 0, periodViolation := 0, pulseCount := 0, timeout := 0, loss := 0 } else r) } } := by
  simp only [pheClear, List.mapIdx_eq_zipIdx_map, bit, Nat.testBit_mod_two_pow, Bool.and_eq_true, decide_eq_true_eq]

theorem csErrClear_eq (q v : Nat) (d : Dev) : csErrClear q v d = { d with
    store := if v.testBit 0 then d.store.modify q (fun m => { m with errViol := 0, errScratchRange := 0, errPaRange := 0, errLostWrite := 0 })
      else d.store } := by
  unfold csErrClear bit
  split <;> rfl

theorem feCountClear_eq (v : Nat) (d : Dev) : feCountClear v d = { d with
    fe := if v.testBit 0 then { d.fe with fenceRegress := 0, dbIgnored := 0, refUnderflow := 0, refFromZero := 0, refSat := 0, cqFull := 0
                                          rings := amapAll d.fe.rings (fun _ r => { r with ignored := 0 }) }
      else d.fe } := by
  unfold feCountClear bit
  cases v.testBit 0 <;> rfl

theorem feSchedClear_eq (v : Nat) (d : Dev) : feSchedClear v d = { d with
    sched := if v.testBit 0 then { d.sched with counts := [] } else d.sched } := by
  unfold feSchedClear bit
  split <;> rfl

theorem mmuCountClear_eq (v : Nat) (d : Dev) : mmuCountClear v d = { d with
    mmu := if v.testBit 0 then { d.mmu with replayIgnored := 0, ringFull := 0, rptrIgnored := 0, hostCplErr := 0 } else d.mmu } := by
  unfold mmuCountClear bit
  split <;> rfl

theorem packClear_eq (v : Nat) (d : Dev) : packClear v d = { d with
    pack := if v.testBit 0 then d.pack.map (fun p => { p with illegal := 0, distance := 0, overrun := 0, quantCmds := 0 }) else d.pack } := by
  unfold packClear bit
  split <;> rfl

/-- A core's register answers only while the core's shader group is powered. -/
theorem domainOf_core_on {q n : Nat} {d : Dev} (hq : q < 4) (hn : n < 6) (h : blockOn d (scAt q n 0x10) = true) :
    d.clk.domains.getD (domainOf 4 q n) 0 = 1 := by
  have hlo : ∀ k, k ≤ 0x1000000 → ¬scAt q n 0x10 < k := fun k hk => by unfold scAt csAt; omega
  have hwq : (scAt q n 0x10 - 0x1000000) / 0x400000 = q := by unfold scAt csAt; omega
  have hwo : scAt q n 0x10 % 0x400000 = 0x10000 + 0x100 * n + 0x10 := by unfold scAt csAt; omega
  have hgroup : (0x10000 + 0x100 * n + 0x10) % 0x10000 < 0x300 ↔ n < 3 := by omega
  have hslice : ¬0x10000 + 0x100 * n + 0x10 < 0x10000 := by omega
  have hcore : 0x10000 + 0x100 * n + 0x10 < 0x20000 := by omega
  have hon : quarterReg d q (if n < 3 then 1 else 2) = true := by
    simpa only [blockOn, hlo, Nat.reduceLeDiff, and_false, if_false, hwq, hwo, hslice, hcore, if_true, hgroup, hq, decide_true, Bool.true_and] using h
  simp only [quarterReg, Bool.and_eq_true, beq_iff_eq] at hon
  rw [← hon.2, show domainOf 4 q n = (if n < 3 then 8 else 9) + 5 * q from rfl]
  congr 1
  split <;> omega

theorem scFaultClear_of_on {q n : Nat} {d : Dev} (h : d.clk.domains.getD (domainOf 4 q n) 0 = 1) (v : Nat) : scFaultClear q n v d = { d with
    cores := if v.testBit 31 then d.cores.modify (6 * q + n) (fun m => { m with fault := default }) else d.cores } := by
  simp only [scFaultClear, bit, h, BEq.rfl, Bool.and_true]
  split <;> rfl

/-- Settles O16, row by row. -/
theorem counterClearsOfUnits : Obligations.CounterClearsOfUnits := by
  refine ⟨fun s r v hr hv h => ?_, fun s v hv h => ?_, fun s q v hq hv h => ?_, fun s v hv h => ?_, fun s v hv h => ?_, fun s v hv h => ?_,
    fun s v hv h => ?_, fun s q n v hq hn hv h => ?_⟩
  · have hw : (Instr.dlmClear r v).wf = true := by simp only [Instr.wf, hr, hv, decide_true, Bool.and_self]
    exact (exec_hostReg (f := fun _ => dlmClear r v) hw h).trans (by rw [dlmClear_eq])
  · have hw : (Instr.pheClear v).wf = true := decide_eq_true hv
    exact (exec_hostReg (f := fun _ => pheClear v) hw h).trans (by rw [pheClear_eq])
  · have hw : (Instr.csErrClear q v).wf = true := by simp only [Instr.wf, hq, hv, decide_true, Bool.and_self]
    exact (exec_hostReg (f := fun _ => csErrClear q v) hw h).trans (by rw [csErrClear_eq])
  · have hw : (Instr.feCountClear v).wf = true := decide_eq_true hv
    exact (exec_hostReg (f := fun _ => feCountClear v) hw h).trans (by rw [feCountClear_eq])
  · have hw : (Instr.feSchedClear v).wf = true := decide_eq_true hv
    exact (exec_hostReg (f := fun _ => feSchedClear v) hw h).trans (by rw [feSchedClear_eq])
  · have hw : (Instr.mmuCountClear v).wf = true := decide_eq_true hv
    exact (exec_hostReg (f := fun _ => mmuCountClear v) hw h).trans (by rw [mmuCountClear_eq])
  · have hw : (Instr.packClear v).wf = true := decide_eq_true hv
    exact (exec_hostReg (f := fun _ => packClear v) hw h).trans (by rw [packClear_eq])
  · have hw : (Instr.scFaultClear q n v).wf = true := by simp only [Instr.wf, hq, hn, hv, decide_true, Bool.and_self]
    exact (exec_hostReg (f := fun _ => scFaultClear q n v) hw h).trans (by rw [scFaultClear_of_on (domainOf_core_on hq hn h.2)])

/-! ### Retraining (R85, R469) -/

/-- The order of the quarters' turns begins at the next one. -/
theorem retrainStart_of_due {c : Cfg} {q w : Nat} {d : Dev} (hq : q < 4) (hf : windowFits c 750 d = some w) (hr : d.phe.retraining = none)
    (hw : d.phe.windowUsed ≠ some w) (hd : retrainDue d q = true)
    (hn : ∀ i < 4, retrainDue d ((d.phe.nextRetrain + i) % 4) = true → ∃ j ≤ i, (d.phe.nextRetrain + j) % 4 = q) :
    retrainStart c q d = beginRetrain q (some w) d := by
  have hnext : ((List.range 4).map (fun i => (d.phe.nextRetrain + i) % 4)).find? (fun q => retrainDue d q) = some q := by
    refine List.find?_eq_some_iff_getElem.2 ⟨hd, (q + 4 - d.phe.nextRetrain % 4) % 4, ?_, ?_, fun j hj => ?_⟩
    · rw [List.length_map, List.length_range]
      omega
    · rw [List.getElem_map, List.getElem_range]
      omega
    · rw [List.getElem_map, List.getElem_range, Bool.not_eq_true', Bool.eq_false_iff]
      intro hdue
      obtain ⟨k, hk, he⟩ := hn j (by omega) hdue
      omega
  simp only [retrainStart, hf]
  exact if_pos ⟨hr, hw, hnext⟩

/-- A quarter's forced retraining begins 48 ms after the last one, in no window of its own. -/
theorem retrainForced_of_on {c : Cfg} {q : Nat} {d e : Dev} (ho : d.clk.domains.getD (11 + 5 * q) 0 = 1) (hr : d.phe.retraining = none)
    (hs : d.clk.switches.any (fun w => w.quarter == q) = false) (he : advanceTo c (d.phe.lastRetrain.getD q 0 + 24000000) d = e) :
    retrainForced c q d = { e with phe := { e.phe with
      maintForced := satInc 65535 e.phe.maintForced, retraining := some (q, e.phe.tb), nextRetrain := (q + 1) % 4 } } := by
  have hgo : ¬(d.clk.domains.getD (11 + 5 * q) 0 ≠ 1 ∨ d.phe.retraining ≠ none ∨ d.clk.switches.any (fun w => w.quarter == q) = true) := by
    rw [ho, hr, hs]
    decide
  rw [retrainForced, if_neg hgo, he]
  rfl

theorem retrainEnd_of_retraining {c : Cfg} {q t : Nat} {d : Dev} (hr : d.phe.retraining = some (q, t)) : retrainEnd c q d =
      let e := advanceTo c (t + 750) d
      { e with phe := { e.phe with retraining := none, lastRetrain := e.phe.lastRetrain.set q e.phe.tb } } := by
  simp only [retrainEnd, hr, if_pos]

/-- Settles O2, row by row. -/
theorem retrainingRows : Obligations.RetrainingRows := by
  refine ⟨fun s q w hq hs hf hr hw hd hn => ?_, fun s q hq hs ho hr hsw => ?_, fun s q t hq hs hr => ?_⟩
  · have hwf : (Instr.retrainStart q).wf = true := decide_eq_true hq
    exact (exec_inRun (f := fun c => retrainStart c q) hwf hs).trans (by rw [retrainStart_of_due hq hf hr hw hd hn]; rfl)
  · have hwf : (Instr.retrainForced q).wf = true := decide_eq_true hq
    exact (exec_inRun (f := fun c => retrainForced c q) hwf hs).trans (by rw [retrainForced_of_on ho hr hsw rfl])
  · have hwf : (Instr.retrainEnd q).wf = true := decide_eq_true hq
    exact (exec_live (f := fun c => retrainEnd c q) hwf hs).trans (by rw [retrainEnd_of_retraining hr])

/-! ### Commands of the front end (R77, R78, R228, R343) -/

theorem feNop_of_ready {c : Cfg} {r : Nat} {x : Cmd} {d : Dev} (hx : oldestWaiting (ringOf d r) = some x) (hc : x.entry.cls = 0)
    (ho : x.entry.op = 1) (hr : feReady c d x = true) : feNop c r d =
      let e := joinChain c x d
      endCmd c { resolveAfterStart e ((cmdOf e x.serial).getD x) with dispatchTb := e.phe.tb, ran := true } 0 e := by
  simp only [feNop, hx]
  exact if_pos ⟨hc, ho, hr⟩

/-- What a CYCLE_MARK `y` of ring `r` does once its payload is read as `data`: a START of a gated ring that is not released is staged. -/
def markRead (c : Cfg) (r : Nat) (y : Cmd) (data : List PByte) (d : Dev) : Dev :=
  if ppoison data = true then endCmd c { y with poisoned := true } 0x10 d
  else if (gateOf c r).isSome = true ∧ (parseMark (pdata data)).kind = 1 ∧ y.released = false then
    endSkipping (gateOf c r) (stageMark r y.serial (parseMark (pdata data)) d)
  else if (parseMark (pdata data)).kind = 1 then endCmd c y 0 (startReached c r (parseMark (pdata data)) d)
  else if (parseMark (pdata data)).kind = 2 then
    closeChain c r (endCmd c y 0 (if (gateOf c r).isSome = true ∧ y.cmark.isNone = true then endSkipping (gateOf c r) d else d))
  else endCmd c y 0 d

theorem resolveAfterStart_serial (d : Dev) (x : Cmd) : (resolveAfterStart d x).serial = x.serial := by
  unfold resolveAfterStart
  dsimp only
  split <;> rfl

theorem resolveAfterStart_cmark (d : Dev) (x : Cmd) : (resolveAfterStart d x).cmark = x.cmark := by
  unfold resolveAfterStart
  dsimp only
  split <;> rfl

/-- A mark whose payload is read runs; the parts of a START and an END exclude each other by KIND. -/
theorem cycleMark_of_read {c : Cfg} {r : Nat} {x : Cmd} {data : List PByte} {d e : Dev} (hx : oldestWaiting (ringOf d r) = some x)
    (hc : x.entry.cls = 0) (ho : x.entry.op = 2) (hr : feReady c d x = true)
    (hu : unitStalled d { rqFe c x.ctx with serial := some x.serial } = false)
    (hv : virtRead c { rqFe c x.ctx with serial := some x.serial } x.ctx x.entry.payload 64 1 d = (⟨0, false, data⟩, e)) :
    cycleMark c r d = markRead c r { resolveAfterStart d x with dispatchTb := d.phe.tb, ran := true } data e := by
  have hgo : ¬(x.entry.cls ≠ 0 ∨ x.entry.op ≠ 2 ∨ feReady c d x = false ∨ unitStalled d { rqFe c x.ctx with serial := some x.serial } = true) := by
    rw [hc, ho, hr, hu]
    decide
  simp only [cycleMark, hx]
  rw [if_neg hgo, hv]
  unfold markRead
  dsimp only
  rw [if_neg Bool.false_ne_true, if_neg (not_not_intro rfl), resolveAfterStart_serial]
  by_cases h1 : (parseMark (pdata data)).kind = 1
  · simp [h1]
  · by_cases h2 : (parseMark (pdata data)).kind = 2
    · simp [h2]
    · simp [h1, h2]

/-- A comparator that finds an engine's command armed, its target reached and nothing in its way posts it (R78). -/
theorem fireNow_of_reached {c : Cfg} {r : Nat} {y : Cmd} {d : Dev} (hy : oldestWaiting (ringOf d r) = some y) (ha : y.phase = .armed)
    (hm : mayPost c d y = true) (ht : targetReached d y = true) (hc : y.entry.cls ≠ 0) :
    fireNow c r d = postToken c y (obsEmit c 1 0x11 0 0xF0 r [] d) := by
  simp only [fireNow, hy]
  simp [ha, hm, ht, hc]

/-- The lower rings whose oldest waiting command enters queue `q`: their comparators fire first (R81). -/
def firesBefore (r q : Nat) (d : Dev) : List Nat :=
  (List.range r).filter (fun k => (oldestWaiting (ringOf d k)).any (fun z => queueOf z.entry == q))

theorem comparatorFire_of_armed {c : Cfg} {r t : Nat} {x : Cmd} {d e : Dev} (hx : oldestWaiting (ringOf d r) = some x) (ht : x.startTarget = some t)
    (ha : x.phase = .armed) (hc : x.entry.cls ≠ 0) (hv : refValid (refOf d x.entry.start.ref) = true) (hm : mayPost c d x = true)
    (he : advance c (ticksToStamp c x.entry.start.ref t d) d = e) :
    comparatorFire c r d = fireNow c r ((firesBefore r (queueOf x.entry) e).foldl (fun d k => fireNow c k d) e) := by
  simp only [comparatorFire, hx, ht]
  rw [if_neg (by simp [ha, hc, hv, hm]), he]
  unfold firesBefore
  congr 2
  refine List.filter_congr fun k _ => ?_
  cases oldestWaiting (ringOf e k) with
  | none => rfl
  | some y => simp [hc]

/-- Settles O10, row by row. -/
theorem frontEndCommandRows : Obligations.FrontEndCommandRows := by
  refine ⟨fun s r x hs hx hc ho hr => ?_, fun s r x data d hs hx hc ho hr hu hv => ?_,
    fun s r x t y d hs hx ht ha hc hv hm hd hy hya hym hyt hyc => ?_⟩
  · have hw : (Instr.feNop r).wf = true := decide_eq_true hx.1
    exact (exec_inRun (f := fun c => feNop c r) hw hs).trans (by rw [feNop_of_ready hx.2 hc ho hr])
  · have hw : (Instr.cycleMark r).wf = true := decide_eq_true hx.1
    exact (exec_live (f := fun c => cycleMark c r) hw hs).trans (by rw [cycleMark_of_read hx.2 hc ho hr hu hv, markRead])
  · have hw : (Instr.startComparatorFire r).wf = true := decide_eq_true hx.1
    refine (exec_live (f := fun c => comparatorFire c r) hw hs).trans ?_
    rw [comparatorFire_of_armed hx.2 ht ha hc hv hm rfl, firesBefore, ← hd, fireNow_of_reached hy hya hym hyt hyc]

/-! ### Deadline checks (R229 to R231) -/

/-- The staged chains are read, the cycle is marked checked, and the chains of earlier cycles are skipped. -/
def cycleChecked (c : Cfg) (r : Nat) (m : DeadlineMonRec) (n epoch : Nat) (d : Dev) : Dev :=
  setDlm (skipChains c r (fun k => decide (toSigned 32 (k.cycle + 2 ^ 32 - n % 2 ^ 32) < 0)) (readMarks c m.fallbackRing d)) r
    (fun x => setCycle n epoch (fun y => { y with checked := true }) x)

/-- The triggers that a check looks for, in order, once it has marked its cycle (R231). -/
def checkTriggers (c : Cfg) (r : Nat) (m : DeadlineMonRec) (n epoch : Nat) (d : Dev) : Dev :=
  let y := (cycleOf (dlmOf d r) n epoch).getD default
  if y.delivered ∨ y.dispatched then d
  else if y.started = false then dlmTrigger c r n epoch 1 d
  else match (dlmOf d r).chains.find? (fun h => h.kind == 0 && h.cmark.cycle == n) with
    | none => d
    | some h => if predictedLate m n h then dlmTrigger c r n epoch 2 d
      else if 3 ≤ d.pwr.stage then dlmTrigger c r n epoch 3 d else d

/-- Whether a monitor has checked cycle `k` of an epoch. -/
def cycleWasChecked (d : Dev) (r epoch k : Nat) : Bool := (cycleOf (dlmOf d r) k epoch).any (fun y => y.checked)

section
variable {c : Cfg} {r n : Nat} {m : DeadlineMonRec} {d : Dev}
  (hm : c.dlm r = some m) (hp : d.pwr.state = 0) (hf : faulted d = false) (hv : refValid (refOf d m.ref) = true)
include hm hp hf hv

/-- The cycle whose check angle was passed last and is undecided is checked at once. -/
theorem dlmCheck_of_passed (hl : lastCheckTurn m (refStamp (refOf d m.ref)) = some n)
    (hn : cycleWasChecked d r (refOf d m.ref).epoch n = false) :
    dlmCheck c r d = checkTriggers c r m n (refOf d m.ref).epoch (cycleChecked c r m n (refOf d m.ref).epoch d) := by
  have hdue : (lastCheckTurn m (refStamp (refOf d m.ref))).filter
      (fun t => !((cycleOf (dlmOf d r) t (refOf d m.ref).epoch).any (fun y => y.checked))) = some n := by
    rw [hl]
    exact Option.filter_some_pos (by rw [← cycleWasChecked, hn]; rfl)
  simp only [dlmCheck, hm]
  rw [if_neg (by simp [hp, hf, hv]), hdue]
  rfl

/-- Else the next cycle is checked, once time has taken the reference to its check angle. -/
theorem dlmCheck_of_coming {e : Dev} (hl : ∀ k, lastCheckTurn m (refStamp (refOf d m.ref)) = some k → cycleWasChecked d r (refOf d m.ref).epoch k = true)
    (hn : n = refStamp (refOf d m.ref) / 2 ^ 32 + (if m.checkAngle ≤ refStamp (refOf d m.ref) % 2 ^ 32 then 1 else 0))
    (he : advance c (ticksToStamp c m.ref ((n * 2 ^ 32 + m.checkAngle) % 2 ^ 64) d) d = e)
    (hr : stampAfter ((n * 2 ^ 32 + m.checkAngle) % 2 ^ 64) (refStamp (refOf e m.ref)) = false) :
    dlmCheck c r d = checkTriggers c r m n (refOf d m.ref).epoch (cycleChecked c r m n (refOf d m.ref).epoch e) := by
  have hdue : (lastCheckTurn m (refStamp (refOf d m.ref))).filter
      (fun t => !((cycleOf (dlmOf d r) t (refOf d m.ref).epoch).any (fun y => y.checked))) = none := by
    refine Option.filter_eq_none_iff.2 fun k hk => ?_
    rw [← cycleWasChecked, hl k hk]
    decide
  simp only [dlmCheck, hm]
  rw [if_neg (by simp [hp, hf, hv]), hdue, Option.getD_none, ← hn, he, hr, if_neg (by simp)]
  rfl

end

/-- A NO_CHAIN trigger with no chain staged for its cycle, of those whose memory is present, delivers NONE (R231, R232). -/
theorem dlmTrigger_noChain {c : Cfg} {r n epoch : Nat} {m : DeadlineMonRec} {d a : Dev} (hm : c.dlm r = some m) (hp : d.pwr.state = 0)
    (hy : (cycleOf (dlmOf d r) n epoch).all (fun y => !y.delivered && !y.dispatched) = true) (ha : readMarks c m.fallbackRing d = a)
    (hs : ∀ h ∈ stagedChains (ringOf a m.fallbackRing), h.1.cycle = n → memPresent a h.1.needed = false) :
    dlmTrigger c r n epoch 1 d =
      let e := skipChains c r (fun k => k.cycle == n) (setDlm a r (fun s =>
        { setCycle n epoch (fun y => { y with missing := true, trigger := 1 }) s with missing := satInc 255 s.missing }))
      retirePrimary c m r n (deliver c r m ((cycleOf (dlmOf e r) n epoch).getD default) 4 none e) := by
  have hopen : ¬(((cycleOf (dlmOf d r) n epoch).getD ⟨n, epoch, false, false, false, false, 0, false⟩).delivered = true ∨
      ((cycleOf (dlmOf d r) n epoch).getD ⟨n, epoch, false, false, false, false, 0, false⟩).dispatched = true ∨ d.pwr.state ≠ 0) := by
    cases h : cycleOf (dlmOf d r) n epoch with
    | none => simp [hp]
    | some y => simpa [h, hp] using hy
  have hnone : (stagedChains (ringOf a m.fallbackRing)).find? (fun h => h.1.cycle == n && memPresent a h.1.needed) = none := by
    refine List.find?_eq_none.2 fun h hh => ?_
    simpa using hs h hh
  simp only [dlmTrigger, hm]
  rw [if_neg hopen, ha]
  simp only [hnone]
  rfl

/-- Settles O41: the two cases of the cycle to check, and the NO_CHAIN trigger of a cycle with no chain staged. -/
theorem deadlineCheckRow : Obligations.DeadlineCheckRow := by
  refine ⟨fun s r m n t hr hs hf hm hv => ?_, fun c d r m n epoch hm hp hy => ?_⟩
  · intro ref decided hcase
    have hw : (Instr.dlmCheck r).wf = true := decide_eq_true hr
    refine (exec_inRun (f := fun c => dlmCheck c r) hw hs).trans ?_
    obtain ⟨hl, hn, rfl⟩ | ⟨hl, hn, ht, ha⟩ := hcase
    · rw [dlmCheck_of_passed hm hs.2.2 hf hv hl hn]
      rfl
    · rw [dlmCheck_of_coming hm hs.2.2 hf hv hl hn ht.symm ha]
      rfl
  · intro a hs
    exact dlmTrigger_noChain hm hp hy rfl hs

/-! ### Pins (R64, R65) -/

/-- A pin of the phase engine changed by `f`. -/
def setPin (d : Dev) (pin : Nat) (f : PinSt → PinSt) : Dev := { d with phe := { d.phe with pins := d.phe.pins.modify pin f } }

/-- A change of a pin's level: an unused pin takes it; of a used one it starts the filter's count, is discarded as a glitch, or comes behind the
acceptance of the level that it ends (R64). -/
theorem phinLevel_eq (c : Cfg) (pin : Nat) (level : Bool) (d : Dev) : phinLevel c pin level d =
    let p := d.phe.pins.getD pin default
    if (pinUse c pin).isNone then setPin d pin (fun p => { p with raw := level, level := level, since := d.phe.tb })
    else if p.raw = level then d
    else if level ≠ p.level then setPin d pin (fun p => { p with raw := level, since := d.phe.tb })
    else if d.phe.tb < p.since + glitchW c ((pinUse c pin).getD (0, 0)).1 then
      setRef (setPin d pin (fun p => { p with raw := level, since := d.phe.tb })) ((pinUse c pin).getD (0, 0)).1
        (fun r => { r with glitch := satInc 255 r.glitch })
    else
      let e := phinEdge c pin d
      setPin e pin (fun p => { p with raw := level, since := e.phe.tb }) := by
  cases hu : pinUse c pin with
  | none =>
    simp only [phinLevel, hu]
    rfl
  | some u =>
    obtain ⟨n, part⟩ := u
    simp only [phinLevel, hu, Option.isNone_some, Bool.false_eq_true, if_false, Option.getD_some]
    by_cases hraw : (d.phe.pins.getD pin default).raw = level
    · rw [if_pos hraw, if_pos hraw]
    rw [if_neg hraw, if_neg hraw]
    by_cases hback : level = (d.phe.pins.getD pin default).level
    · rw [if_neg (not_not_intro hback)]
      by_cases hearly : d.phe.tb < (d.phe.pins.getD pin default).since + glitchW c n
      · simp only [hback, hearly, decide_true, Bool.and_self, Bool.true_eq_false, and_false, if_false, if_true]
        rfl
      · simp only [hback, hearly, decide_true, decide_false, Bool.and_false, and_self, if_true, Bool.false_eq_true, if_false]
        rfl
    · simp only [hback, decide_false, Bool.false_and, false_and, if_false, Bool.false_eq_true, ne_eq, not_false_eq_true, if_true]
      rfl

theorem phinEdge_of_moved {c : Cfg} {pin n part : Nat} {d e : Dev} (hu : pinUse c pin = some (n, part))
    (hm : (d.phe.pins.getD pin default).raw ≠ (d.phe.pins.getD pin default).level)
    (he : advanceTo c ((d.phe.pins.getD pin default).since + glitchW c n) d = e) : phinEdge c pin d =
      let p := d.phe.pins.getD pin default
      let other := if part = 0 then e.phe.pins.getD (n + 1) default else e.phe.pins.getD n default
      let both := (c.phin n).mode == 3 && part != 2 && other.raw != other.level && other.since == p.since
      let pins := e.phe.pins.modify pin (fun p => { p with level := p.raw })
      pinEdge c n part p.since p.raw both { e with phe := { e.phe with
        pins := if both then pins.modify (if part = 0 then n + 1 else n) (fun p => { p with level := p.raw }) else pins } } := by
  simp only [phinEdge, hu]
  rw [if_neg hm, he]
  rfl

/-! ### Timeouts and turns of references (R70, R73) -/

theorem acquireTimeout_of_acquiring {c : Cfg} {n : Nat} {d e : Dev} (hs : (refOf d n).state = 1) (hm : refMode c n = 1 ∨ refMode c n = 2)
    (he : advanceTo c ((refOf d n).timingTb + ceilDiv ((c.phin n).timeoutK * (c.phin n).periodMax) 2) d = e) :
    acquireTimeout c n d = setRef e n (fun r => { r with
      timingTb := e.phe.tb, lastEdge := none, good := 0, timeout := satInc 255 r.timeout, pulses := 0, pulseBad := false }) := by
  have hgo : ¬((refOf d n).state ≠ 1 ∨ (refMode c n ≠ 1 ∧ refMode c n ≠ 2)) := by omega
  simp only [acquireTimeout]
  rw [if_neg hgo, he]

theorem lockTimeout_of_locked {c : Cfg} {n : Nat} {d e : Dev} (hs : (refOf d n).state = 2) (hm : refMode c n = 1 ∨ refMode c n = 2)
    (he : setRef (advanceTo c ((refOf d n).edgeTb + (c.phin n).timeoutK * (refOf d n).period) d) n
      (fun r => { r with timeout := satInc 255 r.timeout }) = e) :
    lockTimeout c n d = if (c.phin n).coastTurns = 0 then enterLost c n e
      else refTrace c n false (setRef e n (fun r => { r with
        state := 3, coastLeft := (c.phin n).coastTurns, coastEntry := entryTurn c n r })) := by
  have hgo : ¬((refOf d n).state ≠ 2 ∨ (refMode c n ≠ 1 ∧ refMode c n ≠ 2)) := by omega
  simp only [lockTimeout]
  rw [if_neg hgo, he]

/-- A carry of an interpolating reference other than the free-running one adds a turn; COASTING counts it unless it is the boundary of its entry. -/
theorem interpolatedTurn_of_valid {c : Cfg} {n : Nat} {d e : Dev} (hn : n < 10) (hv : refValid (refOf d n) = true) (hm : refMode c n ≠ 3)
    (hi : 0 < refInc c n (refOf d n))
    (he : advance c (if 2 ^ 48 ≤ (refOf d n).acc then 0 else ceilDiv (2 ^ 48 - (refOf d n).acc + (refOf d n).hold) (refInc c n (refOf d n))) d = e) :
    interpolatedTurn c n d =
      let g := maintUpdate n (setRef e n (fun r => { r with turn := (r.turn + 1) % 2 ^ 32, acc := r.acc - 2 ^ 48 }))
      let f := setRef g n (fun r => { r with coastLeft := r.coastLeft - 1 })
      if (refOf d n).state = 3 ∧ (refOf g n).turn ≠ (refOf d n).coastEntry then (if (refOf f n).coastLeft = 0 then enterLost c n f else f) else g := by
  have hten : n ≠ 10 := by omega
  have hgo : ¬(refValid (refOf d n) = false ∨ refMode c n = 3 ∨ (refInc c n (refOf d n) = 0 ∧ n ≠ 10)) := by
    rw [hv]
    simp only [hm, Nat.ne_of_gt hi, Bool.true_eq_false, false_and, or_self, not_false_eq_true]
  simp only [interpolatedTurn]
  rw [if_neg hgo]
  simp only [if_neg hten, he]

/-! ### Display lines (R63) -/

/-- Of the values tried, the fold keeps one that lies nearest. -/
theorem foldl_nearest (pos : Int) (l : List Int) (b : Int) :
    l.foldl (fun b v => if (v - pos).natAbs < (b - pos).natAbs then v else b) b ∈ b :: l ∧
      ∀ w ∈ b :: l, ((l.foldl (fun b v => if (v - pos).natAbs < (b - pos).natAbs then v else b) b) - pos).natAbs ≤ (w - pos).natAbs := by
  induction l generalizing b with
  | nil => simp
  | cons a l ih =>
    rw [List.foldl_cons]
    obtain ⟨hin, hle⟩ := ih (if (a - pos).natAbs < (b - pos).natAbs then a else b)
    have hkept : (if (a - pos).natAbs < (b - pos).natAbs then a else b) ∈ [b, a] ∧
        ∀ w ∈ [b, a], ((if (a - pos).natAbs < (b - pos).natAbs then a else b) - pos).natAbs ≤ (w - pos).natAbs := by
      split <;> simp <;> omega
    refine ⟨?_, fun w hw => ?_⟩
    · obtain h | h := List.mem_cons.1 hin
      · rw [h]
        exact List.mem_append_left l hkept.1
      · exact List.mem_append_right [b, a] h
    · obtain h | h := List.mem_append.1 (show w ∈ [b, a] ++ l from hw)
      · exact (hle _ List.mem_cons_self).trans (hkept.2 w h)
      · exact hle w (List.mem_cons_of_mem _ h)

/-- The angle that a line aligns to is of this turn or one beside it, and none of those lies nearer. -/
theorem nearestAngle_nearest (frac : Nat) (pos : Int) :
    let values := [pos / 2 ^ 48 - 1, pos / 2 ^ 48, pos / 2 ^ 48 + 1].map (fun b => b * 2 ^ 48 + (frac : Int))
    nearestAngle frac pos ∈ values ∧ ∀ w ∈ values, (nearestAngle frac pos - pos).natAbs ≤ (w - pos).natAbs := by
  intro values
  obtain ⟨hin, hle⟩ := foldl_nearest pos values (pos / 2 ^ 48 * 2 ^ 48 + frac)
  refine ⟨?_, fun w hw => hle w (List.mem_cons_of_mem _ hw)⟩
  obtain h | h := List.mem_cons.1 hin
  · rw [show nearestAngle frac pos = _ from h]
    simp [values]
  · exact h

theorem displayLine_first {c : Cfg} {p : Nat} {d : Dev} (hp : p < 2) (he : (c.disp p).enable ≠ 0) (hl : 0 < totalLines c p)
    (ho : d.clk.domains.getD 3 0 = 1) (hs : (refOf d (8 + p)).state = 0) :
    displayLine c p 0 d = refTrace c (8 + p) true (enterLocked c (8 + p) (framePeriod c p) d.phe.tb
      (setRef d (8 + p) (fun r => { r with epoch := (r.epoch + 1) % 65536 }))) := by
  have hgo : ¬(2 ≤ p ∨ (c.disp p).enable = 0 ∨ totalLines c p ≤ 0 ∨ d.clk.domains.getD 3 0 ≠ 1) := by omega
  simp only [displayLine]
  rw [if_neg hgo, if_pos hs, if_neg (not_not_intro rfl)]
  rfl

theorem displayLine_of_present {c : Cfg} {p line : Nat} {d : Dev} (hp : p < 2) (he : (c.disp p).enable ≠ 0) (hl : line < totalLines c p)
    (ho : d.clk.domains.getD 3 0 = 1) (hs : (refOf d (8 + p)).state ≠ 0) :
    displayLine c p line d =
      let e := alignTo c (8 + p) (nearestAngle ((line * 2 ^ 32 / totalLines c p) * 2 ^ 16) (edgeLine (refOf d (8 + p)))) d
      if line = 0 then setRef e (8 + p) (fun r => { r with edgeTb := e.phe.tb }) else e := by
  have hgo : ¬(2 ≤ p ∨ (c.disp p).enable = 0 ∨ totalLines c p ≤ line ∨ d.clk.domains.getD 3 0 ≠ 1) := by omega
  simp only [displayLine]
  rw [if_neg hgo, if_neg hs]

/-- Settles O1, row by row. -/
theorem phaseInputRows : Obligations.PhaseInputRows := by
  refine ⟨fun s pin level hp hs => ?_, fun s pin n part hp hs hu hm => ?_, fun s n hn hs hst hm => ?_, fun s n hn hs hst hm => ?_,
    fun s n hn hs hv hm hi => ?_, fun s p hp hs he hl ho hst => ?_, fun s p line hp hl hl16 hs he ho hst => ?_⟩
  · have hw : (Instr.phinLevelChange pin level).wf = true := decide_eq_true hp
    exact (exec_live (f := fun c => phinLevel c pin level) hw hs).trans (by rw [phinLevel_eq]; rfl)
  · have hw : (Instr.phinEdgeAccepted pin).wf = true := decide_eq_true hp
    exact (exec_live (f := fun c => phinEdge c pin) hw hs).trans (by rw [phinEdge_of_moved hu hm rfl])
  · have hw : (Instr.acquireTimeout n).wf = true := decide_eq_true hn
    exact (exec_live (f := fun c => acquireTimeout c n) hw hs).trans (by rw [acquireTimeout_of_acquiring hst hm rfl])
  · have hw : (Instr.lockTimeout n).wf = true := decide_eq_true hn
    exact (exec_live (f := fun c => lockTimeout c n) hw hs).trans (by rw [lockTimeout_of_locked hst hm rfl]; rfl)
  · have hw : (Instr.interpolatedTurn n).wf = true := decide_eq_true (by omega)
    exact (exec_live (f := fun c => interpolatedTurn c n) hw hs).trans (by rw [interpolatedTurn_of_valid hn hv hm hi rfl])
  · have hw : (Instr.displayLineStart p 0).wf = true := by simp [Instr.wf, hp]
    exact (exec_inRun (f := fun c => displayLine c p 0) hw hs).trans (by rw [displayLine_first hp he hl ho hst])
  · have hw : (Instr.displayLineStart p line).wf = true := by simp [Instr.wf, hp, hl16]
    intro r now values
    obtain ⟨hin, hle⟩ := nearestAngle_nearest ((line * 2 ^ 32 / totalLines s.cfg p) * 2 ^ 16) (edgeLine r)
    refine ⟨_, hin, hle, ?_⟩
    exact (exec_inRun (f := fun c => displayLine c p line) hw hs).trans (by rw [displayLine_of_present hp he hl ho hst])

end Sys2Proof.Machine

/-! PROOFS. The statements of the central store (04): where an address lies, maintenance, requests, and the units that move data. -/

namespace Sys2Proof.Machine

/-! ### Interleaving (R91) -/

theorem foldGroup_eq (g : Nat) :
    let f := fun (i : Nat) => g / 4 ^ i % 4
    foldGroup g = f 0 ^^^ f 1 ^^^ f 2 ^^^ f 3 ^^^ f 4 ^^^ f 5 ^^^ f 6 ^^^ f 7 ^^^ f 8 ^^^ f 9 ^^^ f 10 ^^^ f 11 ^^^ f 12 := by
  intro f
  have hf : (fun (a i : Nat) => a ^^^ ((g >>> (2 * i)) % 4)) = fun a i => a ^^^ f i := by
    funext a i
    rw [Nat.shiftRight_eq_div_pow, Nat.pow_mul]
  rw [foldGroup, hf, show List.range 13 = [0, 1, 2, 3, 4, 5, 6, 7, 8, 9, 10, 11, 12] from rfl]
  simp only [List.foldl_cons, List.foldl_nil, Nat.zero_xor]

theorem xor_lt_four {a b : Nat} (ha : a < 4) (hb : b < 4) : a ^^^ b < 4 := Nat.xor_lt_two_pow (n := 2) ha hb

theorem foldGroup_lt (g : Nat) : foldGroup g < 4 := by
  unfold foldGroup
  generalize List.range 13 = l
  induction l using List.reverseRecOn with
  | nil => exact Nat.zero_lt_succ 3
  | append_singleton l i ih =>
    rw [List.foldl_append]
    exact xor_lt_four ih (Nat.mod_lt _ (by decide))

/-- Granule `k` of group `g` lies in the quarter that its lane and the group's fold give. -/
theorem interleave_granule {g k off : Nat} (hk : k < 4) (ho : off < 4096) :
    interleave (g * 16384 + k * 4096 + off) = (k ^^^ foldGroup g, g * 4096 + off) := by
  have hg : (g * 16384 + k * 4096 + off) / 16384 = g := by omega
  have hl : (g * 16384 + k * 4096 + off) / 4096 % 4 = k := by omega
  have hr : (g * 16384 + k * 4096 + off) % 4096 = off := by omega
  simp only [interleave, hg, hl, hr]

theorem uninterleave_granule {q g off : Nat} (ho : off < 4096) :
    uninterleave q (g * 4096 + off) = g * 16384 + (q ^^^ foldGroup g) * 4096 + off := by
  have hg : (g * 4096 + off) / 4096 = g := by omega
  have hr : (g * 4096 + off) % 4096 = off := by omega
  simp only [uninterleave, hg, hr]

theorem interleave_uninterleave {q : Nat} (hq : q < 4) (off : Nat) : interleave (uninterleave q off) = (q, off) := by
  rw [uninterleave, interleave_granule (xor_lt_four hq (foldGroup_lt _)) (Nat.mod_lt _ (by decide)), Nat.xor_xor_cancel_right]
  congr 1
  omega

theorem uninterleave_interleave (o : Nat) : uninterleave (interleave o).1 (interleave o).2 = o := by
  rw [interleave, uninterleave_granule (Nat.mod_lt _ (by decide)), Nat.xor_xor_cancel_right]
  omega

theorem uninterleave_lt {q off : Nat} (hq : q < 4) (ho : off < 2 ^ 38) : uninterleave q off < 2 ^ 40 := by
  have hx : q ^^^ foldGroup (off / 4096) < 4 := xor_lt_four hq (foldGroup_lt _)
  simp only [uninterleave]
  omega

theorem interleave_quarter_lt (o : Nat) : (interleave o).1 < 4 := xor_lt_four (Nat.mod_lt _ (by decide)) (foldGroup_lt _)

/-! ### Places (R90, R91) -/

theorem place_interleaved {c : Cfg} {d : Dev} {rq : Rq} {pa len : Nat} (hp : pa < 2 ^ 40) (hl : pa + len ≤ 4 * dramBytes) :
    place c d rq pa len = .dram (interleave pa).1 (interleave pa).2 := by
  have hnode : pa / 2 ^ 44 % 16 = 0 := by omega
  have hregion : pa / 2 ^ 40 % 16 = 0 := by omega
  simp only [place, hnode, hregion, Nat.mod_eq_of_lt hp, if_true, if_pos hl]

theorem place_quarterLocal {c : Cfg} {d : Dev} {rq : Rq} {q o len : Nat} (hq : q < 4) (ho : o < 2 ^ 40) (hl : o + len ≤ dramBytes) :
    place c d rq ((1 + q) * 2 ^ 40 + o) len = .dram q o := by
  have hnode : ((1 + q) * 2 ^ 40 + o) / 2 ^ 44 % 16 = 0 := by omega
  have hregion : ((1 + q) * 2 ^ 40 + o) / 2 ^ 40 % 16 = q + 1 := by omega
  have hoff : ((1 + q) * 2 ^ 40 + o) % 2 ^ 40 = o := by omega
  have hle : q + 1 ≤ 4 := hq
  simp only [place, hnode, hregion, hoff, if_true, Nat.succ_ne_zero, if_false, if_pos hle, if_pos hl, Nat.add_sub_cancel]

/-- Settles O35: an address is a group of granules, a lane and an offset, and the exclusive or with the group's fold is its own inverse. -/
theorem interleavedPlacement : Obligations.InterleavedPlacement := by
  refine ⟨?_, fun c d rq q o len hq ho hl => place_quarterLocal hq ho hl,
    fun q off hq ho => ⟨interleave_uninterleave hq off, uninterleave_lt hq ho⟩, fun o _ => ⟨interleave_quarter_lt o, uninterleave_interleave o⟩,
    fun g k off _ hk ho => ⟨congrArg Prod.snd (interleave_granule hk ho), fun j hj h => ?_⟩⟩
  · intro c d rq pa len hp hl g f
    rw [place_interleaved hp hl, ← foldGroup_eq]
    rfl
  · have hlane : k ^^^ foldGroup g = j ^^^ foldGroup g := by
      simpa only [Nat.reducePow, interleave_granule hk ho, interleave_granule hj ho] using h
    exact (Nat.xor_left_inj.1 hlane).symm

/-! ### Maintenance (R113 to R119) -/

/-- GO with an operation other than 0: a busy block only notes the rejection. -/
theorem csMaint_of_op {op : Nat} (h0 : 0 < op) (h4 : op < 4) (q : Nat) (d : Dev) : csMaint q op d = setSlice d q (fun m =>
    if m.maintBusy then { m with maintRejected := true }
    else { m with maintOp := op, maintRun := (op, m.maintPa, m.maintLen), maintBusy := true }) := by
  simp only [csMaint, Nat.mod_eq_of_lt h4, if_neg (Nat.ne_of_gt h0)]

theorem csMaintComplete_of_busy {c : Cfg} {q : Nat} {d : Dev} (h : (sliceOf d q).maintBusy = true) :
    csMaintComplete c q d = raise (28 + q) (setSlice
      (maintRange c (sliceOf d q).maintRun.1 (sliceOf d q).maintRun.2.1 (sliceOf d q).maintRun.2.2 d) q
      (fun m => { m with maintBusy := false, maintDone := true })) := if_neg (by simp [h])

theorem csSw_of_cacheWay {c : Cfg} {q op set way : Nat} {d : Dev} (hs : set < 24576) (hw : way < 16) (hc : bit (cacheWays c q) way = true) :
    csSw c q op set way d = maintLine op true q (set * 16 + way) d := if_neg (by simp [hc, hs, hw])

theorem wayCleanDone_of_cleaning {q way : Nat} {d : Dev} (h : bit (sliceOf d q).cleaning way = true) :
    wayCleanDone q way d = setSlice (cleanWays q (2 ^ way) d) q (fun m =>
      { m with cleaning := putBit m.cleaning way false, off := putBit m.off way true }) := if_neg (by simp [h])

/-- A write of a slice's register by an Ox core, where the slice answers, completes with its effect. -/
theorem exec_oxReg {b : Bool} {q : Nat} {f : Cfg → Dev → Dev} {s : State} (hb : b = true) (h : quarterReg s.dev q 0 = true) :
    onDev b (fun c => oxReg q (f c)) s = .next (s.ended (f s.cfg s.dev)) := by
  rw [hb, onDev_next, oxReg, if_pos h]

/-- Settles O3, row by row. -/
theorem storeMaintenanceRows : Obligations.StoreMaintenanceRows := by
  refine ⟨fun s q op hq h hop => ?_, fun s q hq hs hb => ?_, fun s q set way op hq hset hway hr hc hop => ?_, fun s q v hq hv h => ?_,
    fun s q way hq hway hs hb => ?_⟩
  · have hrow : exec op.1 s = onDev (decide (q < 4)) (fun _ => hostReg (csAt q 0x70) (csMaint q op.2)) s ∧ 0 < op.2 ∧ op.2 < 4 := by
      obtain rfl | rfl | rfl := hop <;> exact ⟨rfl, by simp, by simp⟩
    obtain ⟨hrow, h0, h4⟩ := hrow
    exact (hrow.trans (exec_hostReg (f := fun _ => csMaint q op.2) (decide_eq_true hq) h)).trans (by rw [csMaint_of_op h0 h4]; rfl)
  · exact (exec_inRun (f := fun c => csMaintComplete c q) (decide_eq_true hq) hs).trans (by rw [csMaintComplete_of_busy hb])
  · have hw : (decide (q < 4) && decide (set < 24576) && decide (way < 16)) = true := by simp only [hq, hset, hway, decide_true, Bool.and_self]
    have hrow : exec op.1 s = onDev (decide (q < 4) && decide (set < 24576) && decide (way < 16)) (fun c => oxReg q (csSw c q op.2 set way)) s := by
      obtain rfl | rfl | rfl := hop <;> rfl
    exact (hrow.trans (exec_oxReg (f := fun c => csSw c q op.2 set way) hw hr)).trans (by rw [csSw_of_cacheWay hset hway hc])
  · have hw : (Instr.csWayOffWrite q v).wf = true := by simp only [Instr.wf, hq, hv, decide_true, Bool.and_self]
    exact exec_hostReg (f := fun c => csWayOff c q v) hw h
  · have hw : (Instr.wayCleanDone q way).wf = true := by simp only [Instr.wf, hq, hway, decide_true, Bool.and_self]
    exact (exec_inRun (f := fun _ => wayCleanDone q way) hw hs).trans (by rw [wayCleanDone_of_cleaning hb])

/-! ### Requests by the place of their address (R94, R97, R103 to R107, R381) -/

/-- The requester that STORE_REQUEST names: a class for a context, or on its own account. -/
def requesterOf (c : Cfg) (ctx : Option Nat) (cls q i : Nat) : Rq :=
  match ctx with
  | some x => rqNamed c x cls q i
  | none => rqOwn c cls (if quarterClass cls then q else 4) i

/-- STORE_REQUEST brings a request of some bytes to its slice. -/
theorem exec_storeRequest {s : State} {ctx : Option Nat} {cls q i pa len : Nat} {wdata : Option (List (Option PByte))} {noalloc : Bool}
    {onchip : Option (Bool × Nat)} {rq : Rq} {f : Fill} (hs : Running s)
    (hw : (Instr.storeRequest ctx cls q i pa len wdata noalloc onchip).wf = true)
    (hrq : rq = { requesterOf s.cfg ctx cls q i with noalloc := noalloc })
    (hf : f = ⟨rq, pa, (wdata.map (·.length)).getD len, wdata, 0, false⟩) (h0 : 0 < f.len) :
    exec (.storeRequest ctx cls q i pa len wdata noalloc onchip) s = .next (s.ended (storeRequest s.cfg f onchip s.dev)) := by
  have hof : storeRequestOf s.cfg ctx cls q i pa len wdata noalloc onchip s.dev = storeRequest s.cfg f onchip s.dev := by
    subst hf hrq
    cases ctx <;> cases wdata <;> exact if_neg (Nat.ne_of_gt h0)
  exact (exec_inRun (f := fun c => storeRequestOf c ctx cls q i pa len wdata noalloc onchip) hw hs).trans (by rw [hof])

/-- The bytes of a write without gaps are one run. -/
theorem maskRuns_whole (o : Nat) (b : PByte) (l : List PByte) : maskRuns o ((b :: l).map some) = [(o, b :: l)] := by
  induction l generalizing o b with
  | nil => rfl
  | cons b' l ih =>
    have hnext := ih (o + 1) b'
    rw [List.map_cons, maskRuns, hnext]
    exact if_pos rfl

section
variable {c : Cfg} {d : Dev} {f : Fill} {onchip : Option (Bool × Nat)} (hl : f.pa % 128 + f.len ≤ 128)

theorem fillLine_of_bus {a : Nat} (hp : place c d f.rq f.pa f.len = .bus a) : fillLine c d f = none := by rw [fillLine, hp]

/-- A write of whole bytes to a bus address is posted. -/
theorem performLine_of_busWrite {a : Nat} {errs : List SectorErr} {w : List PByte} (h0 : 0 < w.length) (hlen : f.len = w.length)
    (hw : f.wdata = some (w.map some)) (hp : place c d f.rq f.pa f.len = .bus a) :
    performLine c f errs d = answer [] true (busWrite d a w) := by
  obtain ⟨b, l, rfl⟩ := List.exists_cons_of_length_pos h0
  have hphys : physWrite c f.rq (f.pa + 0) (b :: l) errs d = (0, busWrite d a (b :: l)) := by
    rw [physWrite, Nat.add_zero, ← hlen, hp]
  simp only [performLine, fillLine_of_bus hp, hw, maskRuns_whole, hphys]
  rfl

/-! A read of a bus address. -/

/-- The read `f` of a bus address goes on from an outstanding one (R381). -/
def OutRead.GoesOn (r : OutRead) (f : Fill) (a : Nat) : Prop :=
  r.rq = f.rq ∧ r.bus + r.len = a ∧ r.len + f.len ≤ 512 ∧ r.inv = false

theorem busRequest_of_joining {a : Nat} {r : OutRead} {l : List OutRead} (ho : d.host.outReads = l ++ [r]) (hj : r.GoesOn f a) :
    busRequest c a f d = { d with host := { d.host with outReads := l ++ [{ r with len := r.len + f.len }] } } := by
  simp only [busRequest, ho, List.getLast?_concat, List.dropLast_concat]
  exact if_pos hj

theorem busRequest_of_room {a : Nat} (hj : ∀ r ∈ d.host.outReads.getLast?, ¬r.GoesOn f a) (hr : d.host.outReads.length < 256) :
    busRequest c a f d = { d with host := { d.host with outReads := d.host.outReads ++ [⟨f.rq, a, f.len, false⟩] } } := by
  cases ho : d.host.outReads.getLast? with
  | none =>
    simp only [busRequest, List.getLast?_eq_none_iff.1 ho]
    rfl
  | some r =>
    simp only [busRequest, ho]
    exact (if_neg (hj r ho)).trans (if_neg (Nat.not_le.2 hr))

theorem busRequest_of_full {a : Nat} (hj : ∀ r ∈ d.host.outReads.getLast?, ¬r.GoesOn f a) (hr : 256 ≤ d.host.outReads.length) :
    busRequest c a f d = waitIn (homeOf c d f) 4 f d := by
  cases ho : d.host.outReads.getLast? with
  | none =>
    rw [List.getLast?_eq_none_iff.1 ho] at hr
    exact absurd hr (by decide)
  | some r =>
    simp only [busRequest, ho]
    exact (if_neg (hj r ho)).trans (if_pos hr)

/-! A request that reaches its slice. -/

include hl

theorem storeRequest_of_busWrite {a : Nat} (hp : place c d f.rq f.pa f.len = .bus a) (hw : f.wdata.isSome = true) :
    storeRequest c f onchip d = performLine c f [] d := by
  obtain ⟨w, hw⟩ := Option.isSome_iff_exists.1 hw
  rw [storeRequest, if_neg (Nat.not_lt.2 hl), hp]
  simp only [hw]

theorem storeRequest_of_busRead {a : Nat} (hp : place c d f.rq f.pa f.len = .bus a) (hw : f.wdata = none) :
    storeRequest c f onchip d = busRequest c a f d := by
  rw [storeRequest, if_neg (Nat.not_lt.2 hl), hp]
  simp only [hw]

theorem storeRequest_of_regs {r : Nat} (hp : place c d f.rq f.pa f.len = .regs r) : storeRequest c f onchip d = performLine c f [] d := by
  rw [storeRequest, if_neg (Nat.not_lt.2 hl), hp]

theorem storeRequest_of_scratch_waiting {h w o : Nat} (hp : place c d f.rq f.pa f.len = .scratch h w o)
    (hh : sliceHeld d h = true ∨ bit (sliceOf d h).zeroing w = true) :
    storeRequest c f onchip d = waitIn h (if sliceHeld d h then 3 else 2) f d := by
  rw [storeRequest, if_neg (Nat.not_lt.2 hl), hp]
  cases hs : sliceHeld d h with
  | true => simp only [hs, if_true]
  | false =>
    have hz : bit (sliceOf d h).zeroing w = true := hh.resolve_left (by simp [hs])
    simp [hs, hz]

theorem storeRequest_of_scratch_atRest {h w o : Nat} (hp : place c d f.rq f.pa f.len = .scratch h w o) (hh : sliceHeld d h = false)
    (hz : bit (sliceOf d h).zeroing w = false) :
    storeRequest c f onchip d = performLine c f [] (plantUpset h (some (scratchLoc w o)) onchip d) := by
  rw [storeRequest, if_neg (Nat.not_lt.2 hl), hp]
  simp [hh, hz]

theorem storeRequest_of_dram_held {h o : Nat} (hp : place c d f.rq f.pa f.len = .dram h o) (hh : sliceHeld d h = true) :
    storeRequest c f onchip d = waitIn h 3 f d := by
  rw [storeRequest, if_neg (Nat.not_lt.2 hl), hp]
  exact if_pos hh

theorem storeRequest_of_bad_own {st sl : Nat} (hp : place c d f.rq f.pa f.len = .bad st sl) (hx : f.rq.ctx = none) :
    storeRequest c f onchip d = countDropped f.rq st sl (answer (List.replicate f.len (0, false)) false d) := by
  rw [storeRequest, if_neg (Nat.not_lt.2 hl), hp]
  simp only [hx]

theorem storeRequest_of_bad_context {st sl x : Nat} (hp : place c d f.rq f.pa f.len = .bad st sl) (hx : f.rq.ctx = some x) :
    storeRequest c f onchip d = loseContext c x st [] (answer [] false d) := by
  rw [storeRequest, if_neg (Nat.not_lt.2 hl), hp]
  simp only [hx]

variable {h o : Nat} (hp : place c d f.rq f.pa f.len = .dram h o) (hh : sliceHeld d h = false)
include hp hh

theorem storeRequest_of_dram_behind (hw : waitersOf c d h (o / 128) ≠ []) : storeRequest c f onchip d = waitIn h 5 f d := by
  rw [storeRequest, if_neg (Nat.not_lt.2 hl), hp]
  simp [hh, hw]

theorem storeRequest_of_dram_atHand (hw : waitersOf c d h (o / 128) = []) (hn : stageOf c d f = none) :
    storeRequest c f onchip d = performLine c f [] (plantUpset h (chipLoc d h (o / 128) (o % 128) f) onchip d) := by
  rw [storeRequest, if_neg (Nat.not_lt.2 hl), hp]
  simp [hh, hw, hn]

theorem storeRequest_of_dram_absent {n : Nat} (hw : waitersOf c d h (o / 128) = []) (hn : stageOf c d f = some n) :
    storeRequest c f onchip d = waitIn h (if 64 ≤ lineBuffers c d h then 4 else n) f d := by
  rw [storeRequest, if_neg (Nat.not_lt.2 hl), hp]
  simp [hh, hw, hn]

end

/-! ### Requests that waited, and prefetches (R104, R105, R108, R110) -/

section
variable {c : Cfg} {q : Nat} {d : Dev} (hh : sliceHeld d q = false) (hm : memServes d q = true)
include hh hm

theorem slice_serves : ¬(sliceHeld d q = true ∨ memServes d q = false) := by simp [hh, hm]

/-- A victim's write is accepted: the oldest request behind one goes on, to wait for its fill where it lacks sectors. -/
theorem evictionAccepted_of_victim {f : Fill} {l o h : Nat} {e : Dev} (hf : (sliceOf d q).waiting.find? (fun f => f.stage == 0) = some f)
    (hl : fillLine c d f = some (h, l, o)) (he : (allocate c q l f.rq d).2 = e) :
    evictionAccepted c q d =
      if (stageOf c e f).isSome then setSlice e q (fun m => { m with waiting := m.waiting.map (fun g => if g = f then { g with stage := 1 } else g) })
      else retryWaiting c q (performLine c f [] (setSlice e q (fun m => { m with waiting := m.waiting.erase f }))) := by
  rw [evictionAccepted, if_neg (slice_serves hh hm), hf]
  simp only [hl, he]
  cases stageOf c e f <;> rfl

theorem dramFillComplete_of_waiting {f : Fill} (hf : (sliceOf d q).waiting.find? (fun f => f.stage == 1) = some f) (errs : List SectorErr) :
    dramFillComplete c q errs d =
      retryWaiting c q (performLine c f errs (setSlice d q (fun m => { m with waiting := m.waiting.erase f }))) := by
  rw [dramFillComplete, if_neg (slice_serves hh hm), hf]

end

/-- A line that the slice holds nowhere is fetched to the side buffer while supply is not short. -/
theorem prefetchRequest_of_absent {c : Cfg} {ctx cls q i pa h o : Nat} {errs : List SectorErr} {d e : Dev} {x : Line} (hs : d.pwr.stage = 0)
    (hp : place c d (rqNamed c ctx cls q i) pa 1 = .dram h o) (hm : (sliceOf d h).memLost = false) (hf : findWay d h (o / 128) = none)
    (hst : (stagedAt d h (o / 128)).isSome = false) (hside : (sliceOf d h).side.any (fun e => e.l == o / 128) = false)
    (hw : waitersOf c d h (o / 128) = []) (hx : fetchSectors h 0xF errs (freshLine (o / 128)) d = (x, e)) :
    prefetchRequest c ctx cls q i pa errs d =
      obsCount 0x34 h 0xF none 1 (setSlice (chipWrite h 1 (bufferLoc 17 (o / 128)) 128 e) h (fun m => { m with
        side := (⟨o / 128, (rqNamed c ctx cls q i).ctx, x.poison, x.data⟩ :: m.side).take 256 })) := by
  simp only [prefetchRequest, prefetchLine, hp]
  simp [hs, hm, hf, hst, hside, hw, hx]

/-- Settles O4: a request by the place of its address, and the three rows of the slice. -/
theorem storeRequestRows : Obligations.StoreRequestRows := by
  refine ⟨fun s ctx cls q i pa len wdata noalloc onchip rq f hs hw hrq hf h0 hl => ?_, fun s q f l o h hq hs hh hm hf hl => ⟨_, rfl, ?_⟩,
    fun s q errs f hq hw hs hh hm hf => ?_, fun s ctx cls q i pa errs h o hw hs hst hp hm hf hsg hside hwt => ?_⟩
  · have hx : ∀ e, storeRequest s.cfg f onchip s.dev = e →
        exec (.storeRequest ctx cls q i pa len wdata noalloc onchip) s = .next (s.ended e) :=
      fun e he => (exec_storeRequest hs hw hrq hf h0).trans (by rw [he])
    have hlen : ∀ w, wdata = some w → f.len = w.length := fun w hd => by rw [hf, hd]; rfl
    obtain ⟨rfl, rfl, rfl⟩ : rq = f.rq ∧ pa = f.pa ∧ wdata = f.wdata := by
      rw [hf]
      exact ⟨rfl, rfl, rfl⟩
    clear hf hrq hw
    refine ⟨fun a w hp hd => ?_, fun a hp hd => hx _ (storeRequest_of_busWrite hl hp hd), fun r hp => hx _ (storeRequest_of_regs hl hp),
      fun a hp hd hj hr => hx _ ((storeRequest_of_busRead hl hp hd).trans (busRequest_of_room hj hr)),
      fun a r l hp hd ho h1 h2 h3 h4 => hx _ ((storeRequest_of_busRead hl hp hd).trans (busRequest_of_joining ho ⟨h1, h2, h3, h4⟩)),
      fun a hp hd hj hr => hx _ ((storeRequest_of_busRead hl hp hd).trans (busRequest_of_full hj hr)),
      fun h w o hp hh => hx _ (storeRequest_of_scratch_waiting hl hp hh), fun h o hp hh => hx _ (storeRequest_of_dram_held hl hp hh),
      fun h w o hp hh hz => hx _ (storeRequest_of_scratch_atRest hl hp hh hz), fun h o hp hh => hx _ ?_,
      fun st sl hp hn => hx _ (storeRequest_of_bad_own hl hp hn), fun st sl x hp hn => hx _ (storeRequest_of_bad_context hl hp hn)⟩
    · have hwl : f.len = w.length := by rw [hlen _ hd, List.length_map]
      exact hx _ ((storeRequest_of_busWrite hl hp (by rw [hd]; rfl)).trans (performLine_of_busWrite (hwl ▸ h0) hwl hd hp))
    · by_cases hwt : waitersOf s.cfg s.dev h (o / 128) = []
      · rw [if_neg (not_not_intro hwt)]
        cases hn : stageOf s.cfg s.dev f with
        | none => exact storeRequest_of_dram_atHand hl hp hh hwt hn
        | some n => exact storeRequest_of_dram_absent hl hp hh hwt hn
      · rw [if_pos hwt]
        exact storeRequest_of_dram_behind hl hp hh hwt
  · exact (exec_inRun (f := fun c => evictionAccepted c q) (decide_eq_true hq) hs).trans (by rw [evictionAccepted_of_victim hh hm hf hl rfl])
  · exact (exec_inRun (f := fun c => dramFillComplete c q errs) hw hs).trans (by rw [dramFillComplete_of_waiting hh hm hf])
  · obtain ⟨x, e, hx⟩ : ∃ x e, fetchSectors h 0xF errs (freshLine (o / 128)) s.dev = (x, e) := ⟨_, _, rfl⟩
    refine ⟨x, e, hx, ?_⟩
    exact (exec_inRun (f := fun c => prefetchRequest c ctx cls q i pa errs) hw hs).trans
      (by rw [prefetchRequest_of_absent hst hp hm hf hsg hside hwt hx])

/-! ### Units that move data (R344, R363, R406, R410, R416) -/

/-- The rows of the Mules differ in their operation alone. -/
theorem spanRow_of_muleRun {row : Nat → Nat → Instr} {op : Nat} {m : Cfg → MuleOp} (hop : 1 ≤ op ∧ op ≤ 5)
    (hrow : ∀ q i s, exec (row q i) s = onDev (decide (q < 4) && decide (i < 4)) (fun c => inRun (muleRun c op q i (m c))) s) : SpanRow row op m := by
  intro s q i r x b d hq hi hu hf ho hp
  have hw : (decide (q < 4) && decide (i < 4)) = true := by simp only [hq, hi, decide_true, Bool.and_self]
  have hx := (hrow q i s).trans (exec_inRun (f := fun c => muleRun c op q i (m c)) hw hu.running)
  rw [muleRun_of hu hf ho hop hp] at hx
  exact ⟨fun hk => by rw [hx, if_pos hk], fun hk => by rw [hx, if_neg (by simp [hk])]⟩

theorem spanComplete_of_formed {q i : Nat} {d : Dev} {r : Run} {x : Cmd} (hr : runOf d 3 q i = some (r, x)) (hf : r.formed = true) :
    spanComplete q i d = unitEnd 3 q i 0 r.poison d := by
  simp only [spanComplete, hr, if_pos hf]

/-- A row of a spine unit that runs a whole command at once, its registers first showing what `take` says. -/
theorem wholeRow_of_payloadUnit {row : Nat → Instr} {cls units len : Nat} {take : Cfg → Nat → Dev → Dev} {ok mine : Cmd → List Byte → Bool}
    {work : Cfg → Nat → Run → Cmd → Rq → List Byte → Eng Unit}
    (hrow : ∀ i s, exec (row i) s = onDev (decide (i < units)) (fun c => inRun (fun d => payloadUnit c cls 0 i len ok mine (work c i) (take c i d))) s)
    (htake : ∀ {s i r x}, UnitRuns s cls 0 i r x → UnitRuns { s with dev := take s.cfg i s.dev } cls 0 i r x) :
    WholeRow (fun _ => row) cls 1 units len take ok mine work := by
  intro s q i r x b d hq hi hu hp
  obtain rfl : q = 0 := Nat.lt_one_iff.1 hq
  have hx := (hrow i s).trans (exec_inRun (f := fun c d => payloadUnit c cls 0 i len ok mine (work c i) (take c i d)) (decide_eq_true hi) hu.running)
  rw [payloadUnit_taken (htake hu) hp] at hx
  exact ⟨fun hk => by rw [hx, if_pos hk], fun hk hm => by rw [hx, if_neg (by simp [hk]), if_neg (by simp [hm])]⟩

/-- Settles O24: five rows of one shape, the end of a span, and the rows of the PACK and check-value units, which take their command first. -/
theorem dataMoverRows : Obligations.DataMoverRows := by
  refine ⟨spanRow_of_muleRun (by decide) fun q i s => rfl, spanRow_of_muleRun (by decide) fun q i s => rfl,
    spanRow_of_muleRun (by decide) fun q i s => rfl, spanRow_of_muleRun (by decide) fun q i s => rfl,
    spanRow_of_muleRun (by decide) fun q i s => rfl, fun s q i r x hq hi hs hr hf => ?_, fun row op hrow => ?_,
    wholeRow_of_payloadUnit (fun i s => rfl) cvuTaken_runs⟩
  · have hw : (Instr.muleSpanComplete q i).wf = true := by simp only [Instr.wf, hq, hi, decide_true, Bool.and_self]
    exact (exec_inRun (f := fun _ => spanComplete q i) hw hs).trans (by rw [spanComplete_of_formed hr hf])
  · obtain ⟨rfl, rfl⟩ | ⟨rfl, rfl⟩ := hrow.imp Prod.mk.inj Prod.mk.inj
    · exact wholeRow_of_payloadUnit (fun i s => rfl) packTaken_runs
    · exact wholeRow_of_payloadUnit (fun i s => rfl) packTaken_runs

end Sys2Proof.Machine

/-! PROOFS. The statements of the matrix and inference engines (06): the matrix engines' units, and the rows of the SNE and TOK. -/

namespace Sys2Proof.Machine

/-! ### A unit of a matrix engine (R165, R171) -/

/-- What a matrix engine does with a legal descriptor `m` (its bytes `b`) for unit `n` of the command: the command is divided, an expert index out of
range is noted (R174), and the tile of the unit is formed, where the command has that unit. -/
def meBody (c : Cfg) (x : Cmd) (q i n : Nat) (b : List Byte) (m : MeDesc) : Eng (Option MeTile) := do
  let aux ← loadAux c (rqUnit c x 1 q i) m
  liftDev (setUnits x (meUnits m (pdata aux)).length)
  if m.op == 3 && (pdata aux).any (fun e => decide (m.batch ≤ e.toNat) && e.toNat != 0xFF) then
    liftDev (fun d => setCmd d x.serial (fun x => { x with status := 0x11 }))
  match (meUnits m (pdata aux))[n]? with
  | none => pure none
  | some u => (fun t => some t) <$> formTile c (rqUnit c x 1 q i) b m aux u (meTile (← get) q i)

/-- What becomes of the tile that was formed; without one the unit had no work. -/
def meHold (q i : Nat) (t : Option MeTile) (e : Dev) : Dev :=
  t.elim (unitEnd 1 q i 0 false e) (fun t => markFormed 1 q i (setTile q i t e))

/-- The formed tile with the mark that reading the engine's buffer adds (R159, R421). -/
def meTainted (a : Dev) (q i : Nat) : MeTile :=
  { meTile a q i with poison := (meTile a q i).poison || ((instOf a (instIdx 1 q i)).run.map (fun r => r.taint)).getD false }

/-- The output of the formed tile `t` of unit `n`: whether a written element is marked, and the K blocks that count. -/
def meOutput (c : Cfg) (x : Cmd) (q i n : Nat) (t : MeTile) : Eng (Bool × Nat) := do
  let m := parseMe t.desc
  let aux ← loadAux c (rqUnit c x 1 q i) m
  match (meUnits m (pdata aux))[n]? with
  | none => pure (false, 0)
  | some u =>
    let p ← writeTile c (rqUnit c x 1 q i) q i m (pdata aux) u t
    pure (p, Nat.min m.kb (u.s * m.kc + m.kc) - u.s * m.kc)

/-- The end of a unit whose tile is written: one unit and its K blocks are counted. -/
def meCounted (x : Cmd) (q i : Nat) (o : Bool × Nat) (e : Dev) : Dev :=
  unitEnd 1 q i 0 o.1 (obsCount 0x14 q i (some x.ctx) o.2 (obsCount 0x13 q i (some x.ctx) 1 e))

/-- A unit not yet formed, with its descriptor read: what a row of operation `op` does. -/
theorem meForm_of {s : State} {op q i : Nat} {r : Run} {x : Cmd} {b : List Byte} {d : Dev} (h : UnitRuns s 1 q i r x) (hf : r.formed = false)
    (hp : runEng (ePayload s.cfg (rqUnit s.cfg x 1 q i) x.entry.payload 128) s.dev = (.ok b, d)) :
    meForm s.cfg op q i s.dev =
      if meOk (parseMe b) = false then unitEnd 1 q i 0x10 false d else if (parseMe b).op ≠ op then s.dev else
        workEnd 1 q i (meHold q i) (runEng (meBody s.cfg x q i r.unitNo b (parseMe b)) d) := by
  unfold meForm
  simp only [h.run, hf, h.going, h.able.1, h.able.2.1, h.able.2.2, Option.isSome_none, Bool.not_true, Bool.or_self, Bool.false_eq_true, if_false]
  rw [runEng_bind, hp]
  simp only
  cases meOk (parseMe b) with
  | false => rfl
  | true =>
    simp only [runEng_pure, if_true, Bool.true_eq_false, if_false]
    by_cases ho : (parseMe b).op ≠ op
    · rw [if_pos ho, if_pos ho]
    · rw [if_neg ho, if_neg ho]
      split <;> next hw => exact (congrArg (workEnd 1 q i (meHold q i)) hw).symm

/-- A formed unit: its tile is written, however that ends. -/
theorem meComplete_of {s : State} {q i : Nat} {r : Run} {x : Cmd} (h : UnitRuns s 1 q i r x) (hf : r.formed = true) :
    meComplete s.cfg q i s.dev = workEnd 1 q i (meCounted x q i)
      (runEng (meOutput s.cfg x q i r.unitNo (meTainted (readBuffer 1 q i s.dev) q i)) (readBuffer 1 q i s.dev)) := by
  unfold meComplete
  simp only [h.run, hf, h.going, h.able.1, h.able.2.1, h.able.2.2, Option.isSome_none, Bool.not_true, Bool.or_self, Bool.false_eq_true, if_false]
  split <;> next hw => exact (congrArg (workEnd 1 q i (meCounted x q i)) hw).symm

/-- The five forms differ in their operation alone. -/
theorem exec_of_meForm {row : Nat → Nat → Instr} {op : Nat}
    (hrow : ∀ q i s, exec (row q i) s = onDev (decide (q < 4) && decide (i < 8)) (fun c => inRun (meForm c op q i)) s)
    {s : State} {q i : Nat} {r : Run} {x : Cmd} {b : List Byte} {d : Dev} (hq : q < 4) (hi : i < 8) (h : UnitRuns s 1 q i r x) (hf : r.formed = false)
    (hp : runEng (ePayload s.cfg (rqUnit s.cfg x 1 q i) x.entry.payload 128) s.dev = (.ok b, d)) :
    (meOk (parseMe b) = false → exec (row q i) s = .next (s.ended (unitEnd 1 q i 0x10 false d))) ∧
    (meOk (parseMe b) = true → (parseMe b).op = op → exec (row q i) s = .next (s.ended
      (workEnd 1 q i (meHold q i) (runEng (meBody s.cfg x q i r.unitNo b (parseMe b)) d)))) := by
  have hw : (decide (q < 4) && decide (i < 8)) = true := by simp only [hq, hi, decide_true, Bool.and_self]
  have hx := (hrow q i s).trans (exec_inRun (f := fun c => meForm c op q i) hw h.running)
  rw [meForm_of h hf hp] at hx
  exact ⟨fun hk => by rw [hx, if_pos hk], fun hk ho => by rw [hx, if_neg (by simp [hk]), if_neg (by simp [ho])]⟩

/-- Settles O22: the five forms are one shape, `meBody` then `meHold`, and the completion is `meOutput` then `meCounted`. -/
theorem matrixEngineRows : Obligations.MatrixEngineRows := by
  refine ⟨fun s q i r x b d row op hq hi hrow hu hf hp => ?_, fun s q i r x p k d hq hi hu hf => ?_⟩
  · have hx : ∀ q i s, exec (row q i) s = onDev (decide (q < 4) && decide (i < 8)) (fun c => inRun (meForm c op q i)) s := by
      simp only [Prod.mk.injEq] at hrow
      obtain ⟨rfl, rfl⟩ | ⟨rfl, rfl⟩ | ⟨rfl, rfl⟩ | ⟨rfl, rfl⟩ | ⟨rfl, rfl⟩ := hrow <;> exact fun _ _ _ => rfl
    exact exec_of_meForm hx hq hi hu hf hp
  · intro a t m hw
    have ho : runEng (meOutput s.cfg x q i r.unitNo (meTainted a q i)) a = (.ok (p, k), d) := hw
    have hwf : (Instr.meUnitComplete q i).wf = true := by simp only [Instr.wf, hq, hi, decide_true, Bool.and_self]
    refine (exec_inRun (f := fun c => meComplete c q i) hwf hu.running).trans ?_
    rw [meComplete_of hu hf, ho]
    rfl

/-! ### Units that run a whole command (R184, R192) -/

/-- A row that runs a whole command of one unit: illegal, it ends INVALID_COMMAND; legal and of the row's kind, it does the work. -/
theorem exec_of_payloadUnit {ins : Instr} {w : Bool} {cls q i len : Nat} {ok mine : Cmd → List Byte → Bool}
    {work : Cfg → Run → Cmd → Rq → List Byte → Eng Unit} {s : State} {r : Run} {x : Cmd} {b : List Byte} {d : Dev}
    (hrow : exec ins s = onDev w (fun c => inRun (payloadUnit c cls q i len ok mine (work c))) s) (hw : w = true) (h : UnitRuns s cls q i r x)
    (hp : runEng (ePayload s.cfg (rqUnit s.cfg x cls q i) x.entry.payload len) s.dev = (.ok b, d)) :
    (ok x b = false → exec ins s = .next (s.ended (unitEnd cls q i 0x10 false d))) ∧
    (ok x b = true → mine x b = true → exec ins s = .next (s.ended (workEnd cls q i
      (fun _ e => unitEnd cls q i 0 (runAt e (instIdx cls q i)).poison e)
      (runEng (do resume s.cfg (rqUnit s.cfg x cls q i) (instIdx cls q i); work s.cfg r x (rqUnit s.cfg x cls q i) b) (readBuffer cls q i d))))) := by
  have hx := hrow.trans (exec_inRun (f := fun c => payloadUnit c cls q i len ok mine (work c)) hw h.running)
  rw [payloadUnit_of h hp] at hx
  exact ⟨fun hk => by rw [hx, if_pos hk], fun hk hm => by rw [hx, if_neg (by simp [hk]), if_neg (by simp [hm])]⟩

/-- What the SNE of quarter `q` does with a legal descriptor: its rows in order (R184). -/
def sneWork (q : Nat) (c : Cfg) (_ : Run) (x : Cmd) (rq : Rq) (b : List Byte) : Eng Unit := do
  liftDev (setUnits x 1)
  fromProg (instIdx 2 q 0) (parseSne b).rows (sneStep c rq (instIdx 2 q 0) (parseSne b))

/-- The eight rows differ in their operation alone. -/
theorem exec_of_sneRun {row : Nat → Instr} {op : Nat} (hrow : ∀ q s, exec (row q) s = onDev (decide (q < 4)) (fun c => inRun (sneRun c op q)) s)
    {s : State} {q : Nat} {r : Run} {x : Cmd} {b : List Byte} {d : Dev} (hq : q < 4) (h : UnitRuns s 2 q 0 r x)
    (hp : runEng (ePayload s.cfg (rqUnit s.cfg x 2 q 0) x.entry.payload 128) s.dev = (.ok b, d)) :
    (sneOk (parseSne b) = false → exec (row q) s = .next (s.ended (unitEnd 2 q 0 0x10 false d))) ∧
    (sneOk (parseSne b) = true → (parseSne b).op = op → exec (row q) s = .next (s.ended (workEnd 2 q 0
      (fun _ e => unitEnd 2 q 0 0 (runAt e (instIdx 2 q 0)).poison e)
      (runEng (do resume s.cfg (rqUnit s.cfg x 2 q 0) (instIdx 2 q 0); sneWork q s.cfg r x (rqUnit s.cfg x 2 q 0) b) (readBuffer 2 q 0 d))))) :=
  have ⟨hbad, hgood⟩ := exec_of_payloadUnit (ok := fun _ b => sneOk (parseSne b)) (mine := fun _ b => (parseSne b).op == op) (work := sneWork q)
    (hrow q s) (decide_eq_true hq) h hp
  ⟨hbad, fun hk ho => hgood hk (beq_iff_eq.2 ho)⟩

/-- What TOK does with a legal payload: its items, checked together, then decided in order (R192). -/
def tokWork (c : Cfg) (_ : Run) (x : Cmd) (rq : Rq) (b : List Byte) : Eng Unit := do
  let n := getLe b 0 4
  let items ← eBytes c rq (x.entry.payload + 128) (128 * n)
  let ts := (List.range n).map (fun i => parseItem (slice items.1 (128 * i) 128))
  if items.2 || !ts.all itemOk then throw .invalid
  liftDev (setUnits x 1)
  fromProg (instIdx 5 0 0) n (fun i => do
    let t := ts.getD i default
    let r ← tokItem c rq t
    commit c rq (instIdx 5 0 0) (i + 1) r.poison [.write t.result (mark r.poison r.bytes)])

/-- Settles O23: all nine rows run a whole command, the eight of the SNE by `sneWork` and TOK's by `tokWork`. -/
theorem softmaxAndTokenRows : Obligations.SoftmaxAndTokenRows := by
  refine ⟨fun row op hrow s q r x b d hq hu hp => ?_, fun s r x b d hu hp => ?_⟩
  · have hx : ∀ q s, exec (row q) s = onDev (decide (q < 4)) (fun c => inRun (sneRun c op q)) s := by
      simp only [Prod.mk.injEq] at hrow
      obtain ⟨rfl, rfl⟩ | ⟨rfl, rfl⟩ | ⟨rfl, rfl⟩ | ⟨rfl, rfl⟩ | ⟨rfl, rfl⟩ | ⟨rfl, rfl⟩ | ⟨rfl, rfl⟩ | ⟨rfl, rfl⟩ := hrow <;> exact fun _ _ => rfl
    exact exec_of_sneRun hx hq hu hp
  · intro rq n
    obtain ⟨hbad, hgood⟩ := exec_of_payloadUnit (ins := .tokCommand) (ok := fun _ b => inRange (getLe b 0 4) 1 512) (mine := fun _ _ => true)
      (work := tokWork) rfl rfl hu hp
    have hn : inRange n 1 512 = true ↔ 1 ≤ n ∧ n ≤ 512 := by simp only [inRange, Bool.and_eq_true, decide_eq_true_eq]
    exact ⟨fun h => hbad (Bool.eq_false_iff.2 (mt hn.1 h)), fun h1 h2 => hgood (hn.2 ⟨h1, h2⟩) rfl⟩

end Sys2Proof.Machine

/-! PROOFS. The statements of model execution (07): the step sequencer's attach and detach, and the steps it builds, commits and drops. -/

namespace Sys2Proof.Machine

/-! ### How a management command ends (R357, R396) -/

section
variable {s : State} {op : Nat} {x : Cmd} {b : List Byte} {d e : Dev} {f : Cmd → List Byte → Dev → MgmtRes} (h : MgmtHead s op x b d)
  (hk : mgmtKnown op = true)
include h hk

theorem mgmtRun_of_done {st : Nat} (hf : f x b d = .done st e) : mgmtRun s.cfg op f s.dev = mgmtEnd s.cfg x st e := by
  rw [mgmtRun_of f h hk, hf]

theorem mgmtRun_of_wait (hf : f x b d = .wait e) : mgmtRun s.cfg op f s.dev = mgmtBegun x e := by
  rw [mgmtRun_of f h hk, hf]

end

/-! ### Attach and detach (R203, R206) -/

/-- The sequencer that descriptor bytes `p`, read at `pa`, describe (R203). -/
def attachedSeq (pa : Nat) (p : List PByte) : SeqSt :=
  { (default : SeqSt) with attached := true, desc := pdata p, descPa := pa, poisoned := ppoison p, state := 1 }

/-- Sequences of the attached sequencers. -/
def attachedCount (d : Dev) : Nat := ((d.seq.filter (fun m => m.attached)).map (fun m => m.count)).sum

/-- Sequencer `i` becomes `m` with the pool counts of its descriptor, and its ring device-written (R203). -/
def attachTo (i : Nat) (m : SeqSt) (d : Dev) : Dev :=
  setRing (setSeq d i (fun _ => { m with pools := (List.range 8).map (fun k => getLe (m.model (k / 4)) (0x30 + 4 * (k % 4)) 4) })) m.ring
    (fun r => { r with devWriter := true })

/-- A sequencer that is no free one of the device, or a device in KQ mode: the command is invalid before any descriptor is read. -/
theorem seqAttach_of_refused {s : State} {x : Cmd} {b : List Byte} {d : Dev} (h : MgmtHead s 7 x b d)
    (hn : ¬(getLe b 0 1 < 4 ∧ s.cfg.submit.mode ≠ 0 ∧ (seqOf d (getLe b 0 1)).attached = false)) :
    seqAttach s.cfg s.dev = mgmtEnd s.cfg x 0x10 d := by
  have hc : 4 ≤ getLe b 0 1 ∨ s.cfg.submit.mode = 0 ∨ (seqOf d (getLe b 0 1)).attached = true := by
    rwa [not_and_or, not_and_or, not_lt, not_ne_iff, Bool.not_eq_false] at hn
  exact mgmtRun_of_done h rfl (if_pos hc)

/-- A free sequencer whose descriptor is read is attached if the descriptor is legal and the sequences are not too many. -/
theorem seqAttach_of_read {s : State} {x : Cmd} {b : List Byte} {d e : Dev} {p : List PByte} (h : MgmtHead s 7 x b d)
    (hi : getLe b 0 1 < 4) (hmode : s.cfg.submit.mode ≠ 0) (hfree : (seqOf d (getLe b 0 1)).attached = false)
    (hp : physRead s.cfg (rqZero 14) (getLe b 8 8 % 2 ^ 48) 256 [] d = (0, p, e)) :
    let m := attachedSeq (getLe b 8 8 % 2 ^ 48) p
    seqAttach s.cfg s.dev = if seqDescOk m = true ∧ attachedCount d + m.count ≤ 512 then mgmtEnd s.cfg x 0 (attachTo (getLe b 0 1) m e)
      else mgmtEnd s.cfg x 0x10 e := by
  intro m
  have hgo : ¬(4 ≤ getLe b 0 1 ∨ s.cfg.submit.mode = 0 ∨ (seqOf d (getLe b 0 1)).attached = true) := by simp [hi, hmode, hfree]
  by_cases hok : seqDescOk m = true ∧ attachedCount d + m.count ≤ 512
  · have hlegal : ¬((0 : Nat) ≠ 0 ∨ seqDescOk m = false ∨ 512 < attachedCount d + m.count) := by simp [hok]
    rw [if_pos hok]
    exact mgmtRun_of_done h rfl ((if_neg hgo).trans (by rw [hp]; exact if_neg hlegal))
  · have hbad : (0 : Nat) ≠ 0 ∨ seqDescOk m = false ∨ 512 < attachedCount d + m.count := by
      rw [not_and_or, Bool.not_eq_true, not_le] at hok
      exact .inr hok
    rw [if_neg hok]
    exact mgmtRun_of_done h rfl ((if_neg hgo).trans (by rw [hp]; exact if_pos hbad))

/-- What SEQ_DETACH leaves of sequencer `i`: its pool counts in the descriptor, and its ring device-written only for another's sake (R206). -/
def detached (c : Cfg) (i : Nat) (d : Dev) : Dev :=
  let e := setSeq (setInst (writeCounts c (seqOf d i) d) (instIdx 14 0 i) (fun n => { n with log := [] })) i (fun _ => default)
  setRing e (seqOf d i).ring (fun r => { r with
    devWriter := e.seq.any (fun o => o.attached && o.ring == (seqOf d i).ring)
    foreign := [] })

/-- Only a step in flight of a RUNNING sequencer holds up its detach. -/
theorem seqDetach_of {s : State} {x : Cmd} {b : List Byte} {d : Dev} (h : MgmtHead s 8 x b d) :
    let i := getLe b 0 1
    let m := seqOf d i
    seqDetach s.cfg s.dev =
      if 4 ≤ i then mgmtEnd s.cfg x 0x10 d
      else if m.attached = false then mgmtEnd s.cfg x 0 d
      else if m.state = 1 ∧ (m.phase = 1 ∨ m.quiet = false ∨ m.failed = true) then mgmtBegun x (setSeq d i (fun m => { m with detaching := true }))
      else mgmtEnd s.cfg x 0 (detached s.cfg i d) := by
  intro i m
  split_ifs with hi ha hw
  · exact mgmtRun_of_done h rfl (if_pos hi)
  · exact mgmtRun_of_done h rfl ((if_neg hi).trans (if_pos ha))
  · exact mgmtRun_of_wait h rfl ((if_neg hi).trans ((if_neg ha).trans (if_pos hw)))
  · exact mgmtRun_of_done h rfl ((if_neg hi).trans ((if_neg ha).trans (if_neg hw)))

/-! ### Build, commit and drop of a step (R207, R210, R222, R223, R225) -/

section
variable {c : Cfg} {i : Nat} {d : Dev} (hr : seqRuns c i d = true) (hq : (seqOf d i).quiet = true) (hf : (seqOf d i).failed = false)
include hr hq hf

/-- With its last step ended, a sequencer builds the next one if its drafts are in. -/
theorem seqBuild_of_quiet (hd : (seqOf d i).detaching = false) : seqBuild c i d =
    let e := if (seqOf d i).phase = 2 then seqWork c i (collectDrafts c i) d else d
    if (seqOf e i).phase = 0 ∧ (seqOf e i).quiet = true ∧ seqRuns c i e = true then seqWork c i (buildStep c i) e else e := by
  have hgo : ¬(seqRuns c i d = false ∨ (seqOf d i).detaching = true ∨ (seqOf d i).quiet = false ∨ (seqOf d i).failed = true) := by
    simp [hr, hd, hq, hf]
  exact if_neg hgo

theorem seqBuild_of_idle (hd : (seqOf d i).detaching = false) (hp : (seqOf d i).phase = 0) :
    seqBuild c i d = seqWork c i (buildStep c i) d := by
  have h2 : (seqOf d i).phase ≠ 2 := by omega
  rw [seqBuild_of_quiet hr hq hf hd, if_neg h2]
  exact if_pos ⟨hp, hq, hr⟩

theorem seqBuild_of_drafting (hd : (seqOf d i).detaching = false) (hp : (seqOf d i).phase = 2) : seqBuild c i d =
    let e := seqWork c i (collectDrafts c i) d
    if (seqOf e i).phase = 0 ∧ (seqOf e i).quiet = true ∧ seqRuns c i e = true then seqWork c i (buildStep c i) e else e := by
  rw [seqBuild_of_quiet hr hq hf hd, if_pos hp]

/-- What SEQ_COMMIT of a quiet sequencer does is for its phase to say. -/
theorem seqCommit_of_quiet : seqCommit c i d =
    if (seqOf d i).phase = 1 then
      let e := seqWork c i (commitStep c i) d
      if (seqOf e i).step = (seqOf d i).step then e
      else stepPacket c i false ((seqOf d i).step + 1) (signal (seqOf d i).fence ((seqOf d i).step + 1) false e)
    else if (seqOf d i).phase = 2 then seqWork c i (collectDrafts c i) d
    else d := by
  have hgo : ¬(seqRuns c i d = false ∨ (seqOf d i).quiet = false ∨ (seqOf d i).failed = true) := by simp [hr, hq, hf]
  exact if_neg hgo

theorem seqCommit_of_drafting (hp : (seqOf d i).phase = 2) : seqCommit c i d = seqWork c i (collectDrafts c i) d := by
  have h1 : (seqOf d i).phase ≠ 1 := by omega
  rw [seqCommit_of_quiet hr hq hf, if_neg h1, if_pos hp]

theorem seqCommit_of_verified (hp : (seqOf d i).phase = 1) : seqCommit c i d =
    let e := seqWork c i (commitStep c i) d
    if (seqOf e i).step = (seqOf d i).step then e
    else stepPacket c i false ((seqOf d i).step + 1) (signal (seqOf d i).fence ((seqOf d i).step + 1) false e) := by
  rw [seqCommit_of_quiet hr hq hf, if_pos hp]

end

/-- The work of a drop: nothing of the step is left, and the status block says so; the second drop in a row halts the sequencer (R207, R223, R225). -/
def dropStep (c : Cfg) (i drops : Nat) (m : SeqSt) : Eng SeqSt := do
  let n := { m with
    todo := [], phase := 0, parts := [], failed := false, failedOther := false, step := m.step + 1, dropped := m.dropped + 1
    drops := drops, cycleStep := 0, draftSeqs := [], draftQueue := [], draftNow := [], state := if 2 ≤ drops then 2 else 1 }
  eWrite c (rqSeq c i m) (m.addr 0x50) (mark false (statusBytes n))
  pure n

theorem seqDrop_of_ended {c : Cfg} {i : Nat} {d : Dev} (hr : seqRuns c i d = true) (hf : (seqOf d i).failed = true) (hp : (seqOf d i).pend = []) :
    seqDrop c i d =
      let drops := if (seqOf d i).failedOther then (seqOf d i).drops + 1 else 0
      let w := seqWork c i (dropStep c i drops) d
      let e := if (seqOf w i).step = (seqOf d i).step then w else stepPacket c i true ((seqOf d i).step + 1) w
      if 2 ≤ drops ∧ (seqOf e i).state = 2 then raise (112 + i) e else e := by
  have hgo : ¬(seqRuns c i d = false ∨ (seqOf d i).failed = false ∨ (seqOf d i).pend ≠ []) := by simp [hr, hf, hp]
  simp only [seqDrop, if_neg hgo, decide_eq_true_eq]
  rfl

/-! ### The step sequencer together -/

/-- Settles O25, row by row. -/
theorem stepSequencerRows : Obligations.StepSequencerRows := by
  refine ⟨fun s x b d h => ⟨fun hn => ?_, fun p e hi hm hf hp => ?_⟩, fun s x b d h => ?_, fun s i hi hs hr => ?_⟩
  · exact (exec_inRun (f := seqAttach) rfl h.running).trans (by rw [seqAttach_of_refused h hn])
  · exact (exec_inRun (f := seqAttach) rfl h.running).trans (by rw [seqAttach_of_read h hi hm hf hp]; rfl)
  · exact (exec_inRun (f := seqDetach) rfl h.running).trans (by rw [seqDetach_of h]; rfl)
  have hbuild : exec (.seqStepBuild i) s = .next (s.ended (seqBuild s.cfg i s.dev)) :=
    exec_inRun (f := fun c => seqBuild c i) (decide_eq_true hi) hs
  have hcommit : exec (.seqCommit i) s = .next (s.ended (seqCommit s.cfg i s.dev)) :=
    exec_inRun (f := fun c => seqCommit c i) (decide_eq_true hi) hs
  have hdrop : exec (.seqStepDrop i) s = .next (s.ended (seqDrop s.cfg i s.dev)) :=
    exec_inRun (f := fun c => seqDrop c i) (decide_eq_true hi) hs
  refine ⟨fun hd hq hf hp => ?_, fun hd hq hf hp d he => ⟨?_, ?_⟩, fun hq hf hp d he => ?_, fun hf hp => ?_⟩
  · rw [hbuild, seqBuild_of_idle hr hq hf hd hp]
  · rw [hbuild, seqBuild_of_drafting hr hq hf hd hp, he]
  · rw [hcommit, seqCommit_of_drafting hr hq hf hp, he]
  · rw [hcommit, seqCommit_of_verified hr hq hf hp, he]
  · rw [hdrop, seqDrop_of_ended hr hf hp]
    rfl

end Sys2Proof.Machine

/-! PROOFS. The statements of the thread groups (08): lane exchange, votes and matrix instructions, control flow, barriers, fences, interlocks
and ray queries, and the dispatch and admission of compute blocks. -/

namespace Sys2Proof.Machine

/-! ### How a row issues (R243, R261) -/

section
variable {x : Instr} {s : State} {q n gi op : Nat} {t : IssueCtx} {d d' : Dev} {mine legal : Ins → Bool} {body : Cfg → IssueCtx → Dev → Issue}
  {f : Cfg → Dev → Dev}

/-- A row whose instruction issues completes with its body's effect: `issueRow_of` for a body that uses the records in force. -/
theorem exec_of_issued (he : exec x s = onDev (decide (q < 4) && decide (n < 6) && decide (gi < 48)) (fun c => inRun (f c)) s)
    (hf : ∀ c, f c = issue c q n gi mine legal (body c))
    (h : Issued s q n gi t d) (ha : opAssigned t.i.op = true) (hm : mine t.i = true) (hl : legal t.i = true) (hb : body s.cfg t d = .ok d') :
    exec x s = .next (s.issued q n t d') :=
  issueRow_of x mine legal (body s.cfg) (he.trans (by rw [onDev, hf]; rfl)) h ha hm hl hb

/-- The same for a row that stands for one opcode. -/
theorem exec_of_opcode (he : exec x s = onDev (decide (q < 4) && decide (n < 6) && decide (gi < 48)) (fun c => inRun (f c)) s)
    (hf : ∀ c, f c = issue c q n gi (fun i => i.op == op) legal (body c))
    (h : Issued s q n gi t d) (ho : t.i.op = op) (ha : opAssigned op = true) (hl : legal t.i = true) (hb : body s.cfg t d = .ok d') :
    exec x s = .next (s.issued q n t d') :=
  exec_of_issued he hf h (ho ▸ ha) (beq_iff_eq.2 ho) hl hb

/-- The same where the lanes `ls` take results in consecutive registers. -/
theorem exists_laneResult_of_opcode {k : Nat} {ls : List Nat} {res : Nat → List Nat} {mk : Nat → Bool} {F : Grp → Dev}
    (he : exec x s = onDev (decide (q < 4) && decide (n < 6) && decide (gi < 48)) (fun c => inRun (f c)) s)
    (hf : ∀ c, f c = issue c q n gi (fun i => i.op == op) legal (body c))
    (h : Issued s q n gi t d) (ho : t.i.op = op) (ha : opAssigned op = true) (hl : legal t.i = true)
    (hk : ∀ l, (res l).length = k) (hls : ∀ l ∈ ls, l < 32)
    (hb : body s.cfg t d = .ok (F (nextPc t.pc t.mask (wrLanes t.i.d res mk ls t.g)))) :
    ∃ g, LaneResult t ls k res mk g ∧ exec x s = .next (s.issued q n t (F g)) :=
  ⟨_, laneResult_of t ls k res mk hk hls, exec_of_opcode he hf h ho ha hl hb⟩

end

/-! ### Cells of several lanes (R250) -/

/-- Write a word to each of several cells: register `r + j` of lane `l` for a cell `(l, j)`. -/
def wrCells (r : Nat) (v : Nat → Nat → Nat) (m : Nat → Nat → Bool) (cs : List (Nat × Nat)) (g : Grp) : Grp :=
  cs.foldl (fun g p => wrV (r + p.2) p.1 (v p.1 p.2) (m p.1 p.2) g) g

section
variable (r : Nat) (v : Nat → Nat → Nat) (m : Nat → Nat → Bool)

theorem wrCells_cons (p : Nat × Nat) (cs : List (Nat × Nat)) (g : Grp) :
    wrCells r v m (p :: cs) g = wrCells r v m cs (wrV (r + p.2) p.1 (v p.1 p.2) (m p.1 p.2) g) := rfl

/-- Lane by lane, register by register. -/
theorem wrCells_product (ls js : List Nat) (g : Grp) :
    wrCells r v m (ls ×ˢ js) g = ls.foldl (fun g l => js.foldl (fun g j => wrV (r + j) l (v l j) (m l j) g) g) g := by
  induction ls generalizing g with
  | nil => rfl
  | cons l ls ih => rw [List.foldl_cons, ← ih, wrCells, List.product_cons, List.foldl_append, List.foldl_map]; rfl

theorem wrCells_frame (cs : List (Nat × Nat)) (g : Grp) (x : Arr RegVal) :
    { wrCells r v m cs g with vregs := x } = { g with vregs := x } := by
  induction cs generalizing g with
  | nil => rfl
  | cons p cs ih => rw [wrCells_cons, ih, wrV_frame]

/-- A vector register after a write of several cells. -/
theorem rdV_wrCells (cs : List (Nat × Nat)) (g : Grp) (hcs : ∀ p ∈ cs, p.1 < 32) (r' l' : Nat) (hl' : l' < 32) :
    rdV (wrCells r v m cs g) r' l' =
      if r ≤ r' ∧ (l', r' - r) ∈ cs ∧ r' < g.regs then (v l' (r' - r) % 2 ^ 32, m l' (r' - r)) else rdV g r' l' := by
  induction cs generalizing g with
  | nil => rw [if_neg (fun h => List.not_mem_nil h.2.1)]; rfl
  | cons p cs ih =>
    obtain ⟨l, j⟩ := p
    rw [wrCells_cons, ih _ (fun p hp => hcs p (List.mem_cons_of_mem _ hp)), wrV_regs,
      rdV_wrV _ _ _ _ _ _ _ (hcs (l, j) List.mem_cons_self) hl']
    by_cases hm : r ≤ r' ∧ (l', r' - r) ∈ cs ∧ r' < g.regs
    · rw [if_pos hm, if_pos ⟨hm.1, List.mem_cons_of_mem _ hm.2.1, hm.2.2⟩]
    · rw [if_neg hm]
      by_cases he : r + j = r' ∧ l = l' ∧ r + j < g.regs
      · obtain ⟨rfl, rfl, hr⟩ := he
        rw [if_pos ⟨rfl, rfl, hr⟩, if_pos ⟨Nat.le_add_right r j, by simp, hr⟩, Nat.add_sub_cancel_left]
      · rw [if_neg he, if_neg]
        rintro ⟨h1, h2, h3⟩
        obtain h2 | h2 := List.mem_cons.1 h2
        · obtain ⟨rfl, h2⟩ := Prod.mk.inj h2
          exact he ⟨by omega, rfl, by omega⟩
        · exact hm ⟨h1, h2, h3⟩

end

/-! ### Matrix instructions (R250 to R252, R278) -/

/-- Element `j` of the eight that a lane takes. -/
def mmaValue (t : IssueCtx) (fa fb ra rb l j : Nat) : Nat :=
  let k := 8 * (l / 16) + j
  mmaElement fa fb (fragmentLine t fa t.i.a ra (l % 16)) (fragmentLine t fb t.i.b rb k)
    (wd (rdSrc t.g false t.i.x 1 (l % 16)).1 0 % 256) (wd (rdSrc t.g false t.i.x 1 k).1 0 / 256 % 256) (wd (rdSrc t.g false (t.i.c + j) 1 l).1 0)

/-- Its mark: of its row's and its column's fragments and scales, and of C. -/
def mmaMark (t : IssueCtx) (ra rb l j : Nat) : Bool :=
  let scale := fun (r : Nat) => rdSrc t.g false t.i.x 1 r
  let k := 8 * (l / 16) + j
  (rdSrc t.g false t.i.a ra (l % 16)).2 || (rdSrc t.g false t.i.a ra (l % 16 + 16)).2 || (scale (l % 16)).2 ||
    ((rdSrc t.g false t.i.b rb k).2 || (rdSrc t.g false t.i.b rb (k + 16)).2 || (scale k).2) || (rdSrc t.g false (t.i.c + j) 1 l).2

/-- The group after a matrix instruction: every lane took its eight elements. -/
def mmaDone (t : IssueCtx) (fa fb ra rb : Nat) : Grp :=
  nextPc t.pc t.mask (wrCells t.i.d (mmaValue t fa fb ra rb) (mmaMark t ra rb) (List.range 32 ×ˢ List.range 8) t.g)

/-- The legal forms of a matrix row: D overlaps neither A, B nor the scale codes (R278). -/
def mmaLegal (ra rb : Nat) (i : Ins) : Bool :=
  shapeOk { plain ra rb 8 0 with dst := 8, guard := false, uni := false, x := fun x => decide (x < 256) } i &&
    (decide (i.d + 8 ≤ i.a) || decide (i.a + ra ≤ i.d)) && (decide (i.d + 8 ≤ i.b) || decide (i.b + rb ≤ i.d)) &&
    (decide (i.d + 8 ≤ i.x) || decide (i.x + 1 ≤ i.d))

theorem mma_eq (c : Cfg) (q n gi op fa fb ra rb : Nat) : mma c q n gi op fa fb ra rb =
    issue c q n gi (fun i => i.op == op) (mmaLegal ra rb)
      (fun t d => if t.mask ≠ 2 ^ 32 - 1 then .fault 2 0 d else .ok (setGrp t.k (mmaDone t fa fb ra rb) d)) := by
  unfold mma
  refine congrArg (issue c q n gi _ _) (funext fun t => funext fun d => ?_)
  simp only [mmaDone, wrCells_product]
  refine congrArg (fun g => if t.mask ≠ 2 ^ 32 - 1 then Issue.fault 2 0 d else .ok (setGrp t.k (nextPc t.pc t.mask g) d)) ?_
  refine List.foldl_ext _ _ _ (fun g l hl => List.foldl_ext _ _ _ (fun g j hj => ?_))
  have hl' := List.mem_range.1 hl
  have hj' := List.mem_range.1 hj
  have hr : l % 16 < 16 := by omega
  have hk : 8 * (l / 16) + j < 16 := by omega
  simp only [getD_map_range, if_pos hr, if_pos hk]
  rfl

theorem nextPc_vregs (pc m : Nat) (g : Grp) (x : Arr RegVal) : { nextPc pc m g with vregs := x } = nextPc pc m { g with vregs := x } := rfl

theorem mmaDone_frame (t : IssueCtx) (fa fb ra rb : Nat) : { mmaDone t fa fb ra rb with vregs := t.g.vregs } = nextPc t.pc t.mask t.g := by
  rw [mmaDone, nextPc_vregs, wrCells_frame]

/-- A vector register after a matrix instruction: of D to D + 7, or as it was. -/
theorem rdV_mmaDone (t : IssueCtx) (fa fb ra rb r l : Nat) (hl : l < 32) : rdV (mmaDone t fa fb ra rb) r l =
    if t.i.d ≤ r ∧ r < t.i.d + 8 ∧ r < t.g.regs then (mmaValue t fa fb ra rb l (r - t.i.d) % 2 ^ 32, mmaMark t ra rb l (r - t.i.d))
    else rdV t.g r l := by
  have hcs : ∀ p ∈ List.range 32 ×ˢ List.range 8, p.1 < 32 := fun p hp => List.mem_range.1 (List.mem_product.1 hp).1
  rw [mmaDone, rdV_nextPc, rdV_wrCells _ _ _ _ _ hcs _ _ hl]
  refine if_congr ?_ rfl rfl
  rw [List.mem_product, List.mem_range, List.mem_range]
  omega

/-- The three matrix rows differ in their formats and register counts alone. -/
theorem matrixRow_of_mma {row : Nat → Nat → Nat → Instr} {op fa fb ra rb : Nat}
    (hrow : ∀ q n gi s, exec (row q n gi) s = onDev (decide (q < 4) && decide (n < 6) && decide (gi < 48))
      (fun c => inRun (mma c q n gi op fa fb ra rb)) s) (ha : opAssigned op = true) : MatrixRow row op fa fb ra rb := by
  intro s q n gi t d h ho hm hs hda hdb hdx
  have hl : mmaLegal ra rb t.i = true := by
    simp only [mmaLegal, hs, hda, hdb, hdx, Bool.and_eq_true, Bool.or_eq_true, decide_eq_true_eq, and_self]
  have he : exec (row q n gi) s = .next (s.issued q n t (setGrp t.k (mmaDone t fa fb ra rb) d)) :=
    exec_of_opcode (hrow q n gi s) (mma_eq · q n gi op fa fb ra rb) h ho ha hl (if_neg (not_not_intro hm))
  refine ⟨mmaDone t fa fb ra rb, he, mmaDone_frame t fa fb ra rb, fun r l hl hr => ?_, fun l j hl hj hr => ?_⟩
  · rw [rdV_mmaDone _ _ _ _ _ _ _ hl, if_neg (fun h => hr ⟨h.1, h.2.1⟩)]
  · rw [rdV_mmaDone _ _ _ _ _ _ _ hl, if_pos ⟨Nat.le_add_right _ j, Nat.add_lt_add_left hj _, hr⟩, Nat.add_sub_cancel_left]
    rfl

/-! ### Lane exchange and votes together (R276) -/

/-- The votes counted in the model's list of lanes with their votes. -/
theorem votes_mask (p : Nat → Bool) (ls : List Nat) : (((ls.map (fun l => (l, p l))).filter (·.2)).map (·.1)) = ls.filter p := by
  rw [List.filter_map, List.map_map]
  exact List.map_id _

/-- Settles O52: exchange and votes by their bodies, the matrix rows by `matrixRow_of_mma`. -/
theorem groupExchangeRows : Obligations.GroupExchangeRows := by
  refine ⟨fun s q n gi t d h ho hs hw hx hv => ?_, fun s q n gi t d h ho hs => ⟨fun hm => ?_, fun hm => ?_⟩, fun s q n gi t d h ho hs => ?_,
    matrixRow_of_mma (fun _ _ _ _ => rfl) rfl, matrixRow_of_mma (fun _ _ _ _ => rfl) rfl, matrixRow_of_mma (fun _ _ _ _ => rfl) rfl⟩
  · refine exec_of_opcode (f := fun c => opXlane c q n gi) rfl (fun _ => rfl) h ho rfl ?_ rfl
    have hi : (!t.i.imm || bits t.i.iv 31 17 == 0) = true := by
      cases he : t.i.imm with
      | false => rfl
      | true => exact beq_iff_eq.2 (hv he)
    simp only [hs, hw, hx, hi, beq_self_eq_true, Bool.and_self]
  · refine exec_of_opcode (f := fun c => opPvote c q n gi) rfl (fun _ => rfl) h ho rfl hs ?_
    simp only [if_neg hm, List.all_map, List.any_map]
    rfl
  · refine exists_laneResult_of_opcode (f := fun c => opPvote c q n gi) rfl (fun _ => rfl) h ho rfl hs (fun _ => rfl) (lanes_lt t.mask) ?_
    simp only [if_pos hm, votes_mask]
    rfl
  · exact exists_laneResult_of_opcode (f := fun c => opEqmask c q n gi) rfl (fun _ => rfl) h ho rfl hs (fun _ => rfl) (lanes_lt t.mask) rfl

/-! ### Control flow (R280) -/

theorem map_zipIdx_map_zipIdx {α β γ : Type} (l : List α) (f : α × Nat → β) (h : β × Nat → γ) :
    (l.zipIdx.map f).zipIdx.map h = l.zipIdx.map (fun p => h (f p, p.2)) :=
  List.ext_getElem (by simp) (fun i _ _ => by simp)

/-- Lanes that branch stand where they branch to, the other issuing lanes at the next instruction. -/
theorem setPc_nextPc (m : Nat) (f : Nat → Nat) (pc mask : Nat) (g : Grp) : setPc m f (nextPc pc mask g) = { g with
    pc := g.pc.zipIdx.map (fun (p, l) => if bit m l then f l % 2 ^ 48 else if bit mask l then (pc + 8) % 2 ^ 48 else p) } := by
  simp only [setPc, nextPc, map_zipIdx_map_zipIdx]

/-- The address in the register pair A of a lane. -/
def jumpTarget (t : IssueCtx) (l : Nat) : Nat :=
  (wd (rdSrc t.g t.i.au t.i.a 2 l).1 0 + wd (rdSrc t.g t.i.au t.i.a 2 l).1 1 * 2 ^ 32) % 2 ^ 48

/-- No target faults that is unmarked and aligned: the low word alone decides the alignment. -/
theorem jumpFault_none {t : IssueCtx} (ha : ∀ l ∈ t.act, (rdSrc t.g t.i.au t.i.a 2 l).2 = false ∧ wd (rdSrc t.g t.i.au t.i.a 2 l).1 0 % 8 = 0) :
    t.act.findSome? (fun l => if (rdSrc t.g t.i.au t.i.a 2 l).2 then some (6, 0)
      else if jumpTarget t l % 8 ≠ 0 then some (4, jumpTarget t l) else none) = none := by
  refine List.findSome?_eq_none_iff.2 (fun l hl => ?_)
  obtain ⟨hm, h8⟩ := ha l hl
  have hj : jumpTarget t l % 8 = 0 := by unfold jumpTarget; omega
  rw [hm, if_neg Bool.false_ne_true, if_neg (not_not_intro hj)]

/-- Settles O53: branches by where `setPc_nextPc` leaves the lanes, CALL by the two registers it writes, EXIT by its body. -/
theorem controlFlowRows : Obligations.ControlFlowRows := by
  refine ⟨fun s q n gi t d h ho hs hg => ?_, fun s q n gi t d h ho hs hg ha => ?_, fun s q n gi t d h ho hs hg => ?_,
    fun s q n gi t d h ho hs => exec_of_opcode (f := fun c => opExit c q n gi) rfl (fun _ => rfl) h ho rfl hs rfl⟩
  · have he := exec_of_opcode (x := .bra q n gi) (f := fun c => opBra c q n gi) rfl (fun _ => rfl) h ho rfl hs (if_neg (Bool.eq_false_iff.1 hg))
    rwa [setPc_nextPc] at he
  · have hb := jumpFault_none ha
    unfold jumpTarget at hb
    have he := exec_of_opcode (x := .jmpr q n gi) (f := fun c => opJmpr c q n gi) rfl (fun _ => rfl) h ho rfl hs
      ((if_neg (Bool.eq_false_iff.1 hg)).trans (by dsimp only; rw [hb]))
    rw [setPc_nextPc] at he
    simpa only [Nat.mod_mod] using he
  · exact exists_laneResult_of_opcode (f := fun c => opCall c q n gi) rfl (fun _ => rfl) h ho rfl hs (fun _ => rfl) (act_lt t)
      (if_neg (Bool.eq_false_iff.1 hg))

/-! ### Barriers, fences, interlocks and ray queries (R246, R273, R296, R302) -/

theorem nextPc_lock (pc m : Nat) (g : Grp) : (nextPc pc m g).lock = g.lock := rfl

/-- An answer written to a lane's registers leaves the rays that wait. -/
theorem wrWords_rays (r l : Nat) (m : Bool) (vs : List Nat) (k : Nat) (g : Grp) : (wrWords r l m vs k g).rays = g.rays := by
  have h := congrArg Grp.rays (wrWords_frame r l m vs k g [])
  exact h

section
variable {c : Cfg} {q n gi lane : Nat} {g : Grp} {d : Dev} (hg : (coreOf d (coreIdx q n)).groups[gi]? = some g)
include hg

theorem fenceRelease_of_group : fenceRelease q n gi d = setGrp (coreIdx q n) { g with fenced := 0 } d := by
  rw [fenceRelease, hg]

theorem pxlockGrant_of_free (hw : g.lock.getD lane 0 = 1) (hf : pixelFree (coreOf d (coreIdx q n)) g lane = true) :
    pxlockGrant q n gi lane d = setGrp (coreIdx q n) { g with lock := g.lock.set lane 2 } d := by
  rw [pxlockGrant, hg]
  exact if_pos ⟨hw, hf⟩

/-- A ray whose command goes on and whose query ends: the answer is written to the lane, which waits for it no more. -/
theorem traceAnswer_of_answered {r : RayReq} {x : Cmd} {res : RayRes} {e : Dev} (hf : g.rays.find? (fun r => r.lane == lane) = some r)
    (hx : cmdOf d g.serial = some x) (he : x.expired = false) (ha : (ctxOf d x.ctx).state = 1)
    (hs : unitStalled d (rqCore c x (coreIdx q n)) = false) (hd : faulted d = false) (hu : unitUp d 4 q n = true)
    (ht : runEng (rayQuery c (rqCore c x (coreIdx q n)) r.ray r.root (r.query == 1)) d = (.ok res, e)) :
    traceAnswer c q n gi lane d = setGrp (coreIdx q n)
      { (rayAnswer res).zipIdx.foldl (fun g (v, j) => wrV (r.dst + j) lane v (r.marked || res.marked) g) g with
        rays := g.rays.filter (fun r => r.lane != lane) } e := by
  have hr := wrWords_rays r.dst lane (r.marked || res.marked) (rayAnswer res) 0 g
  unfold wrWords at hr
  simp only [traceAnswer, hg, hf, hx, hs, hd, he, ha, hu, ht, bne_self_eq_false, Bool.not_true, Bool.or_self, Bool.false_eq_true, if_false, hr]

end

/-- Settles O54, row by row. -/
theorem barrierFenceAndInterlockRows : Obligations.BarrierFenceAndInterlockRows := by
  refine ⟨fun s q n gi t d h ho hm hs => ?_, fun s q n gi t d h ho hm hs => ?_, fun s q n gi t d h ho hs => ?_,
    fun s q n gi g hr hq hn hi hg => ?_, fun s q n gi t d h ho hs hk hl => ?_, fun s q n gi lane g hr hq hn hi hl hg hw hf => ?_,
    fun s q n gi t d h ho hs hk hl => ?_, fun s q n gi t d h ho hs hb hm => ?_,
    fun s q n gi lane g r x res d hr hq hn hi hl hg hf hx he ha hs hd hu ht => ?_⟩
  · exact exec_of_issued (f := fun c => opSyncG c q n gi) rfl (fun _ => rfl) h (by rw [ho]; rfl) (by simp [ho, hm]) hs rfl
  · exact exec_of_issued (f := fun c => opSyncB c q n gi) rfl (fun _ => rfl) h (by rw [ho]; rfl) (by simp [ho, hm]) hs rfl
  · exact exec_of_opcode (f := fun c => opFence c q n gi) rfl (fun _ => rfl) h ho rfl hs rfl
  · have hp : (Instr.fenceRelease q n gi).wf = true := by simp only [Instr.wf, hq, hn, hi, decide_true, Bool.and_self]
    exact (exec_inRun (f := fun _ => fenceRelease q n gi) hp hr).trans (by rw [fenceRelease_of_group hg])
  · refine exec_of_opcode (f := fun c => opPxlock c q n gi) rfl (fun _ => rfl) h ho rfl hs ((if_neg (not_not_intro hk)).trans ?_)
    simp only [hl, if_true, Bool.and_eq_true, List.contains_iff_mem, beq_iff_eq, nextPc_lock]
  · have hp : (Instr.pxlockGrant q n gi lane).wf = true := by simp only [Instr.wf, hq, hn, hi, hl, decide_true, Bool.and_self]
    exact (exec_inRun (f := fun _ => pxlockGrant q n gi lane) hp hr).trans (by rw [pxlockGrant_of_free hg hw hf])
  · refine exec_of_opcode (f := fun c => opPxunlock c q n gi) rfl (fun _ => rfl) h ho rfl hs ((if_neg (not_not_intro hk)).trans ?_)
    simp only [hl, if_true, Bool.and_eq_true, List.contains_iff_mem, beq_iff_eq, nextPc_lock]
  · refine exec_of_opcode (f := fun c => opTrace c q n gi) rfl (fun _ => rfl) h ho rfl ?_ (if_neg (by simp [hm]))
    simp only [hs, hb, Bool.and_self]
  · have hp : (Instr.traceAnswer q n gi lane).wf = true := by simp only [Instr.wf, hq, hn, hi, hl, decide_true, Bool.and_self]
    exact (exec_inRun (f := fun c => traceAnswer c q n gi lane) hp hr).trans (by rw [traceAnswer_of_answered hg hf hx he ha hs hd hu ht])

/-! ### Compute dispatches (R237 to R242) -/

/-- A command not yet checked whose payload is read becomes a dispatch of its blocks, or ends INVALID_COMMAND. -/
theorem scDispatch_of_read {c : Cfg} {q lane n : Nat} {d e f : Dev} {x : Cmd} {b : List Byte}
    (hp : pickLane c (takerSc c) (16 + q) d = (some lane, e)) (hx : laneHead e (16 + q) lane = some x) (hn : (allowedSet c e x).head? = some n)
    (hd : dispOf d x.serial = none) (hs : unitStalled d (rqCore c x (coreIdx q n)) = false) (hf : faulted d = false)
    (hb : runEng (ePayload c (rqCore c x (coreIdx q n)) x.entry.payload 128) e = (.ok b, f)) :
    scDispatch c q d =
      if dispOk b = true then
        let total := getLe b 0x10 4 * getLe b 0x14 4 * getLe b 0x18 4
        setCmd { f with disp := f.disp ++ [⟨x.serial, b, 0, total⟩] } x.serial (fun x => { x with units := some total, unitsLeft := [0] })
      else finishUnits x 0x10 f := by
  simp only [scDispatch, hp, Option.bind_some, hx, hn, hd, hs, hf, hb, Option.isSome_none, Bool.or_self, Bool.false_eq_true, if_false]

/-- The uniform registers of group `w` of block `i` (R242): its place in the grid, the argument, and the words `us` of the dispatch. -/
def blockUniforms (b : List Byte) (i : Nat) (us : List (Nat × Bool)) (w : Nat) : List (Nat × Bool) :=
  [i % getLe b 0x10 4, (i / getLe b 0x10 4) % getLe b 0x14 4, i / (getLe b 0x10 4 * getLe b 0x14 4), w,
    getLe b 0x30 8 % 2 ^ 32, getLe b 0x30 8 / 2 ^ 32, i % 2 ^ 32, 0].map (fun v => (v, false)) ++ us

/-- The next block of a dispatch on core `n`, zeroed first for another context's sake, with its groups on `scheds` and its local memory at `lo`. -/
def blockPlaced (q n : Nat) (x : Cmd) (ds : Disp) (us : List (Nat × Bool)) (scheds : List Nat) (lo : Nat) (d : Dev) : Dev :=
  let k := coreIdx q n
  let b := ds.desc
  let id := (coreOf d k).nextId
  let f := takeFree (scheds.length * dispRegs b * 32) d
  let e := takeCore k x.ctx f.2
  let gs := blockGroups x 0 id ds.next (dispThreads b) (dispRegs b) f.1 (getLe b 0x20 8) scheds (threadIndex (getLe b 8 2) (getLe b 0xA 2))
    (blockUniforms b ds.next us) id
  obsCount 0x24 q n (some x.ctx) 1 (coreBusy k x
    (setCore k (putBlock ⟨id, x.serial, x.ring, x.ctx, 0, ds.next, lo, dispLocal b, true, e.phe.tb, 0⟩ gs) e))

/-- A block was handed out: the dispatch goes on to its next, or its token is retired with the last (R240). -/
def blockHandedOut (q n : Nat) (x : Cmd) (ds : Disp) (d : Dev) : Dev :=
  let last := decide (ds.total ≤ ds.next + 1)
  let e := setCmd { d with disp := d.disp.map (fun y => if y.serial = x.serial then { y with next := ds.next + 1 } else y) } x.serial
    (fun x => { x with unitsRunning := x.unitsRunning + 1, unitsLeft := if last then [] else [0], ran := true, instNo := 8 * q + n })
  if last then retireToken x e else e

/-- A checked dispatch whose taker still fits the block once the uniforms are read. -/
theorem blockAdmit_of_fits {c : Cfg} {q lane n lo : Nat} {d e f : Dev} {x : Cmd} {ds : Disp} {us : List (Nat × Bool)} {scheds : List Nat}
    (hp : pickLane c (takerSc c) (16 + q) d = (some lane, e)) (hx : laneHead e (16 + q) lane = some x)
    (hd : dispOf e x.serial = some ds) (hn : takerSc c e x = some n)
    (hs : unitStalled d (rqCore c x (coreIdx q n)) = false) (hf : faulted d = false)
    (hu : runEng (readUniforms c (rqCore c x (coreIdx q n)) (getLe ds.desc 0x28 8) (getLe ds.desc 0x1C 4)) e = (.ok us, f))
    (hfit : fits (coreOf f (coreIdx q n)) x.ctx (ceilDiv (dispThreads ds.desc) 32) (dispRegs ds.desc) (dispLocal ds.desc) true = some (scheds, lo)) :
    blockAdmit c q d = blockHandedOut q n x ds (blockPlaced q n x ds us scheds lo f) := by
  simp only [blockAdmit, hp, Option.bind_some, hx, hd, hn, hs, hf, hu, hfit, Bool.or_self, Bool.false_eq_true, if_false,
    blockHandedOut, decide_eq_true_eq]
  rfl

/-- Settles O58, row by row. -/
theorem computeDispatchRows : Obligations.ComputeDispatchRows := by
  refine ⟨fun s q lane d x n b hq hr hf hp hx hn hd hs e hb => ?_,
    fun s q lane d x n ds us e scheds lo m1 f hq hr hf hp hx hd hn hs hu hfit ht => ?_,
    fun s hr => exec_inRun (f := fun c => admitBlock c 4) rfl hr⟩
  · exact (exec_inRun (f := fun c => scDispatch c q) (decide_eq_true hq) hr).trans (by rw [scDispatch_of_read hp hx hn hd hs hf hb])
  · have h4 : q ≠ 4 := Nat.ne_of_lt hq
    have hw : (Instr.blockAdmit q).wf = true := decide_eq_true (Nat.lt_succ_of_lt hq)
    refine (exec_inRun (f := fun c => admitBlock c q) hw hr).trans ?_
    rw [admitBlock, if_neg h4, blockAdmit_of_fits hp hx hd hn hs hf hu hfit, blockPlaced, ht]
    rfl

end Sys2Proof.Machine

/-! PROOFS. The statements of the shader instructions (09): the words and their fields, the atomic operations, the lane-by-lane rows of integers,
floating point, L16 and conversions, the values of the single-operand functions, and the accesses to memory. -/

namespace Sys2Proof.Machine

/-! ### Instruction words (R260) -/

theorem bits_eq (x hi lo : Nat) : bits x hi lo = x / 2 ^ lo % 2 ^ (hi + 1 - lo) := by rw [bits, Nat.shiftRight_eq_div_pow]

theorem b2n_bit (x i : Nat) : b2n (bit x i) = x / 2 ^ i % 2 := by
  rw [← Nat.toNat_testBit, bit]
  cases x.testBit i <;> rfl

theorem b2n_le (b : Bool) : b2n b ≤ 1 := by cases b <;> decide

theorem b2n_injective : Function.Injective b2n := by decide

/-- A flag is read where its 0 or 1 stands. -/
theorem bit_eq_of_b2n {x i : Nat} {b : Bool} (h : x / 2 ^ i % 2 = b2n b) : bit x i = b := b2n_injective ((b2n_bit x i).trans h)

/-- A field is read where its number stands. -/
theorem bits_eq_of {x hi lo v : Nat} (h : x / 2 ^ lo % 2 ^ (hi + 1 - lo) = v) : bits x hi lo = v := (bits_eq x hi lo).trans h

/-- The low word of an instruction: IMM in format I, else the fields of format R. -/
def lowWord (i : Ins) : Nat :=
  if i.imm then i.iv
  else i.b * 2 ^ 24 + i.c * 2 ^ 16 + b2n i.au * 2 ^ 15 + b2n i.bu * 2 ^ 14 + b2n i.cu * 2 ^ 13 + b2n i.rsv * 2 ^ 12 + i.ps * 2 ^ 9 + i.x

/-- The fields of a word's low half give that half again, in either format. -/
theorem lowWord_decodeIns (w : Nat) : lowWord (decodeIns w) = w % 2 ^ 32 := by
  cases h : bit w 55 with
  | true => simp only [lowWord, decodeIns, h, if_true, bits_eq, Nat.pow_zero, Nat.div_one]
  | false =>
    simp only [lowWord, decodeIns, h, Bool.not_false, Bool.true_and, Bool.false_eq_true, if_false, b2n_bit, bits_eq]
    omega

/-- The first half of the round trip: a word's fields spell the word. -/
theorem encodeIns_decodeIns (w : Nat) (hw : w < 2 ^ 64) : encodeIns (decodeIns w) = w := by
  have hlow := lowWord_decodeIns w
  unfold lowWord at hlow
  rw [encodeIns, hlow]
  simp only [decodeIns, b2n_bit, bits_eq]
  omega

/-- The high half of a word spells its fields, whatever the low half. -/
theorem encodeIns_fields {i : Ins} (hop : i.op < 256) (hgp : i.gp < 8) (hmd : i.md < 4) (hd : i.d < 256) (ha : i.a < 256)
    (hl : lowWord i < 2 ^ 32) :
    bits (encodeIns i) 63 56 = i.op ∧ bit (encodeIns i) 55 = i.imm ∧ bit (encodeIns i) 54 = i.ge ∧ bit (encodeIns i) 53 = i.gn ∧
      bits (encodeIns i) 52 50 = i.gp ∧ bits (encodeIns i) 49 48 = i.md ∧ bits (encodeIns i) 47 40 = i.d ∧ bits (encodeIns i) 39 32 = i.a ∧
      encodeIns i % 2 ^ 32 = lowWord i := by
  have hi := b2n_le i.imm
  have hge := b2n_le i.ge
  have hgn := b2n_le i.gn
  have he : encodeIns i = i.op * 2 ^ 56 + b2n i.imm * 2 ^ 55 + b2n i.ge * 2 ^ 54 + b2n i.gn * 2 ^ 53 + i.gp * 2 ^ 50 + i.md * 2 ^ 48 +
    i.d * 2 ^ 40 + i.a * 2 ^ 32 + lowWord i := rfl
  rw [he]
  refine ⟨bits_eq_of ?_, bit_eq_of_b2n ?_, bit_eq_of_b2n ?_, bit_eq_of_b2n ?_, bits_eq_of ?_, bits_eq_of ?_, bits_eq_of ?_, bits_eq_of ?_, ?_⟩ <;>
    omega

/-- The fields that a word's low half spells in the format of `i` are those of `i`. -/
structure LowRead (w : Nat) (i : Ins) : Prop where
  b : (if i.imm then 0 else bits w 31 24) = i.b
  c : (if i.imm then 0 else bits w 23 16) = i.c
  au : (!i.imm && bit w 15) = i.au
  bu : (!i.imm && bit w 14) = i.bu
  cu : (!i.imm && bit w 13) = i.cu
  rsv : (!i.imm && bit w 12) = i.rsv
  ps : bits w 11 9 = i.ps
  x : bits w 8 0 = i.x
  iv : bits w 31 0 = i.iv

/-- Format I: B, C and the flags are absent, PS and X are bits of IMM. -/
theorem lowRead_of_imm {w : Nat} {i : Ins} (hi : i.imm = true) (hw : w % 2 ^ 32 = i.iv) (hb : i.b = 0) (hc : i.c = 0)
    (hau : i.au = false) (hbu : i.bu = false) (hcu : i.cu = false) (hr : i.rsv = false) (hp : i.ps = i.iv / 512 % 8)
    (hx : i.x = i.iv % 512) : LowRead w i where
  b := by rw [if_pos hi, hb]
  c := by rw [if_pos hi, hc]
  au := by rw [hi, hau]; rfl
  bu := by rw [hi, hbu]; rfl
  cu := by rw [hi, hcu]; rfl
  rsv := by rw [hi, hr]; rfl
  ps := bits_eq_of (by omega)
  x := bits_eq_of (by omega)
  iv := bits_eq_of (by omega)

/-- Format R: every field stands at its place of the low half. -/
theorem lowRead_of_reg {w : Nat} {i : Ins} (hi : i.imm = false) (hw : w % 2 ^ 32 = lowWord i) (hc : i.c < 256)
    (hp : i.ps < 8) (hx : i.x < 512) (hv : i.iv = lowWord i) : LowRead w i := by
  have hau := b2n_le i.au
  have hbu := b2n_le i.bu
  have hcu := b2n_le i.cu
  have hr := b2n_le i.rsv
  have hn : ¬i.imm = true := Bool.eq_false_iff.1 hi
  rw [lowWord, if_neg hn] at hw hv
  constructor
  case b => rw [if_neg hn]; exact bits_eq_of (by omega)
  case c => rw [if_neg hn]; exact bits_eq_of (by omega)
  case au => rw [hi, Bool.not_false, Bool.true_and]; exact bit_eq_of_b2n (by omega)
  case bu => rw [hi, Bool.not_false, Bool.true_and]; exact bit_eq_of_b2n (by omega)
  case cu => rw [hi, Bool.not_false, Bool.true_and]; exact bit_eq_of_b2n (by omega)
  case rsv => rw [hi, Bool.not_false, Bool.true_and]; exact bit_eq_of_b2n (by omega)
  case ps => exact bits_eq_of (by omega)
  case x => exact bits_eq_of (by omega)
  case iv => exact bits_eq_of (by omega)

/-- The second half of the round trip: fields are read back whose low half is. -/
theorem decodeIns_encodeIns {i : Ins} (hop : i.op < 256) (hgp : i.gp < 8) (hmd : i.md < 4) (hd : i.d < 256) (ha : i.a < 256)
    (hl : lowWord i < 2 ^ 32) (h : ∀ w, w % 2 ^ 32 = lowWord i → LowRead w i) : decodeIns (encodeIns i) = i := by
  obtain ⟨eop, eimm, ege, egn, egp, emd, ed, ea, elow⟩ := encodeIns_fields hop hgp hmd hd ha hl
  obtain ⟨eb, ec, eau, ebu, ecu, er, ep, ex, ev⟩ := h _ elow
  simp only [decodeIns, eop, eimm, ege, egn, egp, emd, ed, ea, eb, ec, eau, ebu, ecu, er, ep, ex, ev]

/-- Settles O33: a word's fields spell the word, and fields in range are read back, format by format. -/
theorem shaderWordsRoundTrip : Obligations.ShaderWordsRoundTrip := by
  refine ⟨encodeIns_decodeIns, fun i hop hgp hmd hd ha hlow => ?_⟩
  cases hi : i.imm with
  | true =>
    rw [if_pos hi] at hlow
    obtain ⟨hv, hb, hc, hau, hbu, hcu, hr, hp, hx⟩ := hlow
    have hl : lowWord i = i.iv := if_pos hi
    exact decodeIns_encodeIns hop hgp hmd hd ha (hl ▸ hv) (fun w hw => lowRead_of_imm hi (hw.trans hl) hb hc hau hbu hcu hr hp hx)
  | false =>
    rw [if_neg (Bool.eq_false_iff.1 hi)] at hlow
    obtain ⟨hb, hc, hp, hx, hv⟩ := hlow
    have hl : i.iv = lowWord i := hv.trans (if_neg (Bool.eq_false_iff.1 hi)).symm
    have hlt : lowWord i < 2 ^ 32 := by
      have hau := b2n_le i.au
      have hbu := b2n_le i.bu
      have hcu := b2n_le i.cu
      have hr := b2n_le i.rsv
      omega
    exact decodeIns_encodeIns hop hgp hmd hd ha hlt (fun w hw => lowRead_of_reg hi hw hc hp hx hl)

/-- Settles O34: each word is read field by field. -/
theorem shaderWordExamples : Obligations.ShaderWordExamples := by
  refine ⟨?_, ?_, ?_, ?_⟩ <;> decide

/-! ### Atomic operations (R274) -/

/-- Settles O51: the table row by row. The model takes B where it is strictly beyond the old value, the table keeps the old value where it is not. -/
theorem atomicOperations : Obligations.AtomicOperations := by
  intro w old b c
  refine ⟨rfl, ?_, ?_, rfl, rfl, rfl, rfl, rfl, rfl, rfl⟩
  · show (if toSigned w b < toSigned w old then b else old) = _
    rw [← ite_not, if_congr Int.not_lt rfl rfl]
  · show (if toSigned w old < toSigned w b then b else old) = _
    rw [← ite_not, if_congr Int.not_lt rfl rfl]

/-! ### Rows of one result word (R261, R265) -/

section
variable {row : Nat → Nat → Nat → Instr} {op : Nat} {sh : Shape} {more : Ins → Bool}

/-- A row whose meaning is the very operation that is promised. -/
theorem laneRow_of_same {k : Nat} {res : Ins → LaneIn → List Nat}
    (he : ∀ q n gi s, exec (row q n gi) s = onDev (decide (q < 4) && decide (n < 6) && decide (gi < 48))
      (fun c => inRun (laneOp c op q n gi sh more res)) s)
    (hk : ∀ i x, (res i x).length = k := by intros; rfl) (hp : sh.pred = false := by rfl) (ha : opAssigned op = true := by rfl)
    (hu : sh.ps = false := by rfl) : LaneRow row op sh more k res :=
  laneRow_of res he (fun _ _ => rfl) hk hp ha (.inl hu)

/-- A row of one result word that is promised as another word, equal on every input. -/
theorem laneRow_of_word {v : Ins → LaneIn → Nat} (u : Ins → LaneIn → Nat)
    (he : ∀ q n gi s, exec (row q n gi) s = onDev (decide (q < 4) && decide (n < 6) && decide (gi < 48))
      (fun c => inRun (laneOp c op q n gi sh more (fun i x => [u i x]))) s)
    (huv : ∀ i x, u i x = v i x) (hp : sh.pred = false := by rfl) (ha : opAssigned op = true := by rfl)
    (hu : sh.ps = false := by rfl) : LaneRow row op sh more 1 (fun i x => [v i x]) :=
  laneRow_of _ he (fun i x => congrArg (fun w => [w]) (huv i x)) (fun _ _ => rfl) hp ha (.inl hu)

end

/-! ### Integer operations (R265) -/

/-- Signed saturation to 32 bits. -/
theorem saturate_eq (s : Int) : (if s < -(2 ^ 31) then -(2 ^ 31) else if 2 ^ 31 - 1 < s then 2 ^ 31 - 1 else s) =
    max (-2147483648) (min 2147483647 s) := by
  omega

theorem iadd_eq (md a b : Nat) : iadd md a b =
    if md = 1 then ofSigned 32 (max (-2147483648) (min 2147483647 (toSigned 32 a + toSigned 32 b)))
    else if md = 2 then min 4294967295 (a + b) else (a + b) % 2 ^ 32 := by
  simp only [iadd, saturate_eq]
  rfl

theorem isub_eq (md a b : Nat) : isub md a b =
    if md = 1 then ofSigned 32 (max (-2147483648) (min 2147483647 (toSigned 32 a - toSigned 32 b)))
    else if md = 2 then a - b else (a + 2 ^ 32 - b) % 2 ^ 32 := by
  simp only [isub, saturate_eq]
  rfl

theorem imin_eq (md a b : Nat) : iminmax false md a b =
    if md = 0 then (if toSigned 32 a < toSigned 32 b then a else b) else (if a < b then a else b) := by
  by_cases hm : md = 0
  · simp only [iminmax, if_pos hm, bne_iff_ne, ne_eq, decide_eq_false_iff_not, not_not]
  · simp only [iminmax, if_neg hm, bne_iff_ne, ne_eq, decide_eq_false_iff_not, not_not]

theorem imax_eq (md a b : Nat) : iminmax true md a b =
    if md = 0 then (if toSigned 32 a < toSigned 32 b then b else a) else (if a < b then b else a) := by
  by_cases hm : md = 0
  · simp only [iminmax, if_pos hm, bne_iff_ne, ne_eq, decide_eq_true_eq, ite_not]
  · simp only [iminmax, if_neg hm, bne_iff_ne, ne_eq, decide_eq_true_eq, ite_not]

theorem ishl_eq (a b : Nat) : ishl a b = if b % 256 < 32 then a * 2 ^ (b % 256) % 2 ^ 32 else 0 := by
  rw [ishl, ← ite_not, if_congr Nat.not_le rfl rfl, w32]

/-- An arithmetic shift by 31 or more leaves the sign. -/
theorem toSigned_shift_sign (a : Nat) : toSigned 32 a / 2 ^ 31 = if toSigned 32 a < 0 then -1 else 0 := by
  have h : -(2 ^ 31) ≤ toSigned 32 a ∧ toSigned 32 a < 2 ^ 31 := by
    have := Nat.mod_lt a (show 2 ^ 32 > 0 by decide)
    simp only [toSigned]
    split <;> omega
  split <;> omega

theorem ishr_eq (md a b : Nat) : ishr md a b =
    if md = 0 then (if b % 256 < 32 then a / 2 ^ (b % 256) else 0)
    else ofSigned 32 (if b % 256 < 32 then toSigned 32 a / 2 ^ (b % 256) else if toSigned 32 a < 0 then -1 else 0) := by
  by_cases hb : b % 256 < 32
  · have h31 : Nat.min (b % 256) 31 = b % 256 := Nat.min_eq_left (by omega)
    simp only [ishr, h31, if_pos hb, if_neg (Nat.not_le.2 hb)]
  · have h31 : Nat.min (b % 256) 31 = 31 := Nat.min_eq_right (by omega)
    simp only [ishr, h31, if_neg hb, if_pos (Nat.not_lt.1 hb), toSigned_shift_sign]

/-- Settles O44, row by row: each row's word is R265's by the equation of its operation. -/
theorem integerTwoOperandRows : Obligations.IntegerTwoOperandRows :=
  ⟨laneRow_of_word (fun i x => iadd i.md (wd x.a 0) (wd x.b 0)) (fun _ _ _ _ => rfl) (fun _ _ => iadd_eq _ _ _),
    laneRow_of_word (fun i x => isub i.md (wd x.a 0) (wd x.b 0)) (fun _ _ _ _ => rfl) (fun _ _ => isub_eq _ _ _),
    laneRow_of_same (fun _ _ _ _ => rfl),
    laneRow_of_word (fun i x => iminmax false i.md (wd x.a 0) (wd x.b 0)) (fun _ _ _ _ => rfl) (fun _ _ => imin_eq _ _ _),
    laneRow_of_word (fun i x => iminmax true i.md (wd x.a 0) (wd x.b 0)) (fun _ _ _ _ => rfl) (fun _ _ => imax_eq _ _ _),
    laneRow_of_same (fun _ _ _ _ => rfl),
    laneRow_of_same (fun _ _ _ _ => rfl),
    laneRow_of_same (fun _ _ _ _ => rfl),
    laneRow_of_word (fun _ x => ishl (wd x.a 0) (wd x.b 0)) (fun _ _ _ _ => rfl) (fun _ _ => ishl_eq _ _),
    laneRow_of_word (fun i x => ishr i.md (wd x.a 0) (wd x.b 0)) (fun _ _ _ _ => rfl) (fun _ _ => ishr_eq _ _ _),
    laneRow_of_same (fun _ _ _ _ => rfl)⟩

/-! ### Bits counted, reversed and inserted (R265) -/

theorem length_filter_range_lt (k n : Nat) : ((List.range n).filter (fun j => decide (k < j))).length = n - 1 - k := by
  induction n with
  | zero => simp
  | succ n ih =>
    rw [List.range_succ, List.filter_append, List.length_append, ih, List.filter_singleton]
    by_cases h : k < n <;> simp [h] <;> omega

/-- The leading zeros of a word are the powers of two above it. -/
theorem iclz_eq (a : Nat) : iclz a = ((List.range 32).filter (fun j => decide (a < 2 ^ j))).length := by
  by_cases ha : a = 0
  · subst ha; decide
  · simp only [iclz, if_neg ha, ← Nat.log2_lt ha, length_filter_range_lt]

/-- A bit is set in a sum of different powers of two where its power is one of them. -/
theorem testBit_sum_two_pow {l : List Nat} (hl : l.Nodup) (i : Nat) : (l.map (2 ^ ·)).sum.testBit i = true ↔ i ∈ l := by
  rw [← Nat.mem_bitIndices, ← List.mem_toFinset, ← List.sum_toFinset (2 ^ ·) hl, Finset.toFinset_bitIndices_sum_two_pow, List.mem_toFinset]

/-- A mask of different bits is the sum of their powers. -/
theorem maskOf_eq_sum (l : List Nat) (hl : l.Nodup) : maskOf l = (l.map (2 ^ ·)).sum := by
  induction l using List.reverseRecOn with
  | nil => rfl
  | append_singleton l i ih =>
    obtain ⟨hn, -, hd⟩ := List.nodup_append.1 hl
    have hi : (l.map (2 ^ ·)).sum.testBit i = false :=
      Bool.eq_false_iff.2 (fun h => hd i ((testBit_sum_two_pow hn i).1 h) i List.mem_cons_self rfl)
    have hm : maskOf (l ++ [i]) = putBit (maskOf l) i true := by rw [maskOf, List.foldl_append]; rfl
    rw [hm, ih hn, putBit, hi, List.map_append, List.sum_append]
    rfl

/-- A sum over the elements that a test keeps. -/
theorem sum_map_filter (p : Nat → Bool) (f : Nat → Nat) (l : List Nat) :
    ((l.filter p).map f).sum = (l.map (fun j => if p j then f j else 0)).sum := by
  induction l with
  | nil => rfl
  | cons j l ih => cases h : p j <;> simp [h, ih]

theorem ibrev_eq (a : Nat) : ibrev a = ((List.range 32).map (fun j => if a.testBit j then 2 ^ (31 - j) else 0)).sum := by
  have hlt : ∀ j ∈ onesBelow 32 a, j < 32 := lanes_lt a
  have hn : ((onesBelow 32 a).map (31 - ·)).Nodup :=
    (List.nodup_range.filter _).map_on (fun x hx y hy h => by have := hlt x hx; have := hlt y hy; omega)
  rw [ibrev, maskOf_eq_sum _ hn, List.map_map, onesBelow, sum_map_filter]
  rfl

/-- The place of a bit field (R265). -/
theorem bits_four_zero (b : Nat) : bits b 4 0 = b % 32 := by
  rw [bits_eq, Nat.pow_zero, Nat.div_one]
  rfl

theorem ibfe_eq (md a b : Nat) : ibfe md a b =
    if md = 1 then ofSigned 32 (toSigned (fieldLen b) (a / 2 ^ (b % 32) % 2 ^ fieldLen b)) else a / 2 ^ (b % 32) % 2 ^ fieldLen b := by
  rw [ibfe, bits_four_zero]

theorem ibfi_eq (a b c : Nat) : ibfi a b c = ((List.range 32).map (fun j =>
    if (if b % 32 ≤ j ∧ j < b % 32 + fieldLen b then a.testBit (j - b % 32) else c.testBit j) then 2 ^ j else 0)).sum := by
  rw [ibfi, bits_four_zero, maskOf_eq_sum _ (List.nodup_range.filter _), sum_map_filter]
  simp only [Bool.and_eq_true, decide_eq_true_eq, bit]

/-! ### Comparisons (R265) -/

theorem bits_lt (x hi lo : Nat) : bits x hi lo < 2 ^ (hi + 1 - lo) := Nat.mod_lt _ (by positivity)

/-- An opcode without an immediate form is legal in format R alone, where X is one of its shape's. -/
theorem reg_of_shapeOk {sh : Shape} {i : Ins} (h : shapeOk sh i = true) (hi : sh.imm = 0) : i.imm = false ∧ sh.x i.x = true := by
  cases hm : i.imm <;> simp [shapeOk, hm, hi] at h
  obtain ⟨⟨-, -, hx⟩, -⟩ := h
  exact ⟨rfl, hx⟩

/-- A comparison's result by its code (R265): code 5 stands for every higher one. -/
theorem icmp_eq (code : Nat) (u : Bool) (a b : Nat) : icmp code u a b =
    let less := fun (x y : Nat) => if u then decide (x < y) else decide (toSigned 32 x < toSigned 32 y)
    match code with
    | 0 => a == b
    | 1 => a != b
    | 2 => less a b
    | 3 => !less b a
    | 4 => less b a
    | _ => !less a b :=
  match code with
  | 0 | 1 | 2 | 3 | 4 | _ + 5 => rfl

/-- A result combined with PS by its code, which a legal X keeps below 3 (R265). -/
theorem combine_eq {k : Nat} (r ps : Bool) : k < 3 → combine k r ps =
    match k with
    | 0 => r
    | 1 => r && ps
    | _ => r || ps :=
  match k with
  | 0 | 1 | 2 => fun _ => rfl
  | k + 3 => fun hk => absurd hk (Nat.not_lt.2 (Nat.le_add_left 3 k))

theorem combineCode_lt {x : Nat} (h : (bits x 5 4 != 3) = true) : bits x 5 4 < 3 :=
  Nat.lt_of_le_of_ne (Nat.le_of_lt_succ (bits_lt x 5 4)) (bne_iff_ne.1 h)

/-- What a predicate row writes is whether its word is 1. -/
theorem wd_b2n (b : Bool) : (wd [b2n b] 0 != 0) = b := by cases b <;> rfl

/-! ### Integer rows of one and three operands together (R265) -/

/-- A core's number in its device names its quarter and its place there, as RDSV reports them (R277). -/
theorem coreNumber_eq {q n k sched : Nat} (hn : n < 6) (hk : k = coreIdx q n) : k % 6 + k / 6 * 8 + sched * 32 = n + 8 * q + 32 * sched := by
  have h : k = 6 * q + n := hk
  omega

/-- The special value of a code in a lane, as RDSV chooses it (R277). -/
def specialValue (t : IssueCtx) (d : Dev) (l x : Nat) : Nat :=
  if x = 0 then l else if x = 1 then t.mask else if x = 2 then w32 (coreClock d t.k)
  else if x = 3 then coreClock d t.k / 2 ^ 32
  else t.k % 6 + t.k / 6 * 8 + t.g.sched * 32

theorem specialValue_eq {t : IssueCtx} {q n : Nat} (hn : n < 6) (hk : t.k = coreIdx q n) (d : Dev) (l x : Nat) : specialValue t d l x =
    match x with
    | 0 => l
    | 1 => t.mask
    | 2 => coreClock d t.k % 2 ^ 32
    | 3 => coreClock d t.k / 2 ^ 32
    | _ => n + 8 * q + 32 * t.g.sched :=
  match x with
  | 0 | 1 | 2 | 3 => rfl
  | _ + 4 => coreNumber_eq hn hk

/-- Settles O45: the rows of one word by the equation of their operation, ICMP by its codes, UPUT and RDSV by their bodies. -/
theorem integerOneAndThreeOperandRows : Obligations.IntegerOneAndThreeOperandRows := by
  refine ⟨laneRow_of_same (fun _ _ _ _ => rfl),
    laneRow_of_same (fun _ _ _ _ => rfl),
    laneRow_of_same (fun _ _ _ _ => rfl),
    laneRow_of_word (fun _ x => iclz (wd x.a 0)) (fun _ _ _ _ => rfl) (fun _ _ => iclz_eq _),
    laneRow_of_word (fun _ x => ibrev (wd x.a 0)) (fun _ _ _ _ => rfl) (fun _ _ => ibrev_eq _),
    laneRow_of_word (fun i x => ibfe i.md (wd x.a 0) (wd x.b 0)) (fun _ _ _ _ => rfl) (fun _ _ => ibfe_eq _ _ _),
    laneRow_of_word (fun _ x => ibfi (wd x.a 0) (wd x.b 0) (wd x.c 0)) (fun _ _ _ _ => rfl) (fun _ _ => ibfi_eq _ _ _),
    laneRow_of _ (fun _ _ _ _ => rfl) (fun _ _ => rfl) (fun _ _ => rfl) rfl rfl (.inr (by decide)),
    predRow_of _ (fun _ _ _ _ => rfl) (fun t l hs => ?_) rfl rfl (fun _ => rfl), fun s q n gi t d h ho hs hd => ?_,
    fun s q n gi t d h ho hs => ?_⟩
  · have hx := (reg_of_shapeOk hs rfl).2
    simp only [Bool.and_eq_true] at hx
    exact (wd_b2n _).trans ((congrArg (combine (bits t.i.x 5 4) · _) (icmp_eq _ _ _ _)).trans (combine_eq _ _ (combineCode_lt hx.1.2)))
  · exact exec_of_opcode (f := fun c => opUput c q n gi) rfl (fun _ => rfl) h ho rfl (by simp only [hs, hd, decide_true, Bool.and_self]) rfl
  · refine exists_laneResult_of_opcode (f := fun c => opRdsv c q n gi) rfl (fun _ => rfl) h ho rfl hs (fun _ => rfl) (act_lt t) ?_
    refine congrArg (fun g => Issue.ok (setGrp t.k (nextPc t.pc t.mask g) d)) (List.foldl_ext _ _ _ (fun g l _ => ?_))
    refine congrArg (fun v => wrV t.i.d l v (guardOf t.g t.i l).2 g) ?_
    exact specialValue_eq h.place.2.1 h.core.1 d l t.i.x

/-! ### Floating-point arithmetic (R266, R268) -/

/-- A comparison of values by its code (R266): a NaN makes every one false but NE. -/
theorem FVal.cmp_eq (code : Nat) (a b : FVal) : FVal.cmp code a b =
    match code with
    | 0 => !a.isNan && !b.isNan && !a.lt b && !b.lt a
    | 1 => a.isNan || b.isNan || a.lt b || b.lt a
    | 2 => !a.isNan && !b.isNan && a.lt b
    | 3 => !a.isNan && !b.isNan && !b.lt a
    | 4 => !a.isNan && !b.isNan && b.lt a
    | _ => !a.isNan && !b.isNan && !a.lt b := by
  unfold FVal.cmp
  cases a.isNan <;> cases b.isNan
  all_goals
    match code with
    | 0 | 1 | 2 | 3 | 4 => rfl
    | _ + 5 => rfl

/-- The four products, sums and C of HDOT4, each rounded (R268). -/
theorem hdot4_eq {md : Nat} (hm : md = 1 ∨ md = 2) {a b : List Nat} (ha : a.length = 2) (hb : b.length = 2) (acc : Nat) :
    hdot4 (fpFmt md) (a.flatMap (fpEls md)) (b.flatMap (fpEls md)) acc =
      let e := fun (w : List Nat) (j : Nat) => fDecode (fpFmt md) ((w.flatMap (fpEls md)).getD j 0)
      let p := fun (j : Nat) => fDecode 7 (fEncode 7 ((e a j).mul (e b j)))
      let s := fun (u v : FVal) => fDecode 7 (fEncode 7 (u.add v))
      fEncode 7 ((s (s (p 0) (p 1)) (s (p 2) (p 3))).add (fDecode 7 acc)) := by
  obtain ⟨a0, a1, rfl⟩ := List.length_eq_two.1 ha
  obtain ⟨b0, b1, rfl⟩ := List.length_eq_two.1 hb
  obtain rfl | rfl := hm <;> rfl

/-- A legal instruction's MOD is one of its shape's. -/
theorem md_of_shapeOk {sh : Shape} {i : Ins} (h : shapeOk sh i = true) : sh.md i.md = true := by
  simp only [shapeOk, Bool.and_eq_true] at h
  obtain ⟨⟨⟨⟨⟨⟨⟨hmd, -⟩, -⟩, -⟩, -⟩, -⟩, -⟩, -⟩ := h
  exact hmd

/-- In format R, B has as many words as its shape says. -/
theorem laneIn_b_length {sh : Shape} {t : IssueCtx} (h : t.i.imm = false) (l : Nat) : (laneIn sh t l).b.length = sh.b := by
  by_cases hb : sh.b = 0
  · simp [laneIn, hb, h]
  · simp [laneIn, hb, rdB, h]

/-- Settles O46: the rows of elements as they stand, FCMP by its codes, HDOT4 by the four elements of each operand. -/
theorem floatArithmeticRows : Obligations.FloatArithmeticRows := by
  refine ⟨laneRow_of_same (fun _ _ _ _ => rfl), laneRow_of_same (fun _ _ _ _ => rfl), laneRow_of_same (fun _ _ _ _ => rfl),
    laneRow_of_same (fun _ _ _ _ => rfl), laneRow_of_same (fun _ _ _ _ => rfl),
    predRow_of _ (fun _ _ _ _ => rfl) (fun t l hs => ?_) rfl rfl (fun _ => rfl),
    laneRow_of_shape (fun i x => [hdot4 (fpFmt i.md) (x.a.flatMap (fpEls i.md)) (x.b.flatMap (fpEls i.md)) (wd x.c 0)]) (fun _ _ _ _ => rfl)
      (fun t l hs _ => ?_) (fun _ _ => rfl) rfl rfl (.inl rfl),
    laneRow_of_same (fun _ _ _ _ => rfl),
    laneRow_of_same (fun _ _ _ _ => rfl)⟩
  · have hx := (reg_of_shapeOk hs rfl).2
    simp only [Bool.and_eq_true] at hx
    have hc : ∀ ps : List (FVal × FVal × FVal), ps.all (fun (a, b, _) => FVal.cmp (bits t.i.x 2 0) a b) = ps.all _ :=
      fun ps => congrArg ps.all (funext fun p => FVal.cmp_eq (bits t.i.x 2 0) p.1 p.2.1)
    exact (wd_b2n _).trans ((congrArg (combine (bits t.i.x 5 4) · _) (hc _)).trans (combine_eq _ _ (combineCode_lt hx.1.2)))
  · obtain ⟨hi, -⟩ := reg_of_shapeOk hs rfl
    have hm := md_of_shapeOk hs
    simp only [Bool.or_eq_true, beq_iff_eq] at hm
    exact congrArg (fun w => [w]) (hdot4_eq hm (rdSrc_length _ _ _ _ _) (laneIn_b_length hi l) _)

/-- Settles O47: every function element by element; FRCP's is the reciprocal rounded. -/
theorem floatFunctionRows : Obligations.FloatFunctionRows :=
  ⟨laneRow_of_same (fun _ _ _ _ => rfl), laneRow_of_same (fun _ _ _ _ => rfl), laneRow_of_same (fun _ _ _ _ => rfl),
    laneRow_of_same (fun _ _ _ _ => rfl), laneRow_of_same (fun _ _ _ _ => rfl), laneRow_of_same (fun _ _ _ _ => rfl),
    laneRow_of_same (fun _ _ _ _ => rfl)⟩

/-! ### Values of the single-operand functions (R267) -/

/-- What R267 leaves free of a result: the model's evaluation rounded once, a zero of either sign; in FP32 any finite value within the bound. -/
def Within (f r : Nat) (bound exact : Ex) : Prop :=
  (∃ sg, r = fRound f sg exact) ∨ f = 7 ∧ ∃ w, finOf 7 r = some w ∧ ((w.sub exact).abs).le bound = true

/-- A bounded result lies within its bound, whatever the free value proposes. -/
theorem within_boundedResult (f fn code : Nat) (bound exact : Ex) : Within f (boundedResult f fn code bound exact) bound exact := by
  unfold boundedResult
  dsimp only
  by_cases hf : f = 7
  · rw [if_neg (not_not_intro hf)]
    cases hw : finOf 7 (Config.freeMath fn (BitVec.ofNat 32 code)).toNat with
    | none => exact .inl ⟨_, rfl⟩
    | some w =>
      by_cases hb : ((w.sub exact).abs).le bound = true
      · dsimp only
        rw [if_pos hb]
        exact .inr ⟨hf, w, hw, hb⟩
      · dsimp only
        rw [if_neg hb]
        exact .inl ⟨_, rfl⟩
  · rw [if_pos hf]
    exact .inl ⟨_, rfl⟩

section
variable {v : Ex} (f : Nat)

theorem fpFunction_nan {fn : Nat} (h : fn < 7) : fpFunction fn f .nan = fNan f := by
  match fn, h with
  | 0, _ | 1, _ | 2, _ | 3, _ | 4, _ | 5, _ | 6, _ => rfl

/-- A negative operand has no root and no logarithm. -/
theorem fpFunction_neg (h : v.isNeg = true) :
    fpFunction 1 f (.fin v) = fNan f ∧ fpFunction 2 f (.fin v) = fNan f ∧ fpFunction 4 f (.fin v) = fNan f := by
  refine ⟨?_, ?_, ?_⟩ <;> simp [fpFunction, h]

theorem fsqrt_fin (h : v.isNeg = false) : fpFunction 2 f (.fin v) = fRound f false (sqrtEx v) := by simp [fpFunction, h]

theorem frsq_fin (h : v.isNeg = false) :
    fpFunction 1 f (.fin v) = boundedResult f 1 (fEncode f (.fin v)) (ulp32 (rsqrtEx v)) (rsqrtEx v) := by simp [fpFunction, h]

theorem flg2_fin (h : v.isNeg = false) :
    fpFunction 4 f (.fin v) = boundedResult f 4 (fEncode f (.fin v)) ((ulp32 (log2Ex v)).scale 1) (log2Ex v) := by simp [fpFunction, h]

/-- Between -200 and 200 the operand is not clamped. -/
theorem fex2_fin (h1 : (Ex.ofInt 200).lt v = false) (h2 : v.lt (Ex.ofInt (-200)) = false) :
    fpFunction 3 f (.fin v) = boundedResult f 3 (fEncode f (.fin v)) ((ulp32 (exp2Ex v)).scale 1) (exp2Ex v) := by
  simp [fpFunction, h1, h2]

/-- Of an integer number of turns the sine is +0 and the cosine 1. -/
theorem trig_integer (h : v.n % (v.d : Int) = 0) :
    fpFunction 5 f (.fin v) = 0 ∧ fpFunction 6 f (.fin v) = fEncode f (.fin (Ex.ofInt 1)) := by
  constructor <;> simp only [fpFunction, if_pos h] <;> rfl

theorem trig_fin (h : v.n % (v.d : Int) ≠ 0) :
    fpFunction 5 f (.fin v) = boundedResult f 5 (fEncode f (.fin v)) ((Ex.ofInt 1).scale (-22)) (trigEx false v) ∧
      fpFunction 6 f (.fin v) = boundedResult f 6 (fEncode f (.fin v)) ((Ex.ofInt 1).scale (-22)) (trigEx true v) := by
  constructor <;> simp only [fpFunction, if_neg h] <;> rfl

/-- The code of +infinity. -/
theorem fEncode_inf_pos : fEncode f (.inf false) = fInf f := Nat.zero_add _

end

/-- Settles O48: the special values by the table of each function, the bounded ones by `within_boundedResult`. -/
theorem floatFunctionValues : Obligations.FloatFunctionValues := by
  intro f
  refine ⟨fun fn h => fpFunction_nan f h, fun v h => fpFunction_neg f h, fun v h => fsqrt_fin f h, fun _ => rfl, fEncode_inf_pos f, rfl,
    fun _ => rfl, rfl, rfl, rfl, rfl, fun _ => rfl, rfl, rfl, fun _ => ⟨rfl, rfl⟩, fun _ => ⟨rfl, rfl⟩, fun v h => trig_integer f h, fun v => ?_⟩
  have hb := within_boundedResult f
  refine ⟨fun h => ?_, fun h1 h2 => ?_, fun h => ?_, fun h => ⟨?_, ?_⟩⟩
  · rw [frsq_fin f h]; exact hb ..
  · rw [fex2_fin f h1 h2]; exact hb ..
  · rw [flg2_fin f h]; exact hb ..
  · rw [(trig_fin f h).1]; exact hb ..
  · rw [(trig_fin f h).2]; exact hb ..

/-! ### L16 and conversions (R269 to R271) -/

/-- The bits of A that CVT converts, by the code of its source (R270). -/
def cvtBits (code : Nat) (high : Bool) (w : Nat) : Nat :=
  if code ≤ 2 then w else if code ≤ 5 then (if high then w / 2 ^ 16 else w % 2 ^ 16) else w % 2 ^ 8

theorem cvtBits_eq (code : Nat) (high : Bool) (w : Nat) : cvtBits code high w =
    match code with
    | 0 | 1 | 2 => w
    | 3 | 4 | 5 => if high then w / 2 ^ 16 else w % 2 ^ 16
    | _ => w % 2 ^ 8 :=
  match code with
  | 0 | 1 | 2 | 3 | 4 | 5 | _ + 6 => rfl

/-- Settles O49: the L16 rows and CVT2 are as promised, CVT by the bits of its source. -/
theorem logAndConversionRows : Obligations.LogAndConversionRows :=
  ⟨laneRow_of_same (fun _ _ _ _ => rfl), laneRow_of_same (fun _ _ _ _ => rfl),
    laneRow_of_same (fun _ _ _ _ => rfl), laneRow_of_same (fun _ _ _ _ => rfl),
    laneRow_of_word (fun i x => cvtDest (bits i.x 7 4) i.md (cvtSource (bits i.x 3 0) (cvtBits (bits i.x 3 0) (bit i.x 8) (wd x.a 0))))
      (fun _ _ _ _ => rfl) (fun i _ => congrArg (fun w => cvtDest (bits i.x 7 4) i.md (cvtSource (bits i.x 3 0) w)) (cvtBits_eq _ _ _)),
    laneRow_of_same (fun _ _ _ _ => rfl)⟩

/-! ### Accesses through the store (R272, R274, R395) -/

/-- Where every access goes through, the lanes' effect is taken and the instruction is done: no lane is noted as performed. -/
theorem storePath_of_accessed {s : State} {t : IssueCtx} {size access : Nat} {off : Bool} {bus : LanePa → Option Nat} {d d' : Dev}
    {ps : List LanePa} (h : Accessed s t size access off bus d ps d') (k : List LanePa → Grp × Dev → Grp × Dev) :
    storePath s.cfg t size access off bus k d = .ok (setGrp t.k
      (nextPc t.pc t.mask { (k ps (t.g, d')).1 with part := aset (k ps (t.g, d')).1.part t.pc 0 }) (k ps (t.g, d')).2) := by
  obtain ⟨hf, hv, ht, hp⟩ := h
  unfold toPerform at hv ht
  simp only [storePath, hf, hv, ht, hp, Bool.false_eq_true, if_false]

/-- A block's local memory where no access faults. -/
theorem localPath_of_access {t : IssueCtx} {size : Nat} {off : Bool} {d : Dev} {b : CoreBlk} {l : List LaneVa} (h : LocalAccess t size off d b l)
    (k : CoreBlk → List LaneVa → Issue) : localPath t size off k d = k b l := by
  obtain ⟨rfl, hf, rfl⟩ := h
  simp only [localPath, hf]

/-- Compare-and-swap alone keeps its memory, where the old value is not C. -/
theorem ite_atomWrites {α : Type} (op old cc : Nat) (x y : α) :
    (if atomWrites op old cc then x else y) = if op = 9 ∧ old ≠ cc then y else x := by
  rw [← ite_not]
  refine if_congr ?_ rfl rfl
  simp [atomWrites]

/-- The opcodes of a size range are assigned. -/
theorem opAssigned_memory {op : Nat} (h : inRange op 0x40 0x46 = true ∨ inRange op 0x48 0x4C = true ∨ inRange op 0x50 0x56 = true ∨
    inRange op 0x58 0x5C = true) : opAssigned op = true := by
  rcases h with h | h | h | h <;> simp [opAssigned, h]

/-! ### Local memory (R253) -/

/-- A change of a core is a replacement by what the change makes of it. -/
theorem setCore_eq_const (k : Nat) (f : Core → Core) (d : Dev) : setCore k f d = setCore k (fun _ => f (coreOf d k)) d := by
  have h : d.cores.modify k f = d.cores.modify k (fun _ => f (d.cores.getD k default)) := by
    refine List.ext_getElem? (fun j => ?_)
    rw [List.getElem?_modify, List.getElem?_modify]
    split
    next hj => subst hj; cases hc : d.cores[k]? <;> simp [hc]
    next => rfl
  exact congrArg (fun cs => { d with cores := cs }) h

theorem loadWords_length {k : Nat} {b : List Byte} (hb : b.length = loadSize k) : (loadWords k b).length = sizeWords (loadSize k) := by
  unfold loadWords
  by_cases h1 : k = 1
  · rw [if_pos h1, h1]; rfl
  · rw [if_neg h1]
    by_cases h3 : k = 3
    · rw [if_pos h3, h3]; rfl
    · rw [if_neg h3, List.length_map, List.length_range, hb]

theorem mem_putByte {α : Type} {a : Nat} {b : α} {l : Arr α} {p : Nat × α} (h : p ∈ putByte a b l) : p = (a, b) ∨ p ∈ l :=
  (mem_ainsert a b _ p h).imp_right (fun h => (List.mem_filter.1 h).1)

/-- Listing bytes from an address adds no entry outside them. -/
theorem mem_foldl_putByte {α : Type} {a : Nat} {bs : List (α × Nat)} {l : Arr α} {p : Nat × α}
    (h : p ∈ bs.foldl (fun l (b, j) => putByte (a + j) b l) l) : p ∈ l ∨ ∃ x ∈ bs, p.1 = a + x.2 := by
  induction bs generalizing l with
  | nil => exact .inl h
  | cons x bs ih =>
    obtain h | ⟨y, hy, e⟩ := ih h
    · obtain rfl | h := mem_putByte h
      · exact .inr ⟨x, List.mem_cons_self, rfl⟩
      · exact .inl h
    · exact .inr ⟨y, List.mem_cons_of_mem _ hy, e⟩

/-- The bytes that stores list lie in the stores' ranges. -/
theorem mem_mergeStores {α : Type} {l : List (Nat × List α)} {p : Nat × α} (h : p ∈ mergeStores l) :
    ∃ x ∈ l, x.1 ≤ p.1 ∧ p.1 < x.1 + x.2.length := by
  induction l using List.reverseRecOn with
  | nil => exact absurd h List.not_mem_nil
  | append_singleton l x ih =>
    rw [mergeStores, List.foldl_append] at h
    obtain h | ⟨y, hy, e⟩ := mem_foldl_putByte h
    · obtain ⟨y, hy, hp⟩ := ih h
      exact ⟨y, List.mem_append_left _ hy, hp⟩
    · have hlt := List.snd_lt_of_mem_zipIdx hy
      exact ⟨x, List.mem_append_right _ List.mem_cons_self, by omega, by omega⟩

theorem aget_foldl_aset {α β : Type} [Inhabited α] [DecidableEq α] (key : β → Nat) (val : β → α) (l : List β) (m : Arr α) (i : Nat)
    (h : ∀ p ∈ l, key p ≠ i) : aget (l.foldl (fun m p => aset m (key p) (val p)) m) i = aget m i := by
  induction l generalizing m with
  | nil => rfl
  | cons p l ih =>
    rw [List.foldl_cons, ih _ (fun q hq => h q (List.mem_cons_of_mem _ hq)), aget_aset_ne _ _ _ _ (h p List.mem_cons_self)]

/-- A byte of local memory that a write does not list is as it was. -/
theorem rdLocal_putLocal_of_unlisted (b : CoreBlk) {l : Arr PByte} (core : Core) {x : Nat} (h : ∀ p ∈ l, p.1 ≠ x) :
    (rdLocal (putLocal b l core) b x).1 = (rdLocal core b x).1 :=
  aget_foldl_aset (fun p => b.lo + p.1) (fun p => p.2.1) l core.mem (b.lo + x) (fun p hp he => h p hp (Nat.add_left_cancel he))

theorem storeData_length_le (t : IssueCtx) (size l : Nat) : (storeData t size l).length ≤ size := by
  simp only [storeData, mark, storeBytes, List.length_map]
  exact List.length_take_le _ _

/-- Stores of lanes list no byte outside the lanes' ranges. -/
theorem unlisted_of_outside (t : IssueCtx) {size x : Nat} {l : List LaneVa} (h : ∀ a ∈ l, x < a.va ∨ a.va + size ≤ x) :
    ∀ p ∈ mergeStores (l.map (fun a => (a.va, storeData t size a.lane))), p.1 ≠ x := by
  rintro p hp rfl
  obtain ⟨y, hy, h1, h2⟩ := mem_mergeStores hp
  obtain ⟨a, ha, rfl⟩ := List.mem_map.1 hy
  have hlen := storeData_length_le t size a.lane
  dsimp only at h1 h2
  have := h a ha
  omega

/-- What LLD reads for a lane, from the lane's address on. -/
def lldBytes (t : IssueCtx) (d : Dev) (b : CoreBlk) (size l : Nat) : List PByte :=
  localBytes (coreOf d t.k) b ((laneLocal t true l).va - if t.g.kind = 2 then b.lo else 0) size

/-- The lanes of LLD take their words one after another. -/
theorem foldl_putLoad_eq_wrLanes {t : IssueCtx} {size k : Nat} {d : Dev} {b : CoreBlk} {l : List LaneVa} (h : LocalAccess t size true d b l) :
    l.foldl (fun g a => putLoad t a.lane (loadWords k (pdata (localBytes (coreOf d t.k) b a.va size)))
        (ppoison (localBytes (coreOf d t.k) b a.va size)) g) t.g =
      wrLanes t.i.d (fun x => loadWords k (pdata (lldBytes t d b size x)))
        (fun x => ppoison (lldBytes t d b size x) || (guardOf t.g t.i x).2) t.act t.g := by
  obtain ⟨rfl, -, rfl⟩ := h
  rw [List.foldl_map, List.foldl_map]
  rfl

/-- Settles O50: the rows of the store by `storePath_of_accessed`, those of local memory by `localPath_of_access`. -/
theorem shaderMemoryRows : Obligations.ShaderMemoryRows := by
  refine ⟨fun s q n gi t d ps d' h hr hs ha => ?_, fun s q n gi t d ps d' h hr hs ha => ?_, fun s q n gi t d b l h hr hs ha => ?_,
    fun s q n gi t d b l h hr hs ha => ?_, fun s q n gi t d ps d' h ho hs ha => ?_, fun s q n gi t d b l h ho hs ha => ?_⟩
  · exact exec_of_issued (f := fun c => opCld c q n gi) rfl (fun _ => rfl) h (opAssigned_memory (.inl hr)) hr hs (storePath_of_accessed ha _)
  · exact exec_of_issued (f := fun c => opCst c q n gi) rfl (fun _ => rfl) h (opAssigned_memory (.inr (.inl hr))) hr hs
      (storePath_of_accessed ha _)
  · refine ⟨_, laneResult_of t t.act _ (fun x => loadWords (t.i.op - 0x50) (pdata (lldBytes t d b (loadSize (t.i.op - 0x50)) x))) _
      (fun x => loadWords_length (by simp [pdata, lldBytes, localBytes])) (act_lt t), ?_⟩
    exact exec_of_issued (f := fun c => opLld c q n gi) rfl (fun _ => rfl) h (opAssigned_memory (.inr (.inr (.inl hr)))) hr hs
      ((localPath_of_access ha _).trans (congrArg (fun g => Issue.ok (setGrp t.k (nextPc t.pc t.mask g) d)) (foldl_putLoad_eq_wrLanes ha)))
  · refine ⟨_, ?_, rfl, fun x hx => rdLocal_putLocal_of_unlisted b _ (unlisted_of_outside t hx)⟩
    rw [← setCore_eq_const]
    exact exec_of_issued (f := fun c => opLst c q n gi) rfl (fun _ => rfl) h (opAssigned_memory (.inr (.inr (.inr hr)))) hr hs
      (localPath_of_access ha _)
  · refine (exec_of_opcode (f := fun c => opCatom c q n gi) rfl (fun _ => rfl) h ho rfl hs (storePath_of_accessed ha _)).trans ?_
    simp only [ite_atomWrites]
  · refine (exec_of_opcode (f := fun c => opLatom c q n gi) rfl (fun _ => rfl) h ho rfl hs (localPath_of_access ha _)).trans ?_
    simp only [ite_atomWrites]

end Sys2Proof.Machine

/-! PROOFS. The statements of tile graphics (10): the steps of a render pass, from its start to the write-back of its tiles. -/

namespace Sys2Proof.Machine

/-! ### Work of the tile engine -/

/-- Work whose first part is done goes on with the rest. -/
theorem runEng_bind_of_ok {α β : Type} {w : Eng α} {f : α → Eng β} {d e : Dev} {a : α} (h : runEng w d = (.ok a, e)) :
    runEng (w >>= f) d = runEng (f a) e := by
  rw [runEng_bind, h]

/-- A step of TIL whose work is done leaves the pass that the work yields. -/
theorem tilStep_of_ok {c : Cfg} {f : Pass → Rq → Eng Pass} {d e : Dev} {p q : Pass} (hp : d.til = some p) (hr : tilReady c d p = true)
    (hf : runEng (f p (rqTil c p)) d = (.ok q, e)) : tilStep c f d = { e with til := some q } := by
  simp [tilStep, hp, hr, hf]

/-! ### The start of a pass (R283, R284) -/

/-- The draw entries of the pass with descriptor `b`, each checked as it is read. -/
def readDraws (c : Cfg) (rq : Rq) (b : List Byte) : Eng (List (List Byte)) :=
  (List.range (getLe b 0xC 4)).mapM (fun i => do
    let e ← eRead c rq (getLe b 0x10 8 + 64 * i) 64
    if ppoison e || !drawOk b (pdata e) then throw .invalid
    pure (pdata e))

section
variable {s : State} {r : Run} {x : Cmd} {b : List Byte} {e : Dev} (h : UnitRuns s 6 0 0 r x) (ht : s.dev.til = none)
  (hb : runEng (ePayload s.cfg (rqUnit s.cfg x 6 0 0) x.entry.payload 256) s.dev = (.ok b, e))
include h ht hb

theorem tilRender_of_illegal (hk : passOk b = false) : tilRender s.cfg s.dev = tilEnd 0x10 e := by
  unfold tilRender
  simp only [h.run, h.going, h.able.1, h.able.2.1, h.able.2.2, ht, Option.isSome_none, Bool.not_true, Bool.or_self, Bool.false_eq_true, if_false]
  rw [runEng_bind_of_ok hb, if_pos hk]
  rfl

theorem tilRender_of_legal {draws : List (List Byte)} {d : Dev} (hk : passOk b = true)
    (hd : runEng (readDraws s.cfg (rqUnit s.cfg x 6 0 0) b) e = (.ok draws, d)) :
    tilRender s.cfg s.dev = setUnits x 1 { d with til := some { (default : Pass) with
      serial := x.serial, ring := x.ring, ctx := x.ctx, desc := b, draws := draws, pool := 8 * tileCount b } } := by
  unfold tilRender
  simp only [h.run, h.going, h.able.1, h.able.2.1, h.able.2.2, ht, Option.isSome_none, Bool.not_true, Bool.or_self, Bool.false_eq_true, if_false]
  rw [runEng_bind_of_ok hb, if_neg (by simp [hk])]
  unfold readDraws at hd
  rw [runEng_bind_of_ok hd]
  rfl

end

/-! ### Binning (R285, R286, R288, R289) -/

/-- The headers of the tile lists of a pass: the pool offset of the first chunk and the number of entries (R288). -/
def tileHeaders (q : Pass) : List PByte :=
  mark false ((List.range (tileCount q.desc)).flatMap (fun t =>
    leBytes 4 (if (aget q.tiles t).prims = [] then 0xFFFFFFFF else (aget q.tiles t).first) ++ leBytes 4 (aget q.tiles t).prims.length))

section
variable {c : Cfg} {p : Pass} {d : Dev} (hp : d.til = some p) (h0 : p.phase = 0) (hr : tilReady c d p = true)
include hp h0 hr

section
variable (hd : p.tDraw < p.draws.length)
include hd

/-- A triangle whose vertices are all shaded is binned, and the search goes on after it. -/
theorem tilTriangle_of_shaded {q t : Pass} {i j k next : Nat} {odd : Bool} {a b f : Dev}
    (hn : runEng (nextTriangle c (rqTil c p) (p.draws.getD p.tDraw []) (drawCount (p.draws.getD p.tDraw [])) p.tElem p.tOdd) d =
      (.ok (some ((i, j, k), next, odd)), a))
    (hv : runEng (placeVertices c (rqTil c p) p) a = (.ok q, b))
    (hs : ([i, j, k].map (fun n => aget q.vtx (vtxKey p.tDraw n))).any (fun v => v.words == []) = false)
    (ht : runEng (binPolygon c (rqTil c p) p.tDraw ([i, j, k].map (fun n => aget q.vtx (vtxKey p.tDraw n))) q) b = (.ok t, f)) :
    tilTriangle c d = { f with til := some (
      if drawCount (p.draws.getD p.tDraw []) < next + 3 then { t with tDraw := p.tDraw + 1, tElem := 0, tOdd := false }
      else { t with tElem := next, tOdd := odd }) } := by
  simp only [tilTriangle, hp]
  refine (if_neg (by omega)).trans (tilStep_of_ok hp hr ?_)
  rw [runEng_bind_of_ok hn]
  dsimp only
  rw [runEng_bind_of_ok hv, if_neg (Bool.eq_false_iff.1 hs), runEng_bind_of_ok ht]
  rfl

/-- A draw with no triangle left is passed over. -/
theorem tilTriangle_of_none {e : Dev}
    (hn : runEng (nextTriangle c (rqTil c p) (p.draws.getD p.tDraw []) (drawCount (p.draws.getD p.tDraw [])) p.tElem p.tOdd) d = (.ok none, e)) :
    tilTriangle c d = { e with til := some { p with tDraw := p.tDraw + 1, tElem := 0, tOdd := false } } := by
  simp only [tilTriangle, hp]
  refine (if_neg (by omega)).trans (tilStep_of_ok hp hr ?_)
  rw [runEng_bind_of_ok hn]
  rfl

end

section
variable {q : Pass} {a e : Dev} (hd : p.draws.length ≤ p.tDraw) (hv : verticesDone d p = true)
  (hq : runEng (placeVertices c (rqTil c p) p) d = (.ok q, a))
include hd hv hq

/-- A pass whose pool outgrew its area ends once its status is written. -/
theorem tilBinningDone_of_overran (ho : q.overran = true) (hw : runEng (writeStatus c (rqTil c p) q) a = (.ok (), e)) :
    tilBinningDone c d = tilEnd 0x12 { e with til := some { q with phase := 2 } } := by
  simp only [tilBinningDone, hp]
  rw [if_neg (by simp [h0, hd, hv]), tilStep_of_ok (q := { q with phase := 2 }) (e := e) hp hr]
  · rfl
  · rw [runEng_bind_of_ok hq, if_pos ho, runEng_bind_of_ok hw]
    rfl

theorem tilBinningDone_of_fitting (ho : q.overran = false)
    (hw : runEng (eWrite c (rqTil c p) (getLe q.desc 0x18 8) (tileHeaders q)) a = (.ok (), e)) :
    tilBinningDone c d = { e with til := some { q with phase := 1 } } := by
  simp only [tilBinningDone, hp]
  rw [if_neg (by simp [h0, hd, hv]), tilStep_of_ok (q := { q with phase := 1 }) (e := e) hp hr]
  · rfl
  · rw [runEng_bind_of_ok hq, if_neg (by simp [ho])]
    unfold tileHeaders at hw
    rw [runEng_bind_of_ok hw]
    rfl

end
end

/-! ### Tiles (R290, R293, R294, R295) -/

/-- What a core is given with tile `t`: the bytes of the attachments in its local memory, and the fragment groups of the tile. -/
def tileWork (c : Cfg) (p : Pass) (t : Nat) (head : Nat × Nat × Bool) : Eng (List (List (Nat × List PByte)) × List FragJob) := do
  let ls ← (attList p.desc).mapM (fun a => loadAttachment c (rqTil c p) p.desc (attEntry p.desc a) t (a * attBytes p.desc))
  pure (ls, ← jobsOf c (rqTil c p) p t head)

/-- The lowest allowed core with fewer than two tiles of the pass and room for one more (R290). -/
def tileCore (c : Cfg) (p : Pass) (d : Dev) : Option Nat :=
  (passCores c d p).find? (fun k => decide ((p.active.filter (fun a => a.core == k)).length < 2) &&
    (fits (coreOf d k) p.ctx 0 8 (tileBytes p.desc) false).isSome)

section
variable {c : Cfg} {p : Pass} {d e : Dev} {nx skip : Nat} {head : Nat × Nat × Bool} (hp : d.til = some p) (h1 : p.phase = 1)
  (hr : tilReady c d p = true) (hn : runEng (nextTile c (rqTil c p) p (tileCount p.desc) p.nextTile) d = (.ok (nx, skip, head), e))
include hp h1 hr hn

/-- With no tile left to hand out, the pass ends once all are complete. -/
theorem tileHandout_of_last (hl : tileCount p.desc ≤ nx) :
    tileHandout c d = passEnd c { e with til := some { p with nextTile := nx, skipped := p.skipped + skip } } := by
  simp only [tileHandout, hp]
  rw [if_neg (by simp [h1, hr]), hn]
  exact if_pos hl

theorem tileHandout_of_core {k lo : Nat} {x : Cmd} {scheds : List Nat} {ls : List (List (Nat × List PByte))} {jobs : List FragJob} {f : Dev}
    (hl : nx < tileCount p.desc) (hk : tileCore c p e = some k) (hx : cmdOf e p.serial = some x)
    (hf : fits (coreOf e k) p.ctx 0 8 (tileBytes p.desc) false = some (scheds, lo))
    (hw : runEng (tileWork c p nx head) (takeCore k x.ctx e) = (.ok (ls, jobs), f)) :
    let blk : CoreBlk := ⟨(coreOf e k).nextId, p.serial, p.ring, p.ctx, 2, nx, lo, tileBytes p.desc, false, e.phe.tb, 0⟩
    tileHandout c d = { coreBusy k x (setCore k (fun m => putLocal blk (mergeStores ls.flatten) (putBlock blk [] m)) f) with
      til := some { p with nextTile := nx + 1, skipped := p.skipped + skip, active := p.active ++ [⟨nx, k, blk.id, jobs⟩] } } := by
  intro blk
  unfold tileCore at hk
  unfold tileWork at hw
  simp only [tileHandout, hp]
  rw [if_neg (by simp [h1, hr]), hn]
  simp only [if_neg (Nat.not_le.2 hl), hk, hx, hf, hw]
  rfl

end

/-- A tile whose groups have exited and whose attachments are written back leaves its core. -/
theorem tileComplete_of_exited {c : Cfg} {p : Pass} {a : TileAct} {blk : CoreBlk} {d e : Dev} (hp : d.til = some p) (hr : tilReady c d p = true)
    (ha : p.active.find? (fun y => y.tile == a.tile) = some a) (hb : (coreOf d a.core).blocks.find? (fun b => b.id == a.blk) = some blk)
    (hj : a.jobs = []) (hg : (coreOf d a.core).groups.any (fun g => g.blk == a.blk) = false)
    (hw : runEng ((attList p.desc).forM (fun y =>
      storeAttachment c (rqTil c p) p.desc (attEntry p.desc y) a.tile (y * attBytes p.desc) (coreOf d a.core) blk)) d = (.ok (), e)) :
    tileComplete c a.tile d = passEnd c (coreSync a.core (setCore a.core (fun m => { m with blocks := m.blocks.filter (fun b => b.id != a.blk) })
      { e with til := some { p with active := p.active.filter (fun y => y.tile != a.tile), done := p.done + 1 } })) := by
  simp only [tileComplete, hp, ha, hb]
  rw [if_neg (by simp [hj, hg]),
    tilStep_of_ok (q := { p with active := p.active.filter (fun y => y.tile != a.tile), done := p.done + 1 }) (e := e) hp hr]
  · exact if_neg (Nat.succ_ne_self p.done)
  · rw [runEng_bind_of_ok hw]
    rfl

/-- Settles O55: each row by the lemma of its case, the engine's reads and writes taken as done. -/
theorem tilePassRows : Obligations.TilePassRows := by
  refine ⟨fun s r x b draws d hs hrun ht hg hst hf hu => ?_, fun s p q i j k next odd d e hs hp h0 hd hr => ?_, fun s p d hs hp h0 hd hr hn => ?_,
    fun s p q d hs hp h0 hd hv hr hq => ?_, fun s p nx skip head d hs hp h1 hr hn => ?_, fun s p a blk d hs hp hwf hr ha hb hj hg hw => ?_⟩
  · have h : UnitRuns s 6 0 0 r x := ⟨hs, hrun, hg, hst, hf, hu⟩
    have hx := exec_inRun (f := tilRender) (b := true) rfl hs
    exact ⟨fun e hb hk => hx.trans (by rw [tilRender_of_illegal h ht hb hk]),
      fun e hb hk hd => hx.trans (by rw [tilRender_of_legal h ht hb hk hd])⟩
  · intro draw hn hv vs hsh t f hb
    exact (exec_inRun (f := tilTriangle) rfl hs).trans (by rw [tilTriangle_of_shaded hp h0 hr hd hn hv hsh hb])
  · exact (exec_inRun (f := tilTriangle) rfl hs).trans (by rw [tilTriangle_of_none hp h0 hr hd hn])
  · have hx := exec_inRun (f := tilBinningDone) (b := true) rfl hs
    exact ⟨fun e ho hw => hx.trans (by rw [tilBinningDone_of_overran hp h0 hr hd hv hq ho hw]),
      fun e ho hw => hx.trans (by rw [tilBinningDone_of_fitting hp h0 hr hd hv hq ho hw])⟩
  · have hx := exec_inRun (f := tileHandout) (b := true) rfl hs
    exact ⟨fun hl => hx.trans (by rw [tileHandout_of_last hp h1 hr hn hl]),
      fun k x scheds lo ls jobs e hl hk hc hf hw => hx.trans (by rw [tileHandout_of_core hp h1 hr hn hl hk hc hf hw])⟩
  · exact (exec_inRun (f := fun c => tileComplete c a.tile) (decide_eq_true hwf) hs).trans
      (by rw [tileComplete_of_exited hp hr ha hb hj hg hw])

end Sys2Proof.Machine

/-! PROOFS. The statements of composition and display (11): presents, the decision, the latch, scan-out, signatures, and the displays' links. -/

namespace Sys2Proof.Machine

/-! ### COMP_PRESENT (R308, R312) -/

/-- COMP has given the command's token back: its one unit is started and no longer runs (R312). -/
def presentTaken (r : Run) (x : Cmd) (d : Dev) : Dev :=
  retireToken x (setCmd (setInst (chargeUnit 28 r d) (instIdx 7 0 0) (fun m => { m with run := none, lastCtx := some r.ctx })) x.serial
    (fun x => { x with units := some 1, unitsLeft := [], unitsRunning := 0 }))

/-- The command of the set that waits for pipe `p`. -/
def pendingCmd (p : Nat) (d : Dev) : Option Cmd := (pipeOf d p).pending.bind (fun old => cmdOf d old.serial)

section
variable {s : State} {r : Run} {x : Cmd} {b : List Byte} {d : Dev} (h : UnitRuns s 7 0 0 r x)
  (hb : runEng (ePayload s.cfg (rqUnit s.cfg x 7 0 0) x.entry.payload 416) s.dev = (.ok b, d))
include h hb

theorem compPresent_of_illegal (hk : presentOk s.cfg d b = false) : compPresent s.cfg s.dev = unitEnd 7 0 0 0x10 false d := by
  unfold compPresent
  simp only [h.run, h.going, h.able.1, h.able.2.1, h.able.2.2, Option.isSome_none, Bool.not_true, Bool.or_self, Bool.false_eq_true, if_false, hb,
    if_pos hk]

theorem compPresent_of_legal (hk : presentOk s.cfg d b = true) :
    compPresent s.cfg s.dev = setPipe (getLe b 1 1) (fun m => { m with pending := some ⟨x.serial, x.ctx, b⟩, taken := false })
      ((pendingCmd (getLe b 1 1) (presentTaken r x d)).elim (presentTaken r x d) (fun y => finishUnits y 0x16 (presentTaken r x d))) := by
  unfold compPresent
  simp only [h.run, h.going, h.able.1, h.able.2.1, h.able.2.2, Option.isSome_none, Bool.not_true, Bool.or_self, Bool.false_eq_true, if_false, hb]
  rw [if_neg (by simp [hk])]
  unfold pendingCmd
  generalize ht : presentTaken r x d = e
  unfold presentTaken at ht
  rw [ht]
  refine congrArg (setPipe _ _) ?_
  cases (pipeOf e (getLe b 1 1)).pending with
  | none => rfl
  | some old =>
    simp only [Option.bind_some]
    cases cmdOf e old.serial <;> simp only [Option.elim_none, Option.elim_some]

end

/-! ### Decision and latch (R306, R313, R315, R321) -/

/-- The device at the next event of an angle of pipe `p`, the last one of which was at `last`. -/
def atAngle (c : Cfg) (p angle : Nat) (last : Option Nat) (d : Dev) : Dev :=
  advance c (ticksToStamp c (8 + p) (nextEvent angle last (refStamp (refOf d (8 + p)))) d) d

/-- The device at REPROJ_ANGLE of pipe `p`, the event noted. -/
def atDecision (c : Cfg) (p : Nat) (d : Dev) : Dev :=
  setPipe p (fun m => { m with decision := some (nextEvent (c.disp p).reprojAngle (pipeOf d p).decision (refStamp (refOf d (8 + p)))) })
    (atAngle c p (c.disp p).reprojAngle (pipeOf d p).decision d)

/-- The device at A_latch of pipe `p`, the event noted. -/
def atLatch (c : Cfg) (p : Nat) (d : Dev) : Dev :=
  setPipe p (fun m => { m with latched := some (nextEvent (latchAngle c p) (pipeOf d p).latched (refStamp (refOf d (8 + p)))) })
    (atAngle c p (latchAngle c p) (pipeOf d p).latched d)

/-- Whether the fence that the set `m` waits for has reached its value. -/
def fenceReached (d : Dev) (m : LayerSet) : Bool := decide (getLe m.desc 8 8 ≤ (aget d.fe.fences (getLe m.desc 4 2)).v)

/-- The shifts of the set in force that a late set asks for (R313). -/
def reprojShifts (m : LayerSet) : List (Int × Int) :=
  (List.range 8).map (fun i => if bit (getLe m.desc 6 1) i then (getS16 (layerEntry m.desc i) 0x20, getS16 (layerEntry m.desc i) 0x22) else (0, 0))

/-- The command that a set came with completes with a status, where it is still held. -/
def finishSerial (serial status : Nat) (d : Dev) : Dev := (cmdOf d serial).elim d (fun y => finishUnits y status d)

theorem finishSerial_of_none {n st : Nat} {d : Dev} (h : cmdOf d n = none) : finishSerial n st d = d := by rw [finishSerial, h, Option.elim_none]

theorem finishSerial_of_some {n st : Nat} {d : Dev} {y : Cmd} (h : cmdOf d n = some y) : finishSerial n st d = finishUnits y st d := by
  rw [finishSerial, h, Option.elim_some]

/-- What the decision does with the set `m` that waits for pipe `p`, by its fence (R313). -/
def decidePending (p : Nat) (m : LayerSet) (d : Dev) : Dev :=
  let failed := (aget d.fe.fences (getLe m.desc 4 2)).e
  if bit (getLe m.desc 2 1) 0 = false ∨ (failed = false ∧ fenceReached d m = true) then setPipe p (fun m => { m with taken := true, shift := none }) d
  else if failed = true ∧ fenceReached d m = true then
    finishSerial m.serial 0x14 (setPipe p (fun m => { m with pending := none, taken := false, shift := none }) d)
  else setPipe p (fun q => { q with taken := false, late := satInc 255 q.late, shift := some (reprojShifts m) }) d

section
variable {c : Cfg} {p : Nat} {d : Dev} (hon : pipeOn c d p = true) (hv : refValid (refOf d (8 + p)) = true)
include hon hv

theorem reprojDecision_of_none (hp : (pipeOf (atDecision c p d) p).pending = none) :
    reprojDecision c p d = setPipe p (fun m => { m with taken := false, shift := none }) (atDecision c p d) := by
  generalize he : atDecision c p d = e at hp ⊢
  unfold atDecision atAngle at he
  simp only [reprojDecision]
  rw [if_neg (by simp [hon, hv]), he, hp]

theorem reprojDecision_of_pending {m : LayerSet} (hp : (pipeOf (atDecision c p d) p).pending = some m) :
    reprojDecision c p d = decidePending p m (atDecision c p d) := by
  generalize he : atDecision c p d = e at hp ⊢
  unfold atDecision atAngle at he
  simp only [reprojDecision]
  rw [if_neg (by simp [hon, hv]), he, hp]
  unfold decidePending
  simp only [fenceReached, decide_eq_true_eq]
  split_ifs
  · rfl
  · generalize setPipe p _ e = a
    cases hc : cmdOf a m.serial with
    | none => exact (finishSerial_of_none hc).symm
    | some y => exact (finishSerial_of_some hc).symm
  · rfl

end

/-- The set `m` goes into force on pipe `p`, and its command completes OK (R312, R315). -/
def putInForce (p : Nat) (m : LayerSet) (d : Dev) : Dev :=
  setPipe p (fun q => { q with
    inForce := some m
    pending := none
    taken := false
    ctxLost := q.ctxLost && (ctxOf (finishSerial m.serial 0 d) m.ctx).state != 1 }) (finishSerial m.serial 0 d)

/-- At A_latch a taken set goes into force. -/
def latchTaken (p : Nat) (d : Dev) : Dev := if (pipeOf d p).taken then ((pipeOf d p).pending).elim d (fun m => putInForce p m d) else d

/-- What pipe `p` shows in the frame fixed in device `d`: safe by signature or by S4 (R321, R322). -/
def latchFrame (p : Nat) (d : Dev) : Frame :=
  let m := pipeOf d p
  ⟨m.inForce, m.shift.getD (List.replicate 8 (0, 0)), if (m.safeSig && !m.exitReq) || decide (4 ≤ d.pwr.stage) then 2 else 1, m.shift.isSome, m.ctxLost,
    false, latchRegions d.comp p⟩

/-- The frame of pipe `p` is fixed, and its lines, sums and comparisons start anew. -/
def frameFixed (p : Nat) (d : Dev) : Dev :=
  setPipe p (fun q => { q with
    frame := some (latchFrame p d), shift := none, safeSig := (pipeOf d p).safeSig && !(pipeOf d p).exitReq, exitReq := false, nextLine := 0
    compared := 0, sums := List.replicate 16 0xFFFFFFFF }) d

theorem layerLatch_of_on {c : Cfg} {p : Nat} {d : Dev} (hon : pipeOn c d p = true) (hv : refValid (refOf d (8 + p)) = true) :
    layerLatch c p d = frameFixed p (latchTaken p (atLatch c p d)) := by
  generalize he : atLatch c p d = e
  unfold atLatch atAngle at he
  simp only [layerLatch]
  rw [if_neg (by simp [hon, hv]), he]
  change frameFixed p _ = _
  refine congrArg (frameFixed p) ?_
  unfold latchTaken
  cases (pipeOf e p).taken with
  | false => rfl
  | true =>
    rw [if_pos rfl]
    cases (pipeOf e p).pending with
    | none => rfl
    | some m =>
      rw [Option.elim_some, putInForce]
      cases hc : cmdOf e m.serial with
      | none => simp only [hc, finishSerial_of_none hc]
      | some y => simp only [hc, finishSerial_of_some hc]

/-! ### Scan-out (R310, R316, R317, R318) -/

/-- Line `y` of frame `f` as pipe `p` composes it, with faults and poisoned sectors: black while the pipe is blanked. -/
def frameLine (c : Cfg) (p y : Nat) (f : Frame) (d : Dev) : List Nat × Nat × Nat × Dev :=
  if pipeBlank d p then (List.replicate (c.disp p).hActive 0, 0, 0, d) else composeLine c p y f d

/-- Whether pixels of a line of frame `f` are missing when `got` of them were fetched in time. -/
def lineMissing (c : Cfg) (p got : Nat) (f : Frame) (d : Dev) : Bool := decide (got < (c.disp p).hActive) && !pipeBlank d p && f.set.isSome

/-- The pixels `px` of a line as they go out: those not fetched in time show BACKGROUND (R318). -/
def lineOut (c : Cfg) (p got : Nat) (f : Frame) (d : Dev) (px : List Nat) : List Nat :=
  if lineMissing c p got f d then px.take got ++ List.replicate ((c.disp p).hActive - got) (f.set.elim 0 (fun m => getLe m.desc 0x14 4 % 2 ^ 24)) else px

theorem scanoutLine_of_frame {c : Cfg} {p got nf np : Nat} {f : Frame} {px : List Nat} {d e : Dev} (hon : pipeOn c d p = true)
    (hf : (pipeOf d p).frame = some f) (hl : (pipeOf d p).nextLine < (c.disp p).vActive)
    (hr : frameLine c p (pipeOf d p).nextLine f d = (px, nf, np, e)) :
    scanoutLine c p got d = setPipe p (fun q => { q with
      frame := some { f with blanked := f.blanked || pipeBlank d p }
      nextLine := (pipeOf d p).nextLine + 1, hurt := none, out := lineOut c p got f d px
      sums := sumLine c d p (pipeOf d p).nextLine f (lineOut c p got f d px) (pipeOf d p).sums
      fault := satAdd 255 q.fault nf, poison := satAdd 255 q.poison np
      underrun := if lineMissing c p got f d then satInc 255 q.underrun else q.underrun }) e := by
  unfold frameLine at hr
  unfold lineOut lineMissing
  simp only [scanoutLine, hf]
  rw [if_neg (by simp [hon, hl]), hr]
  cases f.set <;> rfl

/-! ### Signatures (R319, R320) -/

/-- Whether region `n` is to be compared on pipe `p`: its last line has been composed, and its frame has not compared it. -/
def compareDue (c : Cfg) (d : Dev) (n p : Nat) : Bool :=
  ((pipeOf d p).frame).any (fun f => pipeOn c d p && regionCompares c d p f n && !bit (pipeOf d p).compared n &&
    decide ((f.regions.getD n (0, 0, 0, 0)).2.2.1 / 65536 ≤ (pipeOf d p).nextLine))

/-- The comparison of region `n` on pipe `p` is noted, with the CRC `v` that it found. -/
def sigStored (n p v : Nat) (d : Dev) : Dev :=
  let e := setPipe p (fun m => { m with compared := putBit m.compared n true }) d
  { e with comp := { e.comp with sigActual := upd e.comp.sigActual n (fun _ => v) } }

/-- A mismatch of region `n` sets its status and counts source 26. -/
def sigMismatch (n : Nat) (d : Dev) : Dev := raise 26 { d with comp := { d.comp with sigStatus := putBit d.comp.sigStatus n true } }

theorem signatureCompare_of_due {c : Cfg} {n p : Nat} {f : Frame} {d : Dev} (hd : (List.range 2).find? (compareDue c d n) = some p)
    (hf : (pipeOf d p).frame = some f) :
    let r := f.regions.getD n (0, 0, 0, 0)
    let v := crcCheck (crcPreset 1) ((pipeOf d p).sums.getD n 0)
    let e := sigStored n p v d
    signatureCompare c n d = if v = r.2.2.2 then e
      else if bit r.1 3 then setPipe p (fun m => { m with safeSig := true, exitReq := false }) (sigMismatch n e) else sigMismatch n e := by
  intro r v e
  unfold signatureCompare
  generalize hg : List.find? _ (List.range 2) = g
  obtain rfl : g = some p := by
    rw [← hg, ← hd]
    congr 1
    funext q
    simp only [compareDue]
    cases (pipeOf d q).frame <;> rfl
  simp only [hf]
  rfl

/-- Settles O56: each row by the lemma of its case. -/
theorem compositionRows : Obligations.CompositionRows := by
  refine ⟨fun s r x b d hs hrun ht hst hf hu hb => ?_, fun s p hp hs hon hv => ?_, fun s p hp hs hon hv => ?_,
    fun s p got f px nf np d hp hs hon hf hl => ?_, fun s n p f hn hs hd hf => ?_⟩
  · have h : UnitRuns s 7 0 0 r x := ⟨hs, hrun, ht, hst, hf, hu⟩
    have hx := exec_inRun (f := compPresent) (b := true) rfl hs
    exact ⟨fun hk => hx.trans (by rw [compPresent_of_illegal h hb hk]), fun hk => hx.trans (by rw [compPresent_of_legal h hb hk]; rfl)⟩
  · have hx := exec_inRun (f := fun c => reprojDecision c p) (decide_eq_true hp) hs
    exact ⟨fun hn => hx.trans (by rw [reprojDecision_of_none hon hv hn]; rfl), fun m hm => hx.trans (by rw [reprojDecision_of_pending hon hv hm]; rfl)⟩
  · exact (exec_inRun (f := fun c => layerLatch c p) (decide_eq_true hp) hs).trans (by rw [layerLatch_of_on hon hv]; rfl)
  · intro y width hr
    exact (exec_inRun (f := fun c => scanoutLine c p got) (decide_eq_true hp) hs).trans (by rw [scanoutLine_of_frame hon hf hl hr]; rfl)
  · exact (exec_inRun (f := fun c => signatureCompare c n) (decide_eq_true hn) hs).trans (by rw [signatureCompare_of_due hd hf]; rfl)

/-! ### Links (R324, R325) -/

/-- DSI_CMD written while no packet waits, or without GO: type and length are set, and GO of a legal packet queues it. -/
def dsiQueued (v : Nat) (d : Dev) : Dev :=
  { d with comp := { d.comp with
    dsiType := bits v 15 8
    dsiLen := bits v 7 0
    dsiBusy := d.comp.dsiBusy || (v.testBit 31 && (bits v 15 8 == 0x05 || bits v 15 8 == 0x15 || bits v 15 8 == 0x39) &&
      decide (1 ≤ bits v 7 0 ∧ bits v 7 0 ≤ 64)) } }

theorem compDsiCmd_eq (v : Nat) (d : Dev) :
    compDsiCmd v d = if v.testBit 31 = true ∧ d.comp.dsiBusy = true then d else dsiQueued v d := by
  simp only [compDsiCmd, bit, inRange, Bool.and_eq_true, dsiQueued, Bool.decide_and]

/-- The device in the vertical blanking of pipe 0: at once when it has begun, else at the latch angle. -/
def atBlanking (c : Cfg) (d : Dev) : Dev :=
  let t := refStamp (refOf d 8)
  if t % 2 ^ 32 < latchAngle c 0 then advance c (ticksToStamp c 8 (nextAngle (latchAngle c 0) t) d) d else d

/-- The queued packet goes out, its type and then its data. -/
def packetSent (d : Dev) : Dev :=
  { d with comp := { d.comp with
    dsiBusy := false, dsiSent := leBytes 1 d.comp.dsiType ++ (d.comp.dsiData.flatMap (leBytes 4)).take d.comp.dsiLen } }

theorem dsiPacketSent_of_busy {c : Cfg} {d : Dev} (hb : d.comp.dsiBusy = true) (hon : pipeOn c d 0 = true) (hv : refValid (refOf d 8) = true) :
    dsiPacketSent c d = packetSent (atBlanking c d) := if_neg (by simp [hb, hon, hv])

/-- The link of pipe `p` is up or down from this moment. -/
def linkSet (p : Nat) (up : Bool) (d : Dev) : Dev := setPipe p (fun m => { m with link := up, linkTb := d.phe.tb }) d

theorem linkRetrain_of_down {c : Cfg} {p : Nat} {up : Bool} {d : Dev} (hon : pipeOn c d p = true) (hl : (pipeOf d p).link = false) :
    linkRetrain c p up d = linkSet p up (advanceTo c ((pipeOf d p).linkTb + 50000000) d) := if_neg (by simp [hon, hl])

theorem edpHpd_plug (c : Cfg) (up : Bool) (d : Dev) :
    let plug := { d with comp := { d.comp with hpd := true } }
    edpHpd c 0 up d = if pipeOn c plug 1 then linkSet 1 up plug else plug := rfl

theorem edpHpd_unplug (c : Cfg) (up : Bool) (d : Dev) : edpHpd c 1 up d = linkSet 1 false { d with comp := { d.comp with hpd := false } } := rfl

theorem edpHpd_pulse (c : Cfg) (up : Bool) (d : Dev) :
    edpHpd c 2 up d = if d.comp.hpd = true ∧ pipeOn c d 1 = true then linkSet 1 up d else d := by
  unfold edpHpd
  rw [if_neg (by decide), if_neg (by decide)]
  exact if_congr Bool.and_eq_true_iff rfl rfl

/-- Settles O57: two register writes and three events, each by the lemma of its case. -/
theorem displayLinkRows : Obligations.DisplayLinkRows := by
  refine ⟨fun s p v hp hv h => ?_, fun s v hv h => ?_, fun s hs hb hon hv => ?_, fun s p up hp hs hon hl => ?_, fun s up hs => ⟨?_, ?_, ?_⟩⟩
  · have hw : (Instr.compSafeExit p v).wf = true := by simp only [Instr.wf, hp, hv, decide_true, Bool.and_self]
    exact exec_hostReg (f := fun _ => compSafeExit p v) hw h
  · exact (exec_hostReg (f := fun _ => compDsiCmd v) (decide_eq_true hv) h).trans (by rw [compDsiCmd_eq]; rfl)
  · exact (exec_inRun (f := dsiPacketSent) rfl hs).trans (by rw [dsiPacketSent_of_busy hb hon hv]; rfl)
  · exact (exec_inRun (f := fun c => linkRetrain c p up) (decide_eq_true hp) hs).trans (by rw [linkRetrain_of_down hon hl]; rfl)
  · exact (exec_inRun (f := fun c => edpHpd c 0 up) rfl hs).trans (by rw [edpHpd_plug]; rfl)
  · exact (exec_inRun (f := fun c => edpHpd c 1 up) rfl hs).trans (by rw [edpHpd_unplug]; rfl)
  · exact (exec_inRun (f := fun c => edpHpd c 2 up) rfl hs).trans (by rw [edpHpd_pulse]; rfl)

end Sys2Proof.Machine

/-! PROOFS. The statements of host objects and submission (12): management commands, doorbells and queue registers, fetch and dispatch, reference
counts and fences. -/

namespace Sys2Proof.Machine

/-! ### Steps (R331) -/

/-- Settles O26: `step` takes the front of the queue. -/
theorem stepRunsTheFrontCommand : Obligations.StepRunsTheFrontCommand := fun _ _ _ => rfl

/-! ### Reference counts (R353, R354) -/

/-- A record for the kernel queue leaves the reference counts. -/
theorem kqRecord_refs (bytes : List Byte) (objects : List Nat) (d : Dev) : (kqRecord bytes objects d).2.fe.refs = d.fe.refs := by
  unfold kqRecord
  dsimp only
  split
  · rfl
  · split <;> rfl

/-- A record for the kernel queue counts no event but that of the full queue, source 14 (R349). -/
theorem kqRecord_count {n : Nat} (hn : 14 ≠ n) (bytes : List Byte) (objects : List Nat) (d : Dev) :
    aget (kqRecord bytes objects d).2.icu.count n = aget d.icu.count n := by
  unfold kqRecord
  dsimp only
  split
  · rfl
  · split
    · rfl
    · exact (raise_count ..).trans (if_neg hn)

/-- The refusal, the drop and the release exclude each other (R354). -/
theorem refDrop_of_lt {obj n : Nat} {d : Dev} (h : aget d.fe.refs obj < n) :
    refDrop obj n d = { d with fe := { d.fe with refs := aset d.fe.refs obj 0, refUnderflow := satInc 255 d.fe.refUnderflow } } := if_pos h

theorem refDrop_of_gt {obj n : Nat} {d : Dev} (h : n < aget d.fe.refs obj) :
    refDrop obj n d = { d with fe := { d.fe with refs := aset d.fe.refs obj (aget d.fe.refs obj - n) } } :=
  (if_neg (by omega)).trans (if_neg (by omega))

theorem refDrop_of_eq {obj n : Nat} {d : Dev} (h : aget d.fe.refs obj = n) (hn : 0 < n) (hf : faulted d = false) :
    refDrop obj n d = raise 8 (kqRecord (releaseBytes obj) [] { d with fe := { d.fe with refs := aset d.fe.refs obj 0 } }).2 := by
  rw [refDrop, if_neg (by omega), if_pos ⟨h, hn, hf⟩, h, Nat.sub_self]

/-- A drop sets the object's count and no other: the truncated difference. -/
theorem refDrop_refs (obj n : Nat) (d : Dev) : (refDrop obj n d).fe.refs = aset d.fe.refs obj (aget d.fe.refs obj - n) := by
  unfold refDrop
  dsimp only
  split
  · next h => rw [Nat.sub_eq_zero_of_le (by omega)]
  · split
    · rw [raise_fe, kqRecord_refs]
    · rfl

theorem feRefAdd_of_lt {obj n : Nat} (ho : obj < 65536) (h0 : 0 < n) (hn : n < 256) (d : Dev) : feRefAdd obj n d = refAdd obj n false d := by
  rw [feRefAdd, Nat.mod_eq_of_lt hn, Nat.mod_eq_of_lt ho, if_neg (by omega)]

theorem feRefDrop_of_lt {obj n : Nat} (ho : obj < 65536) (h0 : 0 < n) (hn : n < 256) (d : Dev) : feRefDrop obj n d = refDrop obj n d := by
  rw [feRefDrop, Nat.mod_eq_of_lt hn, Nat.mod_eq_of_lt ho, if_neg (by omega)]

/-- Settles O11. -/
theorem referenceCountRules : Obligations.ReferenceCountRules := by
  refine ⟨fun d obj n take => ?_, fun d obj n hn hf => ?_, fun _ _ => rfl, fun _ _ => rfl, fun s obj n ho h0 hn h => ⟨?_, ?_⟩⟩
  · refine ⟨(aget_aset_same ..).trans (Nat.min_comm ..), fun o h => aget_aset_ne _ _ _ _ h.symm, ?_, ?_, rfl, rfl, rfl, rfl⟩
    · exact if_congr decide_eq_true_iff rfl rfl
    · exact if_congr (by simp) rfl rfl
  · refine ⟨refDrop_of_lt, refDrop_of_gt, fun h => refDrop_of_eq h hn hf, ?_, fun o h => ?_, fun h => ?_⟩
    · rw [refDrop_refs, aget_aset_same]
    · rw [refDrop_refs, aget_aset_ne _ _ _ _ h.symm]
    · rw [refDrop_of_eq h hn hf, raise_count, if_pos rfl, kqRecord_count (by decide)]
  · have hw : (Instr.feRefAdd obj n).wf = true := by simp only [Instr.wf, ho, hn, decide_true, Bool.and_self]
    exact (exec_hostReg (f := fun _ => feRefAdd obj n) hw h).trans (by rw [feRefAdd_of_lt ho h0 hn])
  · have hw : (Instr.feRefDrop obj n).wf = true := by simp only [Instr.wf, ho, hn, decide_true, Bool.and_self]
    exact (exec_hostReg (f := fun _ => feRefDrop obj n) hw h).trans (by rw [feRefDrop_of_lt ho h0 hn])

/-! ### Fences (R350, R351) -/

/-- The cases of a signal as one equation (R350). -/
theorem signal_eq {d : Dev} (hf : faulted d = false) (f v : Nat) (err : Bool) : signal f v err d =
    if v < (aget d.fe.fences f).v then raise 7 { d with fe := { d.fe with fenceRegress := satInc 255 d.fe.fenceRegress } }
    else if v = (aget d.fe.fences f).v then d
    else reevaluate f { d with fe := { d.fe with fences := aset d.fe.fences f ⟨v, err⟩ } } := by
  rw [signal, if_neg (by simp [hf])]

/-- The waits are satisfied, or not; with the error flag of a fence, a dependency has failed (R351). -/
theorem evalWaits_eq (d : Dev) (x : Cmd) : evalWaits d x =
    if ∀ w ∈ x.entry.waits, w.2 ≤ (aget d.fe.fences w.1).v then (if ∃ w ∈ x.entry.waits, (aget d.fe.fences w.1).e = true then 2 else 1) else 0 := by
  unfold evalWaits
  exact if_congr (by simp) (if_congr (by simp) rfl rfl) rfl

/-- Settles O12. -/
theorem fenceSignals : Obligations.FenceSignals := by
  refine ⟨fun s v hv h hf => ?_, fun d f v err hf hlt => ?_, fun d x => ?_⟩
  · refine (exec_hostReg (f := fun _ => feFenceSig v) (decide_eq_true hv) h).trans ?_
    rw [feFenceSig, Nat.mod_eq_of_lt hv, signal_eq hf]
  · rw [(signal_cases f v err d hf).2.2 hlt]
    exact ⟨aget_aset_same .., fun g hg => aget_aset_ne _ _ _ _ hg.symm⟩
  · rw [evalWaits_eq]
    split_ifs with hall herr
    · exact ⟨iff_of_true (by decide) hall, iff_of_true rfl ⟨hall, herr⟩⟩
    · exact ⟨iff_of_true (by decide) hall, iff_of_false (by decide) (fun h => herr h.2)⟩
    · exact ⟨iff_of_false (by decide) hall, iff_of_false (by decide) (fun h => hall h.1)⟩

/-! ### Doorbells and queue registers (R335 to R341) -/

/-- The ordinary blocks answer after READY alone. -/
theorem phase_of_ordinary {d : Dev} (h : ordinary d = true) : d.boot.phase = 2 := by
  simp only [ordinary, Bool.and_eq_true, beq_iff_eq] at h
  exact h.1.1

theorem wakeBy_of_run {d : Dev} (hp : d.pwr.state = 0) (he : d.pwr.entering = 0) : wakeBy d = d := if_neg (by simp [hp, he])

/-- A batch changes the front end alone. -/
theorem closeDbBatch_pwr (d : Dev) : (closeDbBatch d).pwr = d.pwr := foldl_keeps Dev.pwr (f := fun d r => dbEffect r d) (fun _ _ => rfl) _ _

/-- What an accepted doorbell of ring `r` does with its index stored: it takes effect at once, or joins the batch, which may be full with it (R340). -/
def dbTaken (c : Cfg) (r : Nat) (d : Dev) : Dev :=
  let f := d.fe
  let joined := { d with fe := { f with
      batchTb := some (f.batchTb.getD d.phe.tb), batchCount := f.batchCount + 1
      batchRings := if f.batchRings.contains r then f.batchRings else f.batchRings ++ [r] } }
  if r < 8 ∨ c.submit.coalesceUs = 0 then dbEffect r d
  else if c.submit.coalesceK ≤ f.batchCount + 1 then closeDbBatch joined else joined

theorem dbWptr_eq {c : Cfg} {r v : Nat} {d : Dev} (hp : d.boot.phase = 2) (hf : faulted d = false) (hv : v < 2 ^ 32) : dbWptr c r v d =
    if dbAccepts c r v d = true then dbTaken c r (setRing d r (fun g => { g with wptr := v })) else dbIgnore r d := by
  rw [dbWptr, if_neg (by simp [hp, hf]), Nat.mod_eq_of_lt hv]
  rfl

theorem dbAccepts_iff {c : Cfg} {r v : Nat} {d : Dev} (hp : d.boot.phase = 2) (hf : faulted d = false) (hv : v < 2 ^ 32) :
    let g := ringOf d r
    dbAccepts c r v d = true ↔
      g.bound = true ∧ g.devWriter = false ∧ c.submit.mode = 1 ∧ idxLe v g.rptr g.size = true ∧ idxLe v g.wptr g.size = true := by
  rw [dbAccepts, Nat.mod_eq_of_lt hv]
  simp [hp, hf, and_assoc]

theorem dbTaken_pwr (c : Cfg) (r : Nat) (d : Dev) : (dbTaken c r d).pwr = d.pwr := by
  unfold dbTaken
  dsimp only
  split
  · rfl
  · split
    · exact closeDbBatch_pwr _
    · rfl

theorem hostWptr_of_run {c : Cfg} {r v : Nat} {d : Dev} (ho : ordinary d = true) (hp : d.pwr.state = 0) (he : d.pwr.entering = 0)
    (hf : faulted d = false) (hv : v < 2 ^ 32) :
    let g := ringOf d r
    hostWptr c r v d =
      if g.bound = true ∧ g.devWriter = false ∧ c.submit.mode = 1 ∧ idxLe v g.rptr g.size = true ∧ idxLe v g.wptr g.size = true then
        dbTaken c r (setRing d r (fun g => { g with wptr := v }))
      else dbIgnore r d := by
  have hboot := phase_of_ordinary ho
  rw [hostWptr, hostTouch_of (by simp [hp]), if_neg (by simp [hp]), if_neg (by simp [ho]), dbWptr_eq hboot hf hv]
  dsimp only
  rw [← if_congr (dbAccepts_iff hboot hf hv) rfl rfl]
  split
  · exact wakeBy_of_run (by rw [dbTaken_pwr]; exact hp) (by rw [dbTaken_pwr]; exact he)
  · rfl

theorem hostCqRptr_of_run {r v : Nat} {d : Dev} (ho : ordinary d = true) (hp : d.pwr.state = 0) (hv : v < 2 ^ 32) :
    let g := ringOf d r
    hostCqRptr r v d = if idxLe g.cqWptr v g.cqSize = true ∧ idxLe v g.cqRptr g.cqSize = true then setRing d r (fun g => { g with cqRptr := v })
      else dbIgnore r d := by
  rw [hostCqRptr, hostTouch_of (by simp [hp]), if_neg (by simp [hp]), if_pos ho, dbCqRptr, if_neg (by simp [phase_of_ordinary ho]),
    Nat.mod_eq_of_lt hv]
  exact if_congr Bool.and_eq_true_iff rfl rfl

theorem kqWptrWrite_eq {v : Nat} {d : Dev} (hp : d.boot.phase = 2) (hv : v < 2 ^ 32) : kqWptrWrite v d = { d with
    fe := if d.fe.kqEnable = true ∧ idxLe v d.fe.kqRptr d.fe.kqSize = true ∧ idxLe v d.fe.kqWptr d.fe.kqSize = true then
        { d.fe with kqWptr := v } else { d.fe with dbIgnored := satInc 255 d.fe.dbIgnored } } := by
  rw [kqWptrWrite, if_neg (by simp [hp]), Nat.mod_eq_of_lt hv, apply_ite (fun f => ({ d with fe := f } : Dev))]
  exact if_congr (by simp [and_assoc]) rfl rfl

theorem kqCqRptrWrite_eq {v : Nat} {d : Dev} (hp : d.boot.phase = 2) (hv : v < 2 ^ 32) : kqCqRptrWrite v d = { d with
    fe := if idxLe d.fe.kqCqWptr v d.fe.kqCqSize = true ∧ idxLe v d.fe.kqCqRptr d.fe.kqCqSize = true then
        { d.fe with kqCqRptr := v } else { d.fe with dbIgnored := satInc 255 d.fe.dbIgnored } } := by
  rw [kqCqRptrWrite, if_neg (by simp [hp]), Nat.mod_eq_of_lt hv, apply_ite (fun f => ({ d with fe := f } : Dev))]
  exact if_congr (by simp) rfl rfl

theorem hostKqWptr_of_run {v : Nat} {d : Dev} (ho : ordinary d = true) (hp : d.pwr.state = 0) (he : d.pwr.entering = 0) (hv : v < 2 ^ 32) :
    hostKqWptr v d = { d with
      fe := if d.fe.kqEnable = true ∧ idxLe v d.fe.kqRptr d.fe.kqSize = true ∧ idxLe v d.fe.kqWptr d.fe.kqSize = true then
          { d.fe with kqWptr := v } else { d.fe with dbIgnored := satInc 255 d.fe.dbIgnored } } := by
  rw [hostKqWptr, hostTouch_of (by simp [hp]), if_neg (by simp [hp]), if_pos ho, kqWptrWrite_eq (phase_of_ordinary ho) hv]
  exact wakeBy_of_run hp he

theorem kqEnableWrite_eq (v : Nat) (d : Dev) : kqEnableWrite v d =
    if v.testBit 0 = false then { d with fe := { d.fe with kqEnable := false } }
    else if queueSizeOk d.fe.kqSize = true ∧ queueSizeOk d.fe.kqCqSize = true then iter drainKq d.fe.kqRecs.length
      { d with fe := { d.fe with kqEnable := true, kqWptr := 0, kqRptr := 0, kqCqWptr := 0, kqCqRptr := 0 } }
    else d := if_congr Iff.rfl rfl (if_congr Bool.and_eq_true_iff rfl rfl)

theorem dbBatchClose_of_open {c : Cfg} {t : Nat} {d : Dev} (h : d.fe.batchTb = some t) :
    dbBatchClose c d = closeDbBatch (advanceTo c (t + c.submit.coalesceUs * 500) d) := by
  rw [dbBatchClose, h]

/-- Settles O8, row by row. -/
theorem doorbellRows : Obligations.DoorbellRows := by
  refine ⟨fun s r v hr hv ho hp he hf => ?_, fun s r v hr hv ho hp => ?_, fun s v hv ho hp he => ?_, fun s v hv h => ?_, fun s v hv h => ?_,
    fun s t hs ht => ?_⟩
  · have hw : (Instr.dbWptrWrite r v).wf = true := by simp only [Instr.wf, hr, hv, decide_true, Bool.and_self]
    refine (exec_of_wf (f := fun c => hostWptr c r v) rfl hw).trans ?_
    rw [hostWptr_of_run ho hp he hf hv]
    rfl
  · have hw : (Instr.dbCqRptrWrite r v).wf = true := by simp only [Instr.wf, hr, hv, decide_true, Bool.and_self]
    exact (exec_of_wf (f := fun _ => hostCqRptr r v) rfl hw).trans (by rw [hostCqRptr_of_run ho hp hv])
  · have hw : (Instr.feKqWptrWrite v).wf = true := decide_eq_true hv
    exact (exec_of_wf (f := fun _ => hostKqWptr v) rfl hw).trans (by rw [hostKqWptr_of_run ho hp he hv])
  · exact (exec_hostReg (f := fun _ => kqCqRptrWrite v) (decide_eq_true hv) h).trans (by rw [kqCqRptrWrite_eq (phase_of_ordinary h.2) hv])
  · exact (exec_hostReg (f := fun _ => kqEnableWrite v) (decide_eq_true hv) h).trans (by rw [kqEnableWrite_eq])
  · exact (exec_live (f := dbBatchClose) rfl hs).trans (by rw [dbBatchClose_of_open ht])

/-! ### Management commands (R333 to R336, R357, R396, R397) -/

section
variable {s : State} {x : Cmd} {b : List Byte} {d : Dev}

/-- A context is created only where it is FREE, the MMU is on and its root is legal (R333, R396). -/
theorem ctxCreate_of (h : MgmtHead s 1 x b d) : ctxCreate s.cfg s.dev =
    if getLe b 0 1 < 64 ∧ (ctxOf d (getLe b 0 1)).state = 0 ∧ tableOk 3 (getLe b 8 8) = true ∧ d.mmu.enable = true then
      mgmtEnd s.cfg x 0 (dropCached (some (getLe b 0 1)) 0 (2 ^ 48)
        { d with fe := { d.fe with ctxs := aset d.fe.ctxs (getLe b 0 1) ⟨1, 0, getLe b 8 8⟩ } })
    else mgmtEnd s.cfg x 0x10 d := by
  split_ifs with hok
  · obtain ⟨hx, hfree, hroot, hmmu⟩ := hok
    exact mgmtRun_of_done h rfl (if_neg (by simp [hx, hfree, hroot, hmmu]))
  · refine mgmtRun_of_done h rfl (if_pos ?_)
    rwa [not_and_or, not_and_or, not_and_or, not_lt, Bool.not_eq_true, Bool.not_eq_true] at hok

theorem ctxKill_of (h : MgmtHead s 2 x b d) : ctxKill s.cfg s.dev =
    if 64 ≤ getLe b 0 1 then mgmtEnd s.cfg x 0x10 d
    else if (ctxOf d (getLe b 0 1)).state = 1 then mgmtEnd s.cfg x 0 (loseContext s.cfg (getLe b 0 1) 0x19 [] d)
    else mgmtEnd s.cfg x 0 d := by
  split_ifs with hx ha
  · exact mgmtRun_of_done h rfl (if_pos hx)
  · exact mgmtRun_of_done h rfl ((if_neg hx).trans (by rw [if_pos ha]))
  · exact mgmtRun_of_done h rfl ((if_neg hx).trans (by rw [if_neg ha]))

/-- The device as CTX_RELEASE finds it: an ACTIVE context is lost first. -/
def releaseBegun (c : Cfg) (k : Nat) (d : Dev) : Dev := if (ctxOf d k).state = 1 then loseContext c k 0x19 [] d else d

/-- A lost context that nothing holds becomes FREE: its rings are unbound and what is cached of it is dropped (R333). -/
def releaseDone (k : Nat) (e : Dev) : Dev :=
  flushSide k (dropCached (some k) 0 (2 ^ 48) (unbindCtx k { e with fe := { e.fe with ctxs := aset e.fe.ctxs k ⟨0, (ctxOf e k).cause, 0⟩ } }))

theorem ctxRelease_of (h : MgmtHead s 3 x b d) :
    let e := releaseBegun s.cfg (getLe b 0 1) d
    ctxRelease s.cfg s.dev =
      if 64 ≤ getLe b 0 1 then mgmtEnd s.cfg x 0x10 d
      else if (ctxOf e (getLe b 0 1)).state = 0 then mgmtEnd s.cfg x 0 e
      else if cmdsOfCtx e (getLe b 0 1) = [] ∧ e.fe.rings.all (fun p => !(p.2.bound && p.2.ctx == getLe b 0 1 && p.2.waitRecs != [])) = true then
        mgmtEnd s.cfg x 0 (releaseDone (getLe b 0 1) e)
      else mgmtBegun x e := by
  intro e
  split_ifs with hx hfree hidle
  · exact mgmtRun_of_done h rfl (if_pos hx)
  · exact mgmtRun_of_done h rfl ((if_neg hx).trans (if_pos hfree))
  · have hgo : ¬(cmdsOfCtx e (getLe b 0 1) ≠ [] ∨ e.fe.rings.any (fun p => p.2.bound && p.2.ctx == getLe b 0 1 && p.2.waitRecs != []) = true) := by
      rw [not_or, not_not, Bool.not_eq_true, ← Bool.not_eq_true', List.not_any_eq_all_not]
      exact hidle
    exact mgmtRun_of_done h rfl ((if_neg hx).trans ((if_neg hfree).trans (if_neg hgo)))
  · have hheld : cmdsOfCtx e (getLe b 0 1) ≠ [] ∨ e.fe.rings.any (fun p => p.2.bound && p.2.ctx == getLe b 0 1 && p.2.waitRecs != []) = true := by
      rw [← List.not_any_eq_all_not, not_and_or, Bool.not_eq_true', Bool.not_eq_false] at hidle
      exact hidle
    exact mgmtRun_of_wait h rfl ((if_neg hx).trans ((if_neg hfree).trans (if_pos hheld)))

/-- Whether the payload of RING_INIT names an unbound ring, an ACTIVE context, and legal bases and sizes (R336). -/
def ringInitOk (b : List Byte) (d : Dev) : Prop :=
  getLe b 0 1 < 64 ∧ getLe b 1 1 < 64 ∧ (ringOf d (getLe b 0 1)).bound = false ∧ (ctxOf d (getLe b 1 1)).state = 1 ∧
    queueSizeOk (getLe b 4 4) = true ∧ queueSizeOk (getLe b 0x18 4) = true ∧ ringBaseOk (getLe b 8 8) = true ∧ cqBaseOk (getLe b 0x10 8) = true

/-- The ring bound with every index at 0, its lanes' deficits dropped (R357, R361). -/
def ringBound (b : List Byte) (d : Dev) : Dev := { d with
  fe := { d.fe with rings := aset d.fe.rings (getLe b 0 1) { (default : Ring) with
    bound := true, ctx := getLe b 1 1, size := getLe b 4 4, base := getLe b 8 8, cqBase := getLe b 0x10 8, cqSize := getLe b 0x18 4
    ignored := (ringOf d (getLe b 0 1)).ignored
    devWriter := (ringOf d (getLe b 0 1)).devWriter } }
  sched := { d.sched with deficit := d.sched.deficit.filter (fun p => p.1 % 64 != getLe b 0 1) } }

theorem ringInit_of_ok (h : MgmtHead s 4 x b d) (hok : ringInitOk b d) : ringInit s.cfg s.dev = mgmtEnd s.cfg x 0 (ringBound b d) := by
  obtain ⟨hr, hx, hb, ha, hs, hq, hbase, hcq⟩ := hok
  exact mgmtRun_of_done h rfl (if_neg (by simp [hr, hx, hb, ha, hs, hq, hbase, hcq]))

theorem ringInit_of_refused (h : MgmtHead s 4 x b d) (hno : ¬ringInitOk b d) : ringInit s.cfg s.dev = mgmtEnd s.cfg x 0x10 d := by
  refine mgmtRun_of_done h rfl (if_pos ?_)
  simpa only [ringInitOk, not_and_or, not_lt, Bool.not_eq_true, Bool.not_eq_false] using hno

theorem ringUnbind_of (h : MgmtHead s 5 x b d) : ringUnbind s.cfg s.dev =
    if 64 ≤ getLe b 0 1 then mgmtEnd s.cfg x 0x10 d
    else if (ringOf d (getLe b 0 1)).bound = false then mgmtEnd s.cfg x 0 d
    else if (ringOf d (getLe b 0 1)).cmds = [] ∧ (ringOf d (getLe b 0 1)).waitRecs = [] then
      mgmtEnd s.cfg x 0 (setRing d (getLe b 0 1) (fun r => { r with bound := false, unbinding := false, pending := false, fetchTo := none }))
    else mgmtBegun x (setRing d (getLe b 0 1) (fun r => { r with unbinding := true })) := by
  split_ifs with hr hb hidle
  · exact mgmtRun_of_done h rfl (if_pos hr)
  · exact mgmtRun_of_done h rfl ((if_neg hr).trans (if_pos hb))
  · exact mgmtRun_of_done h rfl ((if_neg hr).trans ((if_neg hb).trans (if_pos hidle)))
  · exact mgmtRun_of_wait h rfl ((if_neg hr).trans ((if_neg hb).trans (if_neg hidle)))

theorem fenceInit_of (h : MgmtHead s 6 x b d) : fenceInit s.cfg s.dev =
    if 1 < getLe b 2 1 then mgmtEnd s.cfg x 0x10 d
    else mgmtEnd s.cfg x 0 (reevaluate (getLe b 0 2 % 4096)
      { d with fe := { d.fe with fences := aset d.fe.fences (getLe b 0 2 % 4096) ⟨getLe b 8 8, getLe b 2 1 == 1⟩ } }) := by
  split_ifs with he
  · exact mgmtRun_of_done h rfl (if_pos he)
  · exact mgmtRun_of_done h rfl (if_neg he)

/-- INVALIDATE removes and marks at once, and its command stays at the head as dispatched (R397). -/
theorem invalidate_of (h : MgmtHead s 0x10 x b d) : invalidate s.cfg s.dev =
    if 64 ≤ getLe b 0 1 ∧ getLe b 0 1 ≠ 0xFF then mgmtEnd s.cfg x 0x10 d
    else
      let who := if getLe b 0 1 = 0xFF then none else some (getLe b 0 1)
      mgmtBegun x (holdHead x (markIssued who
        (if getLe b 0x10 8 = 0 then dropCached who 0 (2 ^ 48) d else dropCached who (getLe b 8 8 % 2 ^ 48) (getLe b 0x10 8) d))) := by
  by_cases hx : 64 ≤ getLe b 0 1 ∧ getLe b 0 1 ≠ 0xFF
  · rw [if_pos hx]
    exact mgmtRun_of_done h rfl (if_pos hx)
  · rw [if_neg hx]
    exact mgmtRun_of_wait h rfl (if_neg hx)

theorem ctxSetRoot_of (h : MgmtHead s 0x11 x b d) : ctxSetRoot s.cfg s.dev =
    if 64 ≤ getLe b 0 1 ∨ (ctxOf d (getLe b 0 1)).state ≠ 1 ∨ tableOk 3 (getLe b 8 8) = false then mgmtEnd s.cfg x 0x10 d
    else mgmtBegun x (holdHead x (markIssued (some (getLe b 0 1)) (dropCached (some (getLe b 0 1)) 0 (2 ^ 48)
      { d with fe := { d.fe with ctxs := amod d.fe.ctxs (getLe b 0 1) (fun r => { r with root := getLe b 8 8 }) } }))) := by
  split_ifs with hx
  · exact mgmtRun_of_done h rfl (if_pos hx)
  · exact mgmtRun_of_wait h rfl (if_neg hx)

theorem invalidateComplete_of_drained {c : Cfg} {rest : List Cmd} (hq : d.fe.kqCmds = x :: rest) (hp : x.phase = .dispatched)
    (ho : x.entry.op = 0x10 ∨ x.entry.op = 0x11) (hr : ∀ m ∈ d.host.outReads, m.inv = false) (hs : ∀ m ∈ d.store, ∀ w ∈ m.waiting, w.inv = false) :
    invalidateComplete c d = mgmtEnd c x 0 d := by
  have hreads : d.host.outReads.all (fun r => !r.inv) = true := List.all_eq_true.mpr fun m hm => by rw [hr m hm]; rfl
  have hstore : d.store.all (fun m => m.waiting.all (fun f => !f.inv)) = true :=
    List.all_eq_true.mpr fun m hm => List.all_eq_true.mpr fun w hw => by rw [hs m hm w hw]; rfl
  simp only [invalidateComplete, hq]
  exact if_pos ⟨hp, ho, hreads, hstore⟩

end

/-- Settles O6, row by row. -/
theorem contextAndRingManagementRows : Obligations.ContextAndRingManagementRows := by
  refine ⟨fun s x b d h => ⟨fun hx hf hr hm => ?_, fun hno => ?_⟩, fun s x b d h => ?_, fun s x b d h => ?_, fun s x b d h => ?_,
    fun s x b d h => ?_, fun s x b d h => ?_⟩
  · exact (exec_inRun (f := ctxCreate) rfl h.running).trans (by rw [ctxCreate_of h, if_pos ⟨hx, hf, hr, hm⟩])
  · exact (exec_inRun (f := ctxCreate) rfl h.running).trans (by rw [ctxCreate_of h, if_neg hno])
  · exact (exec_inRun (f := ctxKill) rfl h.running).trans (by rw [ctxKill_of h])
  · exact (exec_inRun (f := ctxRelease) rfl h.running).trans (by rw [ctxRelease_of h]; rfl)
  · refine (exec_inRun (f := ringInit) rfl h.running).trans ?_
    split_ifs with hok
    · rw [ringInit_of_ok h hok]; rfl
    · rw [ringInit_of_refused h hok]
  · exact (exec_inRun (f := ringUnbind) rfl h.running).trans (by rw [ringUnbind_of h])
  · exact (exec_inRun (f := fenceInit) rfl h.running).trans (by rw [fenceInit_of h])

/-- Settles O7. -/
theorem invalidationAndRootRows : Obligations.InvalidationAndRootRows := by
  refine ⟨fun s x b d h => ?_, fun s x b d h => ?_, fun s x rest hs hq hp ho hr hst => ?_⟩
  · exact (exec_inRun (f := invalidate) rfl h.running).trans (by rw [invalidate_of h]; rfl)
  · exact (exec_inRun (f := ctxSetRoot) rfl h.running).trans (by rw [ctxSetRoot_of h]; rfl)
  · exact (exec_inRun (f := invalidateComplete) rfl hs).trans (by rw [invalidateComplete_of_drained hq hp ho hr hst])

/-! ### Fetch, dispatch and completion (R335, R346 to R349, R431) -/

/-- What a ring's fetcher makes of the bytes `p` of entry `RPTR`: the index advances, and the slot's bytes, free where the host wrote a slot of a
device-written ring (R341), become a command. -/
def fetchedEntry (r : Nat) (g : Ring) (p : List PByte) (d : Dev) : Cmd × Dev :=
  let a := setRing d r (fun h => { h with rptr := (h.rptr + 1) % 2 ^ 32 })
  let b := if g.devWriter = true ∧ g.foreign.contains (g.rptr % g.size) = true then freeBytes 128 a else (pdata p, a)
  (newCmd b.2 (parseEntry b.1) g.rptr r g.ctx false false, b.2)

section
variable {c : Cfg} {r k : Nat} {p : List PByte} {d e : Dev}

/-- A fetcher that may go on reads the entry at RPTR: a failed check loses the context, a poisoned entry completes, any other enters the ring. -/
theorem ringFetch_of_read (hf : feStopped d = false) (hb : (ringOf d r).bound = true) (hs : (ringOf d r).fetchStopped = false)
    (hu : (ringOf d r).unbinding = false) (hi : (ringOf d r).rptr ≠ (ringOf d r).effWptr)
    (hp : physRead c (rqFe c (ringOf d r).ctx) ((ringOf d r).base + ((ringOf d r).rptr % (ringOf d r).size) * 128) 128 [] d = (k, p, e)) :
    let x := fetchedEntry r (ringOf d r) p e
    ringFetch c r d =
      if k ≠ 0 then loseContext c (ringOf d r).ctx k [] (setRing e r (fun h => { h with fetchStopped := true }))
      else if ppoison p = true then
        let f := finishCmd c { x.1 with poisoned := true } 0x10 false (bumpSerial x.2)
        if f.1 = 0 then f.2 else loseContext c (ringOf d r).ctx f.1 [] f.2
      else enterRing c x.1 x.2 := by
  have hgo : ¬(feStopped d = true ∨ (ringOf d r).bound = false ∨ (ringOf d r).fetchStopped = true ∨ (ringOf d r).unbinding = true ∨
      (ringOf d r).rptr = (ringOf d r).effWptr) := by simp [hf, hb, hs, hu, hi]
  refine (if_neg hgo).trans ?_
  rw [hp]
  rfl

end

/-- In DIRECT mode the entry read from the kernel queue joins the MGMT commands, or completes INVALID_COMMAND (R335). -/
theorem kqFetch_of_direct {c : Cfg} {b : List PByte} {d k : Dev} (hf : feStopped d = false) (he : d.fe.kqEnable = true)
    (hi : d.fe.kqRptr ≠ d.fe.kqWptr) (hu : d.fe.rings.any (fun p => p.2.unbinding) = false) (hm : c.submit.mode = 1)
    (hb : busRead d (d.fe.kqBase + (d.fe.kqRptr % d.fe.kqSize) * 128) 128 = (b, k)) (hp : ppoison b = false) :
    let e := parseEntry (pdata b)
    let a := { k with fe := { k.fe with kqRptr := (d.fe.kqRptr + 1) % 2 ^ 32 } }
    let x := newCmd a e d.fe.kqRptr e.ring (ringOf d e.ring).ctx true true
    let t := takeRefs e.objects (bumpSerial a)
    kqFetch c d = if e.cls = 15 then { t with fe := { t.fe with kqCmds := t.fe.kqCmds ++ [{ x with waitRes := evalWaits t x }] } }
      else (finishCmd c x 0x10 true t).2 := by
  have hgo : ¬(feStopped d = true ∨ d.fe.kqEnable = false ∨ d.fe.kqRptr = d.fe.kqWptr ∨ d.fe.rings.any (fun p => p.2.unbinding) = true) := by
    rw [hf, he, hu]; simp [hi]
  refine (if_neg hgo).trans ?_
  rw [hb]
  simp only [hm, hp]
  rfl

theorem commandDispatch_of_ready {c : Cfg} {r : Nat} {x : Cmd} {d : Dev} (hx : oldestWaiting (ringOf d r) = some x) (hr : x.ready = true)
    (hf : x.phase = .fetched) (hc : x.entry.cls ≠ 0) (hm : mayPost c d x = true) : commandDispatch c r d = postToken c x d := by
  rw [commandDispatch, hx]
  exact if_pos (by simp [hr, hf, hc, hm])

theorem commandComplete_of_finished {c : Cfg} {r i : Nat} {x : Cmd} {d : Dev}
    (hx : (ringOf d r).cmds.find? (fun x => x.phase == .finished && x.index == i) = some x) : commandComplete c r i d = endCmd c x x.status d := by
  rw [commandComplete, hx]

/-- The oldest waiting record of a ring with room is written, then its interrupt is raised and its references are dropped (R346). -/
theorem drainRing_of_room {c : Cfg} {r st : Nat} {w : WaitRec} {rest : List WaitRec} {d e : Dev} (hw : (ringOf d r).waitRecs = w :: rest)
    (hr : cqRoom (ringOf d r) = true) (hf : faulted d = false)
    (hp : cqPut c r w.bytes (setRing d r (fun g => { g with waitRecs := rest })) = (st, e)) : drainRing c r d =
      if st ≠ 0 then loseContext c (ringOf d r).ctx st [] (dropRefs w.objects e)
      else dropRefs w.objects (if w.notify.isSome then raise (w.notify.getD 0) e else e) := by
  have hgo : ¬(cqRoom (ringOf d r) = false ∨ faulted d = true) := by simp [hr, hf]
  simp only [drainRing, hw]
  rw [if_neg hgo, hp, ite_not]
  refine if_congr Iff.rfl ?_ rfl
  cases w.notify <;> rfl

theorem drainKq_of_room {w : WaitRec} {rest : List WaitRec} {d : Dev} (hw : d.fe.kqRecs = w :: rest) (hr : kqRoom d.fe = true)
    (hf : faulted d = false) : drainKq d = dropRefs w.objects (kqPut w.bytes { d with fe := { d.fe with kqRecs := rest } }) := by
  have hgo : ¬(kqRoom d.fe = false ∨ faulted d = true) := by simp [hr, hf]
  simp only [drainKq, hw]
  exact if_neg hgo

/-- Settles O9, row by row. -/
theorem fetchAndDispatchRows : Obligations.FetchAndDispatchRows := by
  refine ⟨fun s r p d hr hs hf hb hst hu hi k => ?_, fun s b k hs hf he hi hu hm hb hp => ?_, fun s r x hs hx hr hf hc hm => ?_,
    fun s r i x hr hi hs hx => ?_, fun s q w rest st d hq hs hw hr hf hp => ?_, fun s w rest hs hw hr hf => ?_⟩
  · intro g hp a b x
    have hrow := exec_inRun (f := fun c => ringFetch c r) (b := (Instr.ringEntryFetch r).wf) (decide_eq_true hr) hs
    rw [ringFetch_of_read hf hb hst hu hi hp] at hrow
    refine ⟨fun hk => hrow.trans (by rw [if_pos hk]), fun hk hn => hrow.trans ?_, fun hk hy => ⟨_, _, rfl, hrow.trans ?_⟩⟩
    · rw [if_neg (by simp [hk]), if_neg (by simp [hn])]; rfl
    · rw [if_neg (by simp [hk]), if_pos hy]; rfl
  · exact (exec_inRun (f := kqFetch) rfl hs).trans (by rw [kqFetch_of_direct hf he hi hu hm hb hp])
  · exact (exec_inRun (f := fun c => commandDispatch c r) (decide_eq_true hx.1) hs).trans (by rw [commandDispatch_of_ready hx.2 hr hf hc hm])
  · have hw : (Instr.commandComplete r i).wf = true := by simp only [Instr.wf, hr, hi, decide_true, Bool.and_self]
    exact (exec_inRun (f := fun c => commandComplete c r i) hw hs).trans (by rw [commandComplete_of_finished hx])
  · have hwf : (Instr.cqRecordDrain q).wf = true := decide_eq_true (by omega)
    exact (exec_live (f := fun c => cqRecordDrain c q) hwf hs).trans (by rw [cqRecordDrain, if_pos hq, drainRing_of_room hw hr hf hp])
  · have hwf : (Instr.cqRecordDrain 64).wf = true := rfl
    exact (exec_live (f := fun c => cqRecordDrain c 64) hwf hs).trans (by rw [cqRecordDrain, if_neg (by decide), drainKq_of_room hw hr hf])

end Sys2Proof.Machine

/-! PROOFS. The statement of queues and scheduling (13): timeouts, drains, resets of instances and the hand-out of tokens. -/

namespace Sys2Proof.Machine

/-! ### Timeouts (R371 to R374) -/

/-- Once its limit is reached and the lower rings' expiries are taken, the command expires (R372). -/
theorem commandTimeout_of_due {c : Cfg} {r i k : Nat} {x y : Cmd} {d : Dev}
    (hx : (ringOf d r).cmds.find? (fun x => x.phase == .dispatched && x.index == i && !x.expired) = some x)
    (hp : timeoutPaused d x = false) (hf : faulted d = false) (ha : (ctxOf d x.ctx).state = 1)
    (hk : ticksToAge c d r ((timeoutLimit c r : Int) - x.age).toNat = some k)
    (hy : cmdOf (expireBelow c r (advance c k d)) x.serial = some y) (hd : timeoutDue c (expireBelow c r (advance c k d)) y = true)
    (hf' : faulted (expireBelow c r (advance c k d)) = false) :
    commandTimeout c r i d = expireCmd c y (expireBelow c r (advance c k d)) := by
  have hgo : ¬(timeoutPaused d x = true ∨ faulted d = true ∨ (ctxOf d x.ctx).state ≠ 1) := by simp [hp, hf, ha]
  simp only [commandTimeout, hx]
  rw [if_neg hgo, hk]
  dsimp only
  rw [hy]
  exact if_pos (by rw [hd, hf']; rfl)

/-- A wait timeout comes after the lower rings' expiries and the command timeout of its own ring (R374). -/
theorem waitTimeout_of_due {c : Cfg} {r : Nat} {x y : Cmd} {d e : Dev} (hx : oldestWaiting (ringOf d r) = some x)
    (hp : waitPaused c d x = false) (hf : faulted d = false)
    (he : ringTimeouts c r (expireBelow c r (advance c ((c.ring r).waitTimeoutUs * 500 - x.waitAge) d)) = e)
    (hy : cmdOf e x.serial = some y) (hd : waitDue c e y = true) (hf' : faulted e = false) : waitTimeout c r d = expireWait c y e := by
  have hgo : ¬(waitPaused c d x = true ∨ faulted d = true) := by simp [hp, hf]
  simp only [waitTimeout, hx]
  rw [if_neg hgo, he, hy]
  exact if_pos (by rw [hd, hf']; rfl)

/-! ### Drains and resets of instances (R257, R372) -/

/-- A unit that was told to stop is reset 50 us later, and what was stalled on it is dropped. -/
theorem drainLimit_of_stopped {c : Cfg} {cls q i t : Nat} {r : Run} {d : Dev} (hr : (instOf d (instIdx cls q i)).run = some r)
    (ht : r.stopTb = some t) :
    let e := advanceTo c (t + 25000) d
    let u := { e with mmu := { e.mmu with
      stalled := e.mmu.stalled.filter (fun m => !(m.cls == cls && m.quarter == (if quarterClass cls then q else 4) && m.inst == i)) } }
    drainLimit c cls q i d = finishExpired c
      (schedCount r.ring (fun m => { m with reset := satInc 255 m.reset }) (setInst u (instIdx cls q i) (fun m => { m with
        run := none, lastCtx := none, resetEnd := some (u.phe.tb + (if cls = 1 ∨ cls = 2 ∨ cls = 3 then 1000 else 2500)) }))) := by
  simp only [drainLimit, hr, ht]

theorem resetDone_of_reset {c : Cfg} {cls q i t : Nat} {d : Dev} (h : (instOf d (instIdx cls q i)).resetEnd = some t) :
    resetDone c cls q i d = setInst (advanceTo c t d) (instIdx cls q i) (fun m => { m with resetEnd := none }) := by
  rw [resetDone, h]

/-! ### Hand-out (R360, R361, R363) -/

/-- The lane that the search picks gives one unit of its head to the unit found for it. -/
theorem tokenHandout_of_taken {c : Cfg} {cls q lane i : Nat} {lack : List (Nat × Nat)} {x : Cmd} {d e : Dev} (hc : cls ∈ [1, 2, 3, 5, 6, 7, 8, 9])
    (hq : q < 4) (hf : faulted d = false) (hb : d.boot.phase = 2) (hr : d.pwr.state = 0)
    (hp : pickLane c (takerOf lack c) (cls * 4 + (if quarterClass cls then q else 0)) d = (some lane, e))
    (hx : laneHead e (cls * 4 + (if quarterClass cls then q else 0)) lane = some x) (hi : takerOf lack c e x = some i) :
    tokenHandout c cls q lack d = giveUnit x i (unitCount c e x) e := by
  have hcls : cls ≠ 0 ∧ cls ≠ 4 ∧ cls < 10 := by
    simp only [List.mem_cons, List.not_mem_nil, or_false] at hc
    omega
  obtain ⟨h0, h4, h10⟩ := hcls
  have hgo : ¬(cls = 0 ∨ cls = 4 ∨ 10 ≤ cls ∨ 4 ≤ q ∨ faulted d = true ∨ d.boot.phase ≠ 2 ∨ d.pwr.state ≠ 0) := by
    simp only [h0, h4, hf, hb, hr, Nat.not_le.mpr h10, Nat.not_le.mpr hq, Bool.false_eq_true, ne_eq, not_true, or_self, not_false_eq_true]
  rw [tokenHandout, if_neg hgo, hp]
  simp only [Option.bind_some, hx, hi]

/-- Settles O13, row by row. -/
theorem timeoutAndHandOutRows : Obligations.TimeoutAndHandOutRows := by
  refine ⟨fun s r i x hr hi hs hx hp hf ha k y hk hy hd hf' => ?_, fun s r x y hs hx hp hf => ?_, fun s cls q i r t hc hq hi hs hr ht => ?_,
    fun s cls q i t hc hq hi hs ht => ?_, fun s cls q lack lane d x i hw hc hs hf hp hx hi => ?_⟩
  · have hw : (Instr.commandTimeout r i).wf = true := by simp only [Instr.wf, hr, hi, decide_true, Bool.and_self]
    refine (exec_inRun (f := fun c => commandTimeoutSc c r i) hw hs).trans ?_
    rw [commandTimeoutSc, commandTimeout_of_due hx hp hf ha hk hy hd hf']
    rfl
  · intro e f hy hd hf'
    have hw : (Instr.waitTimeout r).wf = true := decide_eq_true hx.1
    refine (exec_inRun (f := fun c => waitTimeoutSc c r) hw hs).trans ?_
    rw [waitTimeoutSc, waitTimeout_of_due hx.2 hp hf rfl hy hd hf']
    rfl
  · have hw : (Instr.drainLimitExpiry cls q i).wf = true := by simp only [Instr.wf, hc, hq, hi, decide_true, Bool.and_self]
    refine (exec_inRun (f := fun c => drainLimitSc c cls q i) hw hs).trans ?_
    rw [drainLimitSc, drainLimit_of_stopped hr ht]
  · have hw : (Instr.instanceResetDone cls q i).wf = true := by simp only [Instr.wf, hc, hq, hi, decide_true, Bool.and_self]
    exact (exec_inRun (f := fun c => resetDone c cls q i) hw hs).trans (by rw [resetDone_of_reset ht])
  · have hq : q < 4 := Laws.QuarterBound.tokenHandout cls ⟨q, lack⟩ hw q rfl
    refine (exec_inRun (f := fun c => tokenHandout c cls q lack) hw hs).trans ?_
    rw [tokenHandout_of_taken hc hq hf hs.1 hs.2.2 hp hx hi]

end Sys2Proof.Machine

/-! PROOFS. The statement of address translation (14): table walks, fault batches, replay and the registers of the fault ring. -/

namespace Sys2Proof.Machine

/-! ### Walks and fault batches (R385, R390, R391, R393) -/

theorem ptwWalk_of_active {c : Cfg} {cls q i ctx va acc : Nat} {d : Dev} (hc : (ctxOf d ctx).state = 1) :
    ptwWalk c cls q i ctx va acc d =
      match translate c (rqNamed c ctx cls q i) ctx va (bit acc 1 || bit acc 2) d with
      | (.leaf _, e) => e
      | (.fault k l v a, e) => addFault c (rqNamed c ctx cls q i) ctx va (acc % 16) k l v a e := by
  rw [ptwWalk, if_neg (by simp [hc])]
  rcases translate c (rqNamed c ctx cls q i) ctx va (bit acc 1 || bit acc 2) d with ⟨_ | _, _⟩ <;> rfl

theorem batchHoldoff_of_open {c : Cfg} {d : Dev} (h : d.mmu.openRecs ≠ []) :
    batchHoldoff c d = closeBatch c (advanceTo c (d.mmu.openTb + d.mmu.holdoffUs * 500) d) := if_neg h

theorem batchWrite_of_room {c : Cfg} {no : Nat} {recs : List FaultRec} {rest : List (Nat × List FaultRec)} {d : Dev}
    (hq : d.mmu.waitq = (no, recs) :: rest) (hr : faultRoom d.mmu recs.length = true) :
    batchWrite c d = writeBatch c no recs { d with mmu := { d.mmu with waitq := rest } } := by
  rw [batchWrite, drainBatches, hq]
  exact if_pos hr

/-! ### Replay and the registers of the fault ring (R391 to R393, R399) -/

theorem mmuReplay_of_word {c : Cfg} {b : Nat} (hb : b < 2 ^ 32) (d : Dev) : mmuReplay c b d =
    if b ≤ d.mmu.closed ∧ d.mmu.replayed < b then
      releaseDrained c ((d.mmu.stalled.filter (fun m => decide (m.batch ≤ b))).foldl (fun d m => rewalk c m d)
        { d with mmu := { d.mmu with replayed := b } })
    else { d with mmu := { d.mmu with replayIgnored := satInc 255 d.mmu.replayIgnored } } := by
  rw [mmuReplay, Nat.mod_eq_of_lt hb]

theorem faultRptr_of_word {v : Nat} (hv : v < 2 ^ 32) (d : Dev) : faultRptr v d = { d with
    mmu := if idxLe d.mmu.wptr v 1024 = true ∧ idxLe v d.mmu.rptr 1024 = true then { d.mmu with rptr := v }
      else { d.mmu with rptrIgnored := satInc 255 d.mmu.rptrIgnored } } := by
  rw [faultRptr, Nat.mod_eq_of_lt hv, apply_ite (fun m => ({ d with mmu := m } : Dev))]
  exact if_congr Bool.and_eq_true_iff rfl rfl

/-- A hold-off of 0 and a count out of 1 to 1,024 leave the old value (R391). -/
theorem batchCfg_eq (c : Cfg) (v : Nat) (d : Dev) :
    let e := { d with mmu := { d.mmu with
      holdoffUs := if 1 ≤ bits v 25 16 then bits v 25 16 else d.mmu.holdoffUs
      countCfg := if 1 ≤ bits v 10 0 ∧ bits v 10 0 ≤ 1024 then bits v 10 0 else d.mmu.countCfg } }
    batchCfg c v d = if e.mmu.countCfg ≤ e.mmu.openRecs.length then closeBatch c e else e := by
  have hhold : (if bits v 25 16 = 0 then d.mmu.holdoffUs else bits v 25 16) = if 1 ≤ bits v 25 16 then bits v 25 16 else d.mmu.holdoffUs := by
    split_ifs <;> omega
  have hcount : (if bits v 10 0 = 0 ∨ 1024 < bits v 10 0 then d.mmu.countCfg else bits v 10 0) =
      if 1 ≤ bits v 10 0 ∧ bits v 10 0 ≤ 1024 then bits v 10 0 else d.mmu.countCfg := by
    split_ifs <;> omega
  simp only [batchCfg, hhold, hcount]

/-- Settles O14, row by row. -/
theorem translationRows : Obligations.TranslationRows := by
  refine ⟨fun s cls q i ctx va acc r d hw hs hc ht => ?_, fun s hs ho => ?_, fun s no recs rest hs hq hr => ?_, fun s b hb h => ?_,
    fun s v hv h => ?_, fun s v hv h => ?_, fun s v hv h => ?_⟩
  · have hacc : acc < 16 := by
      simp only [Instr.wf, Bool.and_eq_true, decide_eq_true_eq] at hw
      exact hw.2
    have hrow := exec_inRun (f := fun c => ptwWalk c cls q i ctx va acc) hw hs
    rw [ptwWalk_of_active hc, ht, Nat.mod_eq_of_lt hacc] at hrow
    exact ⟨fun e he => by subst he; exact hrow, fun k l v a hf => by subst hf; exact hrow⟩
  · exact (exec_live (f := batchHoldoff) rfl hs).trans (by rw [batchHoldoff_of_open ho])
  · exact (exec_live (f := batchWrite) rfl hs).trans (by rw [batchWrite_of_room hq hr])
  · exact (exec_hostReg (f := fun c => mmuReplay c b) (decide_eq_true hb) h).trans (by rw [mmuReplay_of_word hb])
  · exact (exec_hostReg (f := fun _ => faultRptr v) (decide_eq_true hv) h).trans (by rw [faultRptr_of_word hv])
  · exact exec_hostReg (f := fun c => faultEnable c v) (decide_eq_true hv) h
  · exact (exec_hostReg (f := fun c => batchCfg c v) (decide_eq_true hv) h).trans (by rw [batchCfg_eq])

end Sys2Proof.Machine

/-! PROOFS. The statements of interrupts (17) and of the counters of the spine: clears, the interrupt controller's rows and its deliveries. -/

namespace Sys2Proof.Machine

/-! ### Host accesses of the spine's own blocks (R12, R331) -/

/-- A host write that tests its own block finds the device as it is when it is not in HOLD. -/
theorem exec_hostTouch {b : Bool} {f : Cfg → Dev → Dev} {s : State} (hb : b = true) (h : s.dev.pwr.state ≠ 2) :
    onDev b (fun c d => f c (hostTouch d)) s = .next (s.ended (f s.cfg s.dev)) := by
  rw [hb, onDev_next, hostTouch_of h]

/-- Steps that leave the same device leave the same state. -/
theorem next_ended (s : State) {d e : Dev} (h : d = e) : (Host.Outcome.next (s.ended d) : Host.Outcome State Fault Refusal) = .next (s.ended e) :=
  congrArg (fun e => Host.Outcome.next (s.ended e)) h

/-- An error table's register answers only while its block is powered and the device is out of reset. -/
theorem errBlockOn_of_blockOn {k o : Nat} {d : Dev} (hk : k < 5) (ho : o < 0x1000) (h : blockOn d (errAt k o) = true) :
    errBlockOn k d = true ∧ d.boot.phase ≠ 0 := by
  by_cases h4 : k = 4
  · subst h4
    have hlo : 0x200 + o < 0x10000 := by omega
    have hup : spineUp d = true := by simpa only [blockOn, errAt, if_true, hlo] using h
    simp only [spineUp, Bool.and_eq_true, bne_iff_ne] at hup
    exact ⟨rfl, hup.2⟩
  · have hq : k < 4 := by omega
    have hlo : ∀ a, a ≤ 0x1000000 → ¬csAt k (0x20000 + o) < a := fun a ha => by unfold csAt; omega
    have hwq : (csAt k (0x20000 + o) - 0x1000000) / 0x400000 = k := by unfold csAt; omega
    have hwo : csAt k (0x20000 + o) % 0x400000 = 0x20000 + o := by unfold csAt; omega
    have hslice : ¬0x20000 + o < 0x10000 := by omega
    have hcore : ¬0x20000 + o < 0x20000 := by omega
    have hon : quarterReg d k 4 = true := by
      simpa only [blockOn, errAt, h4, if_false, hlo, Nat.reduceLeDiff, and_false, hwq, hwo, hslice, hcore, hq, decide_true, Bool.true_and] using h
    simp only [quarterReg, Bool.and_eq_true, beq_iff_eq, bne_iff_ne] at hon
    obtain ⟨⟨hp, hw⟩, hd⟩ := hon
    refine ⟨?_, by omega⟩
    rw [show 7 + 5 * k + 4 = 11 + 5 * k by omega] at hd
    simp only [errBlockOn, h4, if_false, hq, hd, decide_true, BEq.rfl, Bool.true_and, bne_iff_ne]
    exact hw

/-! ### Clears of the spine's counters (R325, R442, R458, R480, R502, R504, R505, R515) -/

theorem errClear_of_on {k : Nat} {d : Dev} (h : errBlockOn k d = true ∧ d.boot.phase ≠ 0) (v : Nat) : errClear k v d = { d with err := { d.err with
    tabs := if v.testBit 0 then d.err.tabs.modify k (fun t => { t with dramCe := 0, onchipCe := 0, dramUe := 0, onchipUe := 0, poisonRead := 0 })
      else d.err.tabs } } := by
  simp only [errClear, bit, h.1, h.2, Bool.true_eq_false, false_or, or_false]
  cases v.testBit 0 <;> rfl

theorem errLogFree_of_on {k : Nat} {d : Dev} (h : errBlockOn k d = true ∧ d.boot.phase ≠ 0) (e v : Nat) : errLogFree k e v d = { d with
    err := { d.err with tabs := if v.testBit 31 then d.err.tabs.modify k (fun t => { t with log := t.log.set e none }) else d.err.tabs } } := by
  simp only [errLogFree, bit, h.1, h.2, Bool.true_eq_false, false_or, or_false]
  cases v.testBit 31 <;> rfl

theorem icStatusClear_eq (v : Nat) (d : Dev) : icStatusClear v d = { d with
    icu := { d.icu with stackFaults := if v.testBit 0 then 0 else d.icu.stackFaults } } := by
  unfold icStatusClear bit
  split <;> rfl

theorem compPipeClear_eq (p v : Nat) (d : Dev) : compPipeClear p v d = { d with comp := { d.comp with
    pipes := if v.testBit 0 then d.comp.pipes.modify p (fun m => { m with late := 0, underrun := 0, poison := 0, fault := 0 }) else d.comp.pipes } } := by
  unfold compPipeClear bit
  split <;> rfl

theorem pwrCountClear_of_up {d : Dev} (h : pwrUp d = true) (v : Nat) : pwrCountClear v d = { d with
    pwr := if v.testBit 0 then { d.pwr with dips := 0, floorOverride := 0, avsFaults := 0, throttles := 0 } else d.pwr } := by
  simp only [pwrCountClear, bit, h, Bool.true_eq_false, false_or]
  cases v.testBit 0 <;> rfl

theorem updCountClear_of_on {d : Dev} (h : updOn d = true) (v : Nat) : updCountClear v d = { d with
    upd := if v.testBit 0 then { d.upd with ignored := 0, retries := 0, blocks := 0 } else d.upd } := by
  simp only [updCountClear, bit, h, Bool.true_eq_false, false_or]
  cases v.testBit 0 <;> rfl

theorem obsDropClear_of_on {d : Dev} (h : obsOn d = true) (v : Nat) : obsDropClear v d = { d with
    obs := if v.testBit 0 then { d.obs with bufDropped := 0, portDropped := 0 } else d.obs } := by
  simp only [obsDropClear, bit, h, Bool.true_and]
  cases v.testBit 0 <;> rfl

/-- Setting one of the lowest three bits sets that bit and keeps the others. -/
theorem testBit_putBit_low {i j : Nat} (hi : i < 3) (hj : j < 3) (x : Nat) : (putBit x i true).testBit j = (decide (i = j) || x.testBit j) := by
  unfold putBit
  by_cases hb : x.testBit i = true
  · rw [if_pos (by rw [hb]; rfl)]
    by_cases h : i = j
    · simp [← h, hb]
    · simp [h]
  · rw [if_neg (by simpa using hb), if_pos rfl]
    rw [Nat.testBit_eq_decide_div_mod_eq, decide_eq_true_eq] at hb
    simp only [Nat.testBit_eq_decide_div_mod_eq, ← Bool.decide_or, decide_eq_decide]
    interval_cases i <;> interval_cases j <;> omega

theorem testBit_putBit_word {i j : Nat} (hi : i < 3) (hj : j < 3) (v : Nat) :
    (putBit (v % 2 ^ 32) i true).testBit j = (decide (i = j) || v.testBit j) := by
  rw [testBit_putBit_low hi hj, Nat.testBit_mod_two_pow, decide_eq_true (show j < 32 by omega), Bool.true_and]

/-- A write of OBS_CTRL: SNAP copies the counters before CNT_CLEAR zeroes them (R504, R505). -/
theorem obsCtrl_of_on {d : Dev} (h : obsOn d = true) (v : Nat) : obsCtrl v d = { d with obs := { d.obs with
    cnt := if v.testBit 1 then [] else d.obs.cnt
    snap := if v.testBit 2 then d.obs.cnt else d.obs.snap
    cntEn := v.testBit 0 } } := by
  rw [obsCtrl, if_neg (by simp [h])]
  unfold bit
  by_cases h1 : v.testBit 1 = true <;> by_cases h2 : v.testBit 2 = true <;> simp only [h1, h2, if_true, if_false, Bool.false_eq_true]

theorem obsCntClear_of_on {d : Dev} (h : obsOn d = true) (v : Nat) : obsCntClear v d = { d with obs := { d.obs with
    cnt := []
    snap := if v.testBit 2 then d.obs.cnt else d.obs.snap
    cntEn := v.testBit 0 } } := by
  rw [obsCntClear, obsCtrl_of_on h, testBit_putBit_word (by decide) (by decide), testBit_putBit_word (by decide) (by decide),
    testBit_putBit_word (by decide) (by decide)]
  rfl

theorem obsSnap_of_on {d : Dev} (h : obsOn d = true) (v : Nat) : obsSnap v d = { d with obs := { d.obs with
    snap := d.obs.cnt
    cnt := if v.testBit 1 then [] else d.obs.cnt
    cntEn := v.testBit 0 } } := by
  rw [obsSnap, obsCtrl_of_on h, testBit_putBit_word (by decide) (by decide), testBit_putBit_word (by decide) (by decide),
    testBit_putBit_word (by decide) (by decide)]
  rfl

/-- Settles O17: each row by the equation of its clear. -/
theorem counterClearsOfTheSpine : Obligations.CounterClearsOfTheSpine := by
  refine ⟨fun s k v hk hv h => ?_, fun s v hv h => ?_, fun s p v hp hv h => ?_, fun s v hv h => ?_, fun s v hv h => ?_, fun s v hv h => ?_,
    fun s v hv h => ?_, fun s v hv h => ?_⟩
  · have hw : (Instr.errClear k v).wf = true := by simp only [Instr.wf, hk, hv, decide_true, Bool.and_self]
    exact (exec_hostReg (f := fun _ => errClear k v) hw h).trans (by rw [errClear_of_on (errBlockOn_of_blockOn hk (by decide) h.2)])
  · exact (exec_hostReg (f := fun _ => icStatusClear v) (decide_eq_true hv) h).trans (by rw [icStatusClear_eq])
  · have hw : (Instr.compPipeClear p v).wf = true := by simp only [Instr.wf, hp, hv, decide_true, Bool.and_self]
    exact (exec_hostReg (f := fun _ => compPipeClear p v) hw h).trans (by rw [compPipeClear_eq])
  · exact (exec_hostReg (f := fun _ => pwrCountClear v) (decide_eq_true hv) h).trans (by rw [pwrCountClear_of_up h.2])
  · exact (exec_hostTouch (f := fun _ => updCountClear v) (decide_eq_true hv) h.1).trans (by rw [updCountClear_of_on h.2])
  · exact (exec_hostTouch (f := fun _ => obsDropClear v) (decide_eq_true hv) h.1).trans (by rw [obsDropClear_of_on h.2])
  · exact (exec_hostTouch (f := fun _ => obsCntClear v) (decide_eq_true hv) h.1).trans (by rw [obsCntClear_of_on h.2])
  · exact (exec_hostTouch (f := fun _ => obsSnap v) (decide_eq_true hv) h.1).trans (by rw [obsSnap_of_on h.2])

/-! ### The interrupt controller's rows (R450 to R452, R457) -/

/-- A write of an ICU register by an Ox core or through BAR 0 completes with its effect where the block answers. -/
theorem exec_icuAccess {b ox : Bool} {off : Nat} {f : Dev → Dev} {s : State} (hb : b = true)
    (h : if ox then ordinary s.dev = true else HostReaches s off) : onDev b (fun _ => icuAccess ox off f) s = .next (s.ended (f s.dev)) := by
  rw [hb, onDev_next]
  cases ox with
  | true =>
    have ho : ordinary s.dev = true := h
    simp only [icuAccess, ho, if_true]
  | false =>
    have ho : HostReaches s off := h
    simp only [icuAccess, Bool.false_eq_true, if_false, hostReg_of ho]

theorem icSwRaise_eq (v : Nat) (d : Dev) : icSwRaise v d = if 480 ≤ v % 512 then { d with icu := { d.icu with
    count := amod d.icu.count (v % 512) (satInc 255) } } else d := rfl

theorem icuEoi_eq {t n : Nat} (ht : t < 70) (hn : n < 512) (ox : Bool) (d : Dev) : icuEoi t n ox d =
    if ox = false ∧ 64 ≤ t then d
    else if (stackOf d t).head?.any (fun e => e.source == n) then
      { d with icu := { d.icu with stack := aset d.icu.stack t ((stackOf d t).tail), marks := [] } }
    else raise 10 { d with icu := { d.icu with
      fault := putBit d.icu.fault t true, stackFaults := satInc 255 d.icu.stackFaults, marks := [] } } := by
  rw [icuEoi]
  simp only [Nat.not_le.mpr ht, false_or, Nat.mod_eq_of_lt hn]
  refine if_congr Iff.rfl rfl ?_
  cases stackOf d t with
  | nil => rfl
  | cons e rest => exact if_congr (by simp) rfl rfl

theorem icuTargetReset_eq {t : Nat} (ht : t < 70) (v : Nat) (ox : Bool) (d : Dev) : icuTargetReset t v ox d =
    if (ox = false ∧ 64 ≤ t) ∨ v.testBit 0 = false then d else resetTarget t d := by
  simp only [icuTargetReset, Nat.not_le.mpr ht, false_or, bit]

theorem holdoffExpiry_of_held {c : Cfg} {g t : Nat} {d : Dev} (h : d.icu.holdEnd.getD g none = some t) :
    holdoffExpiry c g d = { advanceTo c t d with icu := { (advanceTo c t d).icu with holdEnd := (advanceTo c t d).icu.holdEnd.set g none } } := by
  rw [holdoffExpiry, h]

theorem exec_icuDelivery {s : State} (h : Running s) : exec .icuDelivery s = .next (s.ended (deliverLoop s.cfg 513 s.dev)) := by
  have hrun : ¬(s.dev.pwr.state ≠ 0 ∨ s.dev.boot.phase ≠ 2) := by simp [h.1, h.2.2]
  exact (exec_live (f := icuDelivery) rfl h.live).trans (by rw [icuDelivery, if_neg hrun])

/-- Settles O20. -/
theorem interruptControllerRows : Obligations.InterruptControllerRows := by
  refine ⟨fun s v hv h => ?_, fun s t n ox ht hn h => ?_, fun s t v ox ht hv h => ?_, fun s g t hg h ht => ?_, fun s h => exec_icuDelivery h,
    fun s k e v hk he hv h => ?_⟩
  · exact (exec_hostReg (f := fun _ => icSwRaise v) (decide_eq_true hv) h).trans (by rw [icSwRaise_eq])
  · have hw : (Instr.icuEoi t n ox).wf = true := by simp only [Instr.wf, ht, hn, decide_true, Bool.and_self]
    exact (exec_icuAccess (f := icuEoi t n ox) hw h).trans (by rw [icuEoi_eq ht hn])
  · have hw : (Instr.icuTargetReset t v ox).wf = true := by simp only [Instr.wf, ht, hv, decide_true, Bool.and_self]
    exact (exec_icuAccess (f := icuTargetReset t v ox) hw h).trans (by rw [icuTargetReset_eq ht]; rfl)
  · exact ⟨_, rfl, (exec_live (f := fun c => holdoffExpiry c g) (decide_eq_true hg) h).trans (by rw [holdoffExpiry_of_held ht])⟩
  · have hw : (Instr.errLogFree k e v).wf = true := by simp only [Instr.wf, hk, he, hv, decide_true, Bool.and_self]
    exact (exec_hostReg (f := fun _ => errLogFree k e v) hw h).trans (by rw [errLogFree_of_on (errBlockOn_of_blockOn hk (by omega) h.2)])

/-! ### Deliveries (R445 to R449, R453) -/

/-- The step of the search for the first source: the source kept so far gives way to one of a strictly higher priority. -/
def firstOf (c : Cfg) (b : Option Nat) (n : Nat) : Option Nat :=
  match b with
  | none => some n
  | some k => if sourcePrio c k < sourcePrio c n then some n else some k

theorem bestSource_eq (c : Cfg) (d : Dev) : bestSource c d =
    ((sourceList d).filter (fun n => deliverable d n && !d.icu.marks.contains n)).foldl (firstOf c) none := by
  unfold bestSource firstOf
  congr 1
  funext b n
  cases b <;> rfl

/-- The search ends at a source that it met or began with, and none of those has a higher priority. -/
theorem foldl_firstOf {c : Cfg} {l : List Nat} {b : Option Nat} {n : Nat} (h : l.foldl (firstOf c) b = some n) :
    (b = some n ∨ n ∈ l) ∧ (∀ k, b = some k → sourcePrio c k ≤ sourcePrio c n) ∧ ∀ m ∈ l, sourcePrio c m ≤ sourcePrio c n := by
  induction l generalizing b with
  | nil => exact ⟨.inl h, fun k hk => by rw [List.foldl_nil, hk] at h; rw [Option.some.inj h], by simp⟩
  | cons x l ih =>
    obtain ⟨hfrom, hfirst, hrest⟩ := ih h
    have hx : sourcePrio c x ≤ sourcePrio c n ∧ (∀ k, b = some k → sourcePrio c k ≤ sourcePrio c n) ∧
        (firstOf c b x = some n → b = some n ∨ n = x) := by
      cases b with
      | none => exact ⟨hfirst x rfl, by simp, fun e => .inr (Option.some.inj e).symm⟩
      | some k =>
        by_cases hlt : sourcePrio c k < sourcePrio c x
        · have hstep : firstOf c (some k) x = some x := if_pos hlt
          have hle := hfirst x hstep
          refine ⟨hle, fun j hj => ?_, fun e => .inr ?_⟩
          · obtain rfl := Option.some.inj hj; omega
          · rw [hstep] at e; exact (Option.some.inj e).symm
        · have hstep : firstOf c (some k) x = some k := if_neg hlt
          have hle := hfirst k hstep
          refine ⟨by omega, fun j hj => ?_, fun e => .inl (by rwa [hstep] at e)⟩
          obtain rfl := Option.some.inj hj; exact hle
    refine ⟨?_, hx.2.1, fun m hm => ?_⟩
    · rcases hfrom with e | e
      · exact (hx.2.2 e).imp_right (fun e => by simp [e])
      · exact .inr (List.mem_cons_of_mem x e)
    · rcases List.mem_cons.mp hm with rfl | hm
      · exact hx.1
      · exact hrest m hm

theorem bestSource_none_of_hold {c : Cfg} {d : Dev} (h : d.icu.globalHold = true) : bestSource c d = none := by
  rw [bestSource_eq]
  simp [deliverable, h]

/-- The first source is deliverable, unmarked, and of the highest priority among those that are. -/
theorem bestSource_some {c : Cfg} {d : Dev} {n : Nat} (h : bestSource c d = some n) :
    deliverable d n = true ∧ n ∉ d.icu.marks ∧
      ∀ m ∈ sourceList d, deliverable d m = true → m ∉ d.icu.marks → sourcePrio c m ≤ sourcePrio c n := by
  rw [bestSource_eq] at h
  obtain ⟨hfrom, -, hbest⟩ := foldl_firstOf h
  have hn := hfrom.resolve_left (by simp)
  simp only [List.mem_filter, Bool.and_eq_true, Bool.not_eq_true', List.contains_eq_mem, decide_eq_false_iff_not] at hn hbest
  exact ⟨hn.2.1, hn.2.2, fun m hm hd hk => hbest m ⟨hm, hd, hk⟩⟩

theorem chooseTarget_some {c : Cfg} {d : Dev} {n t : Nat} (h : chooseTarget c d n = some t) :
    t < 70 ∧ groupNames c (n / 16) t = true ∧ targetEnabled d t = true ∧ canAccept c d t n = true := by
  obtain ⟨i, -, rfl⟩ := List.mem_map.mp (List.mem_of_find?_eq_some h)
  have hp := List.find?_some h
  simp only [Bool.and_eq_true] at hp
  exact ⟨Nat.mod_lt _ (by decide), hp.1.1, hp.1.2, hp.2⟩

theorem canAccept_iff {c : Cfg} {d : Dev} {n t : Nat} : canAccept c d t n = true ↔
    stackOf d t = [] ∨ ∃ e rest, stackOf d t = e :: rest ∧ e.prio < sourcePrio c n := by
  rw [canAccept]
  cases stackOf d t <;> simp

theorem deliverLoop_of_none {c : Cfg} {d : Dev} (n : Nat) (h : bestSource c d = none) : deliverLoop c n d = d := by
  cases n with
  | zero => rfl
  | succ n => rw [deliverLoop, h]

theorem deliverLoop_of_target {c : Cfg} {d : Dev} {n t : Nat} (k : Nat) (hn : bestSource c d = some n) (ht : chooseTarget c d n = some t) :
    deliverLoop c (k + 1) d = deliverTo c n t d := by
  rw [deliverLoop, hn]
  dsimp only
  rw [ht]

theorem obsCount_icu_host (ev q inst : Nat) (ctx : Option Nat) (k : Nat) (d : Dev) :
    (obsCount ev q inst ctx k d).icu = d.icu ∧ (obsCount ev q inst ctx k d).host = d.host := by
  unfold obsCount
  split <;> exact ⟨rfl, rfl⟩

theorem deliverTo_icu (c : Cfg) (n t : Nat) (d : Dev) : (deliverTo c n t d).icu = { d.icu with
    stack := amod d.icu.stack t (fun l => ⟨n, sourcePrio c n, if n ≤ 5 then 1 else aget d.icu.count n⟩ :: l)
    count := if n ≤ 5 then d.icu.count else aset d.icu.count n 0
    last := d.icu.last.set (n / 16) t
    holdEnd := d.icu.holdEnd.set (n / 16)
      (if (groupOf c (n / 16)).holdoffUs = 0 then none else some (d.phe.tb + (groupOf c (n / 16)).holdoffUs * 500))
    marks := [] } := by
  unfold deliverTo
  dsimp only
  split <;> exact (obsCount_icu_host ..).1

/-- The message is sent for an MSI-X target alone (R453). -/
theorem deliverTo_host (c : Cfg) (n t : Nat) (d : Dev) : (deliverTo c n t d).host = { d.host with msgs := d.host.msgs ++
    (if t < 64 then [((aget d.host.msix t).addr, (aget d.host.msix t).data)] else []) } := by
  unfold deliverTo
  by_cases ht : t < 64
  · simp only [ht, if_true, (obsCount_icu_host ..).2]
  · simp only [ht, if_false, (obsCount_icu_host ..).2, List.append_nil]

/-- Settles O21. -/
theorem deliveryOrder : Obligations.DeliveryOrder := by
  refine ⟨fun s h hnone => ?_, fun s n t h hn ht => ?_, fun c d n hn => ?_, fun c d n t ht => ?_⟩
  · rw [exec_icuDelivery h, deliverLoop_of_none _ (hnone.elim bestSource_none_of_hold id)]
  · exact ⟨_, (exec_icuDelivery h).trans (by rw [deliverLoop_of_target _ hn ht]), deliverTo_icu .., deliverTo_host ..⟩
  · obtain ⟨hd, hm, hbest⟩ := bestSource_some hn
    simp only [deliverable, Bool.and_eq_true, Bool.not_eq_true'] at hd
    obtain ⟨⟨⟨hp, he⟩, hh⟩, hg⟩ := hd
    exact ⟨hp, he, hh, hg, hm, hbest⟩
  · obtain ⟨hlt, hg, he, ha⟩ := chooseTarget_some ht
    exact ⟨hlt, hg, he, canAccept_iff.mp ha⟩

end Sys2Proof.Machine

/-! PROOFS. The statements of power and supply (18): device states and wakes, clocks, rails and the governor, and the stages of a supply sag. -/

namespace Sys2Proof.Machine

/-! ### Requests for REST and HOLD (R461 to R463, R496) -/

/-- What an accepted request leaves: a hand-over that has not begun to act is aborted, and the entry begins. -/
def entryBegun (st : Nat) (d : Dev) : Dev := { d with
  upd := if d.upd.hand.any (fun h => decide (h.state ≤ 2)) then { d.upd with hand := none, busy := false, result := 12 } else d.upd
  boot := { d.boot with oxsStandbyOk := d.upd.hand.any (fun h => decide (h.state ≤ 2) && h.part == 0) || d.boot.oxsStandbyOk }
  pwr := { d.pwr with reqResult := 1, entering := st, entryTb := d.phe.tb, wakePending := false
                      wakeCounts := d.icu.count, wakeLevels := levelMask d } }

section
variable {st : Nat} {d : Dev} (hb : d.boot.phase = 2) (hd : d.clk.domains.getD 1 0 = 1) (hp : d.pwr.state = 0) (he : d.pwr.entering = 0)
include hb hd hp he

theorem pwrReq_of_refused (hr : reqCheck d ≠ 1) : pwrReq st d = { d with pwr := { d.pwr with reqResult := reqCheck d } } := by
  rw [pwrReq, if_neg (by rw [hb, hd, hp, he]; decide)]
  exact if_pos hr

theorem pwrReq_of_accepted (hr : reqCheck d = 1) : pwrReq st d = entryBegun st d := by
  rw [pwrReq, if_neg (by rw [hb, hd, hp, he]; decide)]
  refine (if_neg (not_not_intro hr)).trans ?_
  unfold entryBegun
  cases hh : d.upd.hand with
  | none => simp only [Option.any_none, Bool.false_or, Bool.false_eq_true, if_false]
  | some h =>
    by_cases hs : h.state ≤ 2
    · simp only [Option.any_some, hs, decide_true, Bool.true_and, if_true]; rfl
    · simp only [Option.any_some, hs, decide_false, Bool.false_and, Bool.false_or, Bool.false_eq_true, if_false]

end

/-! ### Entries and wakes (R463 to R466) -/

/-- What an entry into state `st` switches off: HOLD cleans every way first, and takes the slices and the spine too (R463, R467). -/
def entryOff (c : Cfg) (st : Nat) (d : Dev) : Dev :=
  let d := if st = 1 then d else (List.range 4).foldl (fun d q => cleanWays q (cacheWays c q) d) (areaOwn c (keepPa d) d)
  let d := restOff c d
  if st = 1 then d else spineOff ((List.range 4).foldl (fun d q => setQuarter q 0 0 0 (sliceOff c q d)) d)

/-- The state `st` is reached: a wake that came during the entry begins at once. -/
def entryEnded (st : Nat) (d : Dev) : Dev :=
  let d := { d with
    clk := { d.clk with avs := [], switches := [], rateSwitch := none, rateQueue := [], rail := d.clk.rail.set 4 (if st = 1 then 600 else 0) }
    pwr := { d.pwr with state := st, entering := 0, idleq := 0, holdTb := d.phe.tb } }
  if d.pwr.wakePending then startWake none { d with pwr := { d.pwr with wakePending := false } } else d

theorem entryEnded_eq (st : Nat) (d : Dev) : entryEnded st d =
    let e := { d with
      clk := { d.clk with avs := [], switches := [], rateSwitch := none, rateQueue := [], rail := d.clk.rail.set 4 (if st = 1 then 600 else 0) }
      pwr := { d.pwr with state := st, entering := 0, idleq := 0, holdTb := d.phe.tb } }
    if d.pwr.wakePending then startWake none { e with pwr := { e.pwr with wakePending := false } } else e := rfl

theorem entryOff_rest (c : Cfg) (d : Dev) : entryOff c 1 d = restOff c d := rfl

theorem entryOff_hold (c : Cfg) (d : Dev) : entryOff c 2 d = spineOff ((List.range 4).foldl (fun d q => setQuarter q 0 0 0 (sliceOff c q d))
    (restOff c ((List.range 4).foldl (fun d q => cleanWays q (cacheWays c q) d) (areaOwn c (keepPa d) d)))) := by
  simp only [entryOff, OfNat.ofNat_ne_one, if_false]

theorem powerEntryDone_of_entering {c : Cfg} {d : Dev} (hh : d.upd.hand = none) (hn : d.upd.bufs.any (fun b => b.state == 2) = false)
    (he : d.pwr.entering ≠ 0) : powerEntryDone c d = entryEnded d.pwr.entering (entryOff c d.pwr.entering
      (advanceTo c (d.pwr.entryTb + (if d.pwr.entering = 1 then 10000 else 342000)) d)) :=
  if_neg (by rw [hh, hn]; simp [he])

/-- The event or level of a watched source came after the request for the state. -/
def wakeCame (d : Dev) (n : Nat) : Prop :=
  if n ≤ 5 then levelCond d n = true ∧ d.pwr.wakeLevels.testBit n = false else aget d.pwr.wakeCounts n < aget d.icu.count n

theorem wakeEvent_of_came {c : Cfg} {n : Nat} {d : Dev} (hb : d.boot.phase = 2) (hw : c.irq.goose.contains n = true) (hc : wakeCame d n)
    (hs : d.pwr.entering ≠ 0 ∨ d.pwr.state = 1 ∨ d.pwr.state = 2) : wakeEvent c (some n) d = startWake (some n) d := by
  have hcame : (if n ≤ 5 then levelCond d n && !bit d.pwr.wakeLevels n else decide (aget d.pwr.wakeCounts n < aget d.icu.count n)) = true := by
    unfold wakeCame at hc
    split_ifs with h5
    · rw [if_pos h5] at hc; simp [bit, hc]
    · rw [if_neg h5] at hc; exact decide_eq_true hc
  have hstate : (d.pwr.entering != 0 || d.pwr.state == 1 || d.pwr.state == 2) = true := by
    simpa only [Bool.or_eq_true, bne_iff_ne, beq_iff_eq, or_assoc] using hs
  rw [wakeEvent, if_neg (not_not_intro hb)]
  dsimp only
  rw [hcame, hstate, show watched c n = true from hw]
  rfl

theorem startWake_entering {n : Nat} {d : Dev} (he : d.pwr.entering ≠ 0) :
    startWake (some n) d = { gooseWake n d with pwr := { d.pwr with wakePending := true } } := if_pos he

theorem startWake_asleep {n : Nat} {d : Dev} (he : d.pwr.entering = 0) (hs : d.pwr.state = 1 ∨ d.pwr.state = 2) :
    startWake (some n) d = { gooseWake n d with pwr := { d.pwr with state := 3, wakeFrom := d.pwr.state, wakeTb := d.phe.tb } } :=
  (if_neg (not_not_intro he)).trans (if_pos hs)

/-- The link's exit from L1.2 wakes a device in HOLD (R465). -/
theorem wakeEvent_link {c : Cfg} {d : Dev} (hb : d.boot.phase = 2) (hs : d.pwr.state = 2) (he : d.pwr.entering = 0) (hp : d.host.perstLow = false) :
    wakeEvent c none d = { d with pwr := { d.pwr with state := 3, wakeFrom := 2, wakeTb := d.phe.tb } } := by
  rw [wakeEvent, if_neg (not_not_intro hb)]
  dsimp only
  rw [if_pos ⟨hs, hp⟩, startWake]
  dsimp only
  rw [if_neg (not_not_intro he), if_pos (.inr hs), hs]

theorem wakeComplete_of_waking {c : Cfg} {keepBad : Bool} {links : Nat} {d : Dev} (hb : d.boot.phase = 2) (hs : d.pwr.state = 3) :
    let e := wakeRestore c keepBad links d
    wakeComplete c keepBad links d = e.pwr.held.foldl (releaseAccess c) { e with pwr := { e.pwr with held := [] } } :=
  if_neg (by simp [hb, hs])

/-! ### The keep area and IDLE-Q (R460, R464) -/

theorem keepBaseWrite_first {v : Nat} {d : Dev} (hb : d.boot.phase = 2) (hd : d.clk.domains.getD 1 0 = 1) (hk : d.pwr.keepSet = false) :
    keepBaseWrite v d = { d with
      pwr := { d.pwr with keepBase := v % 65536, keepSet := (v % 65536 * 2 ^ 32 + d.pwr.keepLo * 2 ^ 25) / 2 ^ 40 == 1 } } := by
  rw [keepBaseWrite, if_neg (by rw [hb, hd, hk]; simp)]

theorem keepBaseWrite_again {d : Dev} (v : Nat) (hk : d.pwr.keepSet = true) : keepBaseWrite v d = d := if_pos (.inr (.inr hk))

theorem keepCopyDone_of_set {c : Cfg} {d : Dev} (hk : d.pwr.keepSet = true) (hr : d.pwr.keepReady = false) (hp : d.pwr.state = 0)
    (hm : (sliceOf d 0).memLost = false) : keepCopyDone c d = areaWrite c (keepPa d) d.boot.parts.zipIdx { d with
      pwr := { d.pwr with keepReady := true, keepCrc := d.boot.parts.map (fun b => (b.length, crc32c b)) } } := by
  rw [keepCopyDone, if_neg (by rw [hk, hr, hp, hm]; simp)]

theorem idleqEntry_of_idle {c : Cfg} {q : Nat} {d : Dev} (hq : q < 4) (hen : c.power.idleqEn.testBit q = true) (hb : d.boot.phase = 2)
    (hp : d.pwr.state = 0) (hon : quarterOn d q = true) (hbusy : quarterBusy d q = false) (harm : armedFor d q = false)
    (hi : d.pwr.idleq.testBit q = false) :
    let e := advanceTo c (d.pwr.lastBusy.getD q 0 + 5000) d
    idleqEntry c q d = { e with pwr := { e.pwr with idleq := putBit e.pwr.idleq q true } } := by
  have hgo : ¬(4 ≤ q ∨ bit c.power.idleqEn q = false ∨ d.boot.phase ≠ 2 ∨ d.pwr.state ≠ 0 ∨ quarterOn d q = false ∨ quarterBusy d q = true ∨
      armedFor d q = true ∨ bit d.pwr.idleq q = true) := by
    unfold bit
    rw [hen, hb, hp, hon, hbusy, harm, hi]
    simp [hq]
  exact if_neg hgo

/-- Settles O38, row by row. -/
theorem deviceStateRows : Obligations.DeviceStateRows := by
  refine ⟨fun s st row hrow h hs he => ?_, fun s hs hh hn => ⟨fun he => ?_, fun he => ?_⟩, fun s n hn hb hw hc => ⟨fun he => ?_, fun he hst => ?_⟩,
    fun s hb hst he hp => ?_, fun s keepBad links hl hb hst => ?_, fun s v hv h hs hk => ?_, fun s v hv h hs hk => ?_, fun s hs hk hr hm => ?_,
    fun s q hq hs hen hon hbusy harm hi => ?_⟩
  · intro busy result
    have hexec : exec row s = .next (s.ended (pwrReq st s.dev)) := by
      rcases hrow with ⟨rfl, rfl⟩ | ⟨rfl, rfl⟩
      · exact exec_hostReg (f := fun _ => pwrReq 1) rfl h
      · exact exec_hostReg (f := fun _ => pwrReq 2) rfl h
    have hresult : result = reqCheck s.dev := if_congr (by simp [busy]) rfl rfl
    rw [hexec, hresult]
    exact ⟨fun hr => by rw [pwrReq_of_refused hs.1 hs.2.1 hs.2.2 he hr], fun hr => by rw [pwrReq_of_accepted hs.1 hs.2.1 hs.2.2 he hr]; rfl⟩
  · intro d e
    refine (exec_live (f := powerEntryDone) rfl hs).trans ?_
    rw [powerEntryDone_of_entering hh hn (by rw [he]; decide), he, if_pos rfl, entryOff_rest, entryEnded_eq, if_pos rfl]
  · intro clean d e
    refine (exec_live (f := powerEntryDone) rfl hs).trans ?_
    rw [powerEntryDone_of_entering hh hn (by rw [he]; decide), he, if_neg (by decide), entryOff_hold, entryEnded_eq, if_neg (show ¬(2 = 1) by decide)]
  · have hwf : (Instr.wakeEvent (some n)).wf = true := decide_eq_true (by simpa using hn)
    refine (exec_of_wf (f := fun c => wakeEvent c (some n)) rfl hwf).trans ?_
    rw [wakeEvent_of_came hb hw hc (.inl he), startWake_entering he]
    rfl
  · have hwf : (Instr.wakeEvent (some n)).wf = true := decide_eq_true (by simpa using hn)
    refine (exec_of_wf (f := fun c => wakeEvent c (some n)) rfl hwf).trans ?_
    rw [wakeEvent_of_came hb hw hc (.inr hst), startWake_asleep he hst]
    rfl
  · have hwf : (Instr.wakeEvent none).wf = true := rfl
    exact (exec_of_wf (f := fun c => wakeEvent c none) rfl hwf).trans (by rw [wakeEvent_link hb hst he hp])
  · have hwf : (Instr.wakeComplete keepBad links).wf = true := decide_eq_true hl
    exact (exec_of_wf (f := fun c => wakeComplete c keepBad links) rfl hwf).trans (by rw [wakeComplete_of_waking hb hst])
  · exact (exec_hostReg (f := fun _ => keepBaseWrite v) (decide_eq_true hv) h).trans (by rw [keepBaseWrite_first hs.1 hs.2 hk])
  · exact (exec_hostReg (f := fun _ => keepBaseWrite v) (decide_eq_true hv) h).trans (by rw [keepBaseWrite_again v hk])
  · exact (exec_inRun (f := keepCopyDone) rfl hs).trans (by rw [keepCopyDone_of_set hk hr hs.2.2 hm]; rfl)
  · refine (exec_inRun (f := fun c => idleqEntry c q) (decide_eq_true hq) hs).trans ?_
    rw [idleqEntry_of_idle hq hen hs.1 hs.2.2 hon hbusy harm hi]

/-! ### The governor (R469 to R471) -/

/-- The estimate `est` of the window is taken up: its energy, its event and the state of the cap. -/
def metered (c : Cfg) (est : Nat) (t : Dev) : Dev :=
  let o := obsCount 0x73 4 0xF none ((t.pwr.energy + est) / 100 - t.pwr.energy / 100) t
  { o with pwr := { o.pwr with energy := t.pwr.energy + est, estimate := est, ignoreFloors := o.pwr.ignoreFloors && decide (10 * c.power.capW ≤ est) } }

/-- Above the cap a step below the floors is taken once all have stood at their floors for 10 ms (R471). -/
def floorsWeighed (d : Dev) : Dev :=
  let on := (List.range 4).filter (quarterOn d)
  let since := d.pwr.overTb.getD d.phe.tb
  { d with pwr := (if d.pwr.ignoreFloors || on.any (fun q => decide (d.clk.floor.getD q 10 < d.clk.step.getD q 0)) then { d.pwr with overTb := none }
    else if since + 5000000 ≤ d.phe.tb then { d.pwr with overTb := none, ignoreFloors := true, floorOverride := satInc 255 d.pwr.floorOverride }
    else { d.pwr with overTb := some since }) }

/-- The powered quarter `q` goes one step down where its floor allows it. -/
def governedDown (f : Dev) (q : Nat) : Dev :=
  if (if f.pwr.ignoreFloors then 10 else f.clk.floor.getD q 10) < f.clk.step.getD q 0 ∧ changing f q = false then
    obsCount 0x71 q 0xF none 1 (changeClock q (f.clk.step.getD q 0 - 1) { f with clk := { f.clk with capLimited := putBit f.clk.capLimited q true } })
  else f

/-- The powered quarter `q` goes one step up where its limits allow it. -/
def governedUp (c : Cfg) (f : Dev) (q : Nat) : Dev :=
  let top := stepTop c f q
  let g := if top ≤ f.clk.step.getD q 0 + 1 then { f with clk := { f.clk with capLimited := putBit f.clk.capLimited q false } } else f
  if f.clk.step.getD q 0 < top ∧ changing g q = false then obsCount 0x72 q 0xF none 1 (changeClock q (f.clk.step.getD q 0 + 1) g) else g

theorem floorsWeighed_eq (d : Dev) :
    floorsWeighed d = (if d.pwr.ignoreFloors || ((List.range 4).filter (quarterOn d)).any (fun q => decide (d.clk.floor.getD q 10 < d.clk.step.getD q 0))
      then { d with pwr := { d.pwr with overTb := none } }
      else let since := d.pwr.overTb.getD d.phe.tb
        if since + 5000000 ≤ d.phe.tb then
          { d with pwr := { d.pwr with overTb := none, ignoreFloors := true, floorOverride := satInc 255 d.pwr.floorOverride } }
        else { d with pwr := { d.pwr with overTb := some since } }) :=
  (apply_ite (fun p => { d with pwr := p }) _ _ _).trans (if_congr Iff.rfl rfl (apply_ite (fun p => { d with pwr := p }) _ _ _))

section
variable {c : Cfg} {est : Nat} {d : Dev} (hb : d.boot.phase = 2) (hd : d.clk.domains.getD 1 0 = 1) (hp : d.pwr.state = 0) (he : est < 65536)
include hb hd hp he

/-- The next 100 us begin with the estimate taken up; the cap then decides. -/
theorem governorStep_eq :
    let m := metered c est (advanceTo c ((d.phe.tb / 50000 + 1) * 50000) d)
    let on := (List.range 4).filter (quarterOn m)
    governorStep c est d = if 10 * c.power.capW < est then on.foldl governedDown (floorsWeighed m)
      else if est * 100 < 10 * c.power.capW * 95 ∧ workWaits m = true then
        on.foldl (governedUp c) { m with pwr := { m.pwr with overTb := none } }
      else { m with pwr := { m.pwr with overTb := none } } := by
  rw [governorStep, if_neg (by rw [hb, hd, hp]; decide)]
  generalize advanceTo c ((d.phe.tb / 50000 + 1) * 50000) d = t
  simp only [Nat.mul_comm c.power.capW 10, Nat.mod_eq_of_lt he]
  rw [floorsWeighed_eq]
  rfl
end

/-! ### Throttling (R473, R474) -/

theorem temp_readSensors {q : Nat} (temps : List Int) (d : Dev) (hq : q < 4) : (readSensors temps d).clk.temp.getD q 0 = temps.getD q 0 := by
  unfold readSensors
  interval_cases q <;> rfl

/-- What a hot quarter's limit becomes: one step below its step and its limit, not below 10. -/
def throttled (q : Nat) (hot near was : Bool) (e : Dev) : Dev :=
  let n := Nat.max 10 (Nat.min (e.clk.step.getD q 0) (e.clk.thermLimit.getD q 40) - 1)
  changeClock q n { e with
    clk := { e.clk with throttling := putBit e.clk.throttling q (hot || e.clk.throttling.testBit q), neighbour := putBit e.clk.neighbour q near
                        thermLimit := e.clk.thermLimit.set q n, thermTb := e.clk.thermTb.set q e.phe.tb }
    pwr := { e.pwr with throttles := if was then e.pwr.throttles else satInc 255 e.pwr.throttles } }

theorem throttleDown_of_hot {c : Cfg} {q : Nat} {temps : List Int} {d : Dev} (hd : d.clk.domains.getD 1 0 = 1) (hq : q < 4) (hon : quarterOn d q = true) :
    let e := readSensors temps d
    let hot := decide (thermLimit c 100 ≤ temps.getD q 0) || decide (thermLimit c 100 ≤ temps.getD 4 0)
    let near := hotterBy e q 35 || (d.clk.neighbour.testBit q && hotterBy e q 30)
    let was := d.clk.throttling.testBit q || d.clk.neighbour.testBit q
    hot = true ∨ near = true →
    throttleDown c q temps d = throttled q hot near was (if was then advanceTo c (d.clk.thermTb.getD q 0 + 50000) e else e) := by
  intro e hot near was h
  rw [throttleDown]
  dsimp only
  rw [temp_readSensors temps d hq]
  refine if_neg ?_
  rintro (h4 | hoff | hdom | ⟨hc, hf⟩)
  · omega
  · rw [hon] at hoff; contradiction
  · exact hdom hd
  · exact absurd h (by rw [show hot = false from hc, show near = false from hf]; decide)

theorem thermTb_readSensors (temps : List Int) (d : Dev) : (readSensors temps d).clk.thermTb = d.clk.thermTb := rfl

/-- The limit of a cooled quarter rises by one, at its maximum the throttling ends, and the step follows the limit it stood at. -/
def cooled (c : Cfg) (q : Nat) (d : Dev) : Dev :=
  let old := d.clk.thermLimit.getD q 40
  let ends := decide (aclkTop c q ≤ old + 1)
  let e := { d with clk := { d.clk with
    thermLimit := d.clk.thermLimit.set q (if ends then 40 else old + 1), thermTb := d.clk.thermTb.set q d.phe.tb
    throttling := if ends then putBit d.clk.throttling q false else d.clk.throttling
    neighbour := if ends then putBit d.clk.neighbour q false else d.clk.neighbour } }
  if e.clk.step.getD q 0 = old ∧ old < stepTop c e q then changeClock q (old + 1) e else e

theorem throttleUp_eq (c : Cfg) (q : Nat) (temps : List Int) (d : Dev) :
    let e := readSensors temps d
    throttleUp c q temps d =
      if 4 ≤ q ∨ (d.clk.throttling.testBit q || d.clk.neighbour.testBit q) = false ∨
        (decide (e.clk.temp.getD q 0 < thermLimit c 97) && decide (e.clk.spineTemp < thermLimit c 97) && !hotterBy e q 30) = false ∨
        d.clk.domains.getD 1 0 ≠ 1 then d
      else cooled c q (advanceTo c (e.clk.thermTb.getD q 0 + 500000) e) := rfl

theorem throttleUp_of_cool {c : Cfg} {q : Nat} {temps : List Int} {d : Dev} (hd : d.clk.domains.getD 1 0 = 1) (hq : q < 4)
    (hwas : (d.clk.throttling.testBit q || d.clk.neighbour.testBit q) = true) (ht : temps.getD q 0 < thermLimit c 97)
    (hs : temps.getD 4 0 < thermLimit c 97) (hh : hotterBy (readSensors temps d) q 30 = false) :
    throttleUp c q temps d = cooled c q (advanceTo c (d.clk.thermTb.getD q 0 + 500000) (readSensors temps d)) := by
  rw [throttleUp_eq, temp_readSensors temps d hq, thermTb_readSensors, if_neg]
  rintro (h4 | hoff | hcool | hdom)
  · omega
  · exact absurd (hwas.symm.trans hoff) (by decide)
  · rw [decide_eq_true ht, decide_eq_true (show (readSensors temps d).clk.spineTemp < _ from hs), hh] at hcool
    exact absurd hcool (by decide)
  · exact hdom hd

/-! ### Requests to the rails and clock switches (R469, R470, R477) -/

theorem avsRequestDone_of_due {rail : Nat} {r : AvsReq} {d : Dev} (hf : d.clk.avs.find? (fun r => r.rail == rail) = some r)
    (ht : d.phe.tb ≤ r.tb + 25000) :
    let e := { d with clk := { d.clk with avs := d.clk.avs.erase r, rail := d.clk.rail.set rail r.mv } }
    avsRequestDone rail d = railFix (match r.step with
      | some n => startSwitch rail n e
      | none => e) := by
  intro e
  simp only [avsRequestDone, hf]
  rw [if_neg (by omega)]
  cases r.step <;> rfl

theorem avsRetry_of_request {c : Cfg} {rail : Nat} {readback : Option Nat} {r : AvsReq} {d : Dev}
    (hf : d.clk.avs.find? (fun r => r.rail == rail) = some r) :
    let t := advanceTo c (r.tb + 25000) d
    avsRetry c rail readback d = if r.tries < 3 then
        { t with clk := { t.clk with avs := t.clk.avs.map (fun x => if x = r then { r with tries := r.tries + 1, tb := t.phe.tb } else x) } }
      else avsFail r readback t := by
  simp only [avsRetry, hf]

/-- After the third retry a rail that was to rise limits its quarter's step. -/
theorem avsFail_eq (r : AvsReq) (readback : Option Nat) (d : Dev) (hr : r.rail < 5) :
    let e := raise 11 { d with
      clk := { d.clk with avs := d.clk.avs.erase r }
      pwr := { d.pwr with avsFault := putBit d.pwr.avsFault r.rail true, avsFaults := satInc 255 d.pwr.avsFaults } }
    let limit := match readback with
      | some mv => stepAt mv
      | none => 10
    let f := { e with clk := { e.clk with avsLimit := e.clk.avsLimit.set r.rail limit } }
    avsFail r readback d = if r.rail = 4 ∨ r.mv ≤ e.clk.rail.getD r.rail 0 then e
      else if limit < f.clk.step.getD r.rail 0 then changeClock r.rail limit f else f := by
  intro e limit f
  have hlast : (4 ≤ r.rail) ↔ r.rail = 4 := by omega
  unfold avsFail
  exact if_congr ((or_congr_right hlast).trans or_comm) rfl rfl

theorem clockSwitchDone_of_switch {c : Cfg} {q : Nat} {w : ClkSwitch} {d : Dev} (hf : d.clk.switches.find? (fun w => w.quarter == q) = some w) :
    let t := advanceTo c (w.tb + 1000) d
    let e := { t with clk := { t.clk with switches := t.clk.switches.filter (fun w => w.quarter != q), step := t.clk.step.set q w.step } }
    clockSwitchDone c q d = releaseHeld c q (railFix (obsEmit c 5 0x50 0 (srcWord 0xF1 q 0) (e.pwr.state + 16 * q + 256 * w.step) [] e)) := by
  simp only [clockSwitchDone, hf]

theorem dramRateDone_of_switch {c : Cfg} {q : Nat} {w : RateSwitch} {d : Dev} (hf : d.clk.rateSwitch = some w) (hq : w.quarter = q) :
    let t := advanceTo c (w.tb + 2000) d
    dramRateDone c q d = nextRate w.rate { t with clk := { t.clk with rateSwitch := none, dramRate := t.clk.dramRate.set q w.rate } } := by
  simp only [dramRateDone, hf, hq, ne_eq, not_true, if_false]

/-- Settles O39, row by row. -/
theorem clockAndRailRows : Obligations.ClockAndRailRows := by
  refine ⟨fun s est hest hs => ?_, fun s q temps hq hl hs hon => ?_, fun s q temps hq hl hs hwas ht h4 hh => ?_, fun s rail r hrail hs hf ht => ?_,
    fun s rail readback r hrail hrb hs hf => ?_, fun s q w hq hs hf => ?_, fun s q w hq hs hf hw => ?_⟩
  · intro t cap o d on
    have hexec : exec (.governorStep est) s = _ := (exec_inRun (f := fun c => governorStep c est) (decide_eq_true hest) hs).trans
      (by rw [governorStep_eq hs.1 hs.2.1 hs.2.2 hest])
    rw [hexec]
    refine ⟨fun hcap => ?_, fun hcap hlow hwork => ?_, fun hcap hstay => ?_⟩
    · rw [if_pos hcap]; rfl
    · rw [if_neg (not_lt.2 hcap), if_pos ⟨hlow, hwork⟩]; rfl
    · rw [if_neg (not_lt.2 hcap), if_neg ?_]
      · rfl
      · rintro ⟨hlow, hwork⟩
        exact hstay.elim (fun h => absurd hlow (not_lt.2 h)) (fun h => absurd (hwork.symm.trans h) (by decide))
  · intro d hot near h was e n
    have hwf : (Instr.throttleDown q temps).wf = true := by simp only [Instr.wf, hq, hl, decide_true, Bool.and_self]
    exact (exec_live (f := fun c => throttleDown c q temps) hwf hs).trans (by rw [throttleDown_of_hot hs.2 hq hon h]; rfl)
  · have hwf : (Instr.throttleUp q temps).wf = true := by simp only [Instr.wf, hq, hl, decide_true, Bool.and_self]
    exact (exec_live (f := fun c => throttleUp c q temps) hwf hs).trans
      (next_ended s (throttleUp_of_cool hs.2 hq hwas ht h4 hh))
  · exact (exec_live (f := fun _ => avsRequestDone rail) (decide_eq_true hrail) hs).trans (next_ended s (avsRequestDone_of_due hf ht))
  · have hname : r.rail = rail := by simpa using List.find?_some hf
    have hwf : (Instr.avsRetry rail readback).wf = true := by rw [Instr.wf, decide_eq_true hrail, decide_eq_true hrb]; rfl
    have hexec : exec (.avsRetry rail readback) s = _ := (exec_live (f := fun c => avsRetry c rail readback) hwf hs).trans
      (by rw [avsRetry_of_request hf])
    subst hname
    intro d
    rw [hexec]
    refine ⟨fun hless => ?_, fun hlast => ?_⟩
    · rw [if_pos hless]
    · rw [if_neg (not_lt.2 hlast)]
      exact next_ended s (avsFail_eq r readback d hrail)
  · exact (exec_inRun (f := fun c => clockSwitchDone c q) (decide_eq_true hq) hs).trans (by rw [clockSwitchDone_of_switch hf])
  · exact (exec_inRun (f := fun c => dramRateDone c q) (decide_eq_true hq) hs).trans (by rw [dramRateDone_of_switch hf hw])

/-! ### The supply warning (R476) -/

section
variable {c : Cfg} {f : PwrSt → PwrSt} {d : Dev} (hb : d.boot.phase = 2)
include hb

theorem warnChange_begins (hd : warnActive d = false) (he : warnActive { d with pwr := f d.pwr } = true) :
    warnChange c f d = warnStarts c { d with pwr := f d.pwr } := by
  rw [warnChange, if_neg (not_not_intro hb)]
  exact if_pos ⟨hd, he⟩

/-- The warning begins with no stage in force: S1 is entered with it. -/
theorem warnChange_entersS1 (hd : warnActive d = false) (he : warnActive { d with pwr := f d.pwr } = true) (hs : (f d.pwr).stage = 0) :
    warnChange c f d = obsEmit c 4 0x40 0 0xF1 1 [] (raise 12 { d with
      pwr := { f d.pwr with warnTb := d.phe.tb, dips := satInc 255 (f d.pwr).dips, leftStages := 0, stage := 1 } }) :=
  (warnChange_begins hb hd he).trans (if_pos hs)

/-- The warning begins while a stage is in force: the stage stays. -/
theorem warnChange_keepsStage (hd : warnActive d = false) (he : warnActive { d with pwr := f d.pwr } = true) (hs : (f d.pwr).stage ≠ 0) :
    warnChange c f d = { d with pwr := { f d.pwr with warnTb := d.phe.tb, dips := satInc 255 (f d.pwr).dips, leftStages := 0 } } :=
  (warnChange_begins hb hd he).trans (if_neg hs)

theorem warnChange_ends (hd : warnActive d = true) (he : warnActive { d with pwr := f d.pwr } = false) :
    warnChange c f d = { d with pwr := { f d.pwr with calmTb := d.phe.tb, leftStages := 0 } } := by
  rw [warnChange, if_neg (not_not_intro hb)]
  exact (if_neg (fun h => absurd (hd.symm.trans h.1) (by decide))).trans (if_pos ⟨hd, he⟩)

theorem warnChange_stays (h : warnActive { d with pwr := f d.pwr } = warnActive d) : warnChange c f d = { d with pwr := f d.pwr } := by
  rw [warnChange, if_neg (not_not_intro hb)]
  dsimp only
  rw [h]
  cases warnActive d <;> rfl

end

theorem droopExpiry_of_droop {c : Cfg} {t : Nat} {d : Dev} (h : d.pwr.droopTb = some t) :
    droopExpiry c d = warnChange c (fun p => { p with droopTb := none }) (advanceTo c (t + 50000) d) := by
  simp only [droopExpiry, h]

/-! ### The stages (R476 to R479) -/

/-- A cause that holds the warning for `us` microseconds makes the next stage due. -/
theorem stageDue_of_held {c : Cfg} {k us : Nat} {d : Dev} (hb : d.boot.phase = 2) (hk : d.pwr.stage + 1 = k)
    (hh : d.pwr.pinLow = true ∨ ∃ t, d.pwr.droopTb = some t ∧ d.pwr.warnTb + us * 500 ≤ t + 50000) :
    let t := advanceTo c (d.pwr.warnTb + us * 500) d
    stageDue c k us d = some { t with pwr := { t.pwr with stage := k } } := by
  have hw : warnActive d = true := by
    obtain h | ⟨t, h, -⟩ := hh <;> simp [warnActive, h]
  have hheld : (d.pwr.pinLow || (match d.pwr.droopTb with
      | some t => decide (d.pwr.warnTb + us * 500 ≤ t + 50000)
      | none => false)) = true := by
    obtain h | ⟨t, h, ht⟩ := hh
    · rw [h]; rfl
    · rw [h]; exact Bool.or_eq_true_iff.2 (.inr (decide_eq_true ht))
  rw [stageDue]
  exact if_pos ⟨hb, hw, hheld, hk⟩

/-- What entering S4 does before the quarters go: a hand-over of a quarter ends, and the windows of the shed quarters close. -/
def shedding (d : Dev) : Dev := { d with
  upd := if d.upd.hand.any (fun h => decide (2 ≤ h.part)) then { d.upd with hand := none, busy := false, result := 12 } else d.upd
  sched := { d.sched with insts := amapAll d.sched.insts (fun i x =>
    if quarterClass (i / 32) && decide (1 ≤ i % 32 / 8) && x.window then { x with window := false } else x) }
  clk := { d.clk with rateQueue := [] } }

/-- What entering stage `k` does, S2, S3 or S4. -/
def stageEntered (c : Cfg) (k : Nat) (d : Dev) : Dev :=
  obsEmit c 4 0x40 0 0xF1 k [] (raise 12 (
    if k = 2 then d else if k = 3 then setRates 4266 d else shedQuarter c 3 (shedQuarter c 2 (shedQuarter c 1 (shedding d)))))

theorem shedS2_of_due {c : Cfg} {d e : Dev} (h : stageDue c 2 200 d = some e) : shedS2 c d = stageEntered c 2 e := by
  simp only [shedS2, h]
  rfl

theorem shedS3_of_due {c : Cfg} {d e : Dev} (h : stageDue c 3 1000 d = some e) : shedS3 c d = stageEntered c 3 e := by
  simp only [shedS3, h]
  rfl

theorem shedS4_of_due {c : Cfg} {d e : Dev} (h : stageDue c 4 5000 d = some e) : shedS4 c d = stageEntered c 4 e := by
  rw [stageEntered, if_neg (show ¬(4 = 2) by decide), if_neg (show ¬(4 = 3) by decide)]
  simp only [shedS4, h, shedding, stageMoved, Bool.false_eq_true, if_false, Nat.add_zero]
  cases hu : e.upd.hand with
  | none => simp only [Option.any_none, Bool.false_eq_true, if_false]
  | some x => by_cases hp : 2 ≤ x.part <;> simp only [Option.any_some, hp, decide_true, decide_false, Bool.false_eq_true, if_true, if_false]

/-- The stage of the state `t` is left: its quarters or its rates come back. -/
def stageLeft (c : Cfg) (t : Dev) : Dev :=
  let k := t.pwr.stage
  let d := { t with pwr := { t.pwr with stage := k - 1, leftStages := t.pwr.leftStages + 1 } }
  stageMoved c k true (railFix (if k = 4 then ([1, 2, 3]).foldl shedBack d else if k = 3 then setRates c.power.dramMts d else d))

theorem stageLeft_eq (c : Cfg) (t : Dev) :
    let k := t.pwr.stage
    let d := { t with pwr := { t.pwr with stage := k - 1, leftStages := t.pwr.leftStages + 1 } }
    stageLeft c t = obsEmit c 4 0x40 0 0xF1 (k + 8) [] (raise 12 (railFix (
      if k = 4 then shedBack (shedBack (shedBack d 1) 2) 3 else if k = 3 then setRates c.power.dramMts d else d))) := rfl

theorem shedRecovery_eq (c : Cfg) (d : Dev) : shedRecovery c d = if d.boot.phase ≠ 2 ∨ warnActive d ∨ d.pwr.stage = 0 then d
    else stageLeft c (advanceTo c (d.pwr.calmTb + 5000000 + 1000000 * d.pwr.leftStages) d) := rfl

theorem shedRecovery_of_calm {c : Cfg} {d : Dev} (hb : d.boot.phase = 2) (hw : warnActive d = false) (hk : d.pwr.stage ≠ 0) :
    shedRecovery c d = stageLeft c (advanceTo c (d.pwr.calmTb + 5000000 + 1000000 * d.pwr.leftStages) d) := by
  rw [shedRecovery_eq, if_neg (by rw [hb, hw]; simp [hk])]

/-- Settles O40, row by row. -/
theorem supplySagRows : Obligations.SupplySagRows := by
  refine ⟨fun s level hb => ?_, fun s hb => ?_, fun s t hb ht => ?_, fun s k us row hrow hb hk hh => ?_, fun s hb hw hk => ?_⟩
  · intro d w
    have hexec : ∀ {e}, warnPin s.cfg level s.dev = e → exec (.pwrWarnNChange level) s = .next (s.ended e) :=
      fun h => (exec_of_wf (f := fun c => warnPin c level) rfl rfl).trans (next_ended s h)
    have hafter : warnActive d = (!level || s.dev.pwr.droopTb.isSome) := rfl
    refine ⟨fun hw hl hs => hexec ?_, fun hw hl hs => hexec ?_, fun hw hl ht => hexec ?_, fun h => hexec ?_⟩
    · exact warnChange_entersS1 hb hw (hafter.trans (by rw [hl]; rfl)) hs
    · exact warnChange_keepsStage hb hw (hafter.trans (by rw [hl]; rfl)) hs
    · exact warnChange_ends hb hw (hafter.trans (by rw [hl, ht]; rfl))
    · refine warnChange_stays hb (hafter.trans ?_)
      unfold warnActive at h ⊢
      obtain h | h := h
      · rw [h]
        cases level <;> simp_all
      · rw [h, Bool.or_true, Bool.or_true]
  · intro d w
    have hexec : ∀ {e}, droopDetect s.cfg s.dev = e → exec .droopDetect s = .next (s.ended e) :=
      fun h => (exec_of_wf (f := droopDetect) rfl rfl).trans (next_ended s h)
    have hafter : warnActive d = true := Bool.or_true _
    refine ⟨fun hw => hexec ?_, fun hw hs => hexec ?_, fun hw hs => hexec ?_⟩
    · exact warnChange_stays hb (hafter.trans hw.symm)
    · exact warnChange_entersS1 hb hw hafter hs
    · exact warnChange_keepsStage hb hw hafter hs
  · exact (exec_of_wf (f := droopExpiry) rfl rfl).trans (by rw [droopExpiry_of_droop ht])
  · have hdue := stageDue_of_held (c := s.cfg) hb hk hh
    obtain ⟨rfl, rfl, rfl⟩ | ⟨rfl, rfl, rfl⟩ | ⟨rfl, rfl, rfl⟩ := hrow
    · exact (exec_of_wf (f := shedS2) rfl rfl).trans (next_ended s (shedS2_of_due hdue))
    · exact (exec_of_wf (f := shedS3) rfl rfl).trans (next_ended s (shedS3_of_due hdue))
    · exact (exec_of_wf (f := shedS4) rfl rfl).trans (next_ended s (shedS4_of_due hdue))
  · exact (exec_of_wf (f := shedRecovery) rfl rfl).trans
      (next_ended s ((shedRecovery_of_calm hb hw hk).trans (stageLeft_eq _ _)))

end Sys2Proof.Machine

/-! PROOFS. The statements of field update (19): the mailbox, the blocks and the commands, and the hand-over of the spine and of a quarter. -/

namespace Sys2Proof.Machine

/-! ### The mailbox and the blocks (R486 to R489) -/

theorem mailboxWrite_of_aligned {off : Nat} {data : List Byte} {d : Dev} (hon : updOn d = true) (hoff : off < 65536)
    (hlen : data.length = 4 ∨ data.length = 8) (hal : off % data.length = 0) :
    mailboxWrite off data d = if (bufOf d (off / 4096)).state ≠ 0 then { d with upd := { d.upd with ignored := satInc 255 d.upd.ignored } }
      else setBuf (off / 4096) (fun x => { x with data := memWrite x.data (off % 4096) data }) d := by
  refine if_neg ?_
  rintro (h | ⟨h4, h8⟩ | h | h)
  · exact absurd (hon.symm.trans h) (by decide)
  · exact hlen.elim h4 h8
  · exact h hal
  · omega

/-- A write with GO names its buffer. -/
def bufferNamed (b : Nat) (d : Dev) : Dev := { d with upd := { d.upd with blkBuf := b } }

section
variable {v : Nat} {d : Dev} (hon : updOn d = true)
include hon

theorem blockGo_of_notFree (hb : (bufOf d (v % 16)).state ≠ 0) : blockGo v d = updIgnore (bufferNamed (v % 16) d) := by
  rw [blockGo, if_neg (fun h => absurd (hon.symm.trans h) (by decide))]
  exact if_pos hb

variable {a : Nat} (hb : (bufOf d (v % 16)).state = 0) (ha : d.upd.blkHi * 2 ^ 32 + d.upd.blkLo = a)
include hb ha

theorem blockGo_of_noSlot (hslot : slotAt a = none) :
    blockGo v d = raise 27 (setBuf (v % 16) (fun x => { x with result := 2 }) (bufferNamed (v % 16) d)) := by
  rw [blockGo, if_neg (fun h => absurd (hon.symm.trans h) (by decide))]
  extract_lets +onlyGivenNames b e addr
  have haddr : addr = a := ha
  have hbuf : (bufOf e b).state = 0 := hb
  clear_value addr
  rw [haddr, if_neg (not_not_intro hbuf), hslot]
  rfl

theorem blockGo_of_slot {slot : Nat × Nat} (hslot : slotAt a = some slot) :
    blockGo v d = if a % 4096 ≠ 0 then raise 27 (setBuf (v % 16) (fun x => { x with result := 2 }) (bufferNamed (v % 16) d))
      else if slotProtected d slot then raise 27 (setBuf (v % 16) (fun x => { x with result := 3 }) (bufferNamed (v % 16) d))
      else pumpNvm 1 (setUpd (fun u => { u with queue := u.queue ++ [.block (v % 16) a] })
        (setBuf (v % 16) (fun x => { x with state := 1 }) (bufferNamed (v % 16) d))) := by
  rw [blockGo, if_neg (fun h => absurd (hon.symm.trans h) (by decide))]
  extract_lets +onlyGivenNames b e addr
  have haddr : addr = a := ha
  have hbuf : (bufOf e b).state = 0 := hb
  clear_value addr
  rw [haddr, if_neg (not_not_intro hbuf), hslot]
  rfl

end

/-- The block `b` being written ends with `result`: `data` reaches the NVM in the state `d`, and the next operation begins. -/
def blockEnded (b a : Nat) (rest : List NvmOp) (misses blocks result : Nat) (data : List Byte) (d : Dev) : Dev :=
  pumpNvm 18 (raise 27 (setBuf b (fun x => { x with state := 0, result := result }) { d with upd := { d.upd with
    nvm := nvmWrite d.upd.nvm a data, queue := rest, retries := satAdd 255 d.upd.retries (Nat.min misses 2), blocks := blocks } }))

section
variable {b a misses : Nat} {rest : List NvmOp} {d : Dev} (hq : d.upd.queue = .block b a :: rest) (hb : (bufOf d b).state = 2)
include hq hb

theorem blockDone_of_match (hm : misses < 3) : blockDone misses d =
    blockEnded b a rest misses (satInc 65535 d.upd.blocks) 1 (memRead (bufOf d b).data 0 4096) d := by
  have hbad : decide (3 ≤ misses) = false := decide_eq_false (not_le.2 hm)
  simp only [blockDone, hq, hb, hbad, ne_eq, not_true, if_false, Bool.false_eq_true]
  rfl

/-- After the third mismatch the sector's content is open (R488). -/
theorem blockDone_of_mismatch : blockDone 3 d =
    blockEnded b a rest 3 (freeBytes 4096 d).2.upd.blocks 4 (freeBytes 4096 d).1 (freeBytes 4096 d).2 := by
  simp only [blockDone, hq, hb, ne_eq, not_true, if_false, le_refl, decide_true, if_true]
  rfl

end

/-! ### Commands (R490, R498, R500) -/

/-- A write of UPD_CMD with GO: the fields are written; a command runs only when none does. -/
def commandRun (op arg : Nat) (f : Dev → Dev) (d : Dev) : Dev :=
  let e := { d with upd := { d.upd with op := op, arg := arg % 256 } }
  if e.upd.busy then { e with upd := { e.upd with ignored := satInc 255 e.upd.ignored } } else f { e with upd := { e.upd with busy := true, result := 0 } }

/-- An answering block runs the command as the row `f` says. -/
theorem updCommand_of_on {op arg : Nat} {f g : Dev → Dev} {d : Dev} (hon : updOn d = true) (hf : ∀ e, f e = g e) :
    updCommand op arg f d = commandRun op arg g d := by
  obtain rfl : f = g := funext hf
  exact if_neg (fun h => absurd (hon.symm.trans h) (by decide))

/-- The length of a certificate is bounded by its part of the NVM (R498). -/
theorem certOf_eq (which len : Nat) (m : Mem) :
    nvmRead m (if which = 0 then 0x44000 else 0x48000) (Nat.min len (if which = 0 then 0x4000 else 0x8000)) =
      if which = 0 then nvmRead m 0x44000 (Nat.min len 0x4000) else nvmRead m 0x48000 (Nat.min len 0x8000) := by
  split_ifs <;> rfl

theorem obsDrainRptr_of_on {v : Nat} {d : Dev} (hv : v < 2 ^ 32) (hon : obsOn d = true) :
    let o := d.obs
    obsDrainRptr v d = if idxLe o.drainW v (obsDrainSize o) ∧ idxLe v o.drainR (obsDrainSize o) then obsDrain { d with obs := { o with drainR := v } } else d := by
  simp only [obsDrainRptr, Nat.mod_eq_of_lt hv, hon, Bool.true_and, Bool.and_eq_true]

/-- Settles O59, row by row. -/
theorem updateBlockAndCommandRows : Obligations.UpdateBlockAndCommandRows := by
  unfold Obligations.UpdateBlockAndCommandRows
  intro ready command result entry pending
  have hcommand : ∀ {i s op arg f e}, exec i s = .next (s.ended (updCommand op arg f s.dev)) → updOn s.dev = true → (∀ d, f d = e d) →
      exec i s = .next (command s op arg e) :=
    fun hexec hon hf => hexec.trans (next_ended _ (updCommand_of_on hon hf))
  clear_value command
  refine ⟨fun s off data hoff hlen hal h => ?_, fun s v hv h => ?_, fun s b a rest misses hm hq hb => ⟨fun hless => ?_, fun h3 => ?_⟩,
    fun s tries ok ht h => ?_, fun s ok h => ?_, fun s ok h => ?_, fun s h => ?_, fun s which hw h => ?_, fun s v hv hs hon => ?_⟩
  · have hwf : (Instr.updMailboxWrite off data).wf = true := by
      rw [Instr.wf, decide_eq_true hoff, decide_eq_true (by omega)]; rfl
    exact (exec_hostTouch (f := fun _ => mailboxWrite off data) hwf h.1).trans (by rw [mailboxWrite_of_aligned h.2 hoff hlen hal])
  · have hexec : exec (.updBlockGo v) s = .next (s.ended (blockGo v s.dev)) := exec_hostTouch (f := fun _ => blockGo v) (decide_eq_true hv) h.1
    intro b a d
    have ha : s.dev.upd.blkHi * 2 ^ 32 + s.dev.upd.blkLo = a := rfl
    clear_value a
    refine ⟨fun hb => ?_, fun hb hbad => ?_, fun slot hb hslot hal => ?_⟩
    · exact hexec.trans (next_ended s (blockGo_of_notFree h.2 hb))
    · refine hexec.trans (next_ended s ?_)
      cases hslot : slotAt a with
      | none => exact blockGo_of_noSlot h.2 hb ha hslot
      | some slot =>
        have hal := hbad.resolve_left (by rw [hslot]; exact Option.some_ne_none _)
        exact (blockGo_of_slot h.2 hb ha hslot).trans (if_pos hal)
    · exact hexec.trans (next_ended s ((blockGo_of_slot h.2 hb ha hslot).trans (if_neg (not_not_intro hal))))
  · exact (exec_of_wf (i := .updBlockDone misses) (f := fun _ => blockDone misses) rfl (decide_eq_true hm)).trans
      (next_ended s (blockDone_of_match hq hb hless))
  · subst h3
    exact (exec_of_wf (i := .updBlockDone 3) (f := fun _ => blockDone 3) rfl (decide_eq_true hm)).trans
      (next_ended s (blockDone_of_mismatch hq hb))
  · exact hcommand (exec_hostTouch (f := fun _ => setTrial tries ok) (decide_eq_true ht) h.1) h.2 (fun _ => rfl)
  · exact hcommand (exec_hostTouch (f := fun _ => updCancel ok) rfl h.1) h.2 (fun _ => rfl)
  · exact hcommand (exec_hostTouch (f := fun _ => updConfirm ok) rfl h.1) h.2 (fun _ => rfl)
  · exact hcommand (exec_hostTouch (f := fun _ => updAttest) rfl h.1) h.2 (fun _ => rfl)
  · refine hcommand (exec_hostTouch (f := fun _ => readCert which) (decide_eq_true hw) h.1) h.2 (fun d => ?_)
    dsimp only
    rw [certOf_eq]
    rfl
  · exact (exec_hostTouch (f := fun _ => obsDrainRptr v) (decide_eq_true hv) hs).trans (by rw [obsDrainRptr_of_on hv hon])

/-! ### HANDOVER is accepted and prepared (R490, R491) -/

/-- HANDOVER of `part` begins PREPARING, or ends with the refusal that R490 lists. -/
def handoverAsked (part : Nat) (d : Dev) : Dev :=
  let result := fun (r : Nat) => { d with upd := { d.upd with busy := false, result := r } }
  let e := { d with upd := { d.upd with hand := some ⟨part, 1, d.phe.tb, [], false⟩ } }
  if 4 < part then result 2
  else if d.upd.stageHi = 0 then result 9
  else if d.upd.bufs.any (fun b => b.state != 0) then result 3
  else if d.boot.phase ≠ 2 ∨ d.pwr.state ≠ 0 ∨ d.pwr.stage ≠ 0 ∨ (part ≠ 0 ∧ (sliceOf d (part - 1)).memLost) then result 8
  else if part = 0 then { e with boot := { e.boot with oxsStandbyOk := false } } else e

theorem handover_of_idle {part : Nat} {d : Dev} (hp : part < 256) (hon : updOn d = true) (hb : d.upd.busy = false) :
    handover part d = handoverAsked part { d with upd := { d.upd with op := 4, arg := part, busy := true, result := 0 } } := by
  have hrun : handover part d = commandRun 4 part (handoverAsked part) d := by
    refine updCommand_of_on hon (fun e => ?_)
    simp only [Bool.and_eq_true, bne_iff_ne]
    rfl
  rw [hrun, commandRun]
  dsimp only
  rw [Nat.mod_eq_of_lt hp, hb]
  rfl

/-- The images of a part as the NVM holds them; `none` for one that fails its authentication. -/
def readImages (part : Nat) (d : Dev) : List (Option Image) :=
  (partKinds part).map (fun k => readImage d.upd.nvm d.upd.imageKey k (slotBit (currentSlots d.upd.nvm) k))

/-- The end of the time in which a part's images are read. -/
def prepareEnd (c : Cfg) (h : HandOver) (d : Dev) : Dev :=
  let t := advanceTo c (h.tb + (if h.part = 0 then 26000000 else 24500000)) d
  if h.part = 0 then { t with boot := { t.boot with oxsStandbyOk := true } } else t

/-- The part waits for a window with its images `l` staged. -/
def handStaged (c : Cfg) (h : HandOver) (l : List Image) (d : Dev) : Dev :=
  let e := areaWrite c (stagePa d) (l.map (fun x => (x.body, 8 + x.kind))) d
  pumpNvm 18 { e with upd := { e.upd with hand := some { h with state := 2, tb := e.phe.tb, images := l } } }

section
variable {c : Cfg} {h : HandOver} {d : Dev} (hh : d.upd.hand = some h)
include hh

theorem handPrepared_of_preparing (hs : h.state = 1) :
    let e := prepareEnd c h d
    let l := (readImages h.part e).filterMap id
    handPrepared c d = if (readImages h.part e).any (·.isNone) then handEnd 7 e
      else if levelsOk (mixedLevels e.upd h.part l) = false then handEnd 6 e else handStaged c h l e := by
  simp only [handPrepared, hh, hs, ne_eq, not_true, if_false]
  rfl

theorem handTimeout_of_waiting (hs : h.state = 2) : handTimeout c d = handEnd 10 (advanceTo c (h.tb + 5000000000) d) := by
  simp only [handTimeout, hh, hs, if_true]

/-! ### The spine's hand-over (R492) -/

theorem spineHandover_of_window {e : Dev} (hp : h.part = 0) (hs : h.state = 2) (hw : windowStart c 50000 d = some e) :
    let f := areaOwn c (stagePa e) { e with upd := { e.upd with hand := some { h with state := 3, tb := e.phe.tb } } }
    spineHandover c d = { f with fe := { f.fe with postStop := true } } := by
  simp only [spineHandover, hh, hp, hs, hw, ne_eq, not_true, or_self, if_false]
  rfl

/-- The standby core of the spine takes over. -/
def spineSwapped (h : HandOver) (d : Dev) : Dev :=
  handDone h (oxStopped d.boot.oxsActive { d with
    fe := { d.fe with postStop := false }
    boot := { d.boot with oxsActive := 1 - d.boot.oxsActive, oxsStandbyOk := true } })

theorem spineSwitch_of_writing (hp : h.part = 0) (hs : h.state = 3) : spineSwitch c d = spineSwapped h (advanceTo c (h.tb + 30000) d) := by
  simp only [spineSwitch, hh, hp, hs, ne_eq, not_true, or_self, if_false]
  rfl

/-! ### A quarter's hand-over (R494, R495) -/

variable {q : Nat} (hp : h.part = q + 1)
include hp

theorem quarterLeave_of_window {e : Dev} (hs : h.state = 2) (hw : windowStart c 5000 d = some e) :
    quarterLeave c q d = setWindow q true { e with upd := { e.upd with hand := some { h with state := 4, tb := e.phe.tb } } } := by
  simp only [quarterLeave, hh, hp, hs, hw, ne_eq, not_true, or_self, if_false]
  rfl

end

/-- The units of class `cls` of quarter `q` leave their start-up test with the failures `mask`. -/
def unitsTested (q cls mask : Nat) (d : Dev) : Dev :=
  (List.range (instCount cls)).foldl (fun d i => setInst d (instIdx cls q i) (fun x => { x with katFailed := mask.testBit i, lastCtx := none })) d

/-- The restarted quarter `q` with the records of its new image applied and its units tested. -/
def quarterRestarted (c : Cfg) (q me sne sc : Nat) (h : HandOver) (t : Dev) : Dev :=
  let rs := imageRecs h.images
  let e := unitsTested q 4 sc (unitsTested q 2 sne (unitsTested q 1 me
    (newWays c q ((cfgOf rs.1).ways q) (oxStopped (2 + q) (areaOwn c (stagePa t) t)))))
  { e with upd := { logRecs (acceptRecs rs.1) rs.1 e.upd with hand := some { h with tested := true } } }

/-- The records that a restarted quarter takes over: its STORE_WAYS and DRAM_CAL. -/
def recordsRestarted (c : Cfg) (q : Nat) (h : HandOver) : Cfg :=
  let n := cfgOf (imageRecs h.images).1
  { c with storeWays := c.storeWays.set q (n.ways q), dramCal := c.dramCal.set q (n.dramCal.getD q none) }

/-- The records that a quarter takes over when it is back: its CLOCKS and POWER entries. -/
def recordsRejoined (c : Cfg) (q : Nat) (h : HandOver) : Cfg :=
  let n := cfgOf (imageRecs h.images).1
  { c with
    clocks := { c.clocks with aclkMax := c.clocks.aclkMax.set q (n.clocks.aclkMax.getD q 550) }
    power := { c.power with
      rails := c.power.rails.set q (n.power.rails.getD q 0), idleqEn := putBit c.power.idleqEn q (n.power.idleqEn.testBit q) } }

/-- A quarter is back in its allowed sets and keeps to its top step. -/
def quarterBackIn (c : Cfg) (q : Nat) (h : HandOver) (d : Dev) : Dev :=
  let e := handDone h (setWindow q false d)
  if aclkTop c q < e.clk.step.getD q 0 then changeClock q (aclkTop c q) e else e

section
variable {c : Cfg} {h : HandOver} {d : Dev} {q : Nat} (hh : d.upd.hand = some h) (hp : h.part = q + 1) (hs : h.state = 4)
include hh hp hs

theorem quarterDrained_of_quiet (me sne sc : Nat) (ht : h.tested = false) (hb : quarterBusy d q = false) :
    quarterDrained c q me sne sc d =
      (recordsRestarted c q h, quarterRestarted c q me sne sc h (advanceTo c (d.phe.tb + 3000000) d)) := by
  have hgo : ¬(h.part ≠ q + 1 ∨ h.state ≠ 4 ∨ h.tested = true ∨ quarterBusy d q = true) := by rw [hp, hs, ht, hb]; simp
  simp only [quarterDrained, hh, if_neg hgo]
  rfl

theorem quarterRejoin_of_window {e : Dev} (ht : h.tested = true) (hw : windowStart c 5000 d = some e) :
    quarterRejoin c q d = (recordsRejoined c q h, quarterBackIn (recordsRejoined c q h) q h e) := by
  simp only [quarterRejoin, hh, hp, hs, ht, hw, ne_eq, not_true, or_self, if_false, Bool.true_eq_false]
  rfl

end

/-- Settles O60, row by row. -/
theorem handOverRows : Obligations.HandOverRows := by
  refine ⟨fun s part hp hs hon hb => ?_, fun s h hs hh h1 => ?_, fun s h hs hh h2 => ?_, fun s h e hs hh hp h2 hw => ?_, fun s h hs hh hp h3 => ?_,
    fun s q h e hq hs hh hp h2 hw => ?_, fun s q me sne sc h hq hme hsne hsc hh hp h4 ht hb => ?_, fun s q h e hq hh hp h4 ht hw => ?_⟩
  · exact (exec_hostTouch (f := fun _ => handover part) (decide_eq_true hp) hs).trans
      (next_ended s (handover_of_idle hp hon hb))
  · have hexec : exec .handoverPrepared s = _ := (exec_live (f := handPrepared) rfl hs).trans
      (next_ended s (handPrepared_of_preparing hh h1))
    intro t d read
    have hread : readImages h.part (prepareEnd s.cfg h s.dev) = read := rfl
    rw [hread] at hexec
    refine ⟨fun hn => ?_, fun l hl => ?_⟩
    · rw [hexec, if_pos hn]
      rfl
    · have hany : read.any (·.isNone) = false := by rw [hl]; simp
      have hall : read.filterMap id = l := by rw [hl]; simp
      rw [hexec, hany, hall, if_neg (by decide)]
      rfl
  · exact (exec_live (f := handTimeout) rfl hs).trans (by rw [handTimeout_of_waiting hh h2])
  · exact (exec_inRun (f := spineHandover) rfl hs).trans
      (next_ended s (spineHandover_of_window hh hp h2 hw))
  · exact (exec_live (f := spineSwitch) rfl hs).trans
      (next_ended s (spineSwitch_of_writing hh hp h3))
  · exact (exec_inRun (f := fun c => quarterLeave c q) (decide_eq_true hq) hs).trans
      (next_ended s (quarterLeave_of_window hh hp h2 hw))
  · have hwf : (Instr.quarterDrainDone q me sne sc).wf = true := by simp only [Instr.wf, hq, hme, hsne, hsc, decide_true, Bool.and_self]
    exact (exec_onBoth (f := fun c => quarterDrained c q me sne sc) rfl hwf).trans
      (congrArg (fun e => Host.Outcome.next (State.ended { s with cfg := e.1 } e.2)) (quarterDrained_of_quiet hh hp h4 me sne sc ht hb))
  · have hwf : (Instr.quarterRejoin q).wf = true := decide_eq_true hq
    exact (exec_onBoth (f := fun c => quarterRejoin c q) rfl hwf).trans
      (congrArg (fun e => Host.Outcome.next (State.ended { s with cfg := e.1 } e.2)) (quarterRejoin_of_window hh hp h4 ht hw))

end Sys2Proof.Machine
